-- ==== Sys2Proof/Word.lean ====
section
/-! DEFINITION. The widths of the machine: words, bytes, and the plainest arithmetic on them (R6, R15). -/

namespace Sys2Proof

/-- A 64-bit register value (R10). -/
abbrev Word := BitVec 64

/-- One byte of memory. -/
abbrev Byte := BitVec 8

/-- A wide register: 256 bytes, byte 0 in the low bits (R10, R166). -/
abbrev WideBits := BitVec 2048

/-- A numbered 64-bit value. -/
abbrev word (n : Nat) : Word := BitVec.ofNat 64 n

end Sys2Proof
end

