-- ==== Sys2Proof/Syntax/Events.lean ====
section
/-! DEFINITION. What the steps of the table that are no instruction words carry: the inputs that the outside world, the
HSC and the control complex give the package (R213, R227, R303, R367, R383, R391 to R396, R420). -/

namespace Sys2Proof

/-- A launch queue (R303): the host queue of a VF, the device or fabric queue of a context. -/
inductive LaunchQ where
  | host (vf : Nat) | device (ctx : Nat) | fabric (ctx : Nat)
deriving DecidableEq, Repr

/-- The context descriptor (R383), field by field. -/
structure Descriptor where
  pasid : BitVec 20
  vf : BitVec 9
  prot : Bool
  rlc : BitVec 2
  trm : Bool
  wdlim : BitVec 11
  upc : Word
  sve : Word
  htab : Word
  hcnt : BitVec 32
  eng : BitVec 23
  ovseg : Word
  lcap : BitVec 17
  ovlen : BitVec 32
  dlq : Word
  endMask : BitVec 256
  sq : BitVec 32
  sper : BitVec 32
deriving DecidableEq, Repr

/-- A handle of R227 and R228. Kind 0 and the reserved kinds are the absence of an entry. A host queue's ring is named by its number and
the address of its control block. -/
inductive Handle where
  | core (tpkg : BitVec 21) (trank : BitVec 13) (tctx : Nat) (hmax : BitVec 10) (wbase wlen : BitVec 17)
  | landing (tpkg : BitVec 21) (tctx : Nat) (desc : Word) (qpn : BitVec 24)
  | hostQueue (ring pa : Nat)
  | engine (eng ch : Nat)
  | queuePair (qpn : BitVec 24)
deriving DecidableEq, Repr

/-- What an owner installs in a key slot (R213, R214): the keys, the policy record's words, the context that the session's
evidence names, the tag region the HSC chose, and whether the record came wrapped under the session's key (R390). -/
structure KeyBlob where
  ctx : Nat
  xts : BitVec 512
  tagKey : BitVec 256
  policy : List Word
  tagBase : Nat
  inSession : Bool
deriving DecidableEq, Repr

/-- An SPDM or TDISP message to the responder of a VF's interface (R394). -/
inductive SpdmReq where
  | measurements (ctx : Nat) | sessionOpen | sessionEnd | lock | start | stop
deriving DecidableEq, Repr

/-- A launch table entry (R304): the launch record's words and the limits of its argument and item count. -/
structure LaunchEntry where
  words : List Word
  argLo : Word
  argHi : Word
  nmax : BitVec 32
deriving DecidableEq, Repr

/-- A registration (R373). -/
structure Registration where
  base : Word
  len : Nat
  rd : Bool
  wr : Bool
  atomics : Bool
  qps : List Nat
deriving DecidableEq, Repr

/-- A row of the measured-image table (R302, R389). -/
structure Image where
  code : Bool
  base : Word
  len : Nat
  digest : BitVec 384
deriving DecidableEq, Repr

/-- A device or service register, or a table the control complex or the host writes, that has no behaviour of its own
(R111, R297, R302, R304, R373, R381, R391, R393, R396). -/
inductive SvcReg where
  | vfInterval (vf base len : Nat)
  | descriptor (d : Descriptor)
  | rptw (v : BitVec 12)
  | retRing (ld : Fin 16) (pa : Nat)
  | termRing (ld : Fin 16) (pa : Nat)
  | vfRing (ld : Fin 16) (v : Fin 24) (pa : Nat)
  | hostLaunchRing (vf pa : Nat)
  | space (ctx root : Nat) (flat : Bool) (base : Nat) (size : Fin 4) (hostShared : Bool)
  | launchTable (ctx : Nat) (idx : BitVec 8) (e : LaunchEntry) (qpn : BitVec 24)
  | podGroup (ctx : Nat) (members : List Nat) (root : Nat)
  | image (ctx : Nat) (im : Image)
  | registration (ctx : Nat) (rkey : BitVec 16) (r : Registration)
  | threshold (cls : Fin 3) (n : Nat)
  | hdm (port : Fin 4) (page pages : Nat)
  | hostGrant (port : Fin 4) (ld : Fin 16) (page pages : Nat)
  | hubService (hub : Fin 2) (die : Fin 4)
  | reassign (svc dst : Nat)
  | peerPolicy (ctx : Nat) (digests : List Nat)
deriving DecidableEq, Repr

/-- The record of a queue pair as the HSC creates it (R368). -/
structure QpInit where
  strict : Bool
  qpn : BitVec 24
  dqpn : BitVec 24
  ppkg : BitVec 21
  paddr : BitVec 128
  port : Fin 12
  sid : BitVec 32
  tmo : Nat
  rcnt : Nat
  rq : Word
deriving DecidableEq, Repr

/-- A received Halyard packet after authentication (R367): `auth` says that its tag, session and counter passed. The fields
that an OPC does not use are zero or empty. -/
structure Packet where
  auth : Bool
  dqpn : BitVec 24
  psn : BitVec 24
  fin : Bool
  ackreq : Bool
  epoch : Bool
  retry : Bool
  ncode : BitVec 8
  sid : BitVec 32
  ctr : Nat
  addr : Word
  rkey : BitVec 16
  len : Nat
  data : List Byte
  vals : List Word
deriving DecidableEq, Repr

/-- A unit that can be spared or fenced (R420). -/
inductive SpareUnit where
  | quad (n : Nat) | subChannel (n : Nat) | service (n dst : Nat) | copyEngine (n : Nat) | bunting (n : Nat) | port (n : Fin 12)
deriving DecidableEq, Repr

/-- What a control-complex debug access names (R223). -/
inductive DbgTarget where
  | phys (pa : Nat) | wreg (rank : Nat) (slot : Fin 5) (r : Fin 16) | tile (rank : Nat) (c : Fin 4) | latch (rank : Nat) | recv (rank : Nat)
deriving DecidableEq, Repr

end Sys2Proof
end

