-- ==== Sys2Proof/Syntax/Operands.lean ====
section
/-! DEFINITION. The operand types of an instruction word: the classes of the specifier space (R10, R11) and the small
codes of the five formats (R17 to R23), each as a type of its own so that a register of a wrong class cannot be written. -/

namespace Sys2Proof

/-- `g0` to `g23` (R10). -/
abbrev GReg := Fin 24
/-- `e0` to `e7`. -/
abbrev EReg := Fin 8
/-- `w0` to `w15`. -/
abbrev WReg := Fin 16
/-- `k0` to `k3`. -/
abbrev KReg := Fin 4

/-- A source specifier of R11: specifiers 0 to 42. -/
inductive Src where
  | g (r : GReg) | e (r : EReg) | d (r : Fin 4) | zr | ix | nix | rank | rlen | src | clk
deriving DecidableEq, Repr

/-- A destination specifier of R11: `g`, `d` (pushes) or `zr` (discards). -/
inductive Dst where
  | g (r : GReg) | d (r : Fin 4) | zr
deriving DecidableEq, Repr

/-- A field that accepts `g` or `zr` only. -/
inductive GZ where
  | g (r : GReg) | zr
deriving DecidableEq, Repr

/-- The result of a RAT or QENQ (R243): `g` blocking, `e` asynchronous, `zr` posted. -/
inductive RDst where
  | g (r : GReg) | e (r : EReg) | zr
deriving DecidableEq, Repr

/-- The destination of EPOP (R136): `g0` to `g22`, `zr`, or `e0`, `e2`, `e4`, `e6` (here by half their number). -/
inductive PopDst where
  | g (r : Fin 23) | zr | e (n : Fin 4)
deriving DecidableEq, Repr

/-- The size field SZ (R17). -/
inductive Sz where
  | d | w | h | b
deriving DecidableEq, Repr

/-- The two sizes of scalar FP and of RAT (R17, R243). -/
inductive FSz where
  | f64 | f32
deriving DecidableEq, Repr

/-- The rounding codes (R89). -/
inductive Rm where
  | rne | rtz | sr | rna
deriving DecidableEq, Repr

/-- Space and order of a memory access (R23): `spc` is global, `ord` is ORD 0b01. -/
structure Mode where
  spc : Bool
  ord : Bool
deriving DecidableEq, Repr

/-- The kinds of FENCE (R126). -/
inductive FenceKind where
  | full | acq | rel
deriving DecidableEq, Repr

/-- The scopes of R2. -/
inductive Scope where
  | core | quad | die | pkg | pod | sys
deriving DecidableEq, Repr

/-- The element types ET of a wide instruction but the decode-table code, which only WCVT takes (R19, R166). -/
inductive Et where
  | i8 | i16 | i32 | f32 | bf16 | f16
deriving DecidableEq, Repr

/-- The second operand of a wide instruction in the register form (R167): WB, a broadcast scalar, or the lane index. -/
inductive WOpnd where
  | reg (w : WReg) | bcast (g : Src) | lane
deriving DecidableEq, Repr

/-- The operations of KOP (R182). `bin` is AND, OR, XOR, ANDN by its code 0 to 3. -/
inductive KOp where
  | bin (f : Fin 4) (kd ka kb : KReg)
  | inv (kd ka : KReg)
  | mov (kd ka : KReg)
  | set (kd : KReg) (g : Src)
  | popc (ed : EReg) (ka : KReg)
  | first (ed : EReg) (ka : KReg)
deriving DecidableEq, Repr

/-- The context word of MCTX (R195): the literal, or a `g` register. -/
inductive MctxSrc where
  | lit (x : BitVec 32) | reg (a : GReg)
deriving DecidableEq, Repr

/-- Why a word is refused by the checks that depend on the word alone (R27). -/
inductive Ill where
  | op | reg | field
deriving DecidableEq, Repr

end Sys2Proof
end

