-- ==== Sys2Proof/Syntax.lean ====
section
/-! DEFINITION. The instruction set as a type: one constructor per row of spec/opcode_table.json, in the table's order. The rows
that are instruction words carry their operands (chapters 01 to 18 of the spec); the rows that are steps of a unit carry which unit
moves, or the input it is given. -/

namespace Sys2Proof

/-- One constructor per row of the opcode table; each cites the rule of its row. -/
inductive Instr where
  /-- R27 -/
  | illegalWord (c : Ill) (w : Word)
  /-- R35 -/
  | addReg (sz : Sz) (d : Dst) (a b : Src)
  /-- R35 -/
  | addLit (sz : Sz) (d : Dst) (a : Src) (imm : BitVec 32)
  /-- R35 -/
  | subReg (sz : Sz) (d : Dst) (a b : Src)
  /-- R35 -/
  | subLit (sz : Sz) (d : Dst) (a : Src) (imm : BitVec 32)
  /-- R35 -/
  | mulReg (sz : Sz) (d : Dst) (a b : Src)
  /-- R35 -/
  | mulLit (sz : Sz) (d : Dst) (a : Src) (imm : BitVec 32)
  /-- R35 -/
  | mulhReg (sz : Sz) (d : Dst) (a b : Src)
  /-- R35 -/
  | mulhLit (sz : Sz) (d : Dst) (a : Src) (imm : BitVec 32)
  /-- R35 -/
  | mulhuReg (sz : Sz) (d : Dst) (a b : Src)
  /-- R35 -/
  | mulhuLit (sz : Sz) (d : Dst) (a : Src) (imm : BitVec 32)
  /-- R35 -/
  | divReg (sz : Sz) (d : Dst) (a b : Src)
  /-- R35 -/
  | divLit (sz : Sz) (d : Dst) (a : Src) (imm : BitVec 32)
  /-- R35 -/
  | divuReg (sz : Sz) (d : Dst) (a b : Src)
  /-- R35 -/
  | divuLit (sz : Sz) (d : Dst) (a : Src) (imm : BitVec 32)
  /-- R35 -/
  | remReg (sz : Sz) (d : Dst) (a b : Src)
  /-- R35 -/
  | remLit (sz : Sz) (d : Dst) (a : Src) (imm : BitVec 32)
  /-- R35 -/
  | remuReg (sz : Sz) (d : Dst) (a b : Src)
  /-- R35 -/
  | remuLit (sz : Sz) (d : Dst) (a : Src) (imm : BitVec 32)
  /-- R35 -/
  | minReg (sz : Sz) (d : Dst) (a b : Src)
  /-- R35 -/
  | minLit (sz : Sz) (d : Dst) (a : Src) (imm : BitVec 32)
  /-- R35 -/
  | maxReg (sz : Sz) (d : Dst) (a b : Src)
  /-- R35 -/
  | maxLit (sz : Sz) (d : Dst) (a : Src) (imm : BitVec 32)
  /-- R35 -/
  | minuReg (sz : Sz) (d : Dst) (a b : Src)
  /-- R35 -/
  | minuLit (sz : Sz) (d : Dst) (a : Src) (imm : BitVec 32)
  /-- R35 -/
  | maxuReg (sz : Sz) (d : Dst) (a b : Src)
  /-- R35 -/
  | maxuLit (sz : Sz) (d : Dst) (a : Src) (imm : BitVec 32)
  /-- R35 -/
  | leaReg (sz : Sz) (d : Dst) (a b : Src) (c : BitVec 6)
  /-- R35 -/
  | leaLit (sz : Sz) (d : Dst) (a : Src) (c : BitVec 6) (imm : BitVec 32)
  /-- R37 -/
  | andReg (sz : Sz) (d : Dst) (a b : Src)
  /-- R37 -/
  | andLit (sz : Sz) (d : Dst) (a : Src) (imm : BitVec 32)
  /-- R37 -/
  | orReg (sz : Sz) (d : Dst) (a b : Src)
  /-- R37 -/
  | orLit (sz : Sz) (d : Dst) (a : Src) (imm : BitVec 32)
  /-- R37 -/
  | xorReg (sz : Sz) (d : Dst) (a b : Src)
  /-- R37 -/
  | xorLit (sz : Sz) (d : Dst) (a : Src) (imm : BitVec 32)
  /-- R37 -/
  | andnReg (sz : Sz) (d : Dst) (a b : Src)
  /-- R37 -/
  | andnLit (sz : Sz) (d : Dst) (a : Src) (imm : BitVec 32)
  /-- R37 -/
  | ornReg (sz : Sz) (d : Dst) (a b : Src)
  /-- R37 -/
  | ornLit (sz : Sz) (d : Dst) (a : Src) (imm : BitVec 32)
  /-- R37 -/
  | shlReg (sz : Sz) (d : Dst) (a b : Src)
  /-- R37 -/
  | shlLit (sz : Sz) (d : Dst) (a : Src) (imm : BitVec 32)
  /-- R37 -/
  | shrReg (sz : Sz) (d : Dst) (a b : Src)
  /-- R37 -/
  | shrLit (sz : Sz) (d : Dst) (a : Src) (imm : BitVec 32)
  /-- R37 -/
  | sarReg (sz : Sz) (d : Dst) (a b : Src)
  /-- R37 -/
  | sarLit (sz : Sz) (d : Dst) (a : Src) (imm : BitVec 32)
  /-- R37 -/
  | rolReg (sz : Sz) (d : Dst) (a b : Src)
  /-- R37 -/
  | rolLit (sz : Sz) (d : Dst) (a : Src) (imm : BitVec 32)
  /-- R37 -/
  | rorReg (sz : Sz) (d : Dst) (a b : Src)
  /-- R37 -/
  | rorLit (sz : Sz) (d : Dst) (a : Src) (imm : BitVec 32)
  /-- R37 -/
  | fshlReg (sz : Sz) (d : Dst) (a b c : Src)
  /-- R37 -/
  | fshlLit (sz : Sz) (d : Dst) (a : Src) (imm : BitVec 32) (c : Src)
  /-- R37 -/
  | fshrReg (sz : Sz) (d : Dst) (a b c : Src)
  /-- R37 -/
  | fshrLit (sz : Sz) (d : Dst) (a : Src) (imm : BitVec 32) (c : Src)
  /-- R38 -/
  | seqReg (sz : Sz) (d : Dst) (a b : Src)
  /-- R38 -/
  | seqLit (sz : Sz) (d : Dst) (a : Src) (imm : BitVec 32)
  /-- R38 -/
  | sneReg (sz : Sz) (d : Dst) (a b : Src)
  /-- R38 -/
  | sneLit (sz : Sz) (d : Dst) (a : Src) (imm : BitVec 32)
  /-- R38 -/
  | sltReg (sz : Sz) (d : Dst) (a b : Src)
  /-- R38 -/
  | sltLit (sz : Sz) (d : Dst) (a : Src) (imm : BitVec 32)
  /-- R38 -/
  | sltuReg (sz : Sz) (d : Dst) (a b : Src)
  /-- R38 -/
  | sltuLit (sz : Sz) (d : Dst) (a : Src) (imm : BitVec 32)
  /-- R38 -/
  | sleReg (sz : Sz) (d : Dst) (a b : Src)
  /-- R38 -/
  | sleLit (sz : Sz) (d : Dst) (a : Src) (imm : BitVec 32)
  /-- R38 -/
  | sleuReg (sz : Sz) (d : Dst) (a b : Src)
  /-- R38 -/
  | sleuLit (sz : Sz) (d : Dst) (a : Src) (imm : BitVec 32)
  /-- R38 -/
  | selReg (sz : Sz) (d : Dst) (a b c : Src)
  /-- R38 -/
  | selLit (sz : Sz) (d : Dst) (a : Src) (imm : BitVec 32) (c : Src)
  /-- R40 -/
  | clz (sz : Sz) (d : Dst) (a : Src)
  /-- R40 -/
  | ctz (sz : Sz) (d : Dst) (a : Src)
  /-- R40 -/
  | popc (sz : Sz) (d : Dst) (a : Src)
  /-- R40 -/
  | brev (sz : Sz) (d : Dst) (a : Src)
  /-- R40 -/
  | bswap (sz : Sz) (d : Dst) (a : Src)
  /-- R40 -/
  | exts (sz : Sz) (d : Dst) (a : Src) (pos lenm1 : BitVec 6)
  /-- R40 -/
  | extu (sz : Sz) (d : Dst) (a : Src) (pos lenm1 : BitVec 6)
  /-- R40 -/
  | ins (sz : Sz) (d : Dst) (a b : Src) (pos lenm1 : BitVec 6)
  /-- R40 -/
  | sext (sz : Sz) (d : Dst) (a : Src)
  /-- R41 -/
  | movh (d : Dst) (a : Src) (imm : BitVec 32)
  /-- R45 -/
  | faddReg (f : FSz) (d : Dst) (a b : Src) (rm : Rm)
  /-- R45 -/
  | faddLit (f : FSz) (d : Dst) (a : Src) (imm : BitVec 32)
  /-- R45 -/
  | fsubReg (f : FSz) (d : Dst) (a b : Src) (rm : Rm)
  /-- R45 -/
  | fsubLit (f : FSz) (d : Dst) (a : Src) (imm : BitVec 32)
  /-- R45 -/
  | fmulReg (f : FSz) (d : Dst) (a b : Src) (rm : Rm)
  /-- R45 -/
  | fmulLit (f : FSz) (d : Dst) (a : Src) (imm : BitVec 32)
  /-- R45 -/
  | fdivReg (f : FSz) (d : Dst) (a b : Src) (rm : Rm)
  /-- R45 -/
  | fdivLit (f : FSz) (d : Dst) (a : Src) (imm : BitVec 32)
  /-- R45 -/
  | fsqrt (f : FSz) (d : Dst) (a : Src) (rm : Rm)
  /-- R45 -/
  | fmaReg (f : FSz) (d : Dst) (a b c : Src) (rm : Rm)
  /-- R45 -/
  | fmaLit (f : FSz) (d : Dst) (a : Src) (imm : BitVec 32) (c : Src)
  /-- R46 -/
  | fminReg (f : FSz) (d : Dst) (a b : Src)
  /-- R46 -/
  | fminLit (f : FSz) (d : Dst) (a : Src) (imm : BitVec 32)
  /-- R46 -/
  | fmaxReg (f : FSz) (d : Dst) (a b : Src)
  /-- R46 -/
  | fmaxLit (f : FSz) (d : Dst) (a : Src) (imm : BitVec 32)
  /-- R46 -/
  | fsgnjReg (f : FSz) (d : Dst) (a b : Src) (sgn : BitVec 2)
  /-- R46 -/
  | fsgnjLit (f : FSz) (d : Dst) (a : Src) (imm : BitVec 32) (sgn : BitVec 2)
  /-- R46 -/
  | feqReg (f : FSz) (d : Dst) (a b : Src)
  /-- R46 -/
  | feqLit (f : FSz) (d : Dst) (a : Src) (imm : BitVec 32)
  /-- R46 -/
  | fltReg (f : FSz) (d : Dst) (a b : Src)
  /-- R46 -/
  | fltLit (f : FSz) (d : Dst) (a : Src) (imm : BitVec 32)
  /-- R46 -/
  | fleReg (f : FSz) (d : Dst) (a b : Src)
  /-- R46 -/
  | fleLit (f : FSz) (d : Dst) (a : Src) (imm : BitVec 32)
  /-- R46 -/
  | fclass (f : FSz) (d : Dst) (a : Src)
  /-- R48 -/
  | fcvt (d : Dst) (a : Src) (di si : BitVec 2) (sat : Bool) (rm : Rm) (sf df : BitVec 5)
  /-- R50 -/
  | beq (sz : Sz) (a c : Src) (off : BitVec 32)
  /-- R50 -/
  | bne (sz : Sz) (a c : Src) (off : BitVec 32)
  /-- R50 -/
  | blt (sz : Sz) (a c : Src) (off : BitVec 32)
  /-- R50 -/
  | bge (sz : Sz) (a c : Src) (off : BitVec 32)
  /-- R50 -/
  | bltu (sz : Sz) (a c : Src) (off : BitVec 32)
  /-- R50 -/
  | bgeu (sz : Sz) (a c : Src) (off : BitVec 32)
  /-- R50 -/
  | b (off : BitVec 32)
  /-- R51 -/
  | call (off : BitVec 32)
  /-- R52 -/
  | jmp (a : Src) (link : Bool)
  /-- R53 -/
  | loop (d : GReg) (off : BitVec 32)
  /-- R55 -/
  | tend
  /-- R56 -/
  | tyield
  /-- R121 -/
  | ldReg (sz : Sz) (d : Dst) (a b : Src) (m : Mode) (scl : BitVec 3) (sx : Bool)
  /-- R121 -/
  | ldLit (sz : Sz) (d : Dst) (a : Src) (m : Mode) (sx : Bool) (off : BitVec 32)
  /-- R121 -/
  | stReg (sz : Sz) (v : Src) (a b : Src) (m : Mode) (scl : BitVec 3)
  /-- R121 -/
  | stLit (sz : Sz) (v : Src) (a : Src) (m : Mode) (off : BitVec 32)
  /-- R124 -/
  | ldnReg (d : Dst) (a b : Src) (m : Mode) (sx : Bool)
  /-- R124 -/
  | ldnLit (d : Dst) (a : Src) (m : Mode) (sx : Bool) (idx : BitVec 32)
  /-- R124 -/
  | stnReg (v : Src) (a b : Src) (m : Mode)
  /-- R124 -/
  | stnLit (v : Src) (a : Src) (m : Mode) (idx : BitVec 32)
  /-- R125 -/
  | pfReg (a b : Src) (spc : Bool) (scl : BitVec 3)
  /-- R125 -/
  | pfLit (a : Src) (spc : Bool) (off : BitVec 32)
  /-- R127 -/
  | fence (kind : FenceKind) (scope : Scope)
  /-- R129 -/
  | waita (sz : Sz) (d a b c : GZ) (m : Mode)
  /-- R129 -/
  | waitaTimeout (rank : Nat) (slot : Fin 5)
  /-- R130 -/
  | waitaReread (rank : Nat) (slot : Fin 5)
  /-- R161 -/
  | scfgFillReg (sz : Sz) (a : GReg) (spc sx : Bool) (strm : Fin 4)
  /-- R161 -/
  | scfgFillLit (sz : Sz) (a : GReg) (spc sx : Bool) (strm : Fin 4) (n0 : BitVec 32)
  /-- R161 -/
  | scfgDrainReg (sz : Sz) (a : GReg) (spc : Bool) (strm : Fin 4)
  /-- R161 -/
  | scfgDrainLit (sz : Sz) (a : GReg) (spc : Bool) (strm : Fin 4) (n0 : BitVec 32)
  /-- R165 -/
  | sctlEnd (strm : Fin 4)
  /-- R165 -/
  | sctlFlush (strm : Fin 4)
  /-- R165 -/
  | sstat (d : GZ) (strm : Fin 4)
  /-- R162 -/
  | fillRead (rank : Nat) (slot : Fin 5) (strm : Fin 4)
  /-- R162 -/
  | drainWrite (rank : Nat) (slot : Fin 5) (strm : Fin 4)
  /-- R237 -/
  | send (a : Src) (b : GReg) (rel hc : Bool) (nw : BitVec 3) (hn : BitVec 10)
  /-- R240 -/
  | sendw (a : Src) (b : GReg) (c : GZ) (nw : BitVec 3) (ce : Bool) (cn : BitVec 6)
  /-- R244 -/
  | rataddReg (w : FSz) (d : RDst) (a : GReg) (b : Src) (m : Mode)
  /-- R244 -/
  | rataddLit (w : FSz) (d : RDst) (a : GReg) (imm : BitVec 32) (m : Mode)
  /-- R244 -/
  | ratfaddReg (w : FSz) (d : RDst) (a : GReg) (b : Src) (m : Mode)
  /-- R244 -/
  | ratfaddLit (w : FSz) (d : RDst) (a : GReg) (imm : BitVec 32) (m : Mode)
  /-- R244 -/
  | ratfaddsReg (w : FSz) (d : RDst) (a : GReg) (b : Src) (m : Mode)
  /-- R244 -/
  | ratfaddsLit (w : FSz) (d : RDst) (a : GReg) (imm : BitVec 32) (m : Mode)
  /-- R244 -/
  | ratmaxReg (w : FSz) (d : RDst) (a : GReg) (b : Src) (m : Mode)
  /-- R244 -/
  | ratmaxLit (w : FSz) (d : RDst) (a : GReg) (imm : BitVec 32) (m : Mode)
  /-- R244 -/
  | ratminReg (w : FSz) (d : RDst) (a : GReg) (b : Src) (m : Mode)
  /-- R244 -/
  | ratminLit (w : FSz) (d : RDst) (a : GReg) (imm : BitVec 32) (m : Mode)
  /-- R244 -/
  | ratswpReg (w : FSz) (d : RDst) (a : GReg) (b : Src) (m : Mode)
  /-- R244 -/
  | ratswpLit (w : FSz) (d : RDst) (a : GReg) (imm : BitVec 32) (m : Mode)
  /-- R244 -/
  | ratcas (w : FSz) (d : RDst) (a : GReg) (b : Src) (c : GReg) (m : Mode)
  /-- R244 -/
  | ratandReg (w : FSz) (d : RDst) (a : GReg) (b : Src) (m : Mode)
  /-- R244 -/
  | ratandLit (w : FSz) (d : RDst) (a : GReg) (imm : BitVec 32) (m : Mode)
  /-- R244 -/
  | ratorReg (w : FSz) (d : RDst) (a : GReg) (b : Src) (m : Mode)
  /-- R244 -/
  | ratorLit (w : FSz) (d : RDst) (a : GReg) (imm : BitVec 32) (m : Mode)
  /-- R244 -/
  | ratxorReg (w : FSz) (d : RDst) (a : GReg) (b : Src) (m : Mode)
  /-- R244 -/
  | ratxorLit (w : FSz) (d : RDst) (a : GReg) (imm : BitVec 32) (m : Mode)
  /-- R248 -/
  | qenq (d : RDst) (a b : GReg) (m : Mode) (nw : BitVec 4)
  /-- R248 -/
  | qdeq (d a : GReg) (m : Mode) (nw : BitVec 4)
  /-- R251 -/
  | ctrset (a : Src) (b : GZ) (cn : BitVec 6)
  /-- R251 -/
  | ctradd (d : GZ) (a : Src) (b : GZ) (cn : BitVec 6)
  /-- R251 -/
  | ctrrd (d : GReg) (b : GZ) (cn : BitVec 6)
  /-- R255 -/
  | wtset (d a : GZ) (b : GReg) (c : GZ) (ge : Bool) (cn : BitVec 6)
  /-- R255 -/
  | wtclr (d : GZ) (a : GReg)
  /-- R327 -/
  | tspawn (a : GReg) (b : Src) (rel : Bool)
  /-- R328 -/
  | tcont (a : GReg) (b : Src) (rel : Bool)
  /-- R330 -/
  | maskw (n : BitVec 5)
  /-- R333 -/
  | bararrive (d : GZ) (b : Option GReg) (scope : Scope)
  /-- R333 -/
  | barwait (d : GZ) (b : GReg) (scope : Scope)
  /-- R333 -/
  | barsync (d : GZ) (b : Option GReg) (scope : Scope)
  /-- R335 -/
  | bararriveMem (d : GZ) (a : GReg) (spc : Bool) (scope : Scope)
  /-- R336 -/
  | barwaitMem (d : GZ) (a b : GReg) (spc : Bool) (scope : Scope)
  /-- R336 -/
  | barsyncMem (d : GZ) (a : GReg) (spc : Bool) (scope : Scope)
  /-- R310 -/
  | frz (a : Src) (b : Option GReg)
  /-- R340 -/
  | futreg (d : GZ) (a b : GReg) (spc : Bool)
  /-- R340 -/
  | futset (a : GReg) (b : GZ) (spc psn : Bool)
  /-- R340 -/
  | futget (d a : GReg) (spc : Bool)
  /-- R340 -/
  | futreset (d : GZ) (a : GReg) (spc : Bool)
  /-- R289 -/
  | gcopy (d : GZ) (a : GReg)
  /-- R294 -/
  | gsend (d : GZ) (a : GReg) (b : Src)
  /-- R291 -/
  | gcmp (d : GZ) (a : GReg)
  /-- R290 -/
  | ghash (d : GZ) (a : GReg)
  /-- R292 -/
  | gfree (d : GZ) (a : GReg)
  /-- R274 -/
  | lmap (d a b : GReg)
  /-- R276 -/
  | oalloc (d a : GReg) (b c : GZ)
  /-- R278 -/
  | objldw (d : GZ) (a : GReg) (b : GZ) (acq : Bool) (idx : BitVec 23)
  /-- R278 -/
  | objstw (v : GZ) (a : GReg) (b : GZ) (rel : Bool) (idx : BitVec 23)
  /-- R278 -/
  | objtype (d : GZ) (a : GReg)
  /-- R278 -/
  | objlen (d : GZ) (a : GReg)
  /-- R170 -/
  | waddReg (et : Et) (wd wa : WReg) (b : WOpnd) (k : KReg) (kz : Bool)
  /-- R170 -/
  | waddLit (et : Et) (wd wa : WReg) (imm : BitVec 32) (k : KReg) (kz : Bool)
  /-- R170 -/
  | wsubReg (et : Et) (wd wa : WReg) (b : WOpnd) (k : KReg) (kz : Bool)
  /-- R170 -/
  | wsubLit (et : Et) (wd wa : WReg) (imm : BitVec 32) (k : KReg) (kz : Bool)
  /-- R170 -/
  | wmulReg (et : Et) (wd wa : WReg) (b : WOpnd) (k : KReg) (kz : Bool)
  /-- R170 -/
  | wmulLit (et : Et) (wd wa : WReg) (imm : BitVec 32) (k : KReg) (kz : Bool)
  /-- R170 -/
  | wminReg (et : Et) (wd wa : WReg) (b : WOpnd) (k : KReg) (kz : Bool)
  /-- R170 -/
  | wminLit (et : Et) (wd wa : WReg) (imm : BitVec 32) (k : KReg) (kz : Bool)
  /-- R170 -/
  | wmaxReg (et : Et) (wd wa : WReg) (b : WOpnd) (k : KReg) (kz : Bool)
  /-- R170 -/
  | wmaxLit (et : Et) (wd wa : WReg) (imm : BitVec 32) (k : KReg) (kz : Bool)
  /-- R170 -/
  | wminuReg (et : Et) (wd wa : WReg) (b : WOpnd) (k : KReg) (kz : Bool)
  /-- R170 -/
  | wminuLit (et : Et) (wd wa : WReg) (imm : BitVec 32) (k : KReg) (kz : Bool)
  /-- R170 -/
  | wmaxuReg (et : Et) (wd wa : WReg) (b : WOpnd) (k : KReg) (kz : Bool)
  /-- R170 -/
  | wmaxuLit (et : Et) (wd wa : WReg) (imm : BitVec 32) (k : KReg) (kz : Bool)
  /-- R170 -/
  | wandReg (et : Et) (wd wa : WReg) (b : WOpnd) (k : KReg) (kz : Bool)
  /-- R170 -/
  | wandLit (et : Et) (wd wa : WReg) (imm : BitVec 32) (k : KReg) (kz : Bool)
  /-- R170 -/
  | worReg (et : Et) (wd wa : WReg) (b : WOpnd) (k : KReg) (kz : Bool)
  /-- R170 -/
  | worLit (et : Et) (wd wa : WReg) (imm : BitVec 32) (k : KReg) (kz : Bool)
  /-- R170 -/
  | wxorReg (et : Et) (wd wa : WReg) (b : WOpnd) (k : KReg) (kz : Bool)
  /-- R170 -/
  | wxorLit (et : Et) (wd wa : WReg) (imm : BitVec 32) (k : KReg) (kz : Bool)
  /-- R170 -/
  | wshlReg (et : Et) (wd wa : WReg) (b : WOpnd) (k : KReg) (kz : Bool)
  /-- R170 -/
  | wshlLit (et : Et) (wd wa : WReg) (imm : BitVec 32) (k : KReg) (kz : Bool)
  /-- R170 -/
  | wshrReg (et : Et) (wd wa : WReg) (b : WOpnd) (k : KReg) (kz : Bool)
  /-- R170 -/
  | wshrLit (et : Et) (wd wa : WReg) (imm : BitVec 32) (k : KReg) (kz : Bool)
  /-- R170 -/
  | wsarReg (et : Et) (wd wa : WReg) (b : WOpnd) (k : KReg) (kz : Bool)
  /-- R170 -/
  | wsarLit (et : Et) (wd wa : WReg) (imm : BitVec 32) (k : KReg) (kz : Bool)
  /-- R170 -/
  | wfshlReg (et : Et) (wd wa : WReg) (b : WOpnd) (k : KReg) (kz : Bool)
  /-- R170 -/
  | wfshlLit (et : Et) (wd wa : WReg) (imm : BitVec 32) (k : KReg) (kz : Bool)
  /-- R170 -/
  | wfshrReg (et : Et) (wd wa : WReg) (b : WOpnd) (k : KReg) (kz : Bool)
  /-- R170 -/
  | wfshrLit (et : Et) (wd wa : WReg) (imm : BitVec 32) (k : KReg) (kz : Bool)
  /-- R171 -/
  | wfaddReg (et : Et) (wd wa : WReg) (b : WOpnd) (k : KReg) (kz : Bool) (rm : Rm)
  /-- R171 -/
  | wfaddLit (et : Et) (wd wa : WReg) (imm : BitVec 32) (k : KReg) (kz : Bool)
  /-- R171 -/
  | wfsubReg (et : Et) (wd wa : WReg) (b : WOpnd) (k : KReg) (kz : Bool) (rm : Rm)
  /-- R171 -/
  | wfsubLit (et : Et) (wd wa : WReg) (imm : BitVec 32) (k : KReg) (kz : Bool)
  /-- R171 -/
  | wfmulReg (et : Et) (wd wa : WReg) (b : WOpnd) (k : KReg) (kz : Bool) (rm : Rm)
  /-- R171 -/
  | wfmulLit (et : Et) (wd wa : WReg) (imm : BitVec 32) (k : KReg) (kz : Bool)
  /-- R171 -/
  | wfmaReg (et : Et) (wd wa : WReg) (b : WOpnd) (k : KReg) (kz : Bool) (rm : Rm)
  /-- R171 -/
  | wfmaLit (et : Et) (wd wa : WReg) (imm : BitVec 32) (k : KReg) (kz : Bool)
  /-- R171 -/
  | wfminReg (et : Et) (wd wa : WReg) (b : WOpnd) (k : KReg) (kz : Bool) (rm : Rm)
  /-- R171 -/
  | wfminLit (et : Et) (wd wa : WReg) (imm : BitVec 32) (k : KReg) (kz : Bool)
  /-- R171 -/
  | wfmaxReg (et : Et) (wd wa : WReg) (b : WOpnd) (k : KReg) (kz : Bool) (rm : Rm)
  /-- R171 -/
  | wfmaxLit (et : Et) (wd wa : WReg) (imm : BitVec 32) (k : KReg) (kz : Bool)
  /-- R171 -/
  | wfabs (et : Et) (wd wa : WReg) (k : KReg) (kz : Bool) (rm : Rm)
  /-- R171 -/
  | wexp2 (et : Et) (wd wa : WReg) (k : KReg) (kz : Bool) (rm : Rm)
  /-- R171 -/
  | wrcp (et : Et) (wd wa : WReg) (k : KReg) (kz : Bool) (rm : Rm)
  /-- R171 -/
  | wrsq (et : Et) (wd wa : WReg) (k : KReg) (kz : Bool) (rm : Rm)
  /-- R171 -/
  | wlog2 (et : Et) (wd wa : WReg) (k : KReg) (kz : Bool) (rm : Rm)
  /-- R172 -/
  | wcmp (et : Et) (kd : KReg) (wa : WReg) (b : WOpnd) (k : KReg) (kz : Bool) (cond : BitVec 4) (any : Bool)
  /-- R173 -/
  | wsel (et : Et) (wd wa : WReg) (b : WOpnd) (k : KReg)
  /-- R175 -/
  | wcvt (wd wa : WReg) (dt : Option (Fin 4)) (sf : BitVec 5) (part : BitVec 3) (sat : Bool) (rm : Rm) (df : BitVec 5)
  /-- R177 -/
  | wred (et : Et) (ed : EReg) (wa : WReg) (k : KReg) (op : BitVec 3) (u : Bool)
  /-- R178 -/
  | wscan (et : Et) (wd wa : WReg) (k : KReg) (kz : Bool) (op : BitVec 3) (excl : Bool)
  /-- R179 -/
  | wperm (et : Et) (wd wa wb : WReg) (k : KReg) (kz : Bool)
  /-- R179 -/
  | wslide (et : Et) (wd wa wb : WReg) (g : Src) (k : KReg) (kz : Bool)
  /-- R179 -/
  | wbcast (et : Et) (wd wa : WReg) (g : Src) (k : KReg) (kz : Bool)
  /-- R179 -/
  | wzip (et : Et) (wd wa wb : WReg) (k : KReg) (kz : Bool) (hi : Bool)
  /-- R180 -/
  | wmovsInsert (et : Et) (wd : WReg) (g : Src) (k : KReg) (kz : Bool)
  /-- R180 -/
  | wmovsExtract (et : Et) (ed : EReg) (wa : WReg) (lane : BitVec 8) (sx : Bool)
  /-- R181 -/
  | widx (et : Et) (wd : WReg) (g : Option Src) (k : KReg) (kz : Bool) (step : BitVec 16)
  /-- R182 -/
  | kop (op : KOp)
  /-- R184 -/
  | wldReg (wd : WReg) (g : GReg) (k : KReg) (kz : Bool) (m : Mode) (ofs : BitVec 20)
  /-- R184 -/
  | wldLit (wd : WReg) (k : KReg) (kz : Bool) (imm : BitVec 32)
  /-- R184 -/
  | wstReg (wa : WReg) (bm : Option WReg) (g : GReg) (k : KReg) (m : Mode) (ofs : BitVec 20)
  /-- R184 -/
  | wstLit (wa : WReg) (k : KReg) (imm : BitVec 32)
  /-- R185 -/
  | wgath (et : Et) (wd wa : WReg) (g : GReg) (k : KReg) (kz : Bool) (m : Mode) (scale : BitVec 3)
  /-- R185 -/
  | wscat (et : Et) (wa wb : WReg) (g : GReg) (k : KReg) (m : Mode) (scale : BitVec 3)
  /-- R224 -/
  | wldf (et : Et) (wd : WReg) (g : GReg) (k : KReg) (kz : Bool) (m : Mode) (ofs : BitVec 20)
  /-- R225 -/
  | sealst (wa : WReg) (g : GReg) (m : Mode) (ofs : BitVec 20)
  /-- R187 -/
  | wspill (wa : WReg) (slot : Fin 16)
  /-- R187 -/
  | wfill (wd : WReg) (slot : Fin 16)
  /-- R188 -/
  | dtld (t : Fin 4) (g : Src) (spc : Bool) (rpt : Option EReg)
  /-- R156 -/
  | wideUnitRetire (quad : Nat)
  /-- R195 -/
  | mctx (w : MctxSrc)
  /-- R198 -/
  | mldb (a b : GZ) (spc : Bool)
  /-- R200 -/
  | mrot (n : BitVec 3)
  /-- R200 -/
  | mrotSend (rank : Nat)
  /-- R200 -/
  | mrotReceive (rank : Nat)
  /-- R203 -/
  | mma (c : Fin 4) (a : GReg) (b : GZ) (z : Bool)
  /-- R206 -/
  | mrec (c : Fin 4) (a : GReg) (b : GZ) (z : Bool)
  /-- R205 -/
  | mprog (a : GReg)
  /-- R208 -/
  | mzero (c : Fin 4)
  /-- R208 -/
  | mload (c : Fin 4) (a : GReg) (b : GZ) (spc : Bool)
  /-- R208 -/
  | mstore (c : Fin 4) (a : GReg) (b : GZ) (spc : Bool) (df : BitVec 5)
  /-- R208 -/
  | mtowide (c : Fin 4) (wd : WReg) (p : Fin 16)
  /-- R196 -/
  | mclaim (c : Fin 4)
  /-- R208 -/
  | mrelease (c : Fin 4)
  /-- R209 -/
  | mwait (c : Option (Fin 4))
  /-- R190 -/
  | matrixRequest (quad : Nat)
  /-- R135 -/
  | epush (a : Fin 17) (idx : BitVec 6)
  /-- R137 -/
  | epop (d : PopDst) (idx : BitVec 6)
  /-- R138 -/
  | estat (d : GZ) (idx : BitVec 6)
  /-- R217 -/
  | fbind (a : GReg)
  /-- R217 -/
  | fbindRange (a b c : GReg)
  /-- R217 -/
  | fbindDrop (a : GReg)
  /-- R357 -/
  | trap (n : BitVec 8)
  /-- R354 -/
  | upretResume (keep : BitVec 24)
  /-- R354 -/
  | upretDetach
  /-- R354 -/
  | upretAbandon
  /-- R345 -/
  | srd (d : GZ) (n : BitVec 12)
  /-- R345 -/
  | swr (n : BitVec 12) (a : GZ)
  /-- R351 -/
  | hresume (d : GZ) (a : GReg) (next : Bool)
  /-- R350 -/
  | swin (d a : GReg) (wr : Bool) (sel : BitVec 12)
  /-- R105 -/
  | tlbw (a b c : GReg)
  /-- R106 -/
  | tlbi (a b : GReg)
  /-- R363 -/
  | idle (d : GZ) (lim : BitVec 32)
  /-- R363 -/
  | idleTimeout (rank : Nat) (slot : Fin 5)
  /-- R364 -/
  | dbg (d a : GReg) (unit : BitVec 4)
  /-- R365 -/
  | wdog (lim : BitVec 32)
  /-- R365 -/
  | watchdogExpiry (rank : Nat) (slot : Fin 5)
  /-- R101 -/
  | walkRequest (svc : Nat)
  /-- R260 -/
  | storeBufferSend (rank : Nat)
  /-- R231 -/
  | reply (rank : Nat)
  /-- R232 -/
  | messageQueueEntry (rank : Nat)
  /-- R231 -/
  | lMessage (rank : Nat)
  /-- R69 -/
  | remoteLoad (rank : Nat)
  /-- R121 -/
  | remoteStore (rank : Nat)
  /-- R124 -/
  | remoteStn (rank : Nat)
  /-- R244 -/
  | remoteRat (rank : Nat)
  /-- R248 -/
  | remoteQenq (rank : Nat)
  /-- R248 -/
  | remoteQdeq (rank : Nat)
  /-- R340 -/
  | remoteFut (rank : Nat)
  /-- R240 -/
  | sendwHandler (rank : Nat)
  /-- R335 -/
  | barrierObjectArrival (rank : Nat)
  /-- R338 -/
  | count (rank : Nat)
  /-- R327 -/
  | spawnMessage (rank : Nat)
  /-- R238 -/
  | hostQueueRecord
  /-- R321 -/
  | hSlotTake (rank : Nat)
  /-- R323 -/
  | takeL (rank : Nat)
  /-- R349 -/
  | faultMessage (rank : Nat)
  /-- R355 -/
  | upcallCompletionNotice (rank : Nat)
  /-- R108 -/
  | fcomp (ld : Fin 16) (cookie : BitVec 40)
  /-- R111 -/
  | ringReport
  /-- R144 -/
  | copy (eng : Nat)
  /-- R142 -/
  | copy2d (eng : Nat)
  /-- R142 -/
  | copy3d (eng : Nat)
  /-- R143 -/
  | fill (eng : Nat)
  /-- R143 -/
  | convert (eng : Nat)
  /-- R145 -/
  | furlmove (eng : Nat)
  /-- R133 -/
  | engineResult (eng ch : Nat)
  /-- R137 -/
  | asyncPop (eng ch : Nat)
  /-- R295 -/
  | landingObject
  /-- R295 -/
  | landingComplete
  /-- R305 -/
  | launchRecord (q : LaunchQ)
  /-- R306 -/
  | launchStart (q : LaunchQ)
  /-- R307 -/
  | launchComplete (launch : Nat)
  /-- R359 -/
  | sliceEnd (ctx : Nat)
  /-- R359 -/
  | drainWatchdog (ctx : Nat)
  /-- R359 -/
  | drainComplete (ctx : Nat)
  /-- R382 -/
  | sliceStart (ctx : Nat)
  /-- R382 -/
  | contextCreate (desc : Descriptor)
  /-- R387 -/
  | scrub (base len : Nat) (departing arriving : Option Nat)
  /-- R213 -/
  | keyInstall (slot : Fin 64) (key : KeyBlob)
  /-- R213 -/
  | keyErase (slot : Fin 64)
  /-- R213 -/
  | keyErased (slot : Fin 64)
  /-- R385 -/
  | handleGrant (ctx : Nat) (idx : BitVec 12) (h : Handle) (offered accepted : Bool)
  /-- R229 -/
  | handleRevoke (ctx : Nat) (idx : BitVec 12)
  /-- R389 -/
  | evidenceRequest (ctx : Nat) (nonce : List Byte)
  /-- R394 -/
  | spdmRequest (vf : Nat) (req : SpdmReq)
  /-- R394 -/
  | tdispExit (vf : Nat)
  /-- R394 -/
  | spdmExpiry (vf : Nat)
  /-- R395 -/
  | evrtWrite (ld : Fin 16) (e : BitVec 12) (claimant owner : BitVec 4) (dest : BitVec 32)
  /-- R393 -/
  | registerWrite (r : SvcReg)
  /-- R368 -/
  | queuePairCreate (ctx : Nat) (idx : BitVec 12) (qp : QpInit)
  /-- R374 -/
  | registrationRevoke (ctx : Nat) (rkey : BitVec 16)
  /-- R371 -/
  | halyardWrite (eng : Nat)
  /-- R371 -/
  | halyardRead (eng : Nat)
  /-- R371 -/
  | halyardSend (eng : Nat)
  /-- R371 -/
  | aadd (eng : Nat)
  /-- R371 -/
  | acas (eng : Nat)
  /-- R372 -/
  | cwrite (eng : Nat)
  /-- R373 -/
  | writePacket (p : Packet)
  /-- R373 -/
  | readReq (p : Packet)
  /-- R371 -/
  | readResp (p : Packet)
  /-- R371 -/
  | sendPacket (p : Packet)
  /-- R371 -/
  | atomic (p : Packet)
  /-- R371 -/
  | atomicResp (p : Packet)
  /-- R371 -/
  | ack (p : Packet)
  /-- R374 -/
  | nak (p : Packet)
  /-- R304 -/
  | launchPacket (p : Packet)
  /-- R380 -/
  | gstream (p : Packet)
  /-- R381 -/
  | barrierPacket (p : Packet)
  /-- R378 -/
  | handshake (p : Packet)
  /-- R375 -/
  | retransmitTimer (qpn : BitVec 24)
  /-- R376 -/
  | contextBusyBackoff (qpn : BitVec 24)
  /-- R378 -/
  | rekey (sid : BitVec 32)
  /-- R378 -/
  | oldEpochExpiry (sid : BitVec 32)
  /-- R395 -/
  | portDown (port : Fin 12)
  /-- R395 -/
  | cxlPortError (port : Fin 4)
  /-- R420 -/
  | unitFence (u : SpareUnit)
  /-- R415 -/
  | powerUp
  /-- R415 -/
  | powerDown
  /-- R419 -/
  | packageReset (imageOk : Bool)
  /-- R419 -/
  | recoveryImage (signed : Bool)
  /-- R416 -/
  | clockChange (mhz : Nat)
  /-- R418 -/
  | thermal105 (die : Fin 6)
  /-- R418 -/
  | thermal110 (die : Fin 6)
  /-- R418 -/
  | thermal115 (die : Fin 6)
  /-- R418 -/
  | thermalClear
  /-- R29 -/
  | controlComplexResume (rank : Nat) (slot : Fin 5) (next : Bool)
  /-- R382 -/
  | contextErrorRequest (ctx : Nat)
  /-- R223 -/
  | debugAccess (t : DbgTarget)
  /-- R283 -/
  | hostMemoryWrite (pa : Nat) (bytes : List Byte)
  /-- R376 -/
  | queuePairEvict (qpn : BitVec 24)
  /-- R376 -/
  | stateFetch (qpn : BitVec 24)
  /-- R391 -/
  | ldBind (ld : Fin 16) (host : Nat)
  /-- R394 -/
  | heartbeatLoss (vf : Nat)
deriving DecidableEq, Repr

end Sys2Proof
end

