-- ==== Sys2Proof/WellFormed.lean ====
section
/-! DEFINITION. Which terms of `Instr` stand for an instruction word (chapters 01 to 18): the conditions of each entry that the types
do not already say. Steps of units are no words. -/

namespace Sys2Proof

/-- Width in bits of a size (R17). -/
def wfW : Sz → Nat
  | .d => 64 | .w => 32 | .h => 16 | .b => 8

/-- The format codes a conversion may name (R75); `dst` excludes E8M0, `cvt` admits FP64. -/
def wfFmt (c : BitVec 5) (dst f64 : Bool) : Bool :=
  match c.toNat with
  | 0x00 | 0x01 | 0x02 | 0x05 | 0x06 | 0x07 | 0x08 | 0x09 | 0x0B | 0x0C | 0x0D | 0x0E | 0x10 | 0x11 | 0x12 | 0x18 | 0x19 | 0x1A
  | 0x1B => true
  | 0x03 => f64
  | 0x0A => !dst
  | _ => false

/-- How many elements of a format a wide register holds (R175). -/
def wfCap (c : BitVec 5) : Nat :=
  match c.toNat with
  | 0x00 | 0x0E => 64
  | 0x01 | 0x02 => 128
  | 0x09 | 0x0D | 0x12 => 512
  | _ => 256

/-- PART of WCVT (R175): below the ratio of the capacities. -/
def wfPart (ns nd : Nat) (part : BitVec 3) : Bool := part.toNat * min ns nd < max ns nd

/-- The integer element types. -/
def etInt : Et → Bool
  | .i8 | .i16 | .i32 => true
  | _ => false

/-- Elements of a type in a wide register (R166). -/
def etN : Et → Nat
  | .i8 => 256 | .i16 | .bf16 | .f16 => 128 | .i32 | .f32 => 64

/-- The condition codes of WCMP (R172). -/
def wfCond (et : Et) (c : BitVec 4) : Bool := if etInt et then c.toNat ≤ 5 else (c.toNat ≤ 3 || c.toNat = 6)

/-- A handle register: `g`, `zr` or `src` (R236, R239, R285). -/
def wfHandle : Src → Bool
  | .g _ | .zr | .src => true
  | _ => false

/-- A target rank register: `g`, `zr` or `rank` (R326). -/
def wfRank : Src → Bool
  | .g _ | .zr | .rank => true
  | _ => false

/-- The item count register of FRZ (R309). -/
def wfCount : Src → Bool
  | .g _ | .zr | .nix | .rlen => true
  | _ => false

/-- The data register of a store (R120): any source but an `e` register. -/
def wfData : Src → Bool
  | .e _ => false
  | _ => true

/-- Whether a term is the instruction of some word. -/
def Instr.wf : Instr → Bool
  | .leaReg _ _ _ _ c => c.toNat < 8
  | .leaLit _ _ _ c _ => c.toNat < 8
  | .exts sz _ _ p l | .extu sz _ _ p l | .ins sz _ _ _ p l => p.toNat + l.toNat + 1 ≤ wfW sz
  | .sext sz _ _ => sz ≠ .d
  | .faddReg _ _ _ _ rm | .fsubReg _ _ _ _ rm | .fmulReg _ _ _ _ rm | .fdivReg _ _ _ _ rm | .fsqrt _ _ _ rm
  | .fmaReg _ _ _ _ _ rm => rm ≠ .sr
  | .fsgnjReg _ _ _ _ s | .fsgnjLit _ _ _ _ s => s ≠ 3
  | .fcvt _ _ di si _ _ sf df =>
    di ≠ 3 && si ≠ 3 && (if di = 0 then wfFmt df true true else df = 0) && (if si = 0 then wfFmt sf false true else sf = 0)
  | .ldReg sz _ _ _ _ _ sx => !(sx && sz = .d)
  | .ldLit sz _ _ _ sx _ => !(sx && sz = .d)
  | .stReg _ v _ _ _ _ | .stLit _ v _ _ _ | .stnReg v _ _ _ | .stnLit v _ _ _ => wfData v
  | .scfgFillReg sz a _ sx _ => a.val ≤ 20 && !(sx && sz = .d)
  | .scfgFillLit sz _ _ sx _ _ => !(sx && sz = .d)
  | .scfgDrainReg _ a _ _ => a.val ≤ 20
  | .send a bb _ _ nw _ => wfHandle a && nw.toNat ≤ 6 && bb.val + nw.toNat ≤ 24 && (nw ≠ 0 || bb = 0)
  | .sendw a bb _ nw ce cn => wfHandle a && nw.toNat ≤ 6 && bb.val + nw.toNat ≤ 24 && (nw ≠ 0 || bb = 0) && (ce || cn = 0)
  | .qenq _ _ bb _ nw => 1 ≤ nw.toNat && nw.toNat ≤ 8 && bb.val + nw.toNat ≤ 24
  | .qdeq d _ _ nw => 1 ≤ nw.toNat && nw.toNat ≤ 8 && d.val + nw.toNat + 1 ≤ 24
  | .wtset _ _ bb _ _ _ => bb.val ≤ 22
  | .tspawn a bb _ | .tcont a bb _ => a.val ≤ 22 && wfRank bb
  | .maskw n => n.toNat ≤ 16
  | .bararrive _ bb sc | .barsync _ bb sc => sc ≠ .sys && (bb.isSome == (sc == .core))
  | .barwait _ _ sc => sc ≠ .sys
  | .frz a _ => wfCount a
  | .futset _ bb _ psn => !psn || bb = .g 0
  | .gsend _ _ bb => wfHandle bb
  | .lmap d _ bb => d.val ≤ 22 && bb.val ≤ 21
  | .waddReg et _ _ _ _ _ | .wsubReg et _ _ _ _ _ | .wmulReg et _ _ _ _ _ | .wminReg et _ _ _ _ _ | .wmaxReg et _ _ _ _ _
  | .wminuReg et _ _ _ _ _ | .wmaxuReg et _ _ _ _ _ | .wandReg et _ _ _ _ _ | .worReg et _ _ _ _ _ | .wxorReg et _ _ _ _ _
  | .wshlReg et _ _ _ _ _ | .wshrReg et _ _ _ _ _ | .wsarReg et _ _ _ _ _ | .wfshlReg et _ _ _ _ _
  | .wfshrReg et _ _ _ _ _ => etInt et
  | .waddLit et _ _ _ _ _ | .wsubLit et _ _ _ _ _ | .wmulLit et _ _ _ _ _ | .wminLit et _ _ _ _ _ | .wmaxLit et _ _ _ _ _
  | .wminuLit et _ _ _ _ _ | .wmaxuLit et _ _ _ _ _ | .wandLit et _ _ _ _ _ | .worLit et _ _ _ _ _ | .wxorLit et _ _ _ _ _
  | .wshlLit et _ _ _ _ _ | .wshrLit et _ _ _ _ _ | .wsarLit et _ _ _ _ _ | .wfshlLit et _ _ _ _ _
  | .wfshrLit et _ _ _ _ _ => etInt et
  | .wfaddReg et _ _ _ _ _ _ | .wfsubReg et _ _ _ _ _ _ | .wfmulReg et _ _ _ _ _ _ | .wfmaReg et _ _ _ _ _ _
  | .wfminReg et _ _ _ _ _ _ | .wfmaxReg et _ _ _ _ _ _ => !etInt et
  | .wfaddLit et _ _ _ _ _ | .wfsubLit et _ _ _ _ _ | .wfmulLit et _ _ _ _ _ | .wfmaLit et _ _ _ _ _ | .wfminLit et _ _ _ _ _
  | .wfmaxLit et _ _ _ _ _ => !etInt et
  | .wfabs et _ _ _ _ _ | .wexp2 et _ _ _ _ _ | .wrcp et _ _ _ _ _ | .wrsq et _ _ _ _ _ | .wlog2 et _ _ _ _ _ => !etInt et
  | .wcmp et kd _ _ _ _ cond _ => kd ≠ 0 && wfCond et cond
  | .wcvt _ _ dt sf part _ _ df =>
    (match dt with
      | some _ => sf = 0 && wfFmt df true false && wfPart 256 (wfCap df) part
      | none => wfFmt sf false false && wfFmt df true false && wfPart (wfCap sf) (wfCap df) part)
  | .wred et _ _ _ op u => (etInt et || op.toNat ≤ 2) && (!u || op = 0)
  | .wscan et _ _ _ _ op _ => etInt et || op.toNat ≤ 2
  | .wmovsExtract et _ _ lane _ => lane.toNat < etN et
  | .widx et _ _ _ _ _ => etInt et
  | .kop op =>
    (match op with
      | .bin _ kd _ _ => kd ≠ 0
      | .inv kd _ | .mov kd _ | .set kd _ => kd ≠ 0
      | .popc _ _ | .first _ _ => true)
  | .wgath et _ _ _ _ _ _ _ => et = .i32 || et = .f32
  | .wscat et _ _ _ _ _ _ => et = .i32 || et = .f32
  | .wldf et _ _ _ _ _ _ => et ≠ .i16
  | .mctx (.lit x) => x ≠ 0
  | .mrot n => n.toNat ≤ 4
  | .mstore _ _ _ _ df => wfFmt df true false
  | .dbg _ _ u => u.toNat ≤ 5
  | _ => true

end Sys2Proof
end

