-- ==== Sys2Proof/Decode.lean ====
section
/-! DEFINITION. Decoding of a 64-bit word (R11, R16 to R27, and the encoding table of each entry), total, refusing by the fault
that the word alone earns; then the encoder, from the same tables. -/

namespace Sys2Proof

-- `Instr` has more constructors with fields than the compiler's object tags can number, so the functions that build the later ones
-- have no compiled code; the kernel evaluates them as any other definition.
noncomputable section

/-! ### Fields -/

/-- `n` bits of a word from bit `lo`. -/
def fld (w : Word) (lo n : Nat) : Nat := w.toNat / 2 ^ lo % 2 ^ n
/-- A field as a bit vector. -/
def fldB (w : Word) (lo n : Nat) : BitVec n := BitVec.ofNat n (fld w lo n)
/-- One bit. -/
def fbit (w : Word) (i : Nat) : Bool := decide (fld w i 1 = 1)

/-- The fields of the R, L and S formats (R17, R18, R21). -/
def fOp (w : Word) : Nat := fld w 56 8
def fFn (w : Word) : Nat := fld w 52 4
def fD (w : Word) : Nat := fld w 46 6
def fA (w : Word) : Nat := fld w 40 6
def fB (w : Word) : Nat := fld w 34 6
def fSz (w : Word) : Nat := fld w 32 2
def fC (w : Word) : Nat := fld w 26 6
def fMod (w : Word) : Nat := fld w 0 26
def fLit (w : Word) : BitVec 32 := fldB w 0 32

/-- The fields of the W format (R19). -/
def fWD (w : Word) : Fin 16 := Fin.ofNat 16 (fld w 48 4)
def fWA (w : Word) : Fin 16 := Fin.ofNat 16 (fld w 44 4)
def fWB (w : Word) : Fin 16 := Fin.ofNat 16 (fld w 40 4)
def fK (w : Word) : Fin 4 := Fin.ofNat 4 (fld w 38 2)
def fKZ (w : Word) : Bool := fbit w 37
def fEt (w : Word) : Nat := fld w 34 3
def fS (w : Word) : Nat := fld w 32 2
def fG (w : Word) : Nat := fld w 26 6

/-- The fields of the X format (R20). -/
def fXC (w : Word) : Fin 4 := Fin.ofNat 4 (fld w 50 2)
def fXA (w : Word) : Nat := fld w 42 6
def fXB (w : Word) : Nat := fld w 36 6
def fSP (w : Word) : Nat := fld w 34 2

/-- The result of decoding. -/
abbrev Dec := Except Ill

/-- A reserved field, or a code out of range (R24, R27). -/
def need (b : Bool) : Dec Unit := if b then .ok () else .error .field

/-- A source specifier (R11). -/
def srcOf (n : Nat) : Dec Src :=
  if h : n < 24 then .ok (.g ⟨n, h⟩)
  else if h : n - 24 < 8 then .ok (.e ⟨n - 24, h⟩)
  else if h : n - 32 < 4 then .ok (.d ⟨n - 32, h⟩)
  else match n with
    | 36 => .ok .zr | 37 => .ok .ix | 38 => .ok .nix | 39 => .ok .rank | 40 => .ok .rlen | 41 => .ok .src | 42 => .ok .clk
    | _ => .error .reg

/-- A destination specifier (R11). -/
def dstOf (n : Nat) : Dec Dst :=
  match srcOf n with
  | .ok (.g r) => .ok (.g r) | .ok (.d r) => .ok (.d r) | .ok .zr => .ok .zr | _ => .error .reg

/-- A field that takes `g` only. -/
def gOf (n : Nat) : Dec GReg := if h : n < 24 then .ok ⟨n, h⟩ else .error .reg

/-- A field that takes `g` or `zr`. -/
def gzOf (n : Nat) : Dec GZ := if h : n < 24 then .ok (.g ⟨n, h⟩) else if n = 36 then .ok .zr else .error .reg

/-- A field that takes `e` only. -/
def eOf (n : Nat) : Dec EReg := if h : 24 ≤ n ∧ n - 24 < 8 then .ok ⟨n - 24, h.2⟩ else .error .reg

/-- The result of a RAT or QENQ (R243, R247). -/
def rdstOf (n : Nat) : Dec RDst :=
  match srcOf n with
  | .ok (.g r) => .ok (.g r) | .ok (.e r) => .ok (.e r) | .ok .zr => .ok .zr | _ => .error .reg

/-- The destination of EPOP (R136). -/
def popOf (n : Nat) : Dec PopDst :=
  if h : n < 23 then .ok (.g ⟨n, h⟩)
  else match n with
    | 36 => .ok .zr | 24 => .ok (.e 0) | 26 => .ok (.e 1) | 28 => .ok (.e 2) | 30 => .ok (.e 3)
    | _ => .error .reg

/-- A register that a further condition must hold of (R11). -/
def srcIf (p : Src → Bool) (n : Nat) : Dec Src :=
  match srcOf n with
  | .ok x => if p x then .ok x else .error .reg
  | .error e => .error e

/-- A `g` register up to a limit, for runs of registers. -/
def gUpTo (m n : Nat) : Dec GReg := if h : n < 24 then (if n ≤ m then .ok ⟨n, h⟩ else .error .reg) else .error .reg

/-- The size field (R17). -/
def szOf (n : Nat) : Sz :=
  match n with | 0 => .d | 1 => .w | 2 => .h | _ => .b

/-- The size of scalar FP and RAT. -/
def fszOf (n : Nat) : Dec FSz :=
  match n with | 0 => .ok .f64 | 1 => .ok .f32 | _ => .error .field

/-- The rounding codes (R89). -/
def rmOf (n : Nat) : Rm :=
  match n with | 0 => .rne | 1 => .rtz | 2 => .sr | _ => .rna

/-- The element types of all wide instructions but WCVT (R19, R166). -/
def etOf (n : Nat) : Dec Et :=
  match n with
  | 0 => .ok .i8 | 1 => .ok .i16 | 2 => .ok .i32 | 3 => .ok .f32 | 4 => .ok .bf16 | 5 => .ok .f16 | _ => .error .field

/-- The scopes (R126). -/
def scopeOf (n : Nat) : Dec Scope :=
  match n with
  | 0 => .ok .core | 1 => .ok .quad | 2 => .ok .die | 3 => .ok .pkg | 4 => .ok .pod | 5 => .ok .sys | _ => .error .field

/-- SPC and ORD (R23): ORD 2 and 3 are refused. -/
def modeOf (spc : Bool) (ord : Nat) : Dec Mode :=
  match ord with
  | 0 => .ok ⟨spc, false⟩ | 1 => .ok ⟨spc, true⟩ | _ => .error .field

/-! ### The groups of the opcode map -/

/-- Register form of an integer group: D, A, B; C and MOD zero (R34). -/
def dR3 (w : Word) (k : Sz → Dst → Src → Src → Instr) : Dec Instr := do
  let d ← dstOf (fD w); let a ← srcOf (fA w); let b ← srcOf (fB w)
  need (fC w = 0 && fMod w = 0)
  return k (szOf (fSz w)) d a b

/-- Literal form of an integer group: D, A, LIT; C zero. -/
def dL2 (w : Word) (k : Sz → Dst → Src → BitVec 32 → Instr) : Dec Instr := do
  let d ← dstOf (fD w); let a ← srcOf (fA w)
  need (fB w = 0)
  return k (szOf (fSz w)) d a (fLit w)

/-- Register form with a third source. -/
def dR4 (w : Word) (k : Sz → Dst → Src → Src → Src → Instr) : Dec Instr := do
  let d ← dstOf (fD w); let a ← srcOf (fA w); let b ← srcOf (fB w); let c ← srcOf (fC w)
  need (fMod w = 0)
  return k (szOf (fSz w)) d a b c

/-- Literal form with a third source. -/
def dL3 (w : Word) (k : Sz → Dst → Src → BitVec 32 → Src → Instr) : Dec Instr := do
  let d ← dstOf (fD w); let a ← srcOf (fA w); let c ← srcOf (fB w)
  return k (szOf (fSz w)) d a (fLit w) c

/-- A bit operation of one source (R39). -/
def dBit1 (w : Word) (k : Sz → Dst → Src → Instr) : Dec Instr := do
  let d ← dstOf (fD w); let a ← srcOf (fA w)
  need (fB w = 0 && fC w = 0 && fMod w = 0)
  return k (szOf (fSz w)) d a

def decArith (w : Word) : Dec Instr :=
  match fFn w with
  | 0 => dR3 w .addReg | 1 => dR3 w .subReg | 2 => dR3 w .mulReg | 3 => dR3 w .mulhReg | 4 => dR3 w .mulhuReg
  | 5 => dR3 w .divReg | 6 => dR3 w .divuReg | 7 => dR3 w .remReg | 8 => dR3 w .remuReg | 9 => dR3 w .minReg
  | 10 => dR3 w .maxReg | 11 => dR3 w .minuReg | 12 => dR3 w .maxuReg
  | 13 => do
    let d ← dstOf (fD w); let a ← srcOf (fA w); let b ← srcOf (fB w)
    need (fC w < 8 && fMod w = 0)
    return .leaReg (szOf (fSz w)) d a b (fldB w 26 6)
  | _ => .error .op

def decArithL (w : Word) : Dec Instr :=
  match fFn w with
  | 0 => dL2 w .addLit | 1 => dL2 w .subLit | 2 => dL2 w .mulLit | 3 => dL2 w .mulhLit | 4 => dL2 w .mulhuLit
  | 5 => dL2 w .divLit | 6 => dL2 w .divuLit | 7 => dL2 w .remLit | 8 => dL2 w .remuLit | 9 => dL2 w .minLit
  | 10 => dL2 w .maxLit | 11 => dL2 w .minuLit | 12 => dL2 w .maxuLit
  | 13 => do
    let d ← dstOf (fD w); let a ← srcOf (fA w)
    need (fB w < 8)
    return .leaLit (szOf (fSz w)) d a (fldB w 34 6) (fLit w)
  | _ => .error .op

def decLogic (w : Word) : Dec Instr :=
  match fFn w with
  | 0 => dR3 w .andReg | 1 => dR3 w .orReg | 2 => dR3 w .xorReg | 3 => dR3 w .andnReg | 4 => dR3 w .ornReg | 5 => dR3 w .shlReg
  | 6 => dR3 w .shrReg | 7 => dR3 w .sarReg | 8 => dR3 w .rolReg | 9 => dR3 w .rorReg | 10 => dR4 w .fshlReg | 11 => dR4 w .fshrReg
  | _ => .error .op

def decLogicL (w : Word) : Dec Instr :=
  match fFn w with
  | 0 => dL2 w .andLit | 1 => dL2 w .orLit | 2 => dL2 w .xorLit | 3 => dL2 w .andnLit | 4 => dL2 w .ornLit | 5 => dL2 w .shlLit
  | 6 => dL2 w .shrLit | 7 => dL2 w .sarLit | 8 => dL2 w .rolLit | 9 => dL2 w .rorLit | 10 => dL3 w .fshlLit | 11 => dL3 w .fshrLit
  | _ => .error .op

def decCmp (w : Word) : Dec Instr :=
  match fFn w with
  | 0 => dR3 w .seqReg | 1 => dR3 w .sneReg | 2 => dR3 w .sltReg | 3 => dR3 w .sltuReg | 4 => dR3 w .sleReg | 5 => dR3 w .sleuReg
  | 6 => dR4 w .selReg
  | _ => .error .op

def decCmpL (w : Word) : Dec Instr :=
  match fFn w with
  | 0 => dL2 w .seqLit | 1 => dL2 w .sneLit | 2 => dL2 w .sltLit | 3 => dL2 w .sltuLit | 4 => dL2 w .sleLit | 5 => dL2 w .sleuLit
  | 6 => dL3 w .selLit
  | _ => .error .op

/-- EXTS and EXTU (R39). -/
def dExt (w : Word) (k : Sz → Dst → Src → BitVec 6 → BitVec 6 → Instr) : Dec Instr := do
  let d ← dstOf (fD w); let a ← srcOf (fA w)
  need (fB w = 0 && fC w = 0 && fld w 12 14 = 0)
  need (fld w 6 6 + fld w 0 6 + 1 ≤ wfW (szOf (fSz w)))
  return k (szOf (fSz w)) d a (fldB w 6 6) (fldB w 0 6)

def decBits (w : Word) : Dec Instr :=
  match fFn w with
  | 0 => dBit1 w .clz | 1 => dBit1 w .ctz | 2 => dBit1 w .popc | 3 => dBit1 w .brev | 4 => dBit1 w .bswap
  | 5 => dExt w .exts | 6 => dExt w .extu
  | 7 => do
    let d ← dstOf (fD w); let a ← srcOf (fA w); let b ← srcOf (fB w)
    need (fC w = 0 && fld w 12 14 = 0)
    need (fld w 6 6 + fld w 0 6 + 1 ≤ wfW (szOf (fSz w)))
    return .ins (szOf (fSz w)) d a b (fldB w 6 6) (fldB w 0 6)
  | 8 => do
    let d ← dstOf (fD w); let a ← srcOf (fA w)
    need (fB w = 0 && fC w = 0 && fMod w = 0 && fSz w ≠ 0)
    return .sext (szOf (fSz w)) d a
  | _ => .error .op

/-- An FP member with two sources and a rounding code (R44). -/
def dFp3 (w : Word) (k : FSz → Dst → Src → Src → Rm → Instr) : Dec Instr := do
  let d ← dstOf (fD w); let a ← srcOf (fA w); let b ← srcOf (fB w)
  need (fC w = 0 && fld w 2 24 = 0)
  let z ← fszOf (fSz w)
  need (fld w 0 2 ≠ 2)
  return k z d a b (rmOf (fld w 0 2))

/-- An FP member with two sources that does not round. -/
def dFp3n (w : Word) (k : FSz → Dst → Src → Src → Instr) : Dec Instr := do
  let d ← dstOf (fD w); let a ← srcOf (fA w); let b ← srcOf (fB w)
  need (fC w = 0 && fMod w = 0)
  let z ← fszOf (fSz w)
  return k z d a b

/-- The literal form of an FP member. -/
def dFpL (w : Word) (k : FSz → Dst → Src → BitVec 32 → Instr) : Dec Instr := do
  let d ← dstOf (fD w); let a ← srcOf (fA w)
  need (fB w = 0)
  let z ← fszOf (fSz w)
  return k z d a (fLit w)

def decFp (w : Word) : Dec Instr :=
  match fFn w with
  | 0 => dFp3 w .faddReg | 1 => dFp3 w .fsubReg | 2 => dFp3 w .fmulReg | 3 => dFp3 w .fdivReg
  | 4 => do
    let d ← dstOf (fD w); let a ← srcOf (fA w)
    need (fB w = 0 && fC w = 0 && fld w 2 24 = 0)
    let z ← fszOf (fSz w)
    need (fld w 0 2 ≠ 2)
    return .fsqrt z d a (rmOf (fld w 0 2))
  | 5 => do
    let d ← dstOf (fD w); let a ← srcOf (fA w); let b ← srcOf (fB w); let c ← srcOf (fC w)
    need (fld w 2 24 = 0)
    let z ← fszOf (fSz w)
    need (fld w 0 2 ≠ 2)
    return .fmaReg z d a b c (rmOf (fld w 0 2))
  | 6 => dFp3n w .fminReg | 7 => dFp3n w .fmaxReg
  | 8 => do
    let d ← dstOf (fD w); let a ← srcOf (fA w); let b ← srcOf (fB w)
    need (fC w = 0 && fld w 4 22 = 0 && fld w 0 2 = 0)
    let z ← fszOf (fSz w)
    need (fld w 2 2 ≠ 3)
    return .fsgnjReg z d a b (fldB w 2 2)
  | 9 => dFp3n w .feqReg | 10 => dFp3n w .fltReg | 11 => dFp3n w .fleReg
  | 12 => do
    let d ← dstOf (fD w); let a ← srcOf (fA w)
    need (fB w = 0 && fC w = 0 && fMod w = 0)
    let z ← fszOf (fSz w)
    return .fclass z d a
  | _ => .error .op

def decFpL (w : Word) : Dec Instr :=
  match fFn w with
  | 0 => dFpL w .faddLit | 1 => dFpL w .fsubLit | 2 => dFpL w .fmulLit | 3 => dFpL w .fdivLit
  | 5 => do
    let d ← dstOf (fD w); let a ← srcOf (fA w); let c ← srcOf (fB w)
    let z ← fszOf (fSz w)
    return .fmaLit z d a (fLit w) c
  | 6 => dFpL w .fminLit | 7 => dFpL w .fmaxLit
  | 8 => do
    let d ← dstOf (fD w); let a ← srcOf (fA w)
    need (fld w 36 4 = 0)
    let z ← fszOf (fSz w)
    need (fld w 34 2 ≠ 3)
    return .fsgnjLit z d a (fLit w) (fldB w 34 2)
  | 9 => dFpL w .feqLit | 10 => dFpL w .fltLit | 11 => dFpL w .fleLit
  | _ => .error .op

/-- FCVT (R47). -/
def decFcvt (w : Word) : Dec Instr := do
  let d ← dstOf (fD w); let a ← srcOf (fA w)
  need (fB w = 0 && fSz w = 0 && fC w = 0 && fld w 20 6 = 0 && fld w 10 3 = 0)
  need (fld w 18 2 ≠ 3 && fld w 16 2 ≠ 3)
  need (if fld w 18 2 = 0 then wfFmt (fldB w 0 5) true true else fld w 0 5 = 0)
  need (if fld w 16 2 = 0 then wfFmt (fldB w 5 5) false true else fld w 5 5 = 0)
  return .fcvt d a (fldB w 18 2) (fldB w 16 2) (fbit w 15) (rmOf (fld w 13 2)) (fldB w 5 5) (fldB w 0 5)

/-- A conditional branch (R50). -/
def dBr (w : Word) (k : Sz → Src → Src → BitVec 32 → Instr) : Dec Instr := do
  let a ← srcOf (fA w); let c ← srcOf (fB w)
  need (fD w = 0)
  return k (szOf (fSz w)) a c (fLit w)

def decBranch (w : Word) : Dec Instr :=
  match fFn w with
  | 0 => dBr w .beq | 1 => dBr w .bne | 2 => dBr w .blt | 3 => dBr w .bge | 4 => dBr w .bltu | 5 => dBr w .bgeu
  | 6 => do need (fD w = 0 && fA w = 0 && fB w = 0 && fSz w = 0); return .b (fLit w)
  | _ => .error .op

/-! ### Memory and streams -/

/-- The register-form mode of R23: SPC, ORD, SCL, SX; `scl` and `sx` say whether the entry uses them. -/
def dModeR (w : Word) (scl sx : Bool) : Dec Mode := do
  need (fld w 0 19 = 0)
  need (scl || fld w 20 3 = 0)
  need (sx || !fbit w 19)
  modeOf (fbit w 25) (fld w 23 2)

/-- The literal-form mode of R23. -/
def dModeL (w : Word) (sx : Bool) : Dec Mode := do
  need (fld w 34 2 = 0)
  need (sx || !fbit w 36)
  modeOf (fbit w 39) (fld w 37 2)

def decLd (w : Word) : Dec Instr := do
  let d ← dstOf (fD w); let a ← srcOf (fA w); let b ← srcOf (fB w)
  need (fC w = 0)
  let m ← dModeR w true true
  need (!(fbit w 19 && fSz w = 0))
  return .ldReg (szOf (fSz w)) d a b m (fldB w 20 3) (fbit w 19)

def decLdL (w : Word) : Dec Instr := do
  let d ← dstOf (fD w); let a ← srcOf (fA w)
  let m ← dModeL w true
  need (!(fbit w 36 && fSz w = 0))
  return .ldLit (szOf (fSz w)) d a m (fbit w 36) (fLit w)

/-- The data register of a store: any source but an `e` register (R120). -/
def dataOf (n : Nat) : Dec Src := srcIf wfData n

def decSt (w : Word) : Dec Instr := do
  let v ← dataOf (fD w); let a ← srcOf (fA w); let b ← srcOf (fB w)
  need (fC w = 0)
  let m ← dModeR w true false
  return .stReg (szOf (fSz w)) v a b m (fldB w 20 3)

def decStL (w : Word) : Dec Instr := do
  let v ← dataOf (fD w); let a ← srcOf (fA w)
  let m ← dModeL w false
  return .stLit (szOf (fSz w)) v a m (fLit w)

def decNib (w : Word) : Dec Instr :=
  match fFn w with
  | 0 => do
    let d ← dstOf (fD w); let a ← srcOf (fA w); let b ← srcOf (fB w)
    need (fC w = 0 && fSz w = 0)
    let m ← dModeR w false true
    return .ldnReg d a b m (fbit w 19)
  | 1 => do
    let v ← dataOf (fD w); let a ← srcOf (fA w); let b ← srcOf (fB w)
    need (fC w = 0 && fSz w = 0)
    let m ← dModeR w false false
    return .stnReg v a b m
  | _ => .error .op

def decNibL (w : Word) : Dec Instr :=
  match fFn w with
  | 0 => do
    let d ← dstOf (fD w); let a ← srcOf (fA w)
    need (fSz w = 0)
    let m ← dModeL w true
    return .ldnLit d a m (fbit w 36) (fLit w)
  | 1 => do
    let v ← dataOf (fD w); let a ← srcOf (fA w)
    need (fSz w = 0)
    let m ← dModeL w false
    return .stnLit v a m (fLit w)
  | _ => .error .op

def decPf (w : Word) : Dec Instr := do
  let a ← srcOf (fA w); let b ← srcOf (fB w)
  need (fD w = 0 && fC w = 0 && fSz w = 0 && fld w 0 20 = 0 && fld w 23 2 = 0)
  return .pfReg a b (fbit w 25) (fldB w 20 3)

def decPfL (w : Word) : Dec Instr := do
  let a ← srcOf (fA w)
  need (fD w = 0 && fSz w = 0 && fld w 34 5 = 0)
  return .pfLit a (fbit w 39) (fLit w)

def decFence (w : Word) : Dec Instr := do
  need (fD w = 0 && fA w = 0 && fB w = 0 && fSz w = 0 && fC w = 0 && fld w 5 21 = 0)
  let k ← (match fld w 3 2 with
    | 0 => .ok FenceKind.full | 1 => .ok .acq | 2 => .ok .rel | _ => .error Ill.field : Dec FenceKind)
  let sc ← scopeOf (fld w 0 3)
  return .fence k sc

def decWaita (w : Word) : Dec Instr := do
  let d ← gzOf (fD w); let a ← gzOf (fA w); let b ← gzOf (fB w); let c ← gzOf (fC w)
  need (fld w 0 23 = 0)
  let m ← modeOf (fbit w 25) (fld w 23 2)
  return .waita (szOf (fSz w)) d a b c m

def decScfg (w : Word) : Dec Instr :=
  match fFn w with
  | 0 => do
    let a ← gUpTo 20 (fA w)
    need (fD w = 0 && fB w = 0 && fC w = 0 && fld w 2 17 = 0 && fld w 20 5 = 0)
    need (!(fbit w 19 && fSz w = 0))
    return .scfgFillReg (szOf (fSz w)) a (fbit w 25) (fbit w 19) (Fin.ofNat 4 (fld w 0 2))
  | 1 => do
    let a ← gUpTo 20 (fA w)
    need (fD w = 0 && fB w = 0 && fC w = 0 && fld w 2 23 = 0)
    return .scfgDrainReg (szOf (fSz w)) a (fbit w 25) (Fin.ofNat 4 (fld w 0 2))
  | _ => .error .op

def decScfgL (w : Word) : Dec Instr :=
  match fFn w with
  | 0 => do
    let a ← gOf (fA w)
    need (fD w = 0 && fld w 37 2 = 0)
    need (!(fbit w 36 && fSz w = 0))
    return .scfgFillLit (szOf (fSz w)) a (fbit w 39) (fbit w 36) (Fin.ofNat 4 (fld w 34 2)) (fLit w)
  | 1 => do
    let a ← gOf (fA w)
    need (fD w = 0 && fld w 36 3 = 0)
    return .scfgDrainLit (szOf (fSz w)) a (fbit w 39) (Fin.ofNat 4 (fld w 34 2)) (fLit w)
  | _ => .error .op

def decSctl (w : Word) : Dec Instr :=
  let body (k : Fin 4 → Instr) : Dec Instr := do
    need (fD w = 0 && fA w = 0 && fB w = 0 && fSz w = 0 && fC w = 0 && fld w 2 24 = 0)
    return k (Fin.ofNat 4 (fld w 0 2))
  match fFn w with
  | 0 => body .sctlEnd | 1 => body .sctlFlush | _ => .error .op

def decSstat (w : Word) : Dec Instr := do
  let d ← gzOf (fD w)
  need (fA w = 0 && fB w = 0 && fSz w = 0 && fC w = 0 && fld w 2 24 = 0)
  return .sstat d (Fin.ofNat 4 (fld w 0 2))

/-! ### Messages, atomics, counters, tasks -/

def decSend (w : Word) : Dec Instr := do
  let a ← srcIf wfHandle (fA w); let b ← gOf (fB w)
  (if fB w + fld w 10 3 ≤ 24 || fld w 10 3 = 7 then .ok () else .error .reg : Dec Unit)
  need (fD w = 0 && fSz w = 0 && fC w = 0 && fld w 15 11 = 0)
  need (fld w 10 3 ≠ 7 && (fld w 10 3 ≠ 0 || fB w = 0))
  return .send a b (fbit w 14) (fbit w 13) (fldB w 10 3) (fldB w 0 10)

def decSendw (w : Word) : Dec Instr := do
  let a ← srcIf wfHandle (fA w); let b ← gOf (fB w); let c ← gzOf (fC w)
  (if fB w + fld w 0 3 ≤ 24 || fld w 0 3 = 7 then .ok () else .error .reg : Dec Unit)
  need (fD w = 0 && fSz w = 0 && fld w 10 16 = 0)
  need (fld w 0 3 ≠ 7 && (fld w 0 3 ≠ 0 || fB w = 0) && (fbit w 3 || fld w 4 6 = 0))
  return .sendw a b c (fldB w 0 3) (fbit w 3) (fldB w 4 6)

/-- The register form of a RAT but RATCAS (R243). -/
def dRat (w : Word) (k : FSz → RDst → GReg → Src → Mode → Instr) : Dec Instr := do
  let d ← rdstOf (fD w); let a ← gOf (fA w); let b ← srcOf (fB w)
  need (fC w = 0 && fld w 0 23 = 0)
  let z ← fszOf (fSz w)
  let m ← modeOf (fbit w 25) (fld w 23 2)
  return k z d a b m

/-- The literal form of a RAT. -/
def dRatL (w : Word) (k : FSz → RDst → GReg → BitVec 32 → Mode → Instr) : Dec Instr := do
  let d ← rdstOf (fD w); let a ← gOf (fA w)
  need (fld w 34 3 = 0)
  let z ← fszOf (fSz w)
  let m ← modeOf (fbit w 39) (fld w 37 2)
  return k z d a (fLit w) m

def decRat (w : Word) : Dec Instr :=
  match fFn w with
  | 0 => dRat w .rataddReg | 1 => dRat w .ratfaddReg | 2 => dRat w .ratfaddsReg | 3 => dRat w .ratmaxReg | 4 => dRat w .ratminReg
  | 5 => dRat w .ratswpReg
  | 6 => do
    let d ← rdstOf (fD w); let a ← gOf (fA w); let b ← srcOf (fB w); let c ← gOf (fC w)
    need (fld w 0 23 = 0)
    let z ← fszOf (fSz w)
    let m ← modeOf (fbit w 25) (fld w 23 2)
    return .ratcas z d a b c m
  | 7 => dRat w .ratandReg | 8 => dRat w .ratorReg | 9 => dRat w .ratxorReg
  | _ => .error .op

def decRatL (w : Word) : Dec Instr :=
  match fFn w with
  | 0 => dRatL w .rataddLit | 1 => dRatL w .ratfaddLit | 2 => dRatL w .ratfaddsLit | 3 => dRatL w .ratmaxLit
  | 4 => dRatL w .ratminLit | 5 => dRatL w .ratswpLit | 7 => dRatL w .ratandLit | 8 => dRatL w .ratorLit | 9 => dRatL w .ratxorLit
  | _ => .error .op

def decQenq (w : Word) : Dec Instr := do
  let d ← rdstOf (fD w); let a ← gOf (fA w); let b ← gOf (fB w)
  (if fB w + fld w 0 4 ≤ 24 then .ok () else .error .reg : Dec Unit)
  need (fSz w = 0 && fC w = 0 && fld w 4 19 = 0)
  let m ← modeOf (fbit w 25) (fld w 23 2)
  need (1 ≤ fld w 0 4 && fld w 0 4 ≤ 8)
  return .qenq d a b m (fldB w 0 4)

def decQdeq (w : Word) : Dec Instr := do
  let d ← gOf (fD w); let a ← gOf (fA w)
  (if fD w + fld w 0 4 + 1 ≤ 24 then .ok () else .error .reg : Dec Unit)
  need (fB w = 0 && fSz w = 0 && fC w = 0 && fld w 4 19 = 0)
  let m ← modeOf (fbit w 25) (fld w 23 2)
  need (1 ≤ fld w 0 4 && fld w 0 4 ≤ 8)
  return .qdeq d a m (fldB w 0 4)

def decCtr (w : Word) : Dec Instr :=
  match fFn w with
  | 0 => do
    let a ← srcOf (fA w); let b ← gzOf (fB w)
    need (fD w = 0 && fSz w = 0 && fC w = 0 && fld w 6 20 = 0)
    return .ctrset a b (fldB w 0 6)
  | 1 => do
    let d ← gzOf (fD w); let a ← srcOf (fA w); let b ← gzOf (fB w)
    need (fSz w = 0 && fC w = 0 && fld w 6 20 = 0)
    return .ctradd d a b (fldB w 0 6)
  | 2 => do
    let d ← gOf (fD w); let b ← gzOf (fB w)
    need (fA w = 0 && fSz w = 0 && fC w = 0 && fld w 6 20 = 0)
    return .ctrrd d b (fldB w 0 6)
  | _ => .error .op

def decWtset (w : Word) : Dec Instr := do
  let d ← gzOf (fD w)
  if fbit w 7 then do
    let a ← gOf (fA w); let _ ← gUpTo 22 (fB w); let _ ← gzOf (fC w)
    need (fB w = 0 && fSz w = 0 && fC w = 0 && fld w 8 18 = 0 && fld w 0 7 = 0)
    return .wtclr d a
  else do
    let a ← gzOf (fA w); let b ← gUpTo 22 (fB w); let c ← gzOf (fC w)
    need (fSz w = 0 && fld w 8 18 = 0)
    return .wtset d a b c (fbit w 6) (fldB w 0 6)

/-- TSPAWN and TCONT (R326). -/
def dSpawn (w : Word) (k : GReg → Src → Bool → Instr) : Dec Instr := do
  let a ← gUpTo 22 (fA w); let b ← srcIf wfRank (fB w)
  need (fD w = 0 && fSz w = 0 && fC w = 0 && fld w 1 25 = 0)
  return k a b (fbit w 0)

def decMaskw (w : Word) : Dec Instr := do
  need (fD w = 0 && fA w = 0 && fB w = 0 && fSz w = 0 && fld w 0 32 ≤ 16)
  return .maskw (fldB w 0 5)

/-- The token, count or zero in B of a BAR (R332). -/
def decBar (w : Word) : Dec Instr :=
  let mem := fbit w 4
  let sc := fld w 0 3
  let core := !mem && sc = 0
  match fFn w with
  | 0 => do
    let d ← gzOf (fD w)
    if mem then do
      let a ← gOf (fA w); let _ ← gOf (fB w)
      need (fB w = 0 && fSz w = 0 && fC w = 0 && fld w 5 20 = 0 && !fbit w 3)
      let s ← scopeOf sc
      return .bararriveMem d a (fbit w 25) s
    else do
      let _ ← gOf (fA w); let b ← gOf (fB w)
      need (fA w = 0 && (core || fB w = 0) && fSz w = 0 && fC w = 0 && fld w 5 21 = 0 && !fbit w 3 && sc ≤ 4)
      let s ← scopeOf sc
      return .bararrive d (if core then some b else none) s
  | 1 => do
    let d ← gzOf (fD w)
    if mem then do
      let a ← gOf (fA w); let b ← gOf (fB w)
      need (fSz w = 0 && fC w = 0 && fld w 5 20 = 0 && !fbit w 3)
      let s ← scopeOf sc
      return .barwaitMem d a b (fbit w 25) s
    else do
      let _ ← gOf (fA w); let b ← gOf (fB w)
      need (fA w = 0 && fSz w = 0 && fC w = 0 && fld w 5 21 = 0 && !fbit w 3 && sc ≤ 4)
      let s ← scopeOf sc
      return .barwait d b s
  | 2 => do
    let d ← gzOf (fD w)
    if mem then do
      let a ← gOf (fA w); let _ ← gOf (fB w)
      need (fB w = 0 && fSz w = 0 && fC w = 0 && fld w 5 20 = 0 && !fbit w 3)
      let s ← scopeOf sc
      return .barsyncMem d a (fbit w 25) s
    else do
      let _ ← gOf (fA w); let b ← gOf (fB w)
      need (fA w = 0 && (core || fB w = 0) && fSz w = 0 && fC w = 0 && fld w 5 21 = 0 && !fbit w 3 && sc ≤ 4)
      let s ← scopeOf sc
      return .barsync d (if core then some b else none) s
  | _ => .error .op

def decFrz (w : Word) : Dec Instr := do
  let a ← srcIf wfCount (fA w)
  let b ← gOf (fB w)
  need (fD w = 0 && (fbit w 0 || fB w = 0) && fSz w = 0 && fC w = 0 && fld w 1 25 = 0)
  return .frz a (if fbit w 0 then some b else none)

def decFut (w : Word) : Dec Instr :=
  match fFn w with
  | 0 => do
    let d ← gzOf (fD w); let a ← gOf (fA w); let b ← gOf (fB w)
    need (fSz w = 0 && fC w = 0 && fld w 0 25 = 0)
    return .futreg d a b (fbit w 25)
  | 1 => do
    let a ← gOf (fA w); let b ← gzOf (fB w)
    need (fD w = 0 && fSz w = 0 && fC w = 0 && fld w 1 24 = 0 && (!fbit w 0 || fB w = 0))
    return .futset a b (fbit w 25) (fbit w 0)
  | 2 => do
    let d ← gOf (fD w); let a ← gOf (fA w)
    need (fB w = 0 && fSz w = 0 && fC w = 0 && fld w 0 25 = 0)
    return .futget d a (fbit w 25)
  | 3 => do
    let d ← gzOf (fD w); let a ← gOf (fA w)
    need (fB w = 0 && fSz w = 0 && fC w = 0 && fld w 0 25 = 0)
    return .futreset d a (fbit w 25)
  | _ => .error .op

/-- A graph instruction without a handle (R285). -/
def dGraph (w : Word) (k : GZ → GReg → Instr) : Dec Instr := do
  let d ← gzOf (fD w); let a ← gOf (fA w)
  need (fB w = 0 && fSz w = 0 && fC w = 0 && fMod w = 0)
  return k d a

def decGsend (w : Word) : Dec Instr := do
  let d ← gzOf (fD w); let a ← gOf (fA w); let b ← srcIf wfHandle (fB w)
  need (fSz w = 0 && fC w = 0 && fMod w = 0)
  return .gsend d a b

def decLmap (w : Word) : Dec Instr := do
  let d ← gUpTo 22 (fD w); let a ← gOf (fA w); let b ← gUpTo 21 (fB w)
  need (fSz w = 0 && fC w = 0 && fMod w = 0)
  return .lmap d a b

def decOalloc (w : Word) : Dec Instr := do
  let d ← gOf (fD w); let a ← gOf (fA w); let b ← gzOf (fB w); let c ← gzOf (fC w)
  need (fSz w = 0 && fMod w = 0)
  return .oalloc d a b c

def decObj (w : Word) : Dec Instr :=
  let ord (k : Bool → Instr) : Dec Instr :=
    match fld w 23 2 with | 0 => .ok (k false) | 1 => .ok (k true) | _ => .error .field
  match fFn w with
  | 0 => do
    let d ← gzOf (fD w); let a ← gOf (fA w); let b ← gzOf (fB w)
    need (fSz w = 0 && fC w = 0 && !fbit w 25)
    ord fun o => .objldw d a b o (fldB w 0 23)
  | 1 => do
    let v ← gzOf (fD w); let a ← gOf (fA w); let b ← gzOf (fB w)
    need (fSz w = 0 && fC w = 0 && !fbit w 25)
    ord fun o => .objstw v a b o (fldB w 0 23)
  | 2 => dGraph w .objtype
  | 3 => dGraph w .objlen
  | _ => .error .op

/-! ### The wide unit -/

/-- The second operand of a register form (R167, R19): S 0 names WB, S 1 a scalar register, S 2 the lane index. -/
def dOpnd (w : Word) : Dec WOpnd := do
  let g ← srcOf (fG w)
  match fS w with
  | 0 => do need (fG w = 0); return .reg (fWB w)
  | 1 => do need (fld w 40 4 = 0); return .bcast g
  | 2 => do need (fld w 40 4 = 0 && fG w = 0); return .lane
  | _ => .error .field

/-- The literal form needs S 1 and WB zero (R19, R167). -/
def dLitForm (w : Word) : Dec Unit := need (fS w = 1 && fld w 40 4 = 0)

/-- An elementwise integer member, register form (R170). -/
def dWI (w : Word) (k : Et → WReg → WReg → WOpnd → KReg → Bool → Instr) : Dec Instr := do
  let b ← dOpnd w
  let et ← etOf (fEt w)
  need (etInt et && fMod w = 0)
  return k et (fWD w) (fWA w) b (fK w) (fKZ w)

/-- Its literal form. -/
def dWIL (w : Word) (k : Et → WReg → WReg → BitVec 32 → KReg → Bool → Instr) : Dec Instr := do
  dLitForm w
  let et ← etOf (fEt w)
  need (etInt et)
  return k et (fWD w) (fWA w) (fLit w) (fK w) (fKZ w)

def decWint (w : Word) : Dec Instr :=
  match fFn w with
  | 0 => dWI w .waddReg | 1 => dWI w .wsubReg | 2 => dWI w .wmulReg | 3 => dWI w .wminReg | 4 => dWI w .wmaxReg
  | 5 => dWI w .wminuReg | 6 => dWI w .wmaxuReg | 7 => dWI w .wandReg | 8 => dWI w .worReg | 9 => dWI w .wxorReg
  | 10 => dWI w .wshlReg | 11 => dWI w .wshrReg | 12 => dWI w .wsarReg | 13 => dWI w .wfshlReg | 14 => dWI w .wfshrReg
  | _ => .error .op

def decWintL (w : Word) : Dec Instr :=
  match fFn w with
  | 0 => dWIL w .waddLit | 1 => dWIL w .wsubLit | 2 => dWIL w .wmulLit | 3 => dWIL w .wminLit | 4 => dWIL w .wmaxLit
  | 5 => dWIL w .wminuLit | 6 => dWIL w .wmaxuLit | 7 => dWIL w .wandLit | 8 => dWIL w .worLit | 9 => dWIL w .wxorLit
  | 10 => dWIL w .wshlLit | 11 => dWIL w .wshrLit | 12 => dWIL w .wsarLit | 13 => dWIL w .wfshlLit | 14 => dWIL w .wfshrLit
  | _ => .error .op

/-- An elementwise FP member of two operands (R171). -/
def dWF (w : Word) (k : Et → WReg → WReg → WOpnd → KReg → Bool → Rm → Instr) : Dec Instr := do
  let b ← dOpnd w
  let et ← etOf (fEt w)
  need (!etInt et && fld w 2 24 = 0)
  return k et (fWD w) (fWA w) b (fK w) (fKZ w) (rmOf (fld w 0 2))

def dWFL (w : Word) (k : Et → WReg → WReg → BitVec 32 → KReg → Bool → Instr) : Dec Instr := do
  dLitForm w
  let et ← etOf (fEt w)
  need (!etInt et)
  return k et (fWD w) (fWA w) (fLit w) (fK w) (fKZ w)

/-- An elementwise FP member of one operand. -/
def dWF1 (w : Word) (k : Et → WReg → WReg → KReg → Bool → Rm → Instr) : Dec Instr := do
  need (fS w = 0 && fld w 40 4 = 0 && fG w = 0)
  let et ← etOf (fEt w)
  need (!etInt et && fld w 2 24 = 0)
  return k et (fWD w) (fWA w) (fK w) (fKZ w) (rmOf (fld w 0 2))

def decWfp (w : Word) : Dec Instr :=
  match fFn w with
  | 0 => dWF w .wfaddReg | 1 => dWF w .wfsubReg | 2 => dWF w .wfmulReg | 3 => dWF w .wfmaReg | 4 => dWF w .wfminReg
  | 5 => dWF w .wfmaxReg | 6 => dWF1 w .wfabs | 7 => dWF1 w .wexp2 | 8 => dWF1 w .wrcp | 9 => dWF1 w .wrsq | 10 => dWF1 w .wlog2
  | _ => .error .op

def decWfpL (w : Word) : Dec Instr :=
  match fFn w with
  | 0 => dWFL w .wfaddLit | 1 => dWFL w .wfsubLit | 2 => dWFL w .wfmulLit | 3 => dWFL w .wfmaLit | 4 => dWFL w .wfminLit
  | 5 => dWFL w .wfmaxLit
  | _ => .error .op

def decWcmp (w : Word) : Dec Instr := do
  let b ← dOpnd w
  let et ← etOf (fEt w)
  need (fld w 50 2 = 0 && fld w 48 2 ≠ 0 && fld w 5 21 = 0 && wfCond et (fldB w 0 4))
  return .wcmp et (Fin.ofNat 4 (fld w 48 2)) (fWA w) b (fK w) (fKZ w) (fldB w 0 4) (fbit w 4)

def decWsel (w : Word) : Dec Instr := do
  let b ← dOpnd w
  let et ← etOf (fEt w)
  need (!fKZ w && fMod w = 0)
  return .wsel et (fWD w) (fWA w) b (fK w)

def decWcvt (w : Word) : Dec Instr := do
  need (fld w 40 4 = 0 && fld w 38 2 = 0 && !fKZ w && fS w = 0 && fG w = 0 && fld w 21 3 = 0 && fld w 13 3 = 0 && !fbit w 9 && !fbit w 5)
  need (fEt w = 0 || fEt w = 6)
  need (if fEt w = 6 then fld w 16 5 = 0 else fld w 24 2 = 0)
  need (wfFmt (fldB w 0 5) true false && (fEt w = 6 || wfFmt (fldB w 16 5) false false))
  need (wfPart (if fEt w = 6 then 256 else wfCap (fldB w 16 5)) (wfCap (fldB w 0 5)) (fldB w 10 3))
  return .wcvt (fWD w) (fWA w) (if fEt w = 6 then some (Fin.ofNat 4 (fld w 24 2)) else none) (fldB w 16 5) (fldB w 10 3) (fbit w 8)
    (rmOf (fld w 6 2)) (fldB w 0 5)

def decWred (w : Word) : Dec Instr := do
  let e ← eOf (fG w)
  let et ← etOf (fEt w)
  need (fld w 48 4 = 0 && fld w 40 4 = 0 && !fKZ w && fS w = 0 && fld w 4 22 = 0)
  need ((etInt et || fld w 0 3 ≤ 2) && (!fbit w 3 || fld w 0 3 = 0))
  return .wred et e (fWA w) (fK w) (fldB w 0 3) (fbit w 3)

def decWscan (w : Word) : Dec Instr := do
  let et ← etOf (fEt w)
  need (fld w 40 4 = 0 && fS w = 0 && fG w = 0 && fld w 5 21 = 0 && !fbit w 3)
  need (etInt et || fld w 0 3 ≤ 2)
  return .wscan et (fWD w) (fWA w) (fK w) (fKZ w) (fldB w 0 3) (fbit w 4)

def decWperm (w : Word) : Dec Instr :=
  match fFn w with
  | 0 => do
    let et ← etOf (fEt w)
    need (fS w = 0 && fG w = 0 && fMod w = 0)
    return .wperm et (fWD w) (fWA w) (fWB w) (fK w) (fKZ w)
  | 1 => do
    let g ← srcOf (fG w)
    let et ← etOf (fEt w)
    need (fS w = 1 && fMod w = 0)
    return .wslide et (fWD w) (fWA w) (fWB w) g (fK w) (fKZ w)
  | 2 => do
    let g ← srcOf (fG w)
    let et ← etOf (fEt w)
    need (fS w = 1 && fld w 40 4 = 0 && fMod w = 0)
    return .wbcast et (fWD w) (fWA w) g (fK w) (fKZ w)
  | 3 => do
    let et ← etOf (fEt w)
    need (fS w = 0 && fG w = 0 && fld w 1 25 = 0)
    return .wzip et (fWD w) (fWA w) (fWB w) (fK w) (fKZ w) (fbit w 0)
  | _ => .error .op

def decWmovs (w : Word) : Dec Instr :=
  if fbit w 0 then do
    let e ← eOf (fG w)
    let et ← etOf (fEt w)
    need (fS w = 0 && fld w 48 4 = 0 && fld w 40 4 = 0 && fld w 38 2 = 0 && !fKZ w && fld w 1 7 = 0 && fld w 17 9 = 0)
    need (fld w 8 8 < etN et)
    return .wmovsExtract et e (fWA w) (fldB w 8 8) (fbit w 16)
  else do
    let g ← srcOf (fG w)
    let et ← etOf (fEt w)
    need (fS w = 1 && fld w 44 4 = 0 && fld w 40 4 = 0 && fMod w = 0)
    return .wmovsInsert et (fWD w) g (fK w) (fKZ w)

def decWidx (w : Word) : Dec Instr := do
  let g ← srcOf (fG w)
  let et ← etOf (fEt w)
  need (fS w ≤ 1 && (fS w = 1 || fG w = 0) && fld w 44 4 = 0 && fld w 40 4 = 0 && fld w 16 10 = 0 && etInt et)
  return .widx et (fWD w) (if fS w = 1 then some g else none) (fK w) (fKZ w) (fldB w 0 16)

/-- KOP (R182). -/
def decKop (w : Word) : Dec Instr :=
  let kd : Fin 4 := Fin.ofNat 4 (fld w 48 2)
  let ka : Fin 4 := Fin.ofNat 4 (fld w 44 2)
  let kb : Fin 4 := Fin.ofNat 4 (fld w 40 2)
  let rest := fld w 50 2 = 0 && fld w 46 2 = 0 && fld w 42 2 = 0 && fld w 38 2 = 0 && !fKZ w && fEt w = 0 && fld w 4 22 = 0
  match fld w 0 4 with
  | 7 => do
    let e ← eOf (fG w)
    need (rest && fS w = 0 && fld w 48 2 = 0 && fld w 40 2 = 0)
    return .kop (.popc e ka)
  | 8 => do
    let e ← eOf (fG w)
    need (rest && fS w = 0 && fld w 48 2 = 0 && fld w 40 2 = 0)
    return .kop (.first e ka)
  | n => do
    let g ← srcOf (fG w)
    match n with
    | 4 => do need (rest && fS w = 0 && fG w = 0 && fld w 40 2 = 0 && kd ≠ 0); return .kop (.inv kd ka)
    | 5 => do need (rest && fS w = 0 && fG w = 0 && fld w 40 2 = 0 && kd ≠ 0); return .kop (.mov kd ka)
    | 6 => do need (rest && fS w = 1 && fld w 44 2 = 0 && fld w 40 2 = 0 && kd ≠ 0); return .kop (.set kd g)
    | n => do
      need (n < 4 && rest && fS w = 0 && fG w = 0 && kd ≠ 0)
      return .kop (.bin (Fin.ofNat 4 n) kd ka kb)

/-- The mode of a wide memory instruction (R183). -/
def dWMode (w : Word) : Dec Mode := modeOf (fbit w 23) (fld w 21 2)

def decWld (w : Word) : Dec Instr := do
  let g ← gOf (fG w)
  need (fEt w = 0 && fld w 44 4 = 0 && fld w 40 4 = 0 && fS w = 0 && fld w 24 2 = 0 && !fbit w 20)
  let m ← dWMode w
  return .wldReg (fWD w) g (fK w) (fKZ w) m (fldB w 0 20)

def decWldL (w : Word) : Dec Instr := do
  need (fEt w = 0 && fld w 44 4 = 0 && fld w 40 4 = 0 && fS w = 1)
  return .wldLit (fWD w) (fK w) (fKZ w) (fLit w)

def decWst (w : Word) : Dec Instr := do
  let g ← gOf (fG w)
  need (fEt w = 0 && fld w 48 4 = 0 && !fKZ w && fS w = 0 && fld w 24 2 = 0 && (fbit w 20 || fld w 40 4 = 0))
  let m ← dWMode w
  return .wstReg (fWA w) (if fbit w 20 then some (fWB w) else none) g (fK w) m (fldB w 0 20)

def decWstL (w : Word) : Dec Instr := do
  need (fEt w = 0 && fld w 48 4 = 0 && fld w 40 4 = 0 && !fKZ w && fS w = 1)
  return .wstLit (fWA w) (fK w) (fLit w)

def decWgath (w : Word) : Dec Instr := do
  let g ← gOf (fG w)
  let et ← etOf (fEt w)
  need ((et = .i32 || et = .f32) && fld w 40 4 = 0 && fS w = 0 && fld w 24 2 = 0 && fld w 0 18 = 0)
  let m ← dWMode w
  return .wgath et (fWD w) (fWA w) g (fK w) (fKZ w) m (fldB w 18 3)

def decWscat (w : Word) : Dec Instr := do
  let g ← gOf (fG w)
  let et ← etOf (fEt w)
  need ((et = .i32 || et = .f32) && fld w 48 4 = 0 && !fKZ w && fS w = 0 && fld w 24 2 = 0 && fld w 0 18 = 0)
  let m ← dWMode w
  return .wscat et (fWA w) (fWB w) g (fK w) m (fldB w 18 3)

def decWldf (w : Word) : Dec Instr := do
  let g ← gOf (fG w)
  let et ← etOf (fEt w)
  need (et ≠ .i16 && fld w 44 4 = 0 && fld w 40 4 = 0 && fS w = 0 && fld w 24 2 = 0 && !fbit w 20)
  let m ← dWMode w
  return .wldf et (fWD w) g (fK w) (fKZ w) m (fldB w 0 20)

def decSealst (w : Word) : Dec Instr := do
  let g ← gOf (fG w)
  need (fld w 48 4 = 0 && fld w 40 4 = 0 && fld w 38 2 = 0 && !fKZ w && fEt w = 0 && fS w = 0 && fld w 24 2 = 0 && !fbit w 20)
  let m ← dWMode w
  return .sealst (fWA w) g m (fldB w 0 20)

def decSpill (w : Word) : Dec Instr :=
  match fFn w with
  | 0 => do
    need (fld w 48 4 = 0 && fld w 26 18 = 0 && fld w 4 22 = 0)
    return .wspill (fWA w) (Fin.ofNat 16 (fld w 0 4))
  | 1 => do
    need (fld w 44 4 = 0 && fld w 26 18 = 0 && fld w 4 22 = 0)
    return .wfill (fWD w) (Fin.ofNat 16 (fld w 0 4))
  | _ => .error .op

def decDtld (w : Word) : Dec Instr := do
  let g ← srcOf (fG w)
  need (fld w 50 2 = 0 && fld w 32 16 = 0 && fld w 24 2 = 0 && fld w 0 19 = 0)
  return .dtld (Fin.ofNat 4 (fld w 48 2)) g (fbit w 23) (if fbit w 22 then some (Fin.ofNat 8 (fld w 19 3)) else none)

/-! ### The matrix unit, engines, furled binding, system -/

/-- The bits of the X format that no instruction uses (R20). -/
def xRes (w : Word) : Bool := fld w 48 2 = 0 && fld w 32 2 = 0

def decMctx (w : Word) : Dec Instr := do
  let a ← gOf (fXA w)
  if fld w 0 32 = 0 then do
    need (xRes w && fld w 50 2 = 0 && fXB w = 0 && fSP w = 0)
    return .mctx (.reg a)
  else do
    need (xRes w && fld w 50 2 = 0 && fXA w = 0 && fXB w = 0 && fSP w = 0)
    return .mctx (.lit (fLit w))

def decMldb (w : Word) : Dec Instr := do
  let a ← gzOf (fXA w); let b ← gzOf (fXB w)
  need (xRes w && fld w 50 2 = 0 && fSP w ≤ 1 && fld w 0 32 = 0)
  return .mldb a b (fbit w 34)

def decMrot (w : Word) : Dec Instr := do
  need (xRes w && fld w 50 2 = 0 && fXA w = 0 && fXB w = 0 && fSP w = 0 && fld w 0 32 ≤ 4)
  return .mrot (fldB w 0 3)

/-- MMA and MREC (R202, R206). -/
def dMma (w : Word) (k : Fin 4 → GReg → GZ → Bool → Instr) : Dec Instr := do
  let a ← gOf (fXA w); let b ← gzOf (fXB w)
  need (xRes w && fSP w = 0 && fld w 1 31 = 0)
  return k (fXC w) a b (fbit w 0)

def decMprog (w : Word) : Dec Instr := do
  let a ← gOf (fXA w)
  need (xRes w && fld w 50 2 = 0 && fXB w = 0 && fSP w = 0 && fld w 0 32 = 0)
  return .mprog a

def decMacc (w : Word) : Dec Instr :=
  let bare (k : Fin 4 → Instr) : Dec Instr := do
    need (xRes w && fXA w = 0 && fXB w = 0 && fSP w = 0 && fld w 0 32 = 0)
    return k (fXC w)
  match fFn w with
  | 0 => bare .mzero
  | 1 => do
    let a ← gOf (fXA w); let b ← gzOf (fXB w)
    need (xRes w && fSP w ≤ 1 && fld w 0 32 = 0)
    return .mload (fXC w) a b (fbit w 34)
  | 2 => do
    let a ← gOf (fXA w); let b ← gzOf (fXB w)
    need (xRes w && fSP w ≤ 1 && fld w 5 27 = 0 && wfFmt (fldB w 0 5) true false)
    return .mstore (fXC w) a b (fbit w 34) (fldB w 0 5)
  | 3 => do
    need (xRes w && fXA w = 0 && fXB w = 0 && fSP w = 0 && fld w 8 24 = 0)
    return .mtowide (fXC w) (Fin.ofNat 16 (fld w 0 4)) (Fin.ofNat 16 (fld w 4 4))
  | 4 => bare .mclaim
  | 5 => bare .mrelease
  | _ => .error .op

def decMwait (w : Word) : Dec Instr := do
  need (xRes w && fXA w = 0 && fXB w = 0 && fSP w = 0 && fld w 1 31 = 0 && (fbit w 0 || fld w 50 2 = 0))
  return .mwait (if fbit w 0 then some (fXC w) else none)

def decEpush (w : Word) : Dec Instr :=
  if h : fA w < 17 then do
    need (fD w = 0 && fB w = 0 && fSz w = 0 && fC w = 0 && fld w 6 20 = 0)
    return .epush ⟨fA w, h⟩ (fldB w 0 6)
  else .error .reg

def decEpop (w : Word) : Dec Instr := do
  let d ← popOf (fD w)
  need (fA w = 0 && fB w = 0 && fSz w = 0 && fC w = 0 && fld w 6 20 = 0)
  return .epop d (fldB w 0 6)

def decEstat (w : Word) : Dec Instr := do
  let d ← gzOf (fD w)
  need (fA w = 0 && fB w = 0 && fSz w = 0 && fC w = 0 && fld w 6 20 = 0)
  return .estat d (fldB w 0 6)

def decFbind (w : Word) : Dec Instr := do
  let a ← gOf (fA w); let b ← gOf (fB w); let c ← gOf (fC w)
  need (fD w = 0 && fSz w = 0 && fld w 2 24 = 0)
  match fld w 0 2 with
  | 0 => do need (fB w = 0 && fC w = 0); return .fbind a
  | 1 => return .fbindRange a b c
  | 2 => do need (fB w = 0 && fC w = 0); return .fbindDrop a
  | _ => .error .field

def decTrap (w : Word) : Dec Instr := do
  need (fD w = 0 && fA w = 0 && fB w = 0 && fSz w = 0 && fld w 8 24 = 0)
  return .trap (fldB w 0 8)

def decUpret (w : Word) : Dec Instr := do
  need (fD w = 0 && fA w = 0 && fB w = 0 && fSz w = 0 && fld w 2 6 = 0)
  match fld w 0 2 with
  | 0 => return .upretResume (fldB w 8 24)
  | 1 => do need (fld w 8 24 = 0); return .upretDetach
  | 2 => do need (fld w 8 24 = 0); return .upretAbandon
  | _ => .error .field

def decSrd (w : Word) : Dec Instr := do
  let d ← gzOf (fD w)
  need (fA w = 0 && fB w = 0 && fSz w = 0 && fld w 12 20 = 0)
  return .srd d (fldB w 0 12)

def decSwr (w : Word) : Dec Instr := do
  let a ← gzOf (fA w)
  need (fD w = 0 && fB w = 0 && fSz w = 0 && fld w 12 20 = 0)
  return .swr (fldB w 0 12) a

def decHresume (w : Word) : Dec Instr := do
  let d ← gzOf (fD w); let a ← gOf (fA w)
  need (fB w = 0 && fSz w = 0 && fld w 1 31 = 0)
  return .hresume d a (fbit w 0)

def decSwin (w : Word) : Dec Instr := do
  let d ← gOf (fD w); let a ← gOf (fA w)
  need (fB w = 0 && fSz w = 0 && fld w 12 19 = 0)
  return .swin d a (fbit w 31) (fldB w 0 12)

def decTlb (w : Word) : Dec Instr :=
  match fFn w with
  | 0 => do
    let a ← gOf (fA w); let b ← gOf (fB w); let c ← gOf (fC w)
    need (fD w = 0 && fSz w = 0 && fMod w = 0)
    return .tlbw a b c
  | 1 => do
    let a ← gOf (fA w); let b ← gOf (fB w)
    need (fD w = 0 && fSz w = 0 && fC w = 0 && fMod w = 0)
    return .tlbi a b
  | _ => .error .op

def decIdle (w : Word) : Dec Instr :=
  match fFn w with
  | 0 => do
    let d ← gzOf (fD w)
    need (fA w = 0 && fB w = 0 && fSz w = 0)
    return .idle d (fLit w)
  | 1 => do
    let d ← gOf (fD w); let a ← gOf (fA w)
    need (fB w = 0 && fSz w = 0 && fld w 4 28 = 0 && fld w 0 4 ≤ 5)
    return .dbg d a (fldB w 0 4)
  | 2 => do
    need (fD w = 0 && fA w = 0 && fB w = 0 && fSz w = 0)
    return .wdog (fLit w)
  | _ => .error .op

/-- A group whose only function is 0. -/
def fn0 (w : Word) (k : Dec Instr) : Dec Instr := if fFn w = 0 then k else .error .op

/-- Decoding of a word (R25 to R27). The fields that an opcode and function use are checked whatever the modifier makes of them. -/
def decodeWord (w : Word) : Dec Instr :=
  match fOp w with
  | 0x02 => decArith w | 0x03 => decArithL w | 0x04 => decLogic w | 0x05 => decLogicL w | 0x06 => decCmp w | 0x07 => decCmpL w
  | 0x08 => decBits w
  | 0x09 => fn0 w do
    let d ← dstOf (fD w); let a ← srcOf (fA w)
    need (fB w = 0 && fSz w = 0)
    return .movh d a (fLit w)
  | 0x10 => decFp w | 0x11 => decFpL w
  | 0x12 => fn0 w (decFcvt w)
  | 0x20 => decBranch w
  | 0x22 => fn0 w do
    need (fD w = 0 && fA w = 0 && fB w = 0 && fSz w = 0)
    return .call (fLit w)
  | 0x24 => fn0 w do
    let a ← srcOf (fA w)
    need (fD w = 0 && fB w = 0 && fSz w = 0 && fC w = 0 && fld w 1 25 = 0)
    return .jmp a (fbit w 0)
  | 0x26 => fn0 w do
    let d ← gOf (fD w)
    need (fA w = 0 && fB w = 0 && fSz w = 0)
    return .loop d (fLit w)
  | 0x28 =>
    let z := fld w 0 52 = 0
    match fFn w with
    | 0 => do need z; return .tend
    | 1 => do need z; return .tyield
    | _ => .error .op
  | 0x30 => fn0 w (decLd w) | 0x31 => fn0 w (decLdL w) | 0x32 => fn0 w (decSt w) | 0x33 => fn0 w (decStL w)
  | 0x34 => decNib w | 0x35 => decNibL w
  | 0x36 => fn0 w (decPf w) | 0x37 => fn0 w (decPfL w) | 0x3A => fn0 w (decFence w) | 0x3C => fn0 w (decWaita w)
  | 0x40 => decScfg w | 0x41 => decScfgL w | 0x42 => decSctl w | 0x44 => fn0 w (decSstat w)
  | 0x50 => fn0 w (decSend w) | 0x52 => fn0 w (decSendw w) | 0x54 => decRat w | 0x55 => decRatL w
  | 0x56 => fn0 w (decQenq w) | 0x58 => fn0 w (decQdeq w) | 0x5A => decCtr w | 0x5C => fn0 w (decWtset w)
  | 0x60 => fn0 w (dSpawn w .tspawn) | 0x66 => fn0 w (decMaskw w) | 0x68 => decBar w | 0x6A => fn0 w (decFrz w) | 0x6C => decFut w
  | 0x6E => fn0 w (dSpawn w .tcont)
  | 0x70 => fn0 w (dGraph w .gcopy) | 0x72 => fn0 w (decGsend w) | 0x74 => fn0 w (dGraph w .gcmp) | 0x76 => fn0 w (dGraph w .ghash)
  | 0x78 => fn0 w (dGraph w .gfree) | 0x7A => fn0 w (decLmap w) | 0x7C => fn0 w (decOalloc w) | 0x7E => decObj w
  | 0x80 => decWint w | 0x81 => decWintL w | 0x82 => decWfp w | 0x83 => decWfpL w
  | 0x84 => fn0 w (decWcmp w) | 0x86 => fn0 w (decWsel w) | 0x88 => fn0 w (decWcvt w) | 0x8A => fn0 w (decWred w)
  | 0x8C => fn0 w (decWscan w) | 0x8E => decWperm w | 0x90 => fn0 w (decWmovs w) | 0x92 => fn0 w (decWidx w)
  | 0x94 => fn0 w (decKop w)
  | 0xA0 => fn0 w (decWld w) | 0xA1 => fn0 w (decWldL w) | 0xA2 => fn0 w (decWst w) | 0xA3 => fn0 w (decWstL w)
  | 0xA4 => fn0 w (decWgath w) | 0xA6 => fn0 w (decWscat w) | 0xA8 => fn0 w (decWldf w) | 0xAA => fn0 w (decSealst w)
  | 0xAC => decSpill w | 0xAE => fn0 w (decDtld w)
  | 0xB0 => fn0 w (decMctx w) | 0xB2 => fn0 w (decMldb w) | 0xB4 => fn0 w (decMrot w) | 0xB6 => fn0 w (dMma w .mma)
  | 0xB8 => fn0 w (dMma w .mrec) | 0xBA => fn0 w (decMprog w) | 0xBC => decMacc w | 0xBE => fn0 w (decMwait w)
  | 0xC0 => fn0 w (decEpush w) | 0xC2 => fn0 w (decEpop w) | 0xC4 => fn0 w (decEstat w) | 0xC6 => fn0 w (decFbind w)
  | 0xD0 => fn0 w (decTrap w) | 0xD2 => fn0 w (decUpret w) | 0xD4 => fn0 w (decSrd w) | 0xD6 => fn0 w (decSwr w)
  | 0xD8 => fn0 w (decHresume w) | 0xDA => fn0 w (decSwin w) | 0xDC => decTlb w | 0xDE => decIdle w
  | _ => .error .op

/-- What the core does with a word it fetched: its instruction, or the row ILLEGAL_WORD (R27). -/
def fetchDecode (w : Word) : Instr :=
  match decodeWord w with
  | .ok i => i
  | .error e => .illegalWord e w

/-- The instruction the decoder reads from an instruction of `nbits` bits, all of this machine's being 64-bit words. -/
def decodeTableWord (nbits w : Nat) : Option Instr := some (fetchDecode (BitVec.ofNat 64 (w % 2 ^ nbits)))

/-! ### Encoding: the words of the five formats (R17 to R21), then one case per instruction -/

/-- An R-format word (R17). -/
def packR (op fn d a b sz c mod : Nat) : Word :=
  word (op * 2 ^ 56 + fn * 2 ^ 52 + d * 2 ^ 46 + a * 2 ^ 40 + b * 2 ^ 34 + sz * 2 ^ 32 + c * 2 ^ 26 + mod)

/-- An L- or S-format word (R18, R21). -/
def packL (op fn d a c sz : Nat) (lit : Nat) : Word :=
  word (op * 2 ^ 56 + fn * 2 ^ 52 + d * 2 ^ 46 + a * 2 ^ 40 + c * 2 ^ 34 + sz * 2 ^ 32 + lit)

/-- A W-format word, register form (R19). -/
def packW (op fn wd wa wb k : Nat) (kz : Bool) (et s g mod : Nat) : Word :=
  word (op * 2 ^ 56 + fn * 2 ^ 52 + wd * 2 ^ 48 + wa * 2 ^ 44 + wb * 2 ^ 40 + k * 2 ^ 38 + kz.toNat * 2 ^ 37 + et * 2 ^ 34 +
    s * 2 ^ 32 + g * 2 ^ 26 + mod)

/-- A W-format word, literal form: S is 1 and WB zero. -/
def packWL (op fn wd wa k : Nat) (kz : Bool) (et lit : Nat) : Word :=
  word (op * 2 ^ 56 + fn * 2 ^ 52 + wd * 2 ^ 48 + wa * 2 ^ 44 + k * 2 ^ 38 + kz.toNat * 2 ^ 37 + et * 2 ^ 34 + 2 ^ 32 + lit)

/-- An X-format word (R20). -/
def packX (op fn c a b sp lit : Nat) : Word :=
  word (op * 2 ^ 56 + fn * 2 ^ 52 + c * 2 ^ 50 + a * 2 ^ 42 + b * 2 ^ 36 + sp * 2 ^ 34 + lit)

/-- Specifiers (R11). -/
def Src.code : Src → Nat
  | .g r => r.val | .e r => 24 + r.val | .d r => 32 + r.val | .zr => 36 | .ix => 37 | .nix => 38 | .rank => 39 | .rlen => 40
  | .src => 41 | .clk => 42
def Dst.code : Dst → Nat
  | .g r => r.val | .d r => 32 + r.val | .zr => 36
def GZ.code : GZ → Nat
  | .g r => r.val | .zr => 36
def RDst.code : RDst → Nat
  | .g r => r.val | .e r => 24 + r.val | .zr => 36
def PopDst.code : PopDst → Nat
  | .g r => r.val | .zr => 36 | .e n => 24 + 2 * n.val
/-- The codes of the small fields. -/
def Sz.code : Sz → Nat
  | .d => 0 | .w => 1 | .h => 2 | .b => 3
def FSz.code : FSz → Nat
  | .f64 => 0 | .f32 => 1
def Rm.code : Rm → Nat
  | .rne => 0 | .rtz => 1 | .sr => 2 | .rna => 3
def Et.code : Et → Nat
  | .i8 => 0 | .i16 => 1 | .i32 => 2 | .f32 => 3 | .bf16 => 4 | .f16 => 5
def Scope.code : Scope → Nat
  | .core => 0 | .quad => 1 | .die => 2 | .pkg => 3 | .pod => 4 | .sys => 5
def FenceKind.code : FenceKind → Nat
  | .full => 0 | .acq => 1 | .rel => 2
/-- SPC and ORD of a register form (bits 25 to 23), and of a literal form's C field (bits 39 to 37 of the word). -/
def Mode.modR (m : Mode) : Nat := m.spc.toNat * 2 ^ 25 + m.ord.toNat * 2 ^ 23
def Mode.cL (m : Mode) : Nat := m.spc.toNat * 32 + m.ord.toNat * 8
/-- SPC and ORD of a wide memory instruction (bits 23 to 21). -/
def Mode.modW (m : Mode) : Nat := m.spc.toNat * 2 ^ 23 + m.ord.toNat * 2 ^ 21
def optG : Option GReg → Nat
  | some r => r.val
  | none => 0

/-- Words shared by the members of a group. -/
def eR3 (op fn : Nat) (sz : Sz) (d : Dst) (a b : Src) : Word := packR op fn d.code a.code b.code sz.code 0 0
def eL2 (op fn : Nat) (sz : Sz) (d : Dst) (a : Src) (imm : BitVec 32) : Word := packL op fn d.code a.code 0 sz.code imm.toNat
def eBit (fn : Nat) (sz : Sz) (d : Dst) (a b : Nat) (mod : Nat) : Word := packR 0x08 fn d.code a b sz.code 0 mod
def eFp (fn : Nat) (f : FSz) (d : Dst) (a b c mod : Nat) : Word := packR 0x10 fn d.code a b f.code c mod
def eFpL (fn : Nat) (f : FSz) (d : Dst) (a : Src) (c : Nat) (imm : BitVec 32) : Word :=
  packL 0x11 fn d.code a.code c f.code imm.toNat
def eBr (fn : Nat) (sz : Sz) (a c : Src) (off : BitVec 32) : Word := packL 0x20 fn 0 a.code c.code sz.code off.toNat
def eRat (fn : Nat) (f : FSz) (d : RDst) (a : GReg) (b : Src) (c : Nat) (m : Mode) : Word :=
  packR 0x54 fn d.code a.val b.code f.code c m.modR
def eRatL (fn : Nat) (f : FSz) (d : RDst) (a : GReg) (imm : BitVec 32) (m : Mode) : Word :=
  packL 0x55 fn d.code a.val m.cL f.code imm.toNat
/-- WB, S and G of a second wide operand. -/
def WOpnd.wb : WOpnd → Nat
  | .reg r => r.val
  | _ => 0
def WOpnd.s : WOpnd → Nat
  | .reg _ => 0 | .bcast _ => 1 | .lane => 2
def WOpnd.gf : WOpnd → Nat
  | .bcast g => g.code
  | _ => 0
def eW (op fn : Nat) (et : Et) (wd wa : WReg) (b : WOpnd) (k : KReg) (kz : Bool) (mod : Nat) : Word :=
  packW op fn wd.val wa.val b.wb k.val kz et.code b.s b.gf mod
def eWL (op fn : Nat) (et : Et) (wd wa : WReg) (imm : BitVec 32) (k : KReg) (kz : Bool) : Word :=
  packWL op fn wd.val wa.val k.val kz et.code imm.toNat

/-- The word of an instruction; a step of a unit has none and gives the zero word. -/
def encode : Instr → Word
  | .addReg sz d a b => eR3 0x02 0 sz d a b
  | .addLit sz d a imm => eL2 0x03 0 sz d a imm
  | .subReg sz d a b => eR3 0x02 1 sz d a b
  | .subLit sz d a imm => eL2 0x03 1 sz d a imm
  | .mulReg sz d a b => eR3 0x02 2 sz d a b
  | .mulLit sz d a imm => eL2 0x03 2 sz d a imm
  | .mulhReg sz d a b => eR3 0x02 3 sz d a b
  | .mulhLit sz d a imm => eL2 0x03 3 sz d a imm
  | .mulhuReg sz d a b => eR3 0x02 4 sz d a b
  | .mulhuLit sz d a imm => eL2 0x03 4 sz d a imm
  | .divReg sz d a b => eR3 0x02 5 sz d a b
  | .divLit sz d a imm => eL2 0x03 5 sz d a imm
  | .divuReg sz d a b => eR3 0x02 6 sz d a b
  | .divuLit sz d a imm => eL2 0x03 6 sz d a imm
  | .remReg sz d a b => eR3 0x02 7 sz d a b
  | .remLit sz d a imm => eL2 0x03 7 sz d a imm
  | .remuReg sz d a b => eR3 0x02 8 sz d a b
  | .remuLit sz d a imm => eL2 0x03 8 sz d a imm
  | .minReg sz d a b => eR3 0x02 9 sz d a b
  | .minLit sz d a imm => eL2 0x03 9 sz d a imm
  | .maxReg sz d a b => eR3 0x02 10 sz d a b
  | .maxLit sz d a imm => eL2 0x03 10 sz d a imm
  | .minuReg sz d a b => eR3 0x02 11 sz d a b
  | .minuLit sz d a imm => eL2 0x03 11 sz d a imm
  | .maxuReg sz d a b => eR3 0x02 12 sz d a b
  | .maxuLit sz d a imm => eL2 0x03 12 sz d a imm
  | .leaReg sz d a b c => packR 0x02 13 d.code a.code b.code sz.code c.toNat 0
  | .leaLit sz d a c imm => packL 0x03 13 d.code a.code c.toNat sz.code imm.toNat
  | .andReg sz d a b => eR3 0x04 0 sz d a b
  | .andLit sz d a imm => eL2 0x05 0 sz d a imm
  | .orReg sz d a b => eR3 0x04 1 sz d a b
  | .orLit sz d a imm => eL2 0x05 1 sz d a imm
  | .xorReg sz d a b => eR3 0x04 2 sz d a b
  | .xorLit sz d a imm => eL2 0x05 2 sz d a imm
  | .andnReg sz d a b => eR3 0x04 3 sz d a b
  | .andnLit sz d a imm => eL2 0x05 3 sz d a imm
  | .ornReg sz d a b => eR3 0x04 4 sz d a b
  | .ornLit sz d a imm => eL2 0x05 4 sz d a imm
  | .shlReg sz d a b => eR3 0x04 5 sz d a b
  | .shlLit sz d a imm => eL2 0x05 5 sz d a imm
  | .shrReg sz d a b => eR3 0x04 6 sz d a b
  | .shrLit sz d a imm => eL2 0x05 6 sz d a imm
  | .sarReg sz d a b => eR3 0x04 7 sz d a b
  | .sarLit sz d a imm => eL2 0x05 7 sz d a imm
  | .rolReg sz d a b => eR3 0x04 8 sz d a b
  | .rolLit sz d a imm => eL2 0x05 8 sz d a imm
  | .rorReg sz d a b => eR3 0x04 9 sz d a b
  | .rorLit sz d a imm => eL2 0x05 9 sz d a imm
  | .fshlReg sz d a b c => packR 0x04 10 d.code a.code b.code sz.code c.code 0
  | .fshlLit sz d a imm c => packL 0x05 10 d.code a.code c.code sz.code imm.toNat
  | .fshrReg sz d a b c => packR 0x04 11 d.code a.code b.code sz.code c.code 0
  | .fshrLit sz d a imm c => packL 0x05 11 d.code a.code c.code sz.code imm.toNat
  | .seqReg sz d a b => eR3 0x06 0 sz d a b
  | .seqLit sz d a imm => eL2 0x07 0 sz d a imm
  | .sneReg sz d a b => eR3 0x06 1 sz d a b
  | .sneLit sz d a imm => eL2 0x07 1 sz d a imm
  | .sltReg sz d a b => eR3 0x06 2 sz d a b
  | .sltLit sz d a imm => eL2 0x07 2 sz d a imm
  | .sltuReg sz d a b => eR3 0x06 3 sz d a b
  | .sltuLit sz d a imm => eL2 0x07 3 sz d a imm
  | .sleReg sz d a b => eR3 0x06 4 sz d a b
  | .sleLit sz d a imm => eL2 0x07 4 sz d a imm
  | .sleuReg sz d a b => eR3 0x06 5 sz d a b
  | .sleuLit sz d a imm => eL2 0x07 5 sz d a imm
  | .selReg sz d a b c => packR 0x06 6 d.code a.code b.code sz.code c.code 0
  | .selLit sz d a imm c => packL 0x07 6 d.code a.code c.code sz.code imm.toNat
  | .clz sz d a => eBit 0 sz d a.code 0 0
  | .ctz sz d a => eBit 1 sz d a.code 0 0
  | .popc sz d a => eBit 2 sz d a.code 0 0
  | .brev sz d a => eBit 3 sz d a.code 0 0
  | .bswap sz d a => eBit 4 sz d a.code 0 0
  | .exts sz d a p l => eBit 5 sz d a.code 0 (p.toNat * 64 + l.toNat)
  | .extu sz d a p l => eBit 6 sz d a.code 0 (p.toNat * 64 + l.toNat)
  | .ins sz d a b p l => eBit 7 sz d a.code b.code (p.toNat * 64 + l.toNat)
  | .sext sz d a => eBit 8 sz d a.code 0 0
  | .movh d a imm => packL 0x09 0 d.code a.code 0 0 imm.toNat
  | .faddReg f d a b rm => eFp 0 f d a.code b.code 0 rm.code
  | .faddLit f d a imm => eFpL 0 f d a 0 imm
  | .fsubReg f d a b rm => eFp 1 f d a.code b.code 0 rm.code
  | .fsubLit f d a imm => eFpL 1 f d a 0 imm
  | .fmulReg f d a b rm => eFp 2 f d a.code b.code 0 rm.code
  | .fmulLit f d a imm => eFpL 2 f d a 0 imm
  | .fdivReg f d a b rm => eFp 3 f d a.code b.code 0 rm.code
  | .fdivLit f d a imm => eFpL 3 f d a 0 imm
  | .fsqrt f d a rm => eFp 4 f d a.code 0 0 rm.code
  | .fmaReg f d a b c rm => eFp 5 f d a.code b.code c.code rm.code
  | .fmaLit f d a imm c => eFpL 5 f d a c.code imm
  | .fminReg f d a b => eFp 6 f d a.code b.code 0 0
  | .fminLit f d a imm => eFpL 6 f d a 0 imm
  | .fmaxReg f d a b => eFp 7 f d a.code b.code 0 0
  | .fmaxLit f d a imm => eFpL 7 f d a 0 imm
  | .feqReg f d a b => eFp 9 f d a.code b.code 0 0
  | .feqLit f d a imm => eFpL 9 f d a 0 imm
  | .fltReg f d a b => eFp 10 f d a.code b.code 0 0
  | .fltLit f d a imm => eFpL 10 f d a 0 imm
  | .fleReg f d a b => eFp 11 f d a.code b.code 0 0
  | .fleLit f d a imm => eFpL 11 f d a 0 imm
  | .fsgnjReg f d a b sg => eFp 8 f d a.code b.code 0 (sg.toNat * 4)
  | .fsgnjLit f d a imm sg => eFpL 8 f d a sg.toNat imm
  | .fclass f d a => eFp 12 f d a.code 0 0 0
  | .fcvt d a di si sat rm sf df => packR 0x12 0 d.code a.code 0 0 0 (di.toNat * 2 ^ 18 + si.toNat * 2 ^ 16 + sat.toNat * 2 ^ 15 + rm.code * 2 ^ 13 + sf.toNat * 2 ^ 5 + df.toNat)
  | .beq sz a c off => eBr 0 sz a c off
  | .bne sz a c off => eBr 1 sz a c off
  | .blt sz a c off => eBr 2 sz a c off
  | .bge sz a c off => eBr 3 sz a c off
  | .bltu sz a c off => eBr 4 sz a c off
  | .bgeu sz a c off => eBr 5 sz a c off
  | .b off => packL 0x20 6 0 0 0 0 off.toNat
  | .call off => packL 0x22 0 0 0 0 0 off.toNat
  | .jmp a link => packR 0x24 0 0 a.code 0 0 0 link.toNat
  | .loop d off => packL 0x26 0 d.val 0 0 0 off.toNat
  | .tend => packR 0x28 0 0 0 0 0 0 0
  | .tyield => packR 0x28 1 0 0 0 0 0 0
  | .ldReg sz d a b m scl sx => packR 0x30 0 d.code a.code b.code sz.code 0 (m.modR + scl.toNat * 2 ^ 20 + sx.toNat * 2 ^ 19)
  | .ldLit sz d a m sx off => packL 0x31 0 d.code a.code (m.cL + sx.toNat * 4) sz.code off.toNat
  | .stReg sz v a b m scl => packR 0x32 0 v.code a.code b.code sz.code 0 (m.modR + scl.toNat * 2 ^ 20)
  | .stLit sz v a m off => packL 0x33 0 v.code a.code m.cL sz.code off.toNat
  | .ldnReg d a b m sx => packR 0x34 0 d.code a.code b.code 0 0 (m.modR + sx.toNat * 2 ^ 19)
  | .ldnLit d a m sx idx => packL 0x35 0 d.code a.code (m.cL + sx.toNat * 4) 0 idx.toNat
  | .stnReg v a b m => packR 0x34 1 v.code a.code b.code 0 0 m.modR
  | .stnLit v a m idx => packL 0x35 1 v.code a.code m.cL 0 idx.toNat
  | .pfReg a b spc scl => packR 0x36 0 0 a.code b.code 0 0 (spc.toNat * 2 ^ 25 + scl.toNat * 2 ^ 20)
  | .pfLit a spc off => packL 0x37 0 0 a.code (spc.toNat * 32) 0 off.toNat
  | .fence k sc => packR 0x3A 0 0 0 0 0 0 (k.code * 8 + sc.code)
  | .waita sz d a bb c m => packR 0x3C 0 d.code a.code bb.code sz.code c.code m.modR
  | .scfgFillReg sz a spc sx st => packR 0x40 0 0 a.val 0 sz.code 0 (spc.toNat * 2 ^ 25 + sx.toNat * 2 ^ 19 + st.val)
  | .scfgFillLit sz a spc sx st n0 => packL 0x41 0 0 a.val (spc.toNat * 32 + sx.toNat * 4 + st.val) sz.code n0.toNat
  | .scfgDrainReg sz a spc st => packR 0x40 1 0 a.val 0 sz.code 0 (spc.toNat * 2 ^ 25 + st.val)
  | .scfgDrainLit sz a spc st n0 => packL 0x41 1 0 a.val (spc.toNat * 32 + st.val) sz.code n0.toNat
  | .sctlEnd st => packR 0x42 0 0 0 0 0 0 st.val
  | .sctlFlush st => packR 0x42 1 0 0 0 0 0 st.val
  | .sstat d st => packR 0x44 0 d.code 0 0 0 0 st.val
  | .send a bb rel hc nw hn => packR 0x50 0 0 a.code bb.val 0 0 (rel.toNat * 2 ^ 14 + hc.toNat * 2 ^ 13 + nw.toNat * 2 ^ 10 + hn.toNat)
  | .sendw a bb c nw ce cn => packR 0x52 0 0 a.code bb.val 0 c.code (nw.toNat + ce.toNat * 8 + cn.toNat * 16)
  | .rataddReg f d a bb m => eRat 0 f d a bb 0 m
  | .rataddLit f d a imm m => eRatL 0 f d a imm m
  | .ratfaddReg f d a bb m => eRat 1 f d a bb 0 m
  | .ratfaddLit f d a imm m => eRatL 1 f d a imm m
  | .ratfaddsReg f d a bb m => eRat 2 f d a bb 0 m
  | .ratfaddsLit f d a imm m => eRatL 2 f d a imm m
  | .ratmaxReg f d a bb m => eRat 3 f d a bb 0 m
  | .ratmaxLit f d a imm m => eRatL 3 f d a imm m
  | .ratminReg f d a bb m => eRat 4 f d a bb 0 m
  | .ratminLit f d a imm m => eRatL 4 f d a imm m
  | .ratswpReg f d a bb m => eRat 5 f d a bb 0 m
  | .ratswpLit f d a imm m => eRatL 5 f d a imm m
  | .ratandReg f d a bb m => eRat 7 f d a bb 0 m
  | .ratandLit f d a imm m => eRatL 7 f d a imm m
  | .ratorReg f d a bb m => eRat 8 f d a bb 0 m
  | .ratorLit f d a imm m => eRatL 8 f d a imm m
  | .ratxorReg f d a bb m => eRat 9 f d a bb 0 m
  | .ratxorLit f d a imm m => eRatL 9 f d a imm m
  | .ratcas f d a bb c m => eRat 6 f d a bb c.val m
  | .qenq d a bb m nw => packR 0x56 0 d.code a.val bb.val 0 0 (m.modR + nw.toNat)
  | .qdeq d a m nw => packR 0x58 0 d.val a.val 0 0 0 (m.modR + nw.toNat)
  | .ctrset a bb cn => packR 0x5A 0 0 a.code bb.code 0 0 cn.toNat
  | .ctradd d a bb cn => packR 0x5A 1 d.code a.code bb.code 0 0 cn.toNat
  | .ctrrd d bb cn => packR 0x5A 2 d.val 0 bb.code 0 0 cn.toNat
  | .wtset d a bb c ge cn => packR 0x5C 0 d.code a.code bb.val 0 c.code (ge.toNat * 64 + cn.toNat)
  | .wtclr d a => packR 0x5C 0 d.code a.val 0 0 0 128
  | .tspawn a bb rel => packR 0x60 0 0 a.val bb.code 0 0 rel.toNat
  | .tcont a bb rel => packR 0x6E 0 0 a.val bb.code 0 0 rel.toNat
  | .maskw n => packL 0x66 0 0 0 0 0 n.toNat
  | .bararrive d bb sc => packR 0x68 0 d.code 0 (optG bb) 0 0 sc.code
  | .barwait d bb sc => packR 0x68 1 d.code 0 bb.val 0 0 sc.code
  | .barsync d bb sc => packR 0x68 2 d.code 0 (optG bb) 0 0 sc.code
  | .bararriveMem d a spc sc => packR 0x68 0 d.code a.val 0 0 0 (spc.toNat * 2 ^ 25 + 16 + sc.code)
  | .barwaitMem d a bb spc sc => packR 0x68 1 d.code a.val bb.val 0 0 (spc.toNat * 2 ^ 25 + 16 + sc.code)
  | .barsyncMem d a spc sc => packR 0x68 2 d.code a.val 0 0 0 (spc.toNat * 2 ^ 25 + 16 + sc.code)
  | .frz a bb => packR 0x6A 0 0 a.code (optG bb) 0 0 bb.isSome.toNat
  | .futreg d a bb spc => packR 0x6C 0 d.code a.val bb.val 0 0 (spc.toNat * 2 ^ 25)
  | .futset a bb spc psn => packR 0x6C 1 0 a.val bb.code 0 0 (spc.toNat * 2 ^ 25 + psn.toNat)
  | .futget d a spc => packR 0x6C 2 d.val a.val 0 0 0 (spc.toNat * 2 ^ 25)
  | .futreset d a spc => packR 0x6C 3 d.code a.val 0 0 0 (spc.toNat * 2 ^ 25)
  | .gcopy d a => packR 0x70 0 d.code a.val 0 0 0 0
  | .gsend d a bb => packR 0x72 0 d.code a.val bb.code 0 0 0
  | .gcmp d a => packR 0x74 0 d.code a.val 0 0 0 0
  | .ghash d a => packR 0x76 0 d.code a.val 0 0 0 0
  | .gfree d a => packR 0x78 0 d.code a.val 0 0 0 0
  | .lmap d a bb => packR 0x7A 0 d.val a.val bb.val 0 0 0
  | .oalloc d a bb c => packR 0x7C 0 d.val a.val bb.code 0 c.code 0
  | .objldw d a bb acq idx => packR 0x7E 0 d.code a.val bb.code 0 0 (acq.toNat * 2 ^ 23 + idx.toNat)
  | .objstw v a bb rel idx => packR 0x7E 1 v.code a.val bb.code 0 0 (rel.toNat * 2 ^ 23 + idx.toNat)
  | .objtype d a => packR 0x7E 2 d.code a.val 0 0 0 0
  | .objlen d a => packR 0x7E 3 d.code a.val 0 0 0 0
  | .waddReg et wd wa bb k kz => eW 0x80 0 et wd wa bb k kz 0
  | .waddLit et wd wa imm k kz => eWL 0x81 0 et wd wa imm k kz
  | .wsubReg et wd wa bb k kz => eW 0x80 1 et wd wa bb k kz 0
  | .wsubLit et wd wa imm k kz => eWL 0x81 1 et wd wa imm k kz
  | .wmulReg et wd wa bb k kz => eW 0x80 2 et wd wa bb k kz 0
  | .wmulLit et wd wa imm k kz => eWL 0x81 2 et wd wa imm k kz
  | .wminReg et wd wa bb k kz => eW 0x80 3 et wd wa bb k kz 0
  | .wminLit et wd wa imm k kz => eWL 0x81 3 et wd wa imm k kz
  | .wmaxReg et wd wa bb k kz => eW 0x80 4 et wd wa bb k kz 0
  | .wmaxLit et wd wa imm k kz => eWL 0x81 4 et wd wa imm k kz
  | .wminuReg et wd wa bb k kz => eW 0x80 5 et wd wa bb k kz 0
  | .wminuLit et wd wa imm k kz => eWL 0x81 5 et wd wa imm k kz
  | .wmaxuReg et wd wa bb k kz => eW 0x80 6 et wd wa bb k kz 0
  | .wmaxuLit et wd wa imm k kz => eWL 0x81 6 et wd wa imm k kz
  | .wandReg et wd wa bb k kz => eW 0x80 7 et wd wa bb k kz 0
  | .wandLit et wd wa imm k kz => eWL 0x81 7 et wd wa imm k kz
  | .worReg et wd wa bb k kz => eW 0x80 8 et wd wa bb k kz 0
  | .worLit et wd wa imm k kz => eWL 0x81 8 et wd wa imm k kz
  | .wxorReg et wd wa bb k kz => eW 0x80 9 et wd wa bb k kz 0
  | .wxorLit et wd wa imm k kz => eWL 0x81 9 et wd wa imm k kz
  | .wshlReg et wd wa bb k kz => eW 0x80 10 et wd wa bb k kz 0
  | .wshlLit et wd wa imm k kz => eWL 0x81 10 et wd wa imm k kz
  | .wshrReg et wd wa bb k kz => eW 0x80 11 et wd wa bb k kz 0
  | .wshrLit et wd wa imm k kz => eWL 0x81 11 et wd wa imm k kz
  | .wsarReg et wd wa bb k kz => eW 0x80 12 et wd wa bb k kz 0
  | .wsarLit et wd wa imm k kz => eWL 0x81 12 et wd wa imm k kz
  | .wfshlReg et wd wa bb k kz => eW 0x80 13 et wd wa bb k kz 0
  | .wfshlLit et wd wa imm k kz => eWL 0x81 13 et wd wa imm k kz
  | .wfshrReg et wd wa bb k kz => eW 0x80 14 et wd wa bb k kz 0
  | .wfshrLit et wd wa imm k kz => eWL 0x81 14 et wd wa imm k kz
  | .wfaddReg et wd wa bb k kz rm => eW 0x82 0 et wd wa bb k kz rm.code
  | .wfaddLit et wd wa imm k kz => eWL 0x83 0 et wd wa imm k kz
  | .wfsubReg et wd wa bb k kz rm => eW 0x82 1 et wd wa bb k kz rm.code
  | .wfsubLit et wd wa imm k kz => eWL 0x83 1 et wd wa imm k kz
  | .wfmulReg et wd wa bb k kz rm => eW 0x82 2 et wd wa bb k kz rm.code
  | .wfmulLit et wd wa imm k kz => eWL 0x83 2 et wd wa imm k kz
  | .wfmaReg et wd wa bb k kz rm => eW 0x82 3 et wd wa bb k kz rm.code
  | .wfmaLit et wd wa imm k kz => eWL 0x83 3 et wd wa imm k kz
  | .wfminReg et wd wa bb k kz rm => eW 0x82 4 et wd wa bb k kz rm.code
  | .wfminLit et wd wa imm k kz => eWL 0x83 4 et wd wa imm k kz
  | .wfmaxReg et wd wa bb k kz rm => eW 0x82 5 et wd wa bb k kz rm.code
  | .wfmaxLit et wd wa imm k kz => eWL 0x83 5 et wd wa imm k kz
  | .wfabs et wd wa k kz rm => packW 0x82 6 wd.val wa.val 0 k.val kz et.code 0 0 rm.code
  | .wexp2 et wd wa k kz rm => packW 0x82 7 wd.val wa.val 0 k.val kz et.code 0 0 rm.code
  | .wrcp et wd wa k kz rm => packW 0x82 8 wd.val wa.val 0 k.val kz et.code 0 0 rm.code
  | .wrsq et wd wa k kz rm => packW 0x82 9 wd.val wa.val 0 k.val kz et.code 0 0 rm.code
  | .wlog2 et wd wa k kz rm => packW 0x82 10 wd.val wa.val 0 k.val kz et.code 0 0 rm.code
  | .wcmp et kd wa bb k kz cond any => packW 0x84 0 kd.val wa.val bb.wb k.val kz et.code bb.s bb.gf (any.toNat * 16 + cond.toNat)
  | .wsel et wd wa bb k => eW 0x86 0 et wd wa bb k false 0
  | .wcvt wd wa dt sf part sat rm df => packW 0x88 0 wd.val wa.val 0 0 false (if dt.isSome then 6 else 0) 0 0 ((match dt with | some t => t.val | none => 0) * 2 ^ 24 + sf.toNat * 2 ^ 16 + part.toNat * 2 ^ 10 + sat.toNat * 2 ^ 8 + rm.code * 2 ^ 6 + df.toNat)
  | .wred et ed wa k op u => packW 0x8A 0 0 wa.val 0 k.val false et.code 0 (24 + ed.val) (u.toNat * 8 + op.toNat)
  | .wscan et wd wa k kz op excl => packW 0x8C 0 wd.val wa.val 0 k.val kz et.code 0 0 (excl.toNat * 16 + op.toNat)
  | .wperm et wd wa wb k kz => packW 0x8E 0 wd.val wa.val wb.val k.val kz et.code 0 0 0
  | .wslide et wd wa wb g k kz => packW 0x8E 1 wd.val wa.val wb.val k.val kz et.code 1 g.code 0
  | .wbcast et wd wa g k kz => packW 0x8E 2 wd.val wa.val 0 k.val kz et.code 1 g.code 0
  | .wzip et wd wa wb k kz hi => packW 0x8E 3 wd.val wa.val wb.val k.val kz et.code 0 0 hi.toNat
  | .wmovsInsert et wd g k kz => packW 0x90 0 wd.val 0 0 k.val kz et.code 1 g.code 0
  | .wmovsExtract et ed wa lane sx => packW 0x90 0 0 wa.val 0 0 false et.code 0 (24 + ed.val) (sx.toNat * 2 ^ 16 + lane.toNat * 2 ^ 8 + 1)
  | .widx et wd g k kz step => packW 0x92 0 wd.val 0 0 k.val kz et.code g.isSome.toNat (match g with | some x => x.code | none => 0) step.toNat
  | .kop (.bin f kd ka kb) => packW 0x94 0 kd.val ka.val kb.val 0 false 0 0 0 f.val
  | .kop (.inv kd ka) => packW 0x94 0 kd.val ka.val 0 0 false 0 0 0 4
  | .kop (.mov kd ka) => packW 0x94 0 kd.val ka.val 0 0 false 0 0 0 5
  | .kop (.set kd g) => packW 0x94 0 kd.val 0 0 0 false 0 1 g.code 6
  | .kop (.popc ed ka) => packW 0x94 0 0 ka.val 0 0 false 0 0 (24 + ed.val) 7
  | .kop (.first ed ka) => packW 0x94 0 0 ka.val 0 0 false 0 0 (24 + ed.val) 8
  | .wldReg wd g k kz m ofs => packW 0xA0 0 wd.val 0 0 k.val kz 0 0 g.val (m.modW + ofs.toNat)
  | .wldLit wd k kz imm => packWL 0xA1 0 wd.val 0 k.val kz 0 imm.toNat
  | .wstReg wa bm g k m ofs => packW 0xA2 0 0 wa.val (match bm with | some x => x.val | none => 0) k.val false 0 0 g.val (m.modW + bm.isSome.toNat * 2 ^ 20 + ofs.toNat)
  | .wstLit wa k imm => packWL 0xA3 0 0 wa.val k.val false 0 imm.toNat
  | .wgath et wd wa g k kz m scale => packW 0xA4 0 wd.val wa.val 0 k.val kz et.code 0 g.val (m.modW + scale.toNat * 2 ^ 18)
  | .wscat et wa wb g k m scale => packW 0xA6 0 0 wa.val wb.val k.val false et.code 0 g.val (m.modW + scale.toNat * 2 ^ 18)
  | .wldf et wd g k kz m ofs => packW 0xA8 0 wd.val 0 0 k.val kz et.code 0 g.val (m.modW + ofs.toNat)
  | .sealst wa g m ofs => packW 0xAA 0 0 wa.val 0 0 false 0 0 g.val (m.modW + ofs.toNat)
  | .wspill wa slot => packW 0xAC 0 0 wa.val 0 0 false 0 0 0 slot.val
  | .wfill wd slot => packW 0xAC 1 wd.val 0 0 0 false 0 0 0 slot.val
  | .dtld t g spc rpt => packW 0xAE 0 t.val 0 0 0 false 0 0 g.code (spc.toNat * 2 ^ 23 + rpt.isSome.toNat * 2 ^ 22 + (match rpt with | some r => r.val | none => 0) * 2 ^ 19)
  | .mctx (.lit x) => packX 0xB0 0 0 0 0 0 x.toNat
  | .mctx (.reg a) => packX 0xB0 0 0 a.val 0 0 0
  | .mldb a bb spc => packX 0xB2 0 0 a.code bb.code spc.toNat 0
  | .mrot n => packX 0xB4 0 0 0 0 0 n.toNat
  | .mma c a bb z => packX 0xB6 0 c.val a.val bb.code 0 z.toNat
  | .mrec c a bb z => packX 0xB8 0 c.val a.val bb.code 0 z.toNat
  | .mprog a => packX 0xBA 0 0 a.val 0 0 0
  | .mzero c => packX 0xBC 0 c.val 0 0 0 0
  | .mload c a bb spc => packX 0xBC 1 c.val a.val bb.code spc.toNat 0
  | .mstore c a bb spc df => packX 0xBC 2 c.val a.val bb.code spc.toNat df.toNat
  | .mtowide c wd p => packX 0xBC 3 c.val 0 0 0 (p.val * 16 + wd.val)
  | .mclaim c => packX 0xBC 4 c.val 0 0 0 0
  | .mrelease c => packX 0xBC 5 c.val 0 0 0 0
  | .mwait none => packX 0xBE 0 0 0 0 0 0
  | .mwait (some c) => packX 0xBE 0 c.val 0 0 0 1
  | .epush a idx => packR 0xC0 0 0 a.val 0 0 0 idx.toNat
  | .epop d idx => packR 0xC2 0 d.code 0 0 0 0 idx.toNat
  | .estat d idx => packR 0xC4 0 d.code 0 0 0 0 idx.toNat
  | .fbind a => packR 0xC6 0 0 a.val 0 0 0 0
  | .fbindRange a bb c => packR 0xC6 0 0 a.val bb.val 0 c.val 1
  | .fbindDrop a => packR 0xC6 0 0 a.val 0 0 0 2
  | .trap n => packL 0xD0 0 0 0 0 0 n.toNat
  | .upretResume keep => packL 0xD2 0 0 0 0 0 (keep.toNat * 256)
  | .upretDetach => packL 0xD2 0 0 0 0 0 1
  | .upretAbandon => packL 0xD2 0 0 0 0 0 2
  | .srd d n => packL 0xD4 0 d.code 0 0 0 n.toNat
  | .swr n a => packL 0xD6 0 0 a.code 0 0 n.toNat
  | .hresume d a next => packL 0xD8 0 d.code a.val 0 0 next.toNat
  | .swin d a wr sel => packL 0xDA 0 d.val a.val 0 0 (wr.toNat * 2 ^ 31 + sel.toNat)
  | .tlbw a bb c => packR 0xDC 0 0 a.val bb.val 0 c.val 0
  | .tlbi a bb => packR 0xDC 1 0 a.val bb.val 0 0 0
  | .idle d lim => packL 0xDE 0 d.code 0 0 0 lim.toNat
  | .dbg d a u => packL 0xDE 1 d.val a.val 0 0 u.toNat
  | .wdog lim => packL 0xDE 2 0 0 0 0 lim.toNat
  | _ => 0

end

end Sys2Proof
end

