-- ==== Sys2Proof/Machine/Alu.lean ====
section
/-! DEFINITION. The integer results of chapter 02 (R35, R37, R38, R40, R41, R50), each a function of the operand values at the
width of the word's SZ field. -/

namespace Sys2Proof.Alu

/-- The width in bits that SZ selects (R17). -/
def szW : Sz → Nat
  | .d => 64 | .w => 32 | .h => 16 | .b => 8

/-- The width in bytes. -/
def szB : Sz → Nat
  | .d => 8 | .w => 4 | .h => 2 | .b => 1

/-- The low bits of an operand at the width (R15). -/
def lowW (sz : Sz) (x : Word) : BitVec (szW sz) := x.setWidth (szW sz)

/-- A result at the width, zero-extended (R15). -/
def wide {w : Nat} (x : BitVec w) : Word := x.setWidth 64

/-- A binary operation at the width. -/
def atW (sz : Sz) (f : {w : Nat} → BitVec w → BitVec w → BitVec w) (a b : Word) : Word := wide (f (lowW sz a) (lowW sz b))

def fAdd {w : Nat} (a b : BitVec w) : BitVec w := a + b
def fSub {w : Nat} (a b : BitVec w) : BitVec w := a - b
def fMul {w : Nat} (a b : BitVec w) : BitVec w := a * b
/-- The high half of the exact signed product. -/
def fMulh {w : Nat} (a b : BitVec w) : BitVec w := BitVec.ofInt w ((a.toInt * b.toInt) / (2 ^ w : Int))
/-- The high half of the exact unsigned product. -/
def fMulhu {w : Nat} (a b : BitVec w) : BitVec w := BitVec.ofNat w ((a.toNat * b.toNat) / 2 ^ w)
/-- DIV: a zero divisor gives -1, the most negative number by -1 gives itself, otherwise the quotient rounded toward zero. -/
def fDiv {w : Nat} (a b : BitVec w) : BitVec w :=
  if b = 0 then BitVec.allOnes w
  else if a = BitVec.intMin w ∧ b = BitVec.allOnes w then a
  else BitVec.ofInt w (a.toInt.tdiv b.toInt)
def fDivu {w : Nat} (a b : BitVec w) : BitVec w := if b = 0 then BitVec.allOnes w else BitVec.ofNat w (a.toNat / b.toNat)
def fRem {w : Nat} (a b : BitVec w) : BitVec w :=
  if b = 0 then a
  else if a = BitVec.intMin w ∧ b = BitVec.allOnes w then 0
  else BitVec.ofInt w (a.toInt - b.toInt * a.toInt.tdiv b.toInt)
def fRemu {w : Nat} (a b : BitVec w) : BitVec w :=
  if b = 0 then a else BitVec.ofNat w (a.toNat - b.toNat * (a.toNat / b.toNat))
def fMin {w : Nat} (a b : BitVec w) : BitVec w := if a.toInt ≤ b.toInt then a else b
def fMax {w : Nat} (a b : BitVec w) : BitVec w := if b.toInt ≤ a.toInt then a else b
def fMinu {w : Nat} (a b : BitVec w) : BitVec w := if a.toNat ≤ b.toNat then a else b
def fMaxu {w : Nat} (a b : BitVec w) : BitVec w := if b.toNat ≤ a.toNat then a else b
/-- LEA: `a + b * 2^c` (R35). -/
def lea (sz : Sz) (c : BitVec 6) (a b : Word) : Word := wide (lowW sz a + (lowW sz b) <<< c.toNat)

def fAnd {w : Nat} (a b : BitVec w) : BitVec w := a &&& b
def fOr {w : Nat} (a b : BitVec w) : BitVec w := a ||| b
def fXor {w : Nat} (a b : BitVec w) : BitVec w := a ^^^ b
def fAndn {w : Nat} (a b : BitVec w) : BitVec w := a &&& ~~~b
def fOrn {w : Nat} (a b : BitVec w) : BitVec w := a ||| ~~~b
/-- The shift count: the low log2(W) bits of the second operand (R37); `w` is 64, 32, 16 or 8. -/
def cnt {w : Nat} (b : BitVec w) : Nat := b.toNat % w
def fShl {w : Nat} (a b : BitVec w) : BitVec w := a <<< cnt b
def fShr {w : Nat} (a b : BitVec w) : BitVec w := a >>> cnt b
def fSar {w : Nat} (a b : BitVec w) : BitVec w := a.sshiftRight (cnt b)
def fRol {w : Nat} (a b : BitVec w) : BitVec w := (a <<< cnt b) ||| (a >>> (w - cnt b))
def fRor {w : Nat} (a b : BitVec w) : BitVec w := (a >>> cnt b) ||| (a <<< (w - cnt b))
/-- FSHL: the high W bits of the pair a:c shifted left (R37). -/
def fshl (sz : Sz) (a b c : Word) : Word :=
  let s := cnt (lowW sz b)
  wide (BitVec.ofNat (szW sz) (((lowW sz a).toNat * 2 ^ szW sz + (lowW sz c).toNat) * 2 ^ s / 2 ^ szW sz))
/-- FSHR: the low W bits of the pair shifted right. -/
def fshr (sz : Sz) (a b c : Word) : Word :=
  let s := cnt (lowW sz b)
  wide (BitVec.ofNat (szW sz) (((lowW sz a).toNat * 2 ^ szW sz + (lowW sz c).toNat) / 2 ^ s))

/-- A condition as a value, 1 or 0. -/
def bit (b : Bool) : Word := if b then 1 else 0

def seq (sz : Sz) (a b : Word) : Word := bit (lowW sz a = lowW sz b)
def sne (sz : Sz) (a b : Word) : Word := bit (lowW sz a ≠ lowW sz b)
def slt (sz : Sz) (a b : Word) : Word := bit ((lowW sz a).toInt < (lowW sz b).toInt)
def sltu (sz : Sz) (a b : Word) : Word := bit ((lowW sz a).toNat < (lowW sz b).toNat)
def sle (sz : Sz) (a b : Word) : Word := bit ((lowW sz a).toInt ≤ (lowW sz b).toInt)
def sleu (sz : Sz) (a b : Word) : Word := bit ((lowW sz a).toNat ≤ (lowW sz b).toNat)
/-- SEL tests all 64 bits of the condition (R38). -/
def sel (sz : Sz) (a b c : Word) : Word := wide (if c ≠ 0 then lowW sz a else lowW sz b)

/-- Zero bits above the highest one of the first `w` bits. -/
def clzN (x : Nat) : Nat → Nat
  | 0 => 0
  | w + 1 => if x.testBit w then 0 else 1 + clzN x w
/-- Zero bits from bit `i` up, over `w` bits. -/
def ctzN (x : Nat) (i : Nat) : Nat → Nat
  | 0 => 0
  | w + 1 => if x.testBit i then 0 else 1 + ctzN x (i + 1) w
/-- One bits among the first `w`. -/
def popN (x : Nat) : Nat → Nat
  | 0 => 0
  | w + 1 => (if x.testBit w then 1 else 0) + popN x w

def clz (sz : Sz) (a : Word) : Word := word (clzN (lowW sz a).toNat (szW sz))
def ctz (sz : Sz) (a : Word) : Word := word (ctzN (lowW sz a).toNat 0 (szW sz))
def popc (sz : Sz) (a : Word) : Word := word (popN (lowW sz a).toNat (szW sz))
def brev (sz : Sz) (a : Word) : Word := wide (lowW sz a).reverse
/-- The bytes of a value from the lowest, `n` of them. -/
def bytesOf (x : Nat) : Nat → List Byte
  | 0 => []
  | n + 1 => BitVec.ofNat 8 x :: bytesOf (x / 256) n
/-- The value of bytes, the first the lowest. -/
def natOf : List Byte → Nat
  | [] => 0
  | b :: r => b.toNat + 256 * natOf r
def bswap (sz : Sz) (a : Word) : Word := word (natOf (bytesOf (lowW sz a).toNat (szB sz)).reverse)
/-- EXTU: the field at POS of length LENM1 + 1 (R40). -/
def extu (sz : Sz) (pos lenm1 : BitVec 6) (a : Word) : Word :=
  word (((lowW sz a).toNat / 2 ^ pos.toNat) % 2 ^ (lenm1.toNat + 1))
def exts (sz : Sz) (pos lenm1 : BitVec 6) (a : Word) : Word :=
  wide ((BitVec.ofNat (lenm1.toNat + 1) ((lowW sz a).toNat / 2 ^ pos.toNat)).signExtend (szW sz))
/-- INS: the low bits of `b` into the field of `a`. -/
def ins (sz : Sz) (pos lenm1 : BitVec 6) (a b : Word) : Word :=
  let m : Word := word ((2 ^ (lenm1.toNat + 1) - 1) * 2 ^ pos.toNat)
  wide (lowW sz ((a &&& ~~~m) ||| ((b <<< pos.toNat) &&& m)))
/-- SEXT writes all 64 bits (R40). -/
def sext (sz : Sz) (a : Word) : Word := (lowW sz a).signExtend 64
/-- MOVH (R41). -/
def movh (imm : BitVec 32) (a : Word) : Word := imm ++ a.setWidth 32

/-- The literal of an arithmetic, compare, FP, memory or branch word (R22). -/
def sx (imm : BitVec 32) : Word := imm.signExtend 64
/-- The literal of a logic word (R22). -/
def zx (imm : BitVec 32) : Word := imm.setWidth 64

/-- The branch conditions of R50. -/
def condEq (sz : Sz) (a c : Word) : Bool := lowW sz a = lowW sz c
def condLt (sz : Sz) (a c : Word) : Bool := (lowW sz a).toInt < (lowW sz c).toInt
def condLtu (sz : Sz) (a c : Word) : Bool := (lowW sz a).toNat < (lowW sz c).toNat

end Sys2Proof.Alu
end

