-- ==== Sys2Proof/Machine/Grid.lean ====
section
/-! DEFINITION. The dies and their links, the grid of a die, ranks and positions (R57 to R61). -/

namespace Sys2Proof.Machine

/-! ### Dies, hubs and links (R57, R58) -/

/-- The quad of a core (R61). -/
def quadOf (c : Nat) : Nat := c / 4

/-- The die of a core (R57, R61): a package rank, or a translation service core `6144 + 8 * die + j`. -/
def dieOf (c : Nat) : Nat := if c < 6144 then c / 1536 else (c - 6144) / 8

/-- The die rank of a core. -/
def dieRank (c : Nat) : Nat := c % 1536

/-- The package rank of a die rank (R61). -/
def packageRank (die k : Nat) : Nat := die * 1536 + k

/-- The ring of a core within its die (R61). -/
def ringOf (c : Nat) : Nat := dieRank c / 32

/-- The hub of a CXL port, of a Halyard port, of an LPDDR-6 sub-channel (R57). -/
def hubOfPort (p : Fin 4) : Nat := p.val / 2
def hubOfHalyard (p : Fin 12) : Nat := p.val / 6
def hubOfSub (n : Nat) : Nat := n / 64

/-- Whether a link joins two dies; 4 and 5 are hubs 0 and 1 (R57). -/
def linked (a b : Nat) : Bool :=
  let ring (a b : Nat) : Bool := [(0, 1), (1, 3), (3, 2), (2, 0)].contains (a, b)
  ring a b || ring b a || (decide (a < 4) && (b = 4 || b = 5)) || (decide (b < 4) && (a = 4 || a = 5))

/-- The dies that a message passes on its way from one compute die to another die or a hub (R58). -/
def dieRoute (a b : Nat) : List Nat :=
  if a = b then [a]
  else if (a = 0 && b = 3) || (a = 3 && b = 0) then [a, 1, b]
  else if (a = 1 && b = 2) || (a = 2 && b = 1) then [a, 0, b]
  else [a, b]

/-- The numbers from one to another, in steps of one. -/
def span (a b : Nat) : List Nat :=
  if a ≤ b then (List.range (b + 1 - a)).map (a + ·) else (List.range (a + 1 - b)).map (a - ·)

/-- The quads that a message passes within a die, by mesh position: first X, then Y (R58). -/
def meshRoute (a b : Nat × Nat) : List (Nat × Nat) :=
  ((span a.1 b.1).map fun x => (x, a.2)) ++ ((span a.2 b.2).drop 1).map fun y => (b.1, y)

/-! ### The squares of a die and the curve (R59, R60) -/

/-- How a square takes the base curve (R59): as it is, transposed, or turned by half. -/
inductive Turned where
  | n | t | h
deriving DecidableEq, Repr

/-- SquareTable (R59): the origin of a square and its orientation. -/
def squareTable (sq : Nat) : Nat × Nat × Turned :=
  match sq with
  | 0 => (0, 0, .n) | 1 => (16, 0, .n) | 2 => (32, 0, .t) | 3 => (32, 16, .t) | 4 => (16, 16, .h) | _ => (0, 16, .h)

/-- A position within a square from the base curve's, and back: each orientation is its own inverse (R59). -/
def Turned.at0 (o : Turned) (p : Nat × Nat) : Nat × Nat :=
  match o with | .n => p | .t => (p.2, p.1) | .h => (15 - p.1, 15 - p.2)

/-- HilbertBase (R60). -/
def hilbertBase (d : Nat) : Nat × Nat :=
  let r := [1, 2, 4, 8].foldl (fun (a : (Nat × Nat) × Nat) s =>
    let t := a.2
    let bx := t / 2 % 2
    let by_ := (t ^^^ bx) % 2
    let p := if by_ = 0 then (let q := if bx = 1 then (s - 1 - a.1.1, s - 1 - a.1.2) else a.1; (q.2, q.1)) else a.1
    ((p.1 + s * bx, p.2 + s * by_), t / 4)) ((0, 0), d)
  r.1

/-- RankToXY (R60). -/
def rankToXY (k : Nat) : Nat × Nat :=
  let (ox, oy, o) := squareTable (k / 256)
  let p := o.at0 (hilbertBase (k % 256))
  (ox + p.1, oy + p.2)

/-- The square that holds a position (R60). -/
def squareAt (x y : Nat) : Nat := if y < 16 then x / 16 else 5 - x / 16

/-- The place of a position on the base curve: the loop of XYToRank (R60). -/
def hilbertRank (p : Nat × Nat) : Nat :=
  let r := [8, 4, 2, 1].foldl (fun (a : (Nat × Nat) × Nat) s =>
    let bx := a.1.1 / s % 2
    let by_ := a.1.2 / s % 2
    let d := a.2 + s * s * ((3 * bx) ^^^ by_)
    let p := if by_ = 0 then (let q := if bx = 1 then (15 - a.1.1, 15 - a.1.2) else a.1; (q.2, q.1)) else a.1
    (p, d)) (p, 0)
  r.2

/-- XYToRank (R60). -/
def xyToRank (x y : Nat) : Nat :=
  let sq := squareAt x y
  let (ox, oy, o) := squareTable sq
  256 * sq + hilbertRank (o.at0 (x - ox, y - oy))

/-! ### Positions (R61) -/

/-- The position of a core on the grid of its die. -/
def positionOf (c : Nat) : Nat × Nat := rankToXY (dieRank c)

/-- The mesh position of a core's quad. -/
def meshOf (c : Nat) : Nat × Nat := ((positionOf c).1 / 2, (positionOf c).2 / 2)

/-- The path of a message between two cores: the quads of its die that it passes, by mesh position, where it stays on it (R58), and the
dies. -/
def pathOf (a b : Nat) : List Nat × List (Nat × Nat) :=
  (dieRoute (dieOf a) (dieOf b), if dieOf a = dieOf b then meshRoute (meshOf a) (meshOf b) else [])

end Sys2Proof.Machine
end

