-- ==== Sys2Proof/Machine/Mem.lean ====
section
/-! DEFINITION. Memory as address and byte pairs in one canonical form: addresses strictly rising, no pair holding what an unlisted
address reads as (log entry 2). -/

namespace Sys2Proof.Machine

/-- The bytes of memory that differ from the unlisted value. -/
abbrev Memory := List (Nat × BitVec 8)

/-- What an unlisted address reads as: boot and scrub leave memory zero (R387, R419; log entry 2). -/
def unlisted : Byte := 0

/-- The byte at an address. -/
def memGet (m : Memory) (a : Nat) : Byte :=
  match m with
  | [] => unlisted
  | (b, v) :: r => if b = a then v else memGet r a

/-- Memory with one byte written, kept canonical. -/
def memSet (m : Memory) (a : Nat) (v : Byte) : Memory :=
  match m with
  | [] => if v = unlisted then [] else [(a, v)]
  | (b, w) :: r =>
    if a < b then (if v = unlisted then (b, w) :: r else (a, v) :: (b, w) :: r)
    else if b = a then (if v = unlisted then r else (a, v) :: r)
    else (b, w) :: memSet r a v

/-- Several bytes written in order. -/
def memSets (m : Memory) : List (Nat × Byte) → Memory
  | [] => m
  | (a, v) :: r => memSets (memSet m a v) r

/-- Every address of the list is above `lo`, rising, and no value is the unlisted one. -/
def wfAbove : Memory → Nat → Bool
  | [], _ => true
  | (a, v) :: r, lo => decide (lo ≤ a) && (v != unlisted) && wfAbove r (a + 1)

/-- The canonical form. -/
def Memory.wf (m : Memory) : Bool := wfAbove m 0

end Sys2Proof.Machine
end

