-- ==== Sys2Proof/Config.lean ====
section
/-! DEFINITION. What the spec leaves open: opaque constants, which no proof can evaluate, so that a statement about them holds for
every value (log entries named at each). -/

namespace Sys2Proof.Config

/-- The code a table format delivers for a zero when the table holds no zero (R49 names none). -/
opaque tableZero : List (BitVec 19) → Bool → BitVec 8

/-- A free value, one for each count of `State.tick`: what the spec leaves open at that moment (log entry 3). -/
opaque free : Nat → Word

/-- The difference between a core's `clk` and the package's count (R14: cores need not agree; log entry 3). -/
opaque clkOffset : Nat → Nat

/-- The size of a core's store buffer less one (R122 gives it a size and names none). -/
opaque storeBuffer : Nat

/-- Which entry of a full TLB gives way (R99: replacement is not architectural; log entry 8). -/
opaque victim : Nat → Nat

/-- Whether a word that lies in the instruction cache is taken from it, or from memory (R63; log entry 7). -/
opaque icacheHit : Nat → Bool

/-- The guest-physical page number of the leaf entry that maps a page of a space, which the host's tables give (R388). -/
opaque guestPage : Nat → Nat → Nat

end Sys2Proof.Config
end

