-- ==== Sys2Proof/Machine/Float.lean ====
section
/-! DEFINITION. Number formats and exact arithmetic (chapter 04: R75 to R95): values are exact dyadic numbers, infinities or
NaNs; every rounding goes through one function of R88 and R89. -/

namespace Sys2Proof.Num

/-- A format of R75, with the two 64-bit integers of FCVT (R47). -/
inductive Fmt where
  | fp32 | bf16 | fp16 | fp64 | e4m3 | e5m2 | e2m3 | e3m2 | e2m1 | e8m0 | int8 | uint8 | int4 | int32 | v8a | v8b | v4
  | dt (t : Fin 4) | i64 | u64
deriving DecidableEq, Repr

/-- The format a 5-bit code names; none for a reserved code (R75). -/
def fmtOfCode (c : Nat) : Option Fmt :=
  match c with
  | 0x00 => some .fp32 | 0x01 => some .bf16 | 0x02 => some .fp16 | 0x03 => some .fp64 | 0x05 => some .e4m3 | 0x06 => some .e5m2
  | 0x07 => some .e2m3 | 0x08 => some .e3m2 | 0x09 => some .e2m1 | 0x0A => some .e8m0 | 0x0B => some .int8 | 0x0C => some .uint8
  | 0x0D => some .int4 | 0x0E => some .int32 | 0x10 => some .v8a | 0x11 => some .v8b | 0x12 => some .v4
  | 0x18 => some (.dt 0) | 0x19 => some (.dt 1) | 0x1A => some (.dt 2) | 0x1B => some (.dt 3)
  | _ => none

/-- The width in bits of a format (R75). -/
def fmtWidth : Fmt → Nat
  | .fp32 => 32 | .bf16 => 16 | .fp16 => 16 | .fp64 => 64 | .e4m3 => 8 | .e5m2 => 8 | .e2m3 => 6 | .e3m2 => 6 | .e2m1 => 4
  | .e8m0 => 8 | .int8 => 8 | .uint8 => 8 | .int4 => 4 | .int32 => 32 | .v8a => 8 | .v8b => 8 | .v4 => 4 | .dt _ => 8
  | .i64 => 64 | .u64 => 64

/-- The bits one element takes in memory, a wide register or a tile: a 6-bit format takes a whole byte (R76). -/
def fmtPlace (f : Fmt) : Nat := if fmtWidth f = 6 then 8 else fmtWidth f

/-- The width class of a matrix operand format (R77): 16, 8 or 4; none where the format is no matrix operand (R75). -/
def fmtClass : Fmt → Option Nat
  | .bf16 => some 16 | .fp16 => some 16
  | .e4m3 => some 8 | .e5m2 => some 8 | .e2m3 => some 8 | .e3m2 => some 8 | .int8 => some 8 | .uint8 => some 8 | .v8a => some 8
  | .v8b => some 8 | .dt _ => some 8
  | .e2m1 => some 4 | .int4 => some 4 | .v4 => some 4
  | .fp32 => none | .fp64 => none | .e8m0 => none | .int32 => none | .i64 => none | .u64 => none

/-- The range and signedness of an integer format (R48, R82). -/
def fmtInt : Fmt → Option (Int × Int × Bool)
  | .int4 => some (-8, 7, true) | .int8 => some (-128, 127, true) | .uint8 => some (0, 255, false)
  | .int32 => some (-2147483648, 2147483647, true)
  | .i64 => some (-9223372036854775808, 9223372036854775807, true) | .u64 => some (0, 18446744073709551615, false)
  | _ => none

/-- An exact value: a NaN (signalling or not), an infinity, or `(-1)^neg * m * 2^e`; zero is `m = 0` with its sign. -/
inductive Val where
  | nan (sig : Bool)
  | inf (neg : Bool)
  | fin (neg : Bool) (m : Nat) (e : Int)
deriving DecidableEq, Repr

/-- The special codes of a binary format. `ieee`: infinities and NaNs at the top exponent; `e4`: NaN at the top code only;
`plain`: no special code; `native`: no subnormals, zero the all-zero code, NaN the sign bit alone (R80). -/
inductive Kind where
  | ieee | e4 | plain | native
deriving DecidableEq, Repr

/-- The layout of a binary format: exponent bits, fraction bits, bias and special codes (R78 to R80). -/
structure Spec where
  eb : Nat
  mb : Nat
  bias : Nat
  kind : Kind
deriving DecidableEq, Repr

/-- The layout of each binary format. -/
def fmtSpec : Fmt → Option Spec
  | .fp64 => some ⟨11, 52, 1023, .ieee⟩ | .fp32 => some ⟨8, 23, 127, .ieee⟩ | .fp16 => some ⟨5, 10, 15, .ieee⟩
  | .bf16 => some ⟨8, 7, 127, .ieee⟩ | .e5m2 => some ⟨5, 2, 15, .ieee⟩ | .e4m3 => some ⟨4, 3, 7, .e4⟩
  | .e2m3 => some ⟨2, 3, 1, .plain⟩ | .e3m2 => some ⟨3, 2, 3, .plain⟩ | .e2m1 => some ⟨2, 1, 1, .plain⟩
  | .v8a => some ⟨4, 3, 7, .native⟩ | .v8b => some ⟨5, 2, 15, .native⟩ | .v4 => some ⟨2, 1, 1, .native⟩
  | _ => none

/-- `n * 2^k` rounded down, for any integer `k`. -/
def scale (n : Nat) (k : Int) : Nat := if 0 ≤ k then n <<< k.toNat else n >>> (-k).toNat

/-- The magnitude of the code `c` (without its sign bit) of a binary format, as mantissa and exponent (R78 to R80). The code one
above the largest finite one has the magnitude of the overflow point (R88). -/
def specMag (s : Spec) (c : Nat) : Nat × Int :=
  let ex := c >>> s.mb
  let fr := c % 2 ^ s.mb
  if s.kind = .native then
    if c = 0 then (0, 0) else (2 ^ s.mb + fr, (ex : Int) - s.bias - s.mb)
  else if ex = 0 then (fr, 1 - (s.bias : Int) - s.mb)
  else (2 ^ s.mb + fr, (ex : Int) - s.bias - s.mb)

/-- The code of the largest finite magnitude. -/
def specTop (s : Spec) : Nat :=
  match s.kind with
  | .ieee => (2 ^ s.eb - 1) * 2 ^ s.mb - 1
  | .e4 => 2 ^ (s.eb + s.mb) - 2
  | .plain => 2 ^ (s.eb + s.mb) - 1
  | .native => 2 ^ (s.eb + s.mb) - 1

/-- The greatest code whose magnitude is at most `m * 2^e`, when there is no top (R88). -/
def specFloor (s : Spec) (m : Nat) (e : Int) : Nat :=
  if m = 0 then 0 else
  let k : Int := (Nat.log2 m : Int) + e
  let lowest : Int := if s.kind = .native then -(s.bias : Int) else 1 - (s.bias : Int)
  if k < lowest then (if s.kind = .native then 0 else scale m (e - (lowest - s.mb)))
  else
    let base : Nat := (k + s.bias).toNat * 2 ^ s.mb
    base + scale m (e - (k - s.mb)) - 2 ^ s.mb

/-- Two magnitudes brought to one exponent. -/
def align (m1 : Nat) (e1 : Int) (m2 : Nat) (e2 : Int) : Nat × Nat :=
  if e1 ≤ e2 then (m1, m2 <<< (e2 - e1).toNat) else (m1 <<< (e1 - e2).toNat, m2)

/-- The comparison of two magnitudes. -/
def magCmp (m1 : Nat) (e1 : Int) (m2 : Nat) (e2 : Int) : Ordering :=
  let p := align m1 e1 m2 e2
  compare p.1 p.2

/-- Whether the upper candidate is taken for `|x| = x` strictly between `lo` and `hi` (R89, R90). `tieUp` says what RNE does on a
tie; `sr` is SRST bits 63:48 after its advance. -/
def pickHi (rm : Rm) (sr : Nat) (x lo hi : Nat × Int) (tieUp : Bool) : Bool :=
  let e := min x.2 (min lo.2 hi.2)
  let xx := x.1 <<< (x.2 - e).toNat
  let ll := lo.1 <<< (lo.2 - e).toNat
  let hh := hi.1 <<< (hi.2 - e).toNat
  let d := xx - ll
  let w := hh - ll
  match rm with
  | .rtz => false
  | .rne => if 2 * d < w then false else if w < 2 * d then true else tieUp
  | .rna => decide (w ≤ 2 * d)
  | .sr => decide (sr < d * 65536 / w)

/-- The five flags of FPST as a vector: NV, DZ, OF, UF, NX from bit 4 to bit 0 (R43). -/
abbrev Flags := BitVec 5
abbrev flNV : Flags := 16
abbrev flDZ : Flags := 8
abbrev flOF : Flags := 4
abbrev flUF : Flags := 2
abbrev flNX : Flags := 1

/-- The sign bit of a binary format put before a magnitude code. -/
def withSign (s : Spec) (neg : Bool) (c : Nat) : Nat := if neg then c + 2 ^ (s.eb + s.mb) else c

/-- The NaN code of a destination (R49): canonical and quiet; a format without a NaN gives 0. -/
def specNaN (s : Spec) : Nat :=
  match s.kind with
  | .ieee => (2 ^ s.eb - 1) * 2 ^ s.mb + 2 ^ (s.mb - 1)
  | .e4 => 2 ^ (s.eb + s.mb) - 1
  | .plain => 0
  | .native => 2 ^ (s.eb + s.mb)

/-- What an overflow delivers (R49, R88, R92). -/
def specOver (s : Spec) (rm : Rm) (sat neg : Bool) : Nat :=
  if rm = .rtz then withSign s neg (specTop s) else
  match s.kind with
  | .ieee => if sat then withSign s neg (specTop s) else withSign s neg ((2 ^ s.eb - 1) * 2 ^ s.mb)
  | .e4 => if sat then withSign s neg (specTop s) else specNaN s
  | .plain => withSign s neg (specTop s)
  | .native => if sat then withSign s neg (specTop s) else specNaN s

/-- What an infinite source gives, with its flags (R49). -/
def specInf (s : Spec) (sat neg : Bool) : Nat × Flags :=
  match s.kind with
  | .ieee => (withSign s neg ((2 ^ s.eb - 1) * 2 ^ s.mb), 0)
  | .e4 => (if sat then withSign s neg (specTop s) else specNaN s, flNV)
  | .plain => (withSign s neg (specTop s), flNV)
  | .native => (if sat then withSign s neg (specTop s) else specNaN s, flNV)

/-- Rounding to a binary format, with the flags (R49, R88, R89). -/
def roundSpec (s : Spec) (rm : Rm) (sat : Bool) (sr : Nat) (x : Val) : Nat × Flags :=
  match x with
  | .nan sig => (specNaN s, (if sig || s.kind = .plain then flNV else 0))
  | .inf neg => specInf s sat neg
  | .fin neg m e =>
    let lo := specFloor s m e
    if specTop s < lo then (specOver s rm sat neg, flOF ||| flNX)
    else
      let ml := specMag s lo
      let exact := magCmp m e ml.1 ml.2 = .eq
      let c := if exact then lo else if pickHi rm sr (m, e) ml (specMag s (lo + 1)) (lo % 2 = 1) then lo + 1 else lo
      if specTop s < c then (specOver s rm sat neg, flOF ||| flNX)
      else
        let tiny : Bool := if s.kind = .native then c = 0 else c < 2 ^ s.mb
        let code := if s.kind = .native && c = 0 then 0 else withSign s neg c
        (code, if exact then 0 else flNX ||| (if tiny then flUF else 0))

/-- Rounding to an integer between two limits (R48, R82); the result is the integer itself. -/
def roundInt (lim : Int × Int × Bool) (rm : Rm) (sr : Nat) (x : Val) : Int × Flags :=
  match x with
  | .nan _ => (0, flNV)
  | .inf neg => (if neg then lim.1 else lim.2.1, flNV)
  | .fin neg m e =>
    let lo := scale m e
    let exact := magCmp m e lo 0 = .eq
    let c := if exact then lo else if pickHi rm sr (m, e) (lo, 0) (lo + 1, 0) (lo % 2 = 1) then lo + 1 else lo
    let v : Int := if neg then -(c : Int) else c
    if v < lim.1 then (lim.1, flNV) else if lim.2.1 < v then (lim.2.1, flNV) else (v, if exact then 0 else flNX)

/-- The value of an F19 code (R83). -/
def decodeF19 (x : BitVec 19) : Val :=
  let neg := x.getLsbD 18
  let ex := (x.toNat >>> 10) % 256
  let fr := x.toNat % 1024
  if ex = 0 then .fin neg 0 0 else if ex = 255 then (if fr = 0 then .inf neg else .nan false)
  else .fin neg (1024 + fr) ((ex : Int) - 137)

/-- The value of a code of a binary format (R78 to R80). Only E5M2 of the narrow formats has signalling NaNs (R79). -/
def decodeSpec (s : Spec) (bits : Nat) : Val :=
  let n := s.eb + s.mb
  let neg := bits.testBit n
  let c := bits % 2 ^ n
  match s.kind with
  | .ieee =>
    if c >>> s.mb = 2 ^ s.eb - 1 then
      (if c % 2 ^ s.mb = 0 then .inf neg else .nan (!(c.testBit (s.mb - 1))))
    else let p := specMag s c; .fin neg p.1 p.2
  | .e4 => if c = 2 ^ n - 1 then .nan false else let p := specMag s c; .fin neg p.1 p.2
  | .plain => let p := specMag s c; .fin neg p.1 p.2
  | .native => if neg && c = 0 then .nan false else let p := specMag s c; .fin neg p.1 p.2

/-- A decode table: 256 F19 entries in code order, and its status (R85, R86). -/
structure DecTable where
  entries : List (BitVec 19)
  status : BitVec 3
deriving DecidableEq, Repr

/-- The four tables of a core. -/
abbrev Tables := Vector DecTable 4

/-- The entry of a code, as an F19 value. -/
def tabEntry (t : DecTable) (c : Nat) : BitVec 19 := t.entries.getD c 0

/-- Whether an F19 code is a NaN. -/
def f19IsNaN (x : BitVec 19) : Bool := (x.toNat >>> 10) % 256 = 255 && x.toNat % 1024 ≠ 0

/-- The ordered magnitude of an F19 code; all zeros are one (R86). -/
def f19Key (x : BitVec 19) : Nat := if (x.toNat >>> 10) % 256 = 0 then 0 else x.toNat % 2 ^ 18

/-- The codes with a NaN entry. -/
def tabNaNs (t : List (BitVec 19)) : List Nat := (List.range 256).filter fun c => f19IsNaN (t.getD c 0)

/-- The order check of R86 on the entries of the codes 0x00 to 0x7F other than N. -/
def orderOk : List (BitVec 19) → Bool
  | [] => true
  | [a] => !a.getLsbD 18
  | a :: b :: r => !a.getLsbD 18 && f19Key a < f19Key b && f19Key a ≠ 0x3FC00 && orderOk (b :: r)

/-- The status DTLD records (R86). -/
def tabStatus (t : List (BitVec 19)) : BitVec 3 :=
  match tabNaNs t with
  | [n] =>
    let sym := (List.range 128).all fun c =>
      c = n || c + 128 = n ||
        (f19Key (t.getD c 0) = f19Key (t.getD (c + 128) 0) && (t.getD c 0).getLsbD 18 ≠ (t.getD (c + 128) 0).getLsbD 18)
    if !sym then 1
    else if !orderOk (((List.range 128).filter (· ≠ n)).map fun c => t.getD c 0) then 2
    else 0
  | _ => 3

/-- The finite candidates of a sign in a table: codes with their magnitudes, in ascending code order. -/
def tabCands (t : DecTable) (neg : Bool) : List (Nat × (Nat × Int)) :=
  (List.range 256).filterMap fun c =>
    match decodeF19 (tabEntry t c) with
    | .fin s m e => if s = neg || m = 0 then some (c, (m, e)) else none
    | _ => none

/-- The candidate of greatest magnitude at most `x`, lowest code first. -/
def candLo (x : Nat × Int) : List (Nat × (Nat × Int)) → Option (Nat × (Nat × Int))
  | [] => none
  | c :: r =>
    match candLo x r with
    | none => if magCmp c.2.1 c.2.2 x.1 x.2 = .gt then none else some c
    | some b => if magCmp c.2.1 c.2.2 x.1 x.2 = .gt then some b
      else if magCmp c.2.1 c.2.2 b.2.1 b.2.2 = .lt then some b else some c

/-- The candidate of least magnitude above `x`, lowest code first. -/
def candHi (x : Nat × Int) : List (Nat × (Nat × Int)) → Option (Nat × (Nat × Int))
  | [] => none
  | c :: r =>
    match candHi x r with
    | none => if magCmp c.2.1 c.2.2 x.1 x.2 = .gt then some c else none
    | some b => if magCmp c.2.1 c.2.2 x.1 x.2 = .gt then
        (if magCmp b.2.1 b.2.2 c.2.1 c.2.2 = .lt then some b else some c) else some b

/-- The greatest magnitude of a list of candidates. -/
def candMax (l : List (Nat × (Nat × Int))) : Option (Nat × (Nat × Int)) :=
  l.foldl (fun a c => match a with
    | none => some c
    | some b => if magCmp b.2.1 b.2.2 c.2.1 c.2.2 = .lt then some c else some b) none

/-- The code of a zero of a table: that of the wanted sign, or that of +0 where the table has no -0 (R49, R89); none where the table holds no
zero, and for +0 where its only zero is -0 (what is delivered then is open, log entry 3). -/
def tabZero (t : DecTable) (neg : Bool) : Option Nat :=
  let z := (List.range 256).filterMap fun c =>
    match decodeF19 (tabEntry t c) with | .fin s 0 _ => some (s, c) | _ => none
  match z.find? (fun p => p.1 == neg) with
  | some p => some p.2
  | none => (z.find? (fun p => p.1 == false)).map (·.2)

/-- The overflow point of a table, `2L - L'` (R88). -/
def tabOmega (t : DecTable) : Nat × Int :=
  let all := tabCands t false ++ tabCands t true
  match candMax all with
  | none => (0, 0)
  | some l =>
    match candMax (all.filter fun c => magCmp c.2.1 c.2.2 l.2.1 l.2.2 = .lt) with
    | none => l.2
    | some l' =>
      let e := min l.2.2 l'.2.2
      (2 * (l.2.1 <<< (l.2.2 - e).toNat) - (l'.2.1 <<< (l'.2.2 - e).toNat), e)

/-- Rounding to a table format (R49, R88, R89). Where the table has no zero that may be delivered, the code is a free value. "± largest
finite" is the code of greatest magnitude of that sign, also where the other sign's code has a greater one because its mirror is the NaN
code; that, and the NaN code where a table has no code of the sign at all, is the model's choice (log entry 3). -/
def roundTab (t : DecTable) (rm : Rm) (sat : Bool) (sr : Nat) (x : Val) : Nat × Flags :=
  let nanCode := (tabNaNs t.entries).headD 0
  let top (neg : Bool) : Nat := ((candMax (tabCands t neg)).map (·.1)).getD nanCode
  let zero (neg : Bool) : Nat := (tabZero t neg).getD (Config.tableZero t.entries neg).toNat
  match x with
  | .nan sig => (nanCode, if sig then flNV else 0)
  | .inf neg => (if sat then top neg else nanCode, flNV)
  | .fin neg m e =>
    let cands := tabCands t neg
    let ovr : Nat × Flags := (if rm = .rtz then top neg else if sat then top neg else nanCode, flOF ||| flNX)
    if m = 0 then (zero neg, 0)
    else
    let om := tabOmega t
    if magCmp m e om.1 om.2 ≠ .lt then ovr
    else
      let lo := (candLo (m, e) cands).getD (zero neg, (0, 0))
      if magCmp m e lo.2.1 lo.2.2 = .eq then (lo.1, 0)
      else
        match candHi (m, e) cands with
        | none => if pickHi rm sr (m, e) lo.2 om false then ovr else (lo.1, flNX)
        | some hi =>
          let tieUp : Bool := lo.1 % 2 = 1 && hi.1 % 2 = 0
          if pickHi rm sr (m, e) lo.2 hi.2 tieUp then (hi.1, flNX)
          else if lo.2.1 = 0 then (zero neg, flNX ||| flUF) else (lo.1, flNX)

/-- The exact value of a code of any format (R48, R84, R85). -/
def decodeFmt (tabs : Tables) (f : Fmt) (bits : Nat) : Val :=
  match fmtSpec f with
  | some s => decodeSpec s bits
  | none =>
    match f with
    | .e8m0 => if bits % 256 = 255 then .nan false else .fin false 1 (((bits % 256 : Nat) : Int) - 127)
    | .dt t => decodeF19 (tabEntry (tabs.get t) (bits % 256))
    | .uint8 => .fin false (bits % 256) 0
    | .u64 => .fin false (bits % 2 ^ 64) 0
    | _ =>
      let w := fmtWidth f
      let b := bits % 2 ^ w
      if 2 ^ (w - 1) ≤ b then .fin true (2 ^ w - b) 0 else .fin false b 0

/-- The code of a value in any destination format, with its flags (R48, R49); a signed integer's code is its two's complement at
64 bits. -/
def encodeFmt (tabs : Tables) (f : Fmt) (rm : Rm) (sat : Bool) (sr : Nat) (x : Val) : Word × Flags :=
  match fmtSpec f with
  | some s => let p := roundSpec s rm sat sr x; (BitVec.ofNat 64 p.1, p.2)
  | none =>
    match fmtInt f with
    | some lim => let p := roundInt lim rm sr x; (BitVec.ofInt 64 p.1, p.2)
    | none =>
      match f with
      | .dt t => let p := roundTab (tabs.get t) rm sat sr x; (BitVec.ofNat 64 p.1, p.2)
      | _ => (0, 0)

/-- One step of the stochastic state (R90). -/
def srAdvance (s : Word) : Word :=
  let s := if s = 0 then 1 else s
  let s := s ^^^ (s <<< 13)
  let s := s ^^^ (s >>> 7)
  s ^^^ (s <<< 17)

/-- SRST bits 63:48. -/
def srTop (s : Word) : Nat := s.toNat >>> 48

/-! ### Exact arithmetic on values -/

/-- An exact sum, and whether the operation was invalid (R42, R45). A sum of zero is +0 unless both terms are -0. -/
def vAdd (a b : Val) : Val × Bool :=
  match a, b with
  | .nan s, .nan t => (.nan false, s || t)
  | .nan s, _ => (.nan false, s)
  | _, .nan t => (.nan false, t)
  | .inf s, .inf t => if s = t then (.inf s, false) else (.nan false, true)
  | .inf s, .fin _ _ _ => (.inf s, false)
  | .fin _ _ _, .inf t => (.inf t, false)
  | .fin s m e, .fin t n f =>
    if m = 0 && n = 0 then (.fin (s && t) 0 0, false)
    else
      let p := align m e n f
      let x : Int := (if s then -(p.1 : Int) else p.1) + (if t then -(p.2 : Int) else p.2)
      (.fin (decide (x < 0)) x.natAbs (min e f), false)

/-- The opposite value. -/
def vNeg : Val → Val
  | .nan s => .nan s
  | .inf s => .inf (!s)
  | .fin s m e => .fin (!s) m e

/-- The magnitude. -/
def vAbs : Val → Val
  | .nan s => .nan s
  | .inf _ => .inf false
  | .fin _ m e => .fin false m e

/-- An exact product. -/
def vMul (a b : Val) : Val × Bool :=
  match a, b with
  | .nan s, .nan t => (.nan false, s || t)
  | .nan s, _ => (.nan false, s)
  | _, .nan t => (.nan false, t)
  | .inf s, .inf t => (.inf (s != t), false)
  | .inf s, .fin t n _ => if n = 0 then (.nan false, true) else (.inf (s != t), false)
  | .fin s m _, .inf t => if m = 0 then (.nan false, true) else (.inf (s != t), false)
  | .fin s m e, .fin t n f => (.fin (s != t) (m * n) (e + f), false)

/-- A quotient good to at least 66 significant bits, its last bit sticky; with its invalid and division-by-zero marks. -/
def vDiv (a b : Val) : Val × Flags :=
  match a, b with
  | .nan s, .nan t => (.nan false, if s || t then flNV else 0)
  | .nan s, _ => (.nan false, if s then flNV else 0)
  | _, .nan t => (.nan false, if t then flNV else 0)
  | .inf _, .inf _ => (.nan false, flNV)
  | .inf s, .fin t _ _ => (.inf (s != t), 0)
  | .fin s _ _, .inf t => (.fin (s != t) 0 0, 0)
  | .fin s m e, .fin t n f =>
    if n = 0 then (if m = 0 then (.nan false, flNV) else (.inf (s != t), flDZ))
    else
      let k := 68 + Nat.log2 n
      let q := (m <<< k) / n
      let r := (m <<< k) % n
      (.fin (s != t) (2 * q + (if r = 0 then 0 else 1)) (e - f - k - 1), 0)

/-- The integer square root by bits from `i` down. -/
def isqrt (n : Nat) : Nat → Nat → Nat
  | 0, r => r
  | i + 1, r => let t := r + 2 ^ i; isqrt n i (if t * t ≤ n then t else r)

/-- A square root good to at least 70 significant bits, its last bit sticky (R45). -/
def vSqrt (a : Val) : Val × Flags :=
  match a with
  | .nan s => (.nan false, if s then flNV else 0)
  | .inf s => if s then (.nan false, flNV) else (.inf false, 0)
  | .fin s m e =>
    if m = 0 then (.fin s 0 0, 0) else if s then (.nan false, flNV)
    else
      let odd := e % 2 ≠ 0
      let m' := (if odd then 2 * m else m) <<< 144
      let e' : Int := (if odd then e - 1 else e) - 144
      let r := isqrt m' (Nat.log2 m' / 2 + 1) 0
      (.fin false (2 * r + (if r * r = m' then 0 else 1)) (e' / 2 - 1), 0)

/-- The order of two values that are no NaN; zeros are equal. -/
def vCmp (a b : Val) : Ordering :=
  match a, b with
  | .inf s, .inf t => if s = t then .eq else if s then .lt else .gt
  | .inf s, _ => if s then .lt else .gt
  | _, .inf t => if t then .gt else .lt
  | .fin s m e, .fin t n f =>
    let p := align m e n f
    compare (if s then -(p.1 : Int) else (p.1 : Int)) (if t then -(p.2 : Int) else (p.2 : Int))
  | _, _ => .eq

/-- Whether a value is a NaN. -/
def vIsNaN : Val → Bool
  | .nan _ => true
  | _ => false

/-- Whether a value is a signalling NaN. -/
def vIsSig : Val → Bool
  | .nan s => s
  | _ => false

/-- Whether the sign is set. -/
def vNegative : Val → Bool
  | .nan _ => false
  | .inf s => s
  | .fin s _ _ => s

/-- The flag of an invalid operation. -/
def nvIf (b : Bool) : Flags := if b then flNV else 0

/-- The binary layout of a scalar size (R42). -/
def fszSpec : FSz → Spec
  | .f64 => ⟨11, 52, 1023, .ieee⟩
  | .f32 => ⟨8, 23, 127, .ieee⟩

/-- The width in bits of a scalar size. -/
def fszW : FSz → Nat
  | .f64 => 64
  | .f32 => 32

/-- A rounded sum in a format (R45). -/
def fpAdd (s : Spec) (rm : Rm) (sr a b : Nat) : Nat × Flags :=
  let v := vAdd (decodeSpec s a) (decodeSpec s b)
  let r := roundSpec s rm false sr v.1
  (r.1, r.2 ||| nvIf v.2)

/-- A rounded difference. -/
def fpSub (s : Spec) (rm : Rm) (sr a b : Nat) : Nat × Flags :=
  let v := vAdd (decodeSpec s a) (vNeg (decodeSpec s b))
  let r := roundSpec s rm false sr v.1
  (r.1, r.2 ||| nvIf v.2)

/-- A rounded product. -/
def fpMul (s : Spec) (rm : Rm) (sr a b : Nat) : Nat × Flags :=
  let v := vMul (decodeSpec s a) (decodeSpec s b)
  let r := roundSpec s rm false sr v.1
  (r.1, r.2 ||| nvIf v.2)

/-- A rounded quotient. -/
def fpDiv (s : Spec) (rm : Rm) (a b : Nat) : Nat × Flags :=
  let v := vDiv (decodeSpec s a) (decodeSpec s b)
  let r := roundSpec s rm false 0 v.1
  (r.1, r.2 ||| v.2)

/-- A rounded square root. -/
def fpSqrt (s : Spec) (rm : Rm) (a : Nat) : Nat × Flags :=
  let v := vSqrt (decodeSpec s a)
  let r := roundSpec s rm false 0 v.1
  (r.1, r.2 ||| v.2)

/-- A fused product and sum, rounded once (R45). -/
def fpFma (s : Spec) (rm : Rm) (sr a b c : Nat) : Nat × Flags :=
  let p := vMul (decodeSpec s a) (decodeSpec s b)
  let v := vAdd p.1 (decodeSpec s c)
  let r := roundSpec s rm false sr v.1
  (r.1, r.2 ||| nvIf (p.2 || v.2))

/-- The lesser or greater of two values by R46: -0 below +0, one NaN gives way to the other operand. -/
def fpMinMax (s : Spec) (max : Bool) (a b : Nat) : Nat × Flags :=
  let x := decodeSpec s a
  let y := decodeSpec s b
  let fl := nvIf (vIsSig x || vIsSig y)
  if vIsNaN x && vIsNaN y then (specNaN s, fl) else if vIsNaN x then (b, fl) else if vIsNaN y then (a, fl)
  else
    let less := match vCmp x y with | .lt => true | .gt => false | .eq => vNegative x
    (if less != max then a else b, fl)

/-- The ordered comparisons of R46: 0 equal, 1 less, 2 less or equal. -/
def fpCmp (s : Spec) (op : Nat) (a b : Nat) : Bool × Flags :=
  let x := decodeSpec s a
  let y := decodeSpec s b
  if vIsNaN x || vIsNaN y then (false, nvIf (op ≠ 0 || vIsSig x || vIsSig y))
  else
    let o := vCmp x y
    (match op with | 0 => o == .eq | 1 => o == .lt | _ => o != .gt, 0)

/-- The class mask of R46. -/
def fpClass (s : Spec) (a : Nat) : Nat :=
  match decodeSpec s a with
  | .nan true => 256
  | .nan false => 512
  | .inf true => 1
  | .inf false => 128
  | .fin neg m _ =>
    let sub : Bool := (a % 2 ^ (s.eb + s.mb)) < 2 ^ s.mb
    if m = 0 then (if neg then 8 else 16) else if sub then (if neg then 4 else 32) else (if neg then 2 else 64)

/-- Sign injection (R46): 0 copies the sign of `b`, 1 its opposite, 2 the exclusive or. -/
def fpSgnj (s : Spec) (mode : Nat) (a b : Nat) : Nat :=
  let n := s.eb + s.mb
  let sa := a.testBit n
  let sb := b.testBit n
  let sg := match mode with | 0 => sb | 1 => !sb | _ => sa != sb
  a % 2 ^ n + (if sg then 2 ^ n else 0)

/-! ### The unary functions of R171 -/

/-- A reciprocal (R171). -/
def vRcp (a : Val) : Val × Flags := vDiv (.fin false 1 0) a

/-- A reciprocal square root good to at least 98 significant bits, its last bit sticky (R171). -/
def vRsq (a : Val) : Val × Flags :=
  match a with
  | .nan s => (.nan false, if s then flNV else 0)
  | .inf s => if s then (.nan false, flNV) else (.fin false 0 0, 0)
  | .fin s m e =>
    if m = 0 then (.inf s, flDZ) else if s then (.nan false, flNV)
    else
      let odd := e % 2 ≠ 0
      let m' := if odd then 2 * m else m
      let e' : Int := if odd then e - 1 else e
      let k := 100 + Nat.log2 m'
      let n := 2 ^ (2 * k) / m'
      let r := isqrt n (Nat.log2 n / 2 + 1) 0
      (.fin false (2 * r + (if r * r * m' = 2 ^ (2 * k) then 0 else 1)) (-(k : Int) - 1 - e' / 2), 0)

/-- The product of the roots `2^(2^-i)` chosen by the bits of a fraction below the binary point, at 320 fractional bits: `root` is the
root before bit `i`, `f` the fraction's bits as a number of 320 bits. -/
def exp2Frac (f : Nat) : Nat → Nat → Nat → Nat
  | 0, _, acc => acc
  | i + 1, root, acc =>
    let r := isqrt (root <<< 320) 322 0
    exp2Frac f i r (if f.testBit i then (acc * r) >>> 320 else acc)

/-- A power of two, correct to more than 150 fractional bits, its last bit sticky; exact for an integer (R171; log entry 17). -/
def vExp2 (a : Val) : Val × Flags :=
  match a with
  | .nan s => (.nan false, if s then flNV else 0)
  | .inf s => (if s then .fin false 0 0 else .inf false, 0)
  | .fin s m e =>
    if m = 0 then (.fin false 1 0, 0)
    else if 12 ≤ (Nat.log2 m : Int) + e then (.fin false 1 (if s then -5000 else 5000), 0)
    else
      let fix : Int := (if s then -1 else 1) * ((scale m (e + 320) : Nat) : Int)
      let k : Int := fix / 2 ^ 320
      let f : Nat := (fix - k * 2 ^ 320).toNat
      if f = 0 then (.fin false 1 k, 0)
      else (.fin false (2 * exp2Frac f 320 (2 ^ 321) (2 ^ 320) + 1) (k - 321), 0)

/-- The binary digits of a logarithm: `y` is a number in [1, 2) at 448 fractional bits. -/
def log2Digits : Nat → Nat → Nat → Nat
  | 0, _, acc => acc
  | i + 1, y, acc =>
    let q := (y * y) >>> 448
    if q >>> 449 = 0 then log2Digits i q (2 * acc) else log2Digits i (q >>> 1) (2 * acc + 1)

/-- A logarithm to base two, correct to 192 fractional bits, its last bit sticky; exact for a power of two (R171; log entry 17). -/
def vLog2 (a : Val) : Val × Flags :=
  match a with
  | .nan s => (.nan false, if s then flNV else 0)
  | .inf s => if s then (.nan false, flNV) else (.inf false, 0)
  | .fin s m e =>
    if m = 0 then (.inf true, flDZ) else if s then (.nan false, flNV)
    else
      let k : Int := (Nat.log2 m : Int) + e
      let y := scale m (448 - (Nat.log2 m : Int))
      if y = 2 ^ 448 then (.fin (decide (k < 0)) k.natAbs 0, 0)
      else
        let n : Int := 2 * (k * 2 ^ 192 + (log2Digits 192 y 0 : Nat)) + 1
        (.fin (decide (n < 0)) n.natAbs (-193), 0)

/-- A unary result rounded to a format. -/
def fpUnary (f : Val → Val × Flags) (s : Spec) (rm : Rm) (sr a : Nat) : Nat × Flags :=
  let v := f (decodeSpec s a)
  let r := roundSpec s rm false sr v.1
  (r.1, r.2 ||| v.2)

end Sys2Proof.Num
end

