-- ==== Sys2Proof/Machine/Types.lean ====
section
/-! DEFINITION. The records the machine's state is made of: slots, cores, messages, translations (chapters 01, 03, 05, 06, 08, 09, 11,
12, 15, 16). -/

namespace Sys2Proof.Machine

/-- The fault codes of R346, and the engine and Halyard statuses of R150 and R379 that share their numbers. -/
inductive Code where
  | trap | illOp | illField | illReg | priv | pcAlign | xlMiss | xlPerm | xlAddr | localBound | align | tplCopy | wregCopy
  | tplDepth | furlRead | furlWrite | furlCopy | furlDebug | furlKey | furlPolicy | furlTag | furlMix | furlLeak | furlGraph
  | hBlock | maskwBlock | wdog | handle | futDouble | futBusy | barTwice | barScope | objHdr | objBound | objDead | graphLayout
  | poison | streamDir | stackOvf
deriving DecidableEq, Repr

/-- The number of a code (R346). -/
def Code.num : Code → Nat
  | .trap => 0x00 | .illOp => 0x01 | .illField => 0x02 | .illReg => 0x03 | .priv => 0x04 | .pcAlign => 0x05 | .xlMiss => 0x10
  | .xlPerm => 0x11 | .xlAddr => 0x12 | .localBound => 0x13 | .align => 0x14 | .tplCopy => 0x18 | .wregCopy => 0x19
  | .tplDepth => 0x1B | .furlRead => 0x20 | .furlWrite => 0x21 | .furlCopy => 0x22 | .furlDebug => 0x23 | .furlKey => 0x24
  | .furlPolicy => 0x25 | .furlTag => 0x26 | .furlMix => 0x27 | .furlLeak => 0x28 | .furlGraph => 0x29 | .hBlock => 0x30
  | .maskwBlock => 0x31 | .wdog => 0x32 | .handle => 0x38 | .futDouble => 0x40 | .futBusy => 0x41 | .barTwice => 0x42
  | .barScope => 0x43 | .objHdr => 0x48 | .objBound => 0x49 | .objDead => 0x4A | .graphLayout => 0x4B | .poison => 0x50
  | .streamDir => 0x58 | .stackOvf => 0x60

/-- The classes of R346. -/
inductive Cls where
  | h | u | t
deriving DecidableEq, Repr

/-- The class of a code (R346). -/
def Code.cls : Code → Cls
  | .illOp | .illField | .illReg | .priv | .pcAlign | .streamDir => .h
  | .trap | .xlMiss | .localBound | .align | .tplCopy | .wregCopy | .furlKey | .futDouble | .futBusy | .barTwice | .objHdr
  | .objBound | .objDead | .graphLayout | .stackOvf => .u
  | .xlPerm | .xlAddr | .tplDepth | .furlRead | .furlWrite | .furlCopy | .furlDebug | .furlPolicy | .furlTag | .furlMix
  | .furlLeak | .furlGraph | .hBlock | .maskwBlock | .wdog | .handle | .barScope | .poison => .t

/-- The two bits of a class in FINFO0 and in ring records (R348). -/
def Cls.bits : Cls → Nat
  | .h => 0 | .u => 1 | .t => 2

/-- A fault raised by an instruction: its code, FINFO1, the cookie of an XL_MISS (R107), the cause of an H_BLOCK (R347). -/
structure Trap where
  code : Code
  info : Word := 0
  cookie : Nat := 0
  cause : Nat := 0
deriving DecidableEq, Repr

/-- The memory types of R103. -/
inductive MT where
  | normal | furled | io
deriving DecidableEq, Repr

/-- An entry of a TLB (R99, R103). `vpage` is the address of the page, `size` its SIZE code. -/
structure TlbEntry where
  space : Nat
  vpage : Nat
  size : Nat
  ppn : Nat
  mt : MT
  key : Nat
  cw : Bool
  x : Bool
  w : Bool
  r : Bool
deriving DecidableEq, Repr

/-- The answer of a walk, as it is delivered to a task (R105, R106). -/
inductive WalkAns where
  | entry (e : TlbEntry)
  | retry (cookie : Nat)
  | terminal
  | stale
deriving DecidableEq, Repr

/-- Who asked for a walk: a slot of a core, a PF of it (whose answer is discarded), or an engine, Halyard engine or Bunting unit
that translates for itself (R101, R107). -/
inductive Walker where
  | slot (core : Nat) (slot : Nat)
  | prefetch (core : Nat)
  | unit (u : Nat)
deriving DecidableEq, Repr

/-- A walk request at a service core (R101, R102): `flying` once it is one of the 16 in flight. `va` is the address of the first task that
asked (R110). -/
structure Walk where
  svc : Nat
  quad : Nat
  space : Nat
  va : Nat
  cwReq : Bool
  flying : Bool
  stale : Bool
  who : List Walker
deriving DecidableEq, Repr

/-- What the CXL ports map (R62, R66, R67, R391, R392): the parts of CXL memory that the HDM decoders of expander ports claim (port, first page,
pages), and the parts of their memory that hosts grant through host ports (port, logical device, first page, pages); in pages of 4 KiB
(log entry 1). -/
structure Windows where
  claims : List (Fin 4 × Nat × Nat)
  grants : List (Fin 4 × Nat × Nat × Nat)
deriving DecidableEq, Repr

/-- Who owns a physical address (R62, R66, R69, R249). -/
inductive Owner where
  | slice (core off : Nat)
  | lpddr
  | cxl (port : Fin 4)
  | host (port : Fin 4)
  | counter (core idx : Nat)
  | counterHole
  | device
  | hole
deriving DecidableEq, Repr

/-- A full/empty register (R10, R12), with the poison a result may carry (R72). -/
structure EVal where
  val : Word := 0
  full : Bool := false
  poison : Bool := false
deriving DecidableEq, Repr

/-- A queued element of a stream: its value, or the fault its read met (R163); `seq` is the tick at which a drain's was pushed, by which
the drain streams of a task keep their push order (R164). -/
structure SElem where
  val : Word
  fault : Option Trap
  seq : Nat
deriving DecidableEq, Repr

/-- A stream binding (R160 to R165). `moved` counts elements read (fill) or pushed (drain), `left` those not yet popped or not
yet written; `born` is the machine's numbering when it was set up. -/
structure Stream where
  drain : Bool
  sz : Sz
  spc : Bool
  sx : Bool
  base : Word
  n0 : Nat
  n1 : Nat
  n2 : Nat
  s0 : Int
  s1 : Int
  s2 : Int
  moved : Nat
  left : Nat
  q : List SElem
  fault : Option Trap
  born : Nat
deriving DecidableEq, Repr

/-- The mapping of a wide register (R158). -/
inductive WMap where
  | unmapped
  | priv (p : Fin 192)
  | shared (p : Fin 192)
deriving DecidableEq, Repr

/-- A physical wide register of a quad (R158): in use, its references, 256 bytes, the seal key, the poison bit. -/
structure PReg where
  used : Bool := false
  refs : Nat := 0
  data : WideBits := 0
  tag : Option (Fin 64) := none
  poison : Bool := false
deriving DecidableEq, Repr

/-- The effect of an RMW at an owner (R244, R248, R275, R335, R340). -/
inductive Rmw where
  | rat (fn : Nat) (dbl lit : Bool) (b c : Word)
  | enq (nw : Nat) (data : List Word)
  | deq (nw : Nat)
  | fut (fn : Nat) (psn : Bool) (b : Word)
  | barrier
  | bump (size : Nat) (cur : Option Word)
deriving DecidableEq, Repr

/-- What a reply brings (R231, R122, R245, R248): the values, poison, or a fault found at the owner. -/
inductive Reply where
  | vals (v : List Word)
  | poison
  | fault (t : Trap)
deriving DecidableEq, Repr

/-- Where a reply goes: the waiting instruction of a slot, an `e` register, or nowhere but the count of outstanding accesses
(R231, R245). `task` names the task the result is due to (R55). -/
inductive RTo where
  | wait
  | ereg (r : EReg)
  | none
deriving DecidableEq, Repr

/-- The sender of a message (R230): core, slot, context and task. -/
structure Sender where
  core : Nat
  slot : Nat
  ctx : Nat
  task : Nat
deriving DecidableEq, Repr

/-- A task descriptor (R252). -/
structure Desc where
  w0 : Word
  w1 : Word
deriving DecidableEq, Repr

/-- What travels on the mesh to a core (R231). -/
inductive MsgBody where
  | load (pa n : Nat) (dst : RTo)
  | store (bytes : List (Nat × Byte)) (poison : List Nat) (entry : Nat) (va : Word)
  | stn (pa half : Nat) (v : BitVec 4) (entry : Nat) (va : Word)
  | rmw (pa n : Nat) (op : Rmw) (dst : RTo) (va : Word) (entry : Nat)
  | counter (idx : Nat) (op : Option Rmw) (rel : Bool) (dst : RTo) (entry : Nat)
  | sendw (ctx base wlen off : Nat) (data : List Word) (cn : Option Nat)
  | count (pa : Nat) (psn : Bool)
  | spawn (d : Desc) (cont : Bool)
  | hmsg (hn : Nat) (data : List Word) (ctx : Nat)
  | lmsg (hn : Nat) (data : List Word) (ctx : Nat)
  | fault (target f0 f1 f2 : Word)
  | notice (cookie : Nat)
  | swin (slot sel : Nat) (wr : Option Word)
  | hresume (slot : Nat) (next : Bool)
  | reply (r : Reply) (slot task : Nat) (dst : RTo)
deriving DecidableEq, Repr

/-- A message with its sender. -/
structure Msg where
  dst : Nat
  src : Sender
  body : MsgBody
deriving DecidableEq, Repr

/-- Whose place in a store buffer a performed store releases. -/
inductive Ack where
  | none
  | entry (core id : Nat)
deriving DecidableEq, Repr

/-- A read-modify-write on its way to its owner, in its place among the stores of its core (R245, R259, R260): one of memory, or one of
a counter window (R249), a store to the window included. -/
inductive SbReq where
  | none
  | rmw (pa n : Nat) (op : Rmw) (dst : RTo)
  | ctr (core idx : Nat) (op : Rmw) (dst : RTo)
deriving DecidableEq, Repr

/-- A buffered store (R260): bytes by physical address, words written poisoned (R72), or one nibble (R124). `slot` 5 marks a
built-in handler's. `tile` is the tile of an MSTORE (R209). `rel` holds the send until every earlier store is performed (R263). `va` is
the address that its record names (R73, R110), `rd` what a read-modify-write has read or will read beside what it writes, `req` a
read-modify-write that its owner has still to execute, `acq` whether later reads of the task wait for it (R245). -/
structure StoreEnt where
  id : Nat
  slot : Nat
  src : Sender
  bytes : List (Nat × Byte)
  poison : List Nat
  nib : Option (Nat × Nat × BitVec 4)
  tile : Option (Fin 4)
  rel : Bool
  sent : Bool
  ack : Ack
  va : Word
  rd : List (Nat × Nat)
  req : SbReq
  acq : Bool
deriving DecidableEq, Repr

/-- Which instance a barrier names (R331). -/
inductive BarKey where
  | core (c : Nat) | quad (launch q : Nat) | die (launch d : Nat) | pkg (launch : Nat) | pod (ctx : Nat)
deriving DecidableEq, Repr

/-- What a blocked or stalled slot waits for (R325). -/
inductive Wait where
  | eEmpty (r : EReg)
  | dEmpty (i : Fin 4)
  | dFull (i : Fin 4)
  | dFlush (i : Fin 4)
  | cmdFull (eng ch : Nat)
  | resEmpty (eng ch : Nat)
  | asyncPop (eng ch : Nat)
  | outbound
  | outboundRat
  | readyFull (core : Nat)
  | waita (pa n : Nat) (expect : Word) (lim : Word)
  | barWait (inst : BarKey) (tok : BitVec 32)
  | objBar (pa tok : Nat)
  | tile (c : Fin 4)
  | walkTurn
  | lmap
  | tlbi (id : Nat)
  | replyCore
  | replyMem
  | xlate
  | fence
  | fenceAcq
  | order
  | retireSlot
  | retireCore
  | dqFull
  | matrixSlot (c : Option (Fin 4))
  | idle (lim : Option Nat)
  | storeFull
  | overlap
  | mrotRecv
deriving DecidableEq, Repr

/-- The states of a slot (R319, R355). -/
inductive SlotSt where
  | free
  | ready
  | blocked (w : Wait)
  | stalled (w : Wait)
  | halted
  | parked
deriving DecidableEq, Repr

/-- What a slot's instruction is waiting to be told: outstanding reply (R122); `mem` once memory has been asked. -/
inductive Pend where
  | none
  | mem
  | waiting
  | got (r : Reply)
deriving DecidableEq, Repr

/-- The place of a task in a template (R311, R316). -/
inductive TplRole where
  | none
  | prologue
  | item
  | join
deriving DecidableEq, Repr

/-- A piece of an access that lies in one page and with one owner: its address as the access names it, its physical address and
length, the page's memory type and key, and whether it was reached through a translation. -/
structure Seg where
  va : Word
  pa : Nat
  n : Nat
  mt : MT
  key : Nat
  win : Bool
deriving DecidableEq, Repr

/-- One slot (R10, R319, R342, R344). `pend`, `walkAns`, `t0`, `noted` and `idle0` are the progress of an instruction that has not completed;
`noted` holds the pieces, already translated, that it goes on with. -/
structure Slot where
  st : SlotSt
  pc : Word
  g : Vector Word 24
  e : Vector EVal 8
  d : Vector (Option Stream) 4
  k : Vector Word 4
  w : Vector WMap 16
  ix : Word
  nix : Word
  rank : Word
  rlen : Word
  src : Word
  fpst : BitVec 5
  upc : Word
  finfo0 : Word
  finfo1 : Word
  finfo2 : Word
  carveBase : BitVec 17
  carveSize : BitVec 17
  spillN : BitVec 5
  cowN : BitVec 7
  qbase : BitVec 17
  tplBase : BitVec 17
  ovfp : Word
  engMap : Word
  wdLim : BitVec 11
  sv : Bool
  up : Bool
  depth : BitVec 2
  mw : Nat
  task : Nat
  ctx : Nat
  launch : Option Nat
  bind : BitVec 64
  meas : Option (BitVec 384)
  role : TplRole
  tpl : Option Nat
  lineMap : List (Nat × Nat)
  pend : Pend
  walkAns : List (Nat × WalkAns)
  t0 : Option Word
  noted : List Seg
  idle0 : Option (Nat × Nat)
  watchdog : Option Nat
  argsDue : Option (Nat × Word)
deriving DecidableEq, Repr

/-- An accumulator tile (R189): 32 rows of 32 FP32 elements, row 0 in the low bits; seal, poison, claim. `owner` is the slot and the task
that claim it, `giving` whether they have given it up: then the claim ends with what they had accepted for the tile (R55, R208). -/
structure Tile where
  data : BitVec 32768 := 0
  tag : Option (Fin 64) := none
  poison : Bool := false
  owner : Option (Nat × Nat) := none
  giving : Bool := false
deriving DecidableEq, Repr

/-- The operand latch or the receive buffer of a core (R189, R198, R200): 2 KiB of elements and 128 block scales. -/
structure Latch where
  data : BitVec 16384
  scales : BitVec 1024
  tag : Option (Fin 64)
  poison : Bool
  full : Bool
deriving DecidableEq, Repr

/-- A retirement still due from the wide or the matrix unit (R156, R157, R190); `keys` are the key slots under which it was accepted, each
with whether it reads a furled local range (R213, R217), `id` the machine's numbering at its acceptance (R106). -/
structure Retire where
  matrix : Bool
  slot : Nat
  task : Nat
  flags : BitVec 5
  result : Option (EReg × Word × Bool)
  doom : Option (Trap × Word)
  tile : Option (Fin 4)
  rot : Bool
  keys : List (Nat × Bool)
  id : Nat
deriving DecidableEq, Repr

/-- An MROT accepted and not yet complete (R200): the next core of its sub-ring, whether its Send is still due, and the number that the
next buffered store had when it was accepted, by which the stores of later matrix instructions wait for it. -/
structure Rot where
  slot : Nat
  task : Nat
  next : Nat
  sendDue : Bool
  id : Nat
deriving DecidableEq, Repr

/-- A ready-queue entry (R322). -/
structure RqEnt where
  cls : Nat
  desc : Desc
  launch : Option Nat
  ctx : Nat
  src : Word
  age : Nat
  seq : Nat
  ovf : Bool
  /-- what the task starts with: an L message's handler number and payload, a notice's cookie, a supervisor handler's registers, a
  join of a template, or a plain descriptor -/
  kind : Nat
  data : List Word
deriving DecidableEq, Repr

/-- A waiting-task entry (R253). -/
structure WtEnt where
  ctr : BitVec 6
  thr : BitVec 32
  ge : Bool
  desc : Desc
  launch : Option Nat
  ctx : Nat
deriving DecidableEq, Repr

/-- The join of a template (R316). -/
inductive JoinSt where
  | none | waiting (pc : Word) | placed (pc : Word) (since : Nat) | running | ended
deriving DecidableEq, Repr

/-- A template (R308, R310): its frozen state and what is still to come of it. `home` is the freezing core, `cores` those that
hold its record, `wide` the shared physical register of each frozen register in each quad, `ended` the ended items (core and task), whose
accesses the join comes after (R266). -/
structure Tpl where
  launch : Option Nat
  ctx : Nat
  parent : Option Nat
  byJoin : Bool
  depth : BitVec 2
  home : Nat
  homeSlot : Nat
  cores : List Nat
  n : Nat
  pending : Nat
  pc : Word
  g : Vector Word 24
  wide : List (Nat × Nat × Fin 192)
  toCopy : List Nat
  frozen : List (Nat × WideBits × Option (Fin 64) × Bool)
  overlay : List (Nat × List Byte × List Nat)
  bind : BitVec 64
  meas : Option (BitVec 384)
  join : JoinSt
  ended : List (Nat × Nat)
deriving DecidableEq, Repr

/-- The stamping cursor of a core for one template (R311, R323): the next item it offers, and since when the template waits. -/
structure Cursor where
  tpl : Nat
  next : Nat
  since : Nat
deriving DecidableEq, Repr

/-- A furled local range of a core (R215). -/
structure FurlRange where
  key : Nat
  lb : Nat
  len : Nat
  vb : Word
deriving DecidableEq, Repr

/-- One core (R10, R57, R62): what is shared by its slots. `ctrMark` is the number that the next buffered store had when the core last
updated a counter of its own: what other cores read of its counters comes after the stores before it (R259). `unmapDue` holds the
wide-register mappings of ended tasks whose accepted instructions have not all retired (R55, R158). `clkProt`, `clkBase` and `clkFrom` say
which of the package's counts `clk` follows, and the values of `clk` and of that count when it began to (R14). -/
structure Core where
  act : Option Nat
  preempted : Option Nat
  slots : Vector Slot 5
  srst : Word
  rgn : Vector Word 8
  dt : Num.Tables
  utlb : List TlbEntry
  icache : List (Nat × Word)
  mctx : BitVec 32
  mprog : Word
  tiles : Vector Tile 4
  latch : Latch
  recv : Latch
  rots : List Rot
  sb : List StoreEnt
  dq : List Retire
  mq : List Msg
  orphans : List (Nat × Slot × Nat × Stream)
  rq : List RqEnt
  rr : Nat
  hRun : Nat
  ctr : Vector (BitVec 32) 64
  ctrMark : Nat
  clkProt : Bool
  clkBase : Nat
  clkFrom : Nat
  unmapDue : List (Nat × List WMap)
  wt : Vector (Option WtEnt) 16
  cursors : List Cursor
  watched : List (Nat × Nat)
  furl : List FurlRange
  ctx : Option Nat
  launch : Option Nat
  lastEvent : Nat
  fenced : Bool
deriving DecidableEq, Repr

/-- One quad (R57, R99, R158). -/
structure Quad where
  pregs : Vector PReg 192
  tlb : List TlbEntry
  rrCore : Nat
  rrMat : Nat
  fenced : Bool
deriving DecidableEq, Repr

/-- A launch (R299 to R307). `owner` names the queue it came from; `base` is the package rank of region rank 0. -/
structure Launch where
  ctx : Nat
  entry : Word
  tpl : Bool
  base : Nat
  rlen : Nat
  sup : Nat
  qbase : BitVec 17
  cown : BitVec 7
  spilln : BitVec 5
  size : BitVec 17
  tplBase : BitVec 17
  args : Word
  nitems : Nat
  compl : Word
  meas : Option (BitVec 384)
  active : Bool
  complDue : Bool
deriving DecidableEq, Repr

/-- A hardware barrier instance (R331): its phase, the members that have arrived, and E where an arrival set it. -/
structure BarInst where
  phase : BitVec 32
  arrived : List Nat
  expect : Nat
deriving DecidableEq, Repr

/-- A ring of the host (R109, R238): its control block, and the records the reporting port still holds. -/
structure Ring where
  pa : Nat
  pend : List (List Word)
deriving DecidableEq, Repr

/-- The reporting port (R111): the kind whose turn it is, how many records of it this turn has taken, and the last ring served of each
kind. -/
structure Reporter where
  kind : Nat
  taken : Nat
  last0 : Nat
  last1 : Nat
  last2 : Nat
deriving DecidableEq, Repr

/-- The states of a context (R382). -/
inductive CtxSt where
  | created | running | descheduled | error | ended
deriving DecidableEq, Repr

/-- The states of a key slot (R213). -/
inductive KeySt where
  | empty | loaded | erasing
deriving DecidableEq, Repr

/-- A key slot of the HSC (R213, R214). -/
structure KeySlot where
  st : KeySt
  ctx : Nat
  xts : BitVec 512
  tagKey : BitVec 256
  policy : List Word
  tagBase : Nat
deriving DecidableEq, Repr

/-- A count against a continuation record that has still to reach the record's owner (R338): the record's address in its space,
the quad that sends it, and who sent it. -/
structure CountReq where
  id : Nat
  va : Word
  psn : Bool
  quad : Nat
  src : Sender
deriving DecidableEq, Repr

/-- A command of a copy engine's channel (R135, R139, R140): its eight words, the pusher's key bindings, and where its stores and its drain
streams stood. -/
structure Cmd where
  id : Nat
  w : List Word
  bind : BitVec 64
  src : Sender
  mark : Nat
  born : Nat
deriving DecidableEq, Repr

/-- A command that executes (R131, R147, R148): what of it is done (bytes or destination rows), its flags, the first word that poison
affected, the status that ended it with word 1 and the address, the bytes of a fetch or the old
value of an atomic, the keys a FURLMOVE started under, whether a Halyard command's packets are sent. -/
structure Exec where
  cmd : Cmd
  done : Nat
  flags : BitVec 5
  pois : Option Word
  stop : Option (Nat × Word × Word)
  fetch : Word
  keys : List Nat
  posted : Bool
deriving DecidableEq, Repr

/-- A pending asynchronous pop (R137): the task's core, slot and number, and the pair `e(2n)`. -/
structure APop where
  core : Nat
  slot : Nat
  task : Nat
  pair : Fin 4
deriving DecidableEq, Repr

/-- A channel of a copy engine (R131, R133, R137). -/
structure Chan where
  ctx : Nat
  cmds : List Cmd
  exec : List Exec
  held : List (Word × Word)
  results : List (Word × Word)
  pops : List APop
deriving DecidableEq, Repr

/-- What a descheduled context keeps (R153, R331, R361): the cores of its interval with their `.core` barriers, the contents and poison of
their slices, and what its engine channels hold. -/
structure Saved where
  cores : NMap Core
  mem : List (Nat × Byte)
  poison : List Nat
  bars : List (BarKey × BarInst)
  chans : NMap Chan
deriving DecidableEq, Repr

/-- A context (R98, R227, R272, R302, R303, R304, R358, R372, R382, R383). `drain` is the instant a drain of it began, `held` keeps it from
starting (R418), `flatBase` and `flatSize` are the base and the page size code of a flat space (R98). -/
structure Context where
  desc : Descriptor
  st : CtxSt
  handles : NMap Handle
  layout : NMap (List Word)
  images : List Image
  launchTab : NMap (LaunchEntry × BitVec 24)
  fabricQ : List (List Word)
  drain : Option Nat
  endDue : Bool
  regs : NMap Registration
  podGroup : List Nat
  podRoot : Nat
  peers : List Nat
  root : Nat
  flat : Bool
  flatBase : Nat
  flatSize : Fin 4
  hostShared : Bool
  firstStart : Option Nat
  held : Bool
  saved : Option Saved
deriving DecidableEq, Repr

/-- A copy or Halyard engine: its stochastic state (R91), the channel after which its turn comes (R133), and whether it is fenced
(R420). -/
structure Engine where
  sr : Word
  rr : Nat
  fenced : Bool
deriving DecidableEq, Repr

/-- A packet given to the fabric (R367): its operation code, the local queue pair it leaves on, the packet. -/
structure Sent where
  opc : Nat
  qpn : Nat
  p : Packet
deriving DecidableEq, Repr

/-- The states of a queue pair (R368). -/
inductive QpSt where
  | reset | ready | error
deriving DecidableEq, Repr

/-- A packet sent that waits for its answer (R375, R376): its number, kind and contents, the command it belongs to, how often it was
sent again, when it was last sent or turned away, whether it waits for its backoff after CONTEXT-BUSY, how long that is (both in
nanoseconds), and the data of a read response that has still to be written. -/
structure Outst where
  psn : Nat
  opc : Nat
  pkt : Packet
  cmd : Nat
  tries : Nat
  sentAt : Nat
  busy : Bool
  backoff : Nat
  resp : Option (List Byte)
deriving DecidableEq, Repr

/-- A queue pair (R368) with its sequence numbers, what it awaits, the answers to packets already performed (R375), and the graph streams
that walks of this package hold at the peer's landing zones, each with the context that sends it (R294). -/
structure Qp where
  ctx : Nat
  idx : Nat
  rec0 : QpInit
  st : QpSt
  psn : Nat
  rpsn : Nat
  out : List Outst
  done : List (Nat × List Sent)
  evicted : Bool
  zones : List (Nat × Nat)
deriving DecidableEq, Repr

/-- One session with a peer package (R378): the counters of its two directions, the counters accepted in the replay window
(twice the counter, plus its epoch), and until when the old epoch is accepted. -/
structure Session where
  ctx : Nat
  pkg : Nat
  up : Bool
  epoch : Bool
  sendCtr : Nat
  recvEpoch : Bool
  seen : List Nat
  oldUntil : Option Nat
deriving DecidableEq, Repr

/-- A packet of the network whose performance at this package has still to come (R373, R377): its operation code, the local queue
pair it arrived on. -/
structure Rx where
  opc : Nat
  qpn : Nat
  pkt : Packet
deriving DecidableEq, Repr

/-- A graph walk that has a walk slot of a Bunting unit (R279 to R292): its number, the physical address of its block, the task that
holds it, its unit once it has a slot there (twice the die, plus 0 or 1), the bits of its watch filters by die or hub, how far it has come (0 objects,
2 waiting for the receiver, 3 opening its zone), the end that the receiver told it, GHASH's chaining words with the byte count, and for GSEND the stream and what the receiver last
answered. -/
structure GWalk where
  id : Nat
  pa : Nat
  ctx : Nat
  oper : Nat
  holder : Nat × Nat × Nat
  unit : Option Nat
  running : Bool
  filt : List (Nat × Nat)
  marked : Bool
  phase : Nat
  fix : Nat
  hst : List Word
  stream : Nat
  answer : Option (List Nat)
deriving DecidableEq, Repr

/-- A stream at a graph landing zone of this package (R293 to R295): its identity, the receiving context and descriptor with its
physical address, the walk it comes from (by number, and the queue pair where the walk is on another package), the objects that have arrived and are not yet
received, the count that the sender's completion names, the sending context where it is of this package, and the die whose slice holds
its arrival queue. -/
structure LStream where
  id : Nat
  ctx : Nat
  desc : Word
  pa : Nat
  qp : Option Nat
  walk : Nat
  inbox : List (List Word)
  ended : Option Nat
  src : Nat
  die : Nat
deriving DecidableEq, Repr

/-- An outstanding retryable request of a logical device (R108). -/
structure Retryable where
  ld : Nat
  cookie : Nat
  ctx : Nat
deriving DecidableEq, Repr

/-- The record at the head of a launch queue, as far as R305 has taken it: its words and address, whether DEP holds, what PRED said,
and the cookie a read of it waits for. -/
structure Head where
  q : LaunchQ
  ws : List Word
  va : Word
  dep : Bool
  pred : Option Bool
  cookie : Option Nat
deriving DecidableEq, Repr

/-- An addition at COMPL that is still due (R307). -/
structure Compl where
  id : Nat
  ctx : Nat
  va : Word
  cookie : Option Nat
deriving DecidableEq, Repr

/-- Where a package is in its bring-up (R415, R419). -/
inductive Boot where
  | off | recovery | up
deriving DecidableEq, Repr

/-- The supply rails (R415). -/
inductive Rail where
  | vaon | vsram | vhub | vcore | vddq | vser
deriving DecidableEq, Repr

/-- The power-up order of a rail (R415). -/
def Rail.order : Rail → Nat
  | .vaon => 1 | .vsram | .vhub => 2 | .vcore => 3 | .vddq | .vser => 4

/-- Every rail. -/
def allRails : List Rail := [.vaon, .vsram, .vhub, .vcore, .vddq, .vser]

/-- Power, clock and temperature (R415 to R419): the rails that are up, the clock in MHz, the dies at or above 105 °C,
and whether the reset cause records a trip. -/
structure Power where
  rails : List Rail
  boot : Boot
  mhz : Nat
  hot : List Nat
  trip : Bool
deriving DecidableEq, Repr

/-- The states of a TDISP interface (R394). -/
inductive TdiSt where
  | unlocked | locked | run
deriving DecidableEq, Repr

/-- A VF as a TDISP interface with its SPDM session (R394): `exitAt` is the instant that the HSC recorded. -/
structure VfIf where
  session : Bool
  tdi : TdiSt
  exitAt : Option Nat
deriving DecidableEq, Repr

/-- OWNER and DEST of an entry of the event routing table (R395). -/
structure Evrt where
  owner : Nat
  dest : Nat
deriving DecidableEq, Repr

/-- An event that occurred (R395): its source, the owner it went to and where, and what it concerns. -/
structure Event where
  evt : Nat
  owner : Nat
  dest : Nat
  arg : Nat
deriving DecidableEq, Repr

/-- The error units of R74. -/
inductive ErrUnit where
  | slice (core : Nat) | wreg (quad : Nat) | acc (quad : Nat) | latch (core : Nat) | sub (n : Nat)
deriving DecidableEq, Repr

/-- A place in a register-like unit at which a read may meet an error (R71, R74): a physical wide register, a tile, a latch. -/
inductive ErrSite where
  | wreg (quad : Nat) (p : Fin 192) | tile (core : Nat) (n : Fin 4) | latch (core : Nat)
deriving DecidableEq, Repr

/-- What an error unit has counted (R74): when it corrected, and until when it has been declared failing (R421). -/
structure ErrLog where
  unit : ErrUnit
  times : List Nat
  failed : Option Nat
deriving DecidableEq, Repr

/-- A scrub record (R387). -/
structure ScrubRec where
  base : Nat
  len : Nat
  departing : Option Nat
  arriving : Option Nat
  count : Nat
deriving DecidableEq, Repr

/-- An attestation token (R389), claim by claim; its signature is a free value. -/
structure Token where
  ctx : Nat
  nonce : List Byte
  images : List Image
  keys : List (BitVec 384)
  desc : Descriptor
  scrub : Option ScrubRec
  sig : Word
deriving DecidableEq, Repr

/-- A grant of a handle as the HSC records it (R385). -/
structure Grant where
  ctx : Nat
  idx : Nat
  offered : Bool
  accepted : Bool
deriving DecidableEq, Repr

end Sys2Proof.Machine
end

