-- ==== Sys2Proof/Machine/State.lean ====
section
/-! DEFINITION. The state of one package (chapters 03 and 10 to 18): plain data. -/

namespace Sys2Proof.Machine

/-- Who moves next when the schedule says so (log entry 4): a core, a unit's step given as its row of the opcode table, or the world
outside: a bit error in a word of memory, true where it cannot be corrected, one that a read of a register-like unit meets (R71, R74; log
entry 14), poison that a CXL expander or a host reports on a word (R71). -/
inductive Turn where
  | core (c : Nat)
  | act (i : Instr)
  | bitError (w : Nat) (unc : Bool)
  | unitError (p : ErrSite) (unc : Bool)
  | poisonReport (w : Nat)
deriving DecidableEq, Repr

/-- A TLBI that has dropped its entries and waits for accesses made through them (R106): its number, which stores of which cores it
waits for, which messages, and which engine commands. -/
structure TlbiWait where
  id : Nat
  cores : List Nat
  msgs : List Msg
  cmds : List Nat
deriving DecidableEq, Repr

/-- The machine. `ecc` lists the words of memory that hold a bit error not yet read, true where it cannot be corrected (R71, R74; log entry
14), `furled` the furled pages that translations have shown (R210, R223). -/
structure State where
  pkg : BitVec 21
  agenda : List Turn
  cur : Nat
  tick : Nat
  cycles : Nat
  ns : Nat
  nsFrac : Nat
  nextId : Nat
  turns : Nat
  cores : NMap Core
  quads : NMap Quad
  mem : Memory
  poison : List Nat
  walks : List Walk
  tlbis : List TlbiWait
  reassign : NMap Nat
  unitTlb : NMap (List TlbEntry)
  unitAns : NMap (List (Nat × WalkAns))
  counts : List CountReq
  chans : NMap Chan
  engines : NMap Engine
  sent : List Sent
  qps : NMap Qp
  sessions : NMap Session
  mesh : List Msg
  ctxs : NMap Context
  launches : NMap Launch
  tpls : NMap Tpl
  bars : List (BarKey × BarInst)
  rings : NMap Ring
  rpt : Reporter
  rptw : BitVec 12
  rx : List Rx
  gwalks : List GWalk
  streams : List LStream
  keys : Vector KeySlot 64
  vfs : NMap (Nat × Nat)
  hdm : Windows
  retryables : List Retryable
  launchRings : NMap Nat
  heads : List Head
  compls : List Compl
  power : Power
  ifs : NMap VfIf
  lds : NMap Nat
  evrt : NMap Evrt
  events : List Event
  scrubs : List ScrubRec
  tokens : List Token
  grants : List Grant
  hubs : NMap Nat
  thr : Vector Nat 3
  ecc : List (Nat × Bool)
  furled : List TlbEntry
  errLogs : List ErrLog
  subFenced : List Nat
  buntFenced : List Nat
  discards : Nat
  dbgOut : List Byte
deriving DecidableEq, Repr

/-- Why a machine stops for good. -/
inductive Fault where
  /-- Raised by a step while the package's rails are off (R415): nothing executes. Safe: no claim about a next state follows. -/
  | poweredOff
deriving DecidableEq, Repr

/-- Why an instruction has no meaning here. -/
inductive Refusal where
  /-- Raised by an arm of `exec` that the model does not give a meaning yet. Safe. -/
  | notModelled (mnemonic : String)
deriving DecidableEq, Repr

/-- An empty full/empty register. -/
def EVal.empty : EVal := ⟨0, false, false⟩

/-- A slot that holds no task, as the scrub leaves it (R387); values the spec does not give are zero (log entry 1). -/
def Slot.reset : Slot where
  st := .free
  pc := 0
  g := Vector.replicate 24 0
  e := Vector.replicate 8 EVal.empty
  d := Vector.replicate 4 none
  k := Vector.replicate 4 0
  w := Vector.replicate 16 .unmapped
  ix := 0
  nix := 0
  rank := 0
  rlen := 0
  src := 0
  fpst := 0
  upc := 0
  finfo0 := 0
  finfo1 := 0
  finfo2 := 0
  carveBase := 0x18000
  carveSize := 0
  spillN := 0
  cowN := 0
  qbase := 0x18000
  tplBase := 0x18000
  ovfp := 0
  engMap := 0
  wdLim := 0
  sv := false
  up := false
  depth := 0
  mw := 0
  task := 0
  ctx := 0
  launch := none
  bind := 0
  meas := none
  role := .none
  tpl := none
  lineMap := []
  pend := .none
  walkAns := []
  t0 := none
  noted := []
  idle0 := none
  watchdog := none
  argsDue := none

/-- A latch as the scrub leaves it: zero, scales 0x7F (R189). -/
def Latch.reset : Latch :=
  ⟨0, BitVec.ofNat 1024 (0x7F * ((2 ^ 1024 - 1) / 255)), none, false, false⟩

/-- A decode table before any DTLD: zero entries, hence no NaN code, status 3 (R86; log entry 1). -/
def decTableReset : Num.DecTable := ⟨List.replicate 256 0, 3⟩

/-- A core after reset. -/
def Core.reset : Core where
  act := none
  preempted := none
  slots := Vector.replicate 5 Slot.reset
  srst := 1
  rgn := Vector.replicate 8 0
  dt := Vector.replicate 4 decTableReset
  utlb := []
  icache := []
  mctx := 0x101
  mprog := 0x12033012
  tiles := Vector.replicate 4 ⟨0, none, false, none, false⟩
  latch := Latch.reset
  recv := Latch.reset
  rots := []
  sb := []
  dq := []
  mq := []
  orphans := []
  rq := []
  rr := 0
  hRun := 0
  ctr := Vector.replicate 64 0
  ctrMark := 0
  clkProt := false
  clkBase := 0
  clkFrom := 0
  unmapDue := []
  wt := Vector.replicate 16 none
  cursors := []
  watched := []
  furl := []
  ctx := none
  launch := none
  lastEvent := 0
  fenced := false

/-- A quad after reset. -/
def Quad.reset : Quad where
  pregs := Vector.replicate 192 ⟨false, 0, 0, none, false⟩
  tlb := []
  rrCore := 0
  rrMat := 0
  fenced := false

/-- The package after reset. -/
def State.reset : State where
  pkg := 0
  agenda := []
  cur := 0
  tick := 0
  cycles := 0
  ns := 0
  nsFrac := 0
  nextId := 0
  turns := 0
  cores := []
  quads := []
  mem := []
  poison := []
  walks := []
  tlbis := []
  reassign := []
  unitTlb := []
  unitAns := []
  counts := []
  chans := []
  engines := []
  sent := []
  qps := []
  sessions := []
  mesh := []
  ctxs := []
  launches := []
  tpls := []
  bars := []
  rings := []
  rpt := ⟨0, 0, 0, 0, 0⟩
  rptw := 0x224
  keys := Vector.replicate 64 ⟨.empty, 0, 0, 0, [], 0⟩
  vfs := []
  hdm := ⟨[], []⟩
  rx := []
  gwalks := []
  streams := []
  launchRings := []
  heads := []
  compls := []
  power := ⟨allRails, .up, 1100, [], false⟩
  ifs := []
  lds := []
  evrt := []
  events := []
  scrubs := []
  tokens := []
  grants := []
  hubs := []
  thr := ⟨#[16, 8, 256], rfl⟩
  ecc := []
  furled := []
  errLogs := []
  subFenced := []
  buntFenced := []
  discards := 0
  dbgOut := []
  retryables := []

end Sys2Proof.Machine
end

