-- ==== Sys2Proof/Machine/Ops.lean ====
section
/-! DEFINITION. The named operations over the state: cores, slots and registers; physical memory, its owners and its poison (chapters
03 and 06); records to the host (R110, R388); the end of a task (R55, R316, R317); taking an exception (R28, R347 to R356). -/

namespace Sys2Proof.Machine

/-! ### Cores, slots, quads -/

/-- The core of an id: a package rank below 6,144, or a translation service core `6144 + 8 * die + j` (R57, R61). -/
def coreOf (s : State) (c : Nat) : Core := (nget s.cores c).getD Core.reset

/-- The slot of a number; 4 is the H slot. -/
def slotOf (k : Core) (i : Nat) : Slot := (k.slots[i]?).getD Slot.reset

/-- A core replaced. -/
def setCore (s : State) (c : Nat) (k : Core) : State := { s with cores := nset s.cores c k }

/-- A core changed. -/
def modCore (s : State) (c : Nat) (f : Core → Core) : State := setCore s c (f (coreOf s c))

/-- A slot of a core changed. -/
def Core.modSlot (k : Core) (i : Nat) (f : Slot → Slot) : Core := { k with slots := k.slots.setIfInBounds i (f (slotOf k i)) }

/-- A slot changed. -/
def modSlot (s : State) (c i : Nat) (f : Slot → Slot) : State := modCore s c fun k => k.modSlot i f

/-- The slot of a core. -/
def slotAt (s : State) (c i : Nat) : Slot := slotOf (coreOf s c) i

/-- The running slot of a core; slot 0 where none runs. -/
def actOf (s : State) (c : Nat) : Nat := (coreOf s c).act.getD 0

/-- The quad record. -/
def quadAt (s : State) (q : Nat) : Quad := (nget s.quads q).getD Quad.reset

/-- A quad changed. -/
def modQuad (s : State) (q : Nat) (f : Quad → Quad) : State := { s with quads := nset s.quads q (f (quadAt s q)) }

/-- The count of `clk` of a core since the package's reset (R14): in protected mode it goes on at 1 GHz, otherwise with the arithmetic
clock. -/
def Core.clk (s : State) (k : Core) : Nat := k.clkBase + ((if k.clkProt then s.ns else s.cycles) - k.clkFrom)

/-- `clk` of a core (R14). -/
def clkOf (s : State) (c : Nat) : Word := BitVec.ofNat 64 ((coreOf s c).clk s + Config.clkOffset c)

/-- A core given to a context; its `clk` goes on from where it is in the context's mode (R14). -/
def Core.enter (s : State) (ctx : Nat) (k : Core) : Core :=
  let prot := match nget s.ctxs ctx with | some x => x.desc.prot | none => false
  if prot = k.clkProt then { k with ctx := some ctx }
  else { k with ctx := some ctx, clkProt := prot, clkBase := k.clk s, clkFrom := if prot then s.ns else s.cycles }

/-- The VF of a context id (`vf * 2^20 + pasid`). -/
def vfOf (x : Nat) : Nat := x / 1048576

/-! ### Physical memory -/

/-- The agent of the CXL port whose HDM decoder claims a page of CXL memory (R62, R67). -/
def cxlOwner (hdm : Windows) (page : Nat) : Owner :=
  match hdm.claims.find? fun c => decide (c.2.1 ≤ page) && decide (page < c.2.1 + c.2.2) with
  | some c => .cxl c.1
  | none => .hole

/-- The agent of the CXL port of a logical device for a page of its host's memory that the host grants (R62, R392). -/
def hostOwner (hdm : Windows) (ld page : Nat) : Owner :=
  match hdm.grants.find? fun g => g.2.1 = ld && decide (g.2.2.1 ≤ page) && decide (page < g.2.2.1 + g.2.2.2) with
  | some g => .host g.1
  | none => .hole

/-- The owner of a physical address (R62, R66, R67, R249, R392). Which CXL addresses the decoders claim, and which host memory is granted, is what
REGISTER_WRITE has set in `Windows`: pages of 4 KiB, none at reset, which is the model's form of it (log entry 1). -/
def ownerOf (hdm : Windows) (pa : Nat) : Owner :=
  if pa < 0x10000000000 then .lpddr
  else if pa < 0x1000000000000 then .hole
  else if pa < 0x2000000000000 then
    let x := pa - 0x1000000000000
    let die := x / 0x100000000
    let dr := x / 0x20000 % 0x8000
    let off := x % 0x20000
    if die < 4 && dr < 1536 && off < 0x18000 then .slice (die * 1536 + dr) off else .hole
  else if pa < 0x2080000000000 then cxlOwner hdm ((pa - 0x2000000000000) / 4096)
  else if pa < 0x8000000000000 then .hole
  else if pa < 0x8000400000000 then
    let x := pa - 0x8000000000000
    let dr := x / 0x1000 % 0x100000
    let o := x % 0x1000
    if dr < 1536 && o < 0x100 then .counter (x / 0x100000000 * 1536 + dr) (o / 4) else .counterHole
  else if pa < 0x8000400100000 then .device
  else if pa < 0x9000000000000 then .hole
  else if pa < 0xA000000000000 then hostOwner hdm ((pa - 0x9000000000000) / 2 ^ 44) ((pa - 0x9000000000000) % 2 ^ 44 / 4096)
  else .hole

/-- The physical address of a slice offset (R66). -/
def windowPa (core off : Nat) : Nat := 0x1000000000000 + core / 1536 * 0x100000000 + core % 1536 * 0x20000 + off

/-- The fields of a region register (R118). -/
def rgnBase (r : Word) : Nat := r.toNat % 0x20000
def rgnSize (r : Word) : Nat := r.toNat / 0x20000 % 0x20000
def rgnSwz (r : Word) : Nat := r.toNat / 0x400000000 % 8

/-- The bank of a slice offset (R118). -/
def bankOf (rgn : Vector Word 8) (a : Nat) : Nat :=
  let f := match rgn.toList.find? (fun r => rgnSize r ≠ 0 && rgnBase r ≤ a && a < rgnBase r + rgnSize r) with
    | none => 0
    | some r => if rgnSwz r = 0 then 0 else a / 2 ^ (rgnSwz r + 3) % 16
  (a / 8 % 16) ^^^ f

/-- Where a byte lies: slice bytes by row and bank (R118, R119), others at their address. -/
def physOf (s : State) (pa : Nat) : Nat :=
  match ownerOf s.hdm pa with
  | .slice c off => windowPa c (off / 128 * 128 + bankOf (coreOf s c).rgn off * 8 + off % 8)
  | _ => pa

/-- A byte read. -/
def rdByte (s : State) (pa : Nat) : Byte := memGet s.mem (physOf s pa)

/-- Bytes read, from the lowest address up. -/
def rdBytes (s : State) (pa n : Nat) : List Byte := (List.range n).map fun j => rdByte s (pa + j)

/-- A little-endian value read. -/
def rdNat (s : State) (pa n : Nat) : Nat := Alu.natOf (rdBytes s pa n)

/-- The sub-channel of an LPDDR-6 address (R68). -/
def subChannel (pa : Nat) : Nat :=
  (pa / 2 ^ 8 % 128) ^^^ (pa / 2 ^ 15 % 128) ^^^ (pa / 2 ^ 22 % 128) ^^^ (pa / 2 ^ 29 % 128) ^^^ (pa / 2 ^ 36 % 16)

/-- Whether an address lies in a fenced sub-channel (R420). -/
def subFencedAt (s : State) (pa : Nat) : Bool := decide (pa < 0x10000000000) && s.subFenced.contains (subChannel pa)

/-- Whether the word of a byte is poisoned (R71), or reads as poisoned because its sub-channel is fenced (R420). -/
def isPoison (s : State) (pa : Nat) : Bool := s.poison.contains (physOf s pa / 8) || subFencedAt s pa

/-- Whether any word of a range is poisoned. -/
def anyPoison (s : State) (pa n : Nat) : Bool := (List.range n).any fun j => isPoison s (pa + j)

/-- One byte written, poison untouched. -/
def wrByte (s : State) (pa : Nat) (b : Byte) : State := { s with mem := memSet s.mem (physOf s pa) b }

/-- Whether the bytes cover the whole aligned word of an address. -/
def coversWord (bytes : List (Nat × Byte)) (pa : Nat) : Bool :=
  (List.range 8).all fun j => bytes.any fun b => b.1 = pa / 8 * 8 + j

/-- The watch-filter index of a location (R283). -/
def watchIdx (pa : Nat) : Nat := (pa / 2 ^ 3 % 65536) ^^^ (pa / 2 ^ 19 % 65536) ^^^ (pa / 2 ^ 35 % 65536)

/-- The die (0 to 3) or hub (4, 5) at whose filters a location is checked (R57, R68, R283). -/
def watchLoc (hdm : Windows) (pa : Nat) : Nat :=
  match ownerOf hdm pa with
  | .slice c _ => c / 1536
  | .lpddr => 4 + hubOfSub (subChannel pa)
  | .cxl p | .host p => 4 + hubOfPort p
  | _ => 4

/-- The walks marked whose filter bit a store to these addresses finds set (R283). -/
def markWalks (s : State) (pas : List Nat) : State :=
  { s with gwalks := s.gwalks.map fun g =>
      if pas.any fun pa => g.filt.contains (watchLoc s.hdm pa, watchIdx pa) then { g with marked := true } else g }

/-- A store executed by its owner (R71, R73, R283): a word written whole loses its poison; a poisoned word written in part keeps its
bytes and its mark, and the flag says so, as it does for a word of a fenced sub-channel (R420); the words of `pois` are written
poisoned (R72). -/
def perform (s : State) (bytes : List (Nat × Byte)) (pois : List Nat) : State × Bool :=
  let s := markWalks s (bytes.map (·.1))
  let go (a : State × Bool) (b : Nat × Byte) : State × Bool :=
    if (isPoison s b.1 && !coversWord bytes b.1) || subFencedAt s b.1 then (a.1, true) else (wrByte a.1 b.1 b.2, a.2)
  let r := bytes.foldl go (s, false)
  let cleared := bytes.foldl (fun (l : List Nat) b => if coversWord bytes b.1 then l.filter (· ≠ physOf s b.1 / 8) else l) r.1.poison
  ({ r.1 with poison := pois.foldl (fun l w => sinsert l (physOf s (w * 8) / 8)) cleared }, r.2)

/-- A whole little-endian value written. -/
def wrNat (s : State) (pa n v : Nat) : State :=
  (perform s ((List.range n).zip (Alu.bytesOf v n) |>.map fun p => (pa + p.1, p.2)) []).1

/-- A range set to zero and cleared of poison, as the scrub and a launch's start do (R306, R317, R387). -/
def zeroRange (s : State) (lo hi : Nat) : State :=
  { s with
    mem := s.mem.filter fun c => c.1 < lo || hi ≤ c.1
    poison := s.poison.filter fun w => w * 8 < lo || hi ≤ w * 8 }

/-- The limit of program data in a core's slice (R117): `QBASE`. -/
def qbaseOf (s : State) (c : Nat) : Nat := (slotAt s c 0).qbase.toNat

/-! ### Records to the host -/

/-- The numbers of the rings: retryable `n`, terminal `16 + n`, VF `32 + v`, host queues from 1000 (R109, R228). -/
def ringTerm (x : Context) : Nat := if x.desc.trm then 16 + x.desc.vf.toNat / 24 else 32 + x.desc.vf.toNat

/-- A record put into a ring's pending queue (R111). -/
def postRec (s : State) (ring : Nat) (ws : List Word) : State :=
  let r := (nget s.rings ring).getD ⟨0, []⟩
  { s with rings := nset s.rings ring { r with pend := r.pend ++ [ws] } }

/-- Word 0 of a record (R110, R356). -/
def recWord0 (code cls kind vf pasid cause : Nat) : Word :=
  word (code + cls * 0x100 + kind * 0x400 + vf * 0x1000 + cause * 0x1000000 + pasid * 0x10000000000)

/-- A record for a context's terminal ring (R110), in the restricted form for a protected context (R388). -/
def postTerm (s : State) (ctx : Nat) (code cls : Nat) (info w2 : Word) (core slot cause : Nat) : State :=
  match nget s.ctxs ctx with
  | none => s
  | some x =>
    let us := s.ns / 1000
    let kind := if x.desc.trm then 1 else 2
    let vf := x.desc.vf.toNat
    let w0 (cs : Nat) := recWord0 code cls kind vf x.desc.pasid.toNat cs
    if x.desc.prot then
      let w1 : Word := if 0x10 ≤ code && code ≤ 0x12 then word (Config.guestPage ctx info.toNat) else 0
      let c2 : Word := if code = 0x10 then w2 else 0
      postRec s (ringTerm x) [w0 0, w1, c2, word (us / 1000 * 1000), 0, 0, 0, 0]
    else postRec s (ringTerm x) [w0 cause, info, w2, word us, word (core % 8192 + slot * 8192), 0, 0, 0]

/-- An error record that no task's end goes with, such as a refused remote store (R73, R117): of class T, as every terminal record
(R110). -/
def errRec (s : State) (ctx : Nat) (code : Code) (info : Word) (core slot : Nat) : State :=
  postTerm s ctx code.num Cls.t.bits info 0 core slot 0

/-! ### Error units (R71, R74, R395, R421; log entry 14) -/

/-- An event goes to the owner that the event routing table of a logical device names (R395). -/
def raiseEvent (s : State) (ld evt arg : Nat) : State :=
  let e := (nget s.evrt (ld * 4096 + evt)).getD ⟨0, 0⟩
  { s with events := s.events ++ [⟨evt, if e.owner = 0 then 1 else e.owner, e.dest, arg⟩] }

/-- The threshold class of an error unit (R74). -/
def ErrUnit.cls : ErrUnit → Fin 3
  | .slice _ => 0 | .wreg _ | .acc _ | .latch _ => 1 | .sub _ => 2

/-- What the event of a failing unit names (R74). -/
def ErrUnit.code : ErrUnit → Nat
  | .slice c => c | .wreg q => 0x10000 + q | .acc q => 0x20000 + q | .latch c => 0x30000 + c | .sub n => 0x40000 + n

/-- The error unit of an address. -/
def errUnitOf (s : State) (pa : Nat) : Option ErrUnit :=
  match ownerOf s.hdm pa with
  | .slice c _ => some (.slice c)
  | .lpddr => some (.sub (subChannel pa))
  | _ => none

/-- A corrected error counted (R74): past the threshold within 10 s the unit is declared failing, once in a window (R421). -/
def countError (s : State) (u : ErrUnit) : State :=
  let old := (s.errLogs.find? fun l => l.unit = u).getD ⟨u, [], none⟩
  let times := (old.times.filter fun t => decide (s.ns < t + 10000000000)) ++ [s.ns]
  let recent := match old.failed with | some t => decide (s.ns < t + 10000000000) | none => false
  let fails := decide (s.thr.get u.cls < times.length) && !recent
  let new : ErrLog := ⟨u, times, if fails then some s.ns else old.failed⟩
  let s := { s with errLogs := s.errLogs.filter (fun l => l.unit ≠ u) ++ [new] }
  if fails then raiseEvent s 0 1 u.code else s

/-- What a read of a range finds of bit errors: each is corrected and counted, or poisons its word and is counted (R71, R74). -/
def eccTouch (s : State) (pa n : Nat) : State :=
  let here (e : Nat × Bool) : Bool := (List.range n).any fun j => physOf s (pa + j) / 8 = e.1
  (s.ecc.filter here).foldl (fun s e =>
    let s := { s with ecc := s.ecc.filter fun x => x ≠ e, poison := if e.2 then sinsert s.poison e.1 else s.poison }
    match errUnitOf s (8 * e.1) with | some u => countError s u | none => s) s

/-- The error unit of a place (R74). -/
def ErrSite.unit : ErrSite → ErrUnit
  | .wreg q _ => .wreg q | .tile c _ => .acc (quadOf c) | .latch c => .latch c

/-- The register of a place poisoned (R71, R74). -/
def poisonSite (s : State) : ErrSite → State
  | .wreg q p => modQuad s q fun k => { k with pregs := k.pregs.set p.val { k.pregs.get p with poison := true } p.isLt }
  | .tile c n => modCore s c fun k => { k with tiles := k.tiles.set n.val { k.tiles.get n with poison := true } n.isLt }
  | .latch c => modCore s c fun k => { k with latch := { k.latch with poison := true } }

/-- The world outside acts: an error in a word waits for the read that meets it; one in a register-like unit is met now, counted, and
poisons the register where it cannot be corrected; a CXL expander's or a host's report poisons a word there (R71, R74; log entry 14). -/
def worldTurn (s : State) : Turn → State
  | .bitError w unc => { s with ecc := s.ecc ++ [(w, unc)] }
  | .unitError p unc => countError (if unc then poisonSite s p else s) p.unit
  | .poisonReport w => match ownerOf s.hdm (8 * w) with
    | .cxl _ | .host _ => { s with poison := sinsert s.poison w }
    | _ => s
  | _ => s

/-! ### Physical wide registers -/

/-- One reference to a physical register given up; it returns to the pool at the last (R158). -/
def dropPreg (s : State) (q : Nat) (p : Fin 192) : State :=
  modQuad s q fun k =>
    let r := k.pregs.get p
    { k with pregs := k.pregs.set p.val (if r.refs ≤ 1 then ⟨false, 0, 0, none, false⟩ else { r with refs := r.refs - 1 }) p.isLt }

/-- Every mapping of a slot ended (R158). -/
def unmapList (s : State) (q : Nat) (w : List WMap) : State :=
  w.foldl (fun s m => match m with | .unmapped => s | .priv p => dropPreg s q p | .shared p => dropPreg s q p) s

/-- Every mapping of a slot ended. -/
def unmapAll (s : State) (q : Nat) (w : Vector WMap 16) : State := unmapList s q w.toList

/-! ### Templates -/

/-- A template record changed. -/
def modTpl (s : State) (t : Nat) (f : Tpl → Tpl) : State :=
  match nget s.tpls t with
  | none => s
  | some x => { s with tpls := nset s.tpls t (f x) }

/-- The cores of a launch's region. -/
def regionOf (l : Launch) : List Nat := (List.range l.rlen).map (l.base + ·)

/-- A released template removed from every core; one of depth 1 leaves the region's template stores zero (R317). -/
def tplRemove (s : State) (t : Nat) (x : Tpl) : State :=
  let s := x.cores.foldl (fun s c => modCore s c fun k => { k with cursors := k.cursors.filter fun u => u.tpl ≠ t }) s
  let s := x.wide.foldl (fun s w => dropPreg s w.1 w.2.2) s
  let s := match x.launch.bind (nget s.launches) with
    | some l => if x.depth = 1 then
        (regionOf l).foldl (fun s c => zeroRange s (windowPa c l.tplBase.toNat) (windowPa c 0x18000)) s else s
    | none => s
  { s with tpls := ndel s.tpls t }

/-- An item or the join of a template has ended (R316), `who` its core and task; the join is placed when the last item ends, the template
released when nothing of it is left (R317), and its release ends the task that froze it in its own template (R315). -/
def tplEnd (s : State) (t : Nat) (isJoin : Bool) (who : List (Nat × Nat)) : Nat → State
  | 0 => s
  | n + 1 =>
    match nget s.tpls t with
    | none => s
    | some x =>
      let x := if isJoin then { x with join := .ended, ended := who } else { x with pending := x.pending - 1, ended := x.ended ++ who }
      let x := if x.pending = 0 then (match x.join with | .waiting pc => { x with join := .placed pc s.cycles } | _ => x) else x
      let s := { s with tpls := nset s.tpls t x }
      if x.pending = 0 && (x.join = .none || x.join = .ended) then
        let s := tplRemove s t x
        match x.parent with
        | none => s
        | some p => tplEnd s p x.byJoin x.ended n
      else s

/-! ### The end of a task -/

/-- A slot without its task (R55); FPST, OVFP, FINFO, masks and layout stay (R43, R115, R348). -/
def Slot.freed (sl : Slot) : Slot :=
  { sl with
    st := .free, mw := 0, task := 0, launch := none, bind := 0, meas := none, role := .none, tpl := none, lineMap := []
    e := Vector.replicate 8 EVal.empty, d := Vector.replicate 4 none, w := Vector.replicate 16 .unmapped
    sv := false, up := false, depth := 0, pend := .none, walkAns := [], t0 := none, noted := [], idle0 := none
    watchdog := none
    argsDue := none }

/-- The drain streams of a slot with elements still to write (R55, R162). -/
def leftDrains (sl : Slot) (i : Nat) : List (Nat × Slot × Nat × Stream) :=
  sl.d.toList.zipIdx.filterMap fun p =>
    match p.1 with
    | some st => if st.drain && st.q ≠ [] && st.fault.isNone then some (i, sl, p.2, st) else none
    | none => none

/-- The records of drain streams that end with a held fault (R163). -/
def drainFaults (s : State) (c i : Nat) (sl : Slot) : State :=
  sl.d.toList.foldl (fun s o => match o with
    | some st => if st.drain then
        (match st.fault with | some t => errRec s sl.ctx t.code t.info c i | none => s) else s
    | none => s) s

/-- The graph walks of a task that ends give up their walk slots (R287): LOST is set in their blocks, and a walk that ran is left
INTERRUPTED. -/
def dropWalks (s : State) (c i task : Nat) : State :=
  let mine (g : GWalk) : Bool := g.holder = (c, i, task)
  let s' := (s.gwalks.filter mine).foldl (fun s g =>
    let w := rdNat s g.pa 8
    let st := if g.running then 2 else w / 2 ^ 56
    let s := wrNat s g.pa 8 (st * 2 ^ 56 + w % 2 ^ 56 / 2 ^ 40 * 2 ^ 40 + 2 ^ 39 + (if g.marked then 2 ^ 38 else w % 2 ^ 39 / 2 ^ 38 * 2 ^ 38))
    if g.running && g.oper = 0x76 then g.hst.zipIdx.foldl (fun s p => wrNat s (g.pa + 128 + 8 * p.2) 8 p.1.toNat) s else s) s
  { s' with gwalks := s'.gwalks.filter fun g => !mine g }

/-- The next ready L slot after one, in ascending order, wrapping (R320). -/
def nextReady (k : Core) (after : Nat) : Option Nat :=
  [1, 2, 3, 4].map (fun j => (after + j) % 4) |>.find? fun i => (slotOf k i).st = .ready

/-- The running slot of a core gives it up (R55, R320): the H slot to the task it pre-empted, an L slot to the next ready one. -/
def Core.giveUp (k : Core) (i : Nat) : Core :=
  if k.act ≠ some i then k
  else if i = 4 then { k with act := k.preempted, preempted := none }
  else match nextReady k i with
    | some j => { k with act := some j }
    | none => k

/-- The wide-register mappings of a task that ends (R55, R158): they end at once, or once what it had accepted has retired. -/
def endMaps (s : State) (c i : Nat) (sl : Slot) : State :=
  if (coreOf s c).dq.any fun r => r.task = sl.task && r.slot = i then
    modCore s c fun k => { k with unmapDue := k.unmapDue ++ [(sl.task, sl.w.toList)] }
  else unmapAll s (quadOf c) sl.w

/-- The task of a slot ends, as by TEND (R55). `tplDone` is false where FRZ ends it: its template learns of the end only when the
nested template is released (R315). -/
def endTask (s : State) (c i : Nat) (tplDone : Bool) : State :=
  let sl := slotAt s c i
  let s := drainFaults (dropWalks s c i sl.task) c i sl
  let s := endMaps s c i sl
  let s := modCore s c fun k =>
    let k := { k with
      tiles := k.tiles.map fun (t : Tile) => if t.owner = some (i, sl.task) then { t with giving := true } else t
      orphans := k.orphans ++ leftDrains sl i }
    (k.modSlot i Slot.freed).giveUp i
  match sl.tpl, tplDone with
  | some t, true =>
    match sl.role with
    | .item => tplEnd s t false [(c, sl.task)] 4
    | .join => tplEnd s t true [(c, sl.task)] 4
    | _ => s
  | _, _ => s

/-! ### Taking an exception -/

/-- FINFO0 (R348). -/
def finfo0Of (code : Code) (cls : Cls) : Word := word (code.num + cls.bits * 256)

/-- Whether a slot is in supervisor mode (R343): a supervisor handler, or any task of a translation service core. -/
def isSuper (c : Nat) (sl : Slot) : Bool := sl.sv || decide (6144 ≤ c)

/-- SLOTST of a slot (R342, R343). -/
def slotst (c i : Nat) (sl : Slot) : Word :=
  word (sl.pc.toNat / 8 % 2 ^ 54 * 1024 + (if isSuper c sl then 512 else 0) + (if sl.up then 256 else 0) + sl.depth.toNat * 64 +
    (if i = 4 then 32 else 0) + sl.mw)

/-- The local offset of the park record (R114, R353). -/
def parkOff (sl : Slot) : Nat := sl.carveBase.toNat + sl.carveSize.toNat - 256

/-- The physical address of a word of the park record. -/
def parkPa (c : Nat) (sl : Slot) (j : Nat) : Nat := windowPa c (parkOff sl) + 8 * j

/-- A word of the park record. -/
def parkWord (s : State) (c : Nat) (sl : Slot) (j : Nat) : Word := word (rdNat s (parkPa c sl j) 8)

/-- Whether the park record is valid (R353). -/
def parkValid (s : State) (c : Nat) (sl : Slot) : Bool := sl.carveSize ≠ 0 && (parkWord s c sl 30).getLsbD 0

/-- The park record written at upcall entry (R353). -/
def writePark (s : State) (c i : Nat) (sl : Slot) (resume : Word) (t : Trap) : State :=
  let ws : List Word := sl.g.toList ++ [resume, slotst c i sl, finfo0Of t.code .u, t.info, sl.pc, word t.cookie, 1, 0]
  ws.zipIdx.foldl (fun s p => wrNat s (parkPa c sl p.2) 8 p.1.toNat) s

/-- A halt (R28): FINFO written, the slot halted, the fault message to the region's supervisor core, or a halt record to the
terminal ring (R29, R349). `w` is the halted word. -/
def haltSlot (s : State) (c i : Nat) (t : Trap) (w : Word) : State :=
  let sl := slotAt s c i
  let info : Word := if t.code = .illOp || t.code = .illReg || t.code = .illField || t.code = .priv then w
    else if t.code = .pcAlign then t.info else 0
  let f0 := finfo0Of t.code .h
  let s := modSlot s c i fun sl => { sl with st := .halted, finfo0 := f0, finfo1 := info, finfo2 := sl.pc, pend := .none, walkAns := [] }
  let s := modCore s c fun k => k.giveUp i
  let sve : Word := match nget s.ctxs sl.ctx with | some x => x.desc.sve | none => 0
  match sl.launch.bind (nget s.launches) with
  | some l =>
    let sup := l.base + l.sup
    if sve = 0 || sup = c then postTerm s sl.ctx t.code.num 0 info sl.pc c i 0
    else
      let target := word ((c - l.base) % 8192 + i * 8192)
      { s with mesh := s.mesh ++ [⟨sup, ⟨c, i, sl.ctx, sl.task⟩, .fault target f0 info sl.pc⟩] }
  | none => postTerm s sl.ctx t.code.num 0 info sl.pc c i 0

/-- Terminal delivery (R356): the task ends, a record goes to the terminal ring, and the END mask may end the context. -/
def terminal (s : State) (c i : Nat) (code : Code) (info : Word) (cause : Nat) (pc : Word) : State :=
  let sl := slotAt s c i
  let s := endTask s c i true
  let s := postTerm s sl.ctx code.num 2 info (if code = .furlTag || code = .poison then pc else 0) c i cause
  match nget s.ctxs sl.ctx with
  | some x => if x.desc.endMask.getLsbD code.num then { s with ctxs := nset s.ctxs sl.ctx { x with endDue := true } } else s
  | none => s

/-- Upcall entry (R352). TRAP resumes after itself, every other fault at the faulting instruction. -/
def upcall (s : State) (c i : Nat) (t : Trap) : State :=
  let sl := slotAt s c i
  let resume := if t.code = .trap then sl.pc + 8 else sl.pc
  let s := writePark s c i sl resume t
  modSlot s c i fun sl =>
    { sl with st := .ready, finfo0 := finfo0Of t.code .u, finfo1 := t.info, finfo2 := sl.pc, mw := 0, up := true, pc := sl.upc
              pend := .none, walkAns := [], t0 := none, noted := [], idle0 := none }

/-- TAKING AN EXCEPTION: a fault of the slot's current instruction, delivered by its class and where it is raised (R347). `w` is the
instruction's word. -/
def deliver (s : State) (c i : Nat) (t : Trap) (w : Word) : State :=
  let sl := slotAt s c i
  match t.code.cls with
  | .h => haltSlot s c i t w
  | .t => terminal s c i t.code t.info t.cause sl.pc
  | .u =>
    if sl.launch.isNone then terminal s c i t.code t.info t.cause sl.pc
    else if i = 4 then terminal s c i .hBlock t.info t.code.num sl.pc
    else if sl.up || sl.upc = 0 then terminal s c i t.code t.info t.cause sl.pc
    else upcall s c i t

/-- Whether an H task may pre-empt now (R233, R321, R325, R330): no H task runs, and the running L task, if one does, is between two
instructions outside a masked window. -/
def hMayRun (k : Core) : Bool :=
  (slotOf k 4).st = .free &&
    match k.act with
    | none => true
    | some i => i ≠ 4 && (match (slotOf k i).st with | .ready => (slotOf k i).mw = 0 | .stalled _ => false | _ => true)

/-! ### Instructions as computations -/

/-- Why an instruction does not complete: a fault, or a wait; with what the attempt leaves behind, as a change of the state before
it (a walk or a message it sent). -/
inductive Stop where
  | trap (t : Trap) (upd : State → State)
  | wait (w : Wait) (upd : State → State)

/-- An instruction's effect. -/
abbrev M := StateT State (Except Stop)

/-- Where an instruction leaves the program counter: after it, at a target, or with the task gone or the counter set otherwise. -/
inductive Flow where
  | next
  | goto (pc : Word)
  | stay
deriving DecidableEq, Repr

/-- A fault with no other effect. -/
def raiseT {α : Type} (t : Trap) : M α := fun _ => .error (.trap t id)

/-- A fault by its code. -/
def raise {α : Type} (c : Code) : M α := raiseT { code := c }

/-- A fault by its code with FINFO1. -/
def raiseAt {α : Type} (c : Code) (info : Word) : M α := raiseT { code := c, info := info }

/-- A fault where a condition holds. -/
def raiseIf (b : Bool) (c : Code) (info : Word := 0) : M Unit := if b then raiseAt c info else pure ()

/-- A wait with no other effect. -/
def waitOn {α : Type} (w : Wait) : M α := fun _ => .error (.wait w id)

/-- A wait that leaves a request behind. -/
def waitWith {α : Type} (w : Wait) (upd : State → State) : M α := fun _ => .error (.wait w upd)

/-- The issuing core. -/
def myCore : M Nat := do return (← get).cur

/-- The issuing slot's number. -/
def myIdx : M Nat := do let s ← get; return actOf s s.cur

/-- The issuing slot. -/
def mySlot : M Slot := do let s ← get; return slotAt s s.cur (actOf s s.cur)

/-- The issuing slot changed. -/
def modMy (f : Slot → Slot) : M Unit := modify fun s => modSlot s s.cur (actOf s s.cur) f

/-- The issuing core changed. -/
def modMyCore (f : Core → Core) : M Unit := modify fun s => modCore s s.cur f

/-- A fresh number. -/
def freshId : M Nat := do
  let s ← get
  set { s with nextId := s.nextId + 1 }
  return s.nextId

/-- The outcome of a wait by where it occurs (R325). -/
inductive WaitClass where
  /-- blocks; H_BLOCK; MASKW_BLOCK -/
  | a
  /-- blocks; H_BLOCK; stalls -/
  | b
  /-- blocks; stalls; stalls -/
  | c
  /-- stalls everywhere -/
  | d
  /-- blocks; stalls; MASKW_BLOCK (R235: RATs and queue instructions) -/
  | e
  /-- not a wait of R325: the instruction is late, behind what came before it in its core's store buffer; stalls in the H slot and in a
  masked window, and elsewhere only takes its time (log entry 25) -/
  | f
deriving DecidableEq, Repr

/-- The row of R325 of each wait. -/
def waitClass : Wait → WaitClass
  | .eEmpty _ | .dEmpty _ | .dFull _ | .dFlush _ | .cmdFull _ _ | .resEmpty _ _ | .asyncPop _ _ | .outbound | .readyFull _
  | .waita _ _ _ _ | .barWait _ _ | .objBar _ _ | .tile _ | .walkTurn | .lmap | .tlbi _ | .idle _ | .mrotRecv => .a
  | .replyCore => .b
  | .replyMem | .xlate | .fence | .fenceAcq | .retireSlot | .retireCore | .dqFull | .matrixSlot _ => .c
  | .overlap | .order => .f
  | .storeFull => .d
  | .outboundRat => .e

/-- After an instruction completes: the progress of blocking forms forgotten, the masked window one instruction shorter (R330). -/
def Slot.completed (sl : Slot) : Slot :=
  { sl with st := .ready, mw := sl.mw - 1, pend := .none, walkAns := [], t0 := none, noted := [], idle0 := none }

/-- The state after a wait (R325). What a barrier's wait refuses leaves its arrival made (R333). -/
def waitAt (s : State) (c i : Nat) (wt : Wait) (upd : State → State) (w : Word) : State :=
  let sl := slotAt s c i
  let held := match wt with | .barWait _ _ | .objBar _ _ => upd s | _ => s
  let block (s : State) : State := modCore (modSlot s c i fun sl => { sl with st := .blocked wt }) c fun k => k.giveUp i
  let stall (s : State) : State := modSlot s c i fun sl => { sl with st := .stalled wt }
  match waitClass wt with
  | .d => stall (upd s)
  | .f => if i = 4 || sl.mw ≠ 0 then stall (upd s) else upd s
  | .e => if i = 4 then stall (upd s) else if sl.mw ≠ 0 then deliver s c i { code := .maskwBlock } w else block (upd s)
  | .c => if i = 4 || sl.mw ≠ 0 then stall (upd s) else block (upd s)
  | .b => if i = 4 then deliver s c i { code := .hBlock } w else if sl.mw ≠ 0 then stall (upd s) else block (upd s)
  | .a => if i = 4 then deliver held c i { code := .hBlock } w
    else if sl.mw ≠ 0 then deliver held c i { code := .maskwBlock } w else block (upd s)

/-- ISSUING an instruction: its effect, then the program counter; or its fault delivered; or its wait. `w` is its word. -/
def issueW (w : Word) (m : M Flow) (s : State) : Host.Outcome State Fault Refusal :=
  let c := s.cur
  let i := actOf s c
  match m s with
  | .ok (.next, s') => .next (modSlot s' c i fun sl => { sl.completed with pc := sl.pc + 8 })
  | .ok (.goto pc, s') => .next (modSlot s' c i fun sl => { sl.completed with pc := pc })
  | .ok (.stay, s') => .next s'
  | .error (.trap t upd) => .next (deliver (upd s) c i t w)
  | .error (.wait wt upd) => .next (waitAt s c i wt upd w)

end Sys2Proof.Machine
end

