-- ==== Sys2Proof/Machine/Flags.lean ====
section
/-! DEFINITION. The sticky flags (R43): how an instruction ORs its flags into FPST. -/

namespace Sys2Proof.Machine

/-- Flags ORed into FPST of the issuing slot (R43). -/
def orFlags (f : Num.Flags) : M Unit := modMy fun sl => { sl with fpst := sl.fpst ||| f }

/-- FPST as a register value (R43). -/
def fpstWord (sl : Slot) : Word := sl.fpst.setWidth 64

/-- FPST written by SWR (R43, R344). -/
def Slot.setFpst (sl : Slot) (v : Word) : Slot := { sl with fpst := v.setWidth 5 }

end Sys2Proof.Machine
end

