-- ==== Sys2Proof/Machine/Operands.lean ====
section
/-! DEFINITION. The operand forms: reading a source specifier (R11 to R14), writing a destination, the stream queues behind `d0` to
`d3` (R13, R162, R163). -/

namespace Sys2Proof.Machine

/-- The number of elements of a binding (R161). -/
def Stream.total (st : Stream) : Nat := st.n0 * st.n1 * st.n2

/-- The address of element `k` (R161). -/
def Stream.addr (st : Stream) (k : Nat) : Word :=
  let i0 : Int := (k % st.n0 : Nat)
  let i1 : Int := (k / st.n0 % st.n1 : Nat)
  let i2 : Int := (k / (st.n0 * st.n1) : Nat)
  st.base + BitVec.ofInt 64 (i0 * st.s0 + i1 * st.s1 + i2 * st.s2)

/-- A stream binding of a slot replaced. -/
def Slot.setD (sl : Slot) (r : Fin 4) (v : Option Stream) : Slot := { sl with d := sl.d.set r.val v r.isLt }

/-- A general register of a slot written. -/
def Slot.setG (sl : Slot) (r : GReg) (v : Word) : Slot := { sl with g := sl.g.set r.val v r.isLt }

/-- A full/empty register of a slot replaced. -/
def Slot.setE (sl : Slot) (r : EReg) (v : EVal) : Slot := { sl with e := sl.e.set r.val v r.isLt }

/-- A mask of a slot written; `k0` reads all-true and is never written (R10). -/
def Slot.setK (sl : Slot) (r : KReg) (v : Word) : Slot := if r = 0 then sl else { sl with k := sl.k.set r.val v r.isLt }

/-- A mask read (R10). -/
def Slot.mask (sl : Slot) (r : KReg) : Word := if r = 0 then BitVec.allOnes 64 else sl.k.get r

/-- A producer's write to a full/empty register (R12). -/
def Slot.fillE (sl : Slot) (r : EReg) (v : Word) (poison : Bool) : Slot := sl.setE r ⟨v, true, poison⟩

/-- A fill stream whose faulted element is given back to the unit, which reads it again (R163). -/
def Stream.reread (st : Stream) : Stream := { st with q := st.q.filter fun x => x.fault.isNone, moved := st.moved - 1 }

/-- One element popped from a stream (R13, R162, R163). A held fault is raised and its element given back to the unit. -/
def popD (r : Fin 4) : M Word := do
  let c ← myCore
  let i ← myIdx
  let sl ← mySlot
  match sl.d.get r with
  | none => raise .streamDir
  | some st =>
    if st.drain then raise .streamDir
    else match st.q with
      | [] => waitOn (.dEmpty r)
      | el :: rest =>
        match el.fault with
        | some t => fun _ => .error (.trap t fun s => modSlot s c i fun sl => sl.setD r ((sl.d.get r).map Stream.reread))
        | none => do
          modMy fun sl => sl.setD r (if st.left ≤ 1 then none else some { st with q := rest, left := st.left - 1 })
          return el.val

/-- One element pushed to a drain stream (R13, R162, R163). -/
def pushD (r : Fin 4) (v : Word) : M Unit := do
  let c ← myCore
  let i ← myIdx
  let sl ← mySlot
  match sl.d.get r with
  | none => raise .streamDir
  | some st =>
    if !st.drain then raise .streamDir
    else match st.fault with
      | some t => fun _ => .error (.trap t fun s => modSlot s c i fun sl => sl.setD r (some { st with fault := none }))
      | none =>
        if 8 ≤ st.q.length || st.total ≤ st.moved then waitOn (.dFull r)
        else do
          let s ← get
          modMy fun sl => sl.setD r (some { st with q := st.q ++ [⟨v, none, s.tick⟩], moved := st.moved + 1 })

/-- A source specifier fetched in field order (R11 to R14): a stream pops at once, a full/empty register is emptied by `emptyE` once
every field has its value. -/
def fetchSrc (x : Src) : M Word := do
  let s ← get
  let sl ← mySlot
  match x with
  | .g r => pure (sl.g.get r)
  | .e r =>
    let v := sl.e.get r
    if !v.full then waitOn (.eEmpty r) else if v.poison then raise .poison else pure v.val
  | .d r => popD r
  | .zr => pure 0
  | .ix => pure sl.ix
  | .nix => pure sl.nix
  | .rank => pure sl.rank
  | .rlen => pure sl.rlen
  | .src => pure sl.src
  | .clk => pure (clkOf s s.cur)

/-- The full/empty registers among the sources emptied (R12). -/
def emptyE : List Src → M Unit
  | [] => pure ()
  | .e r :: rest => do modMy (fun sl => sl.setE r { sl.e.get r with full := false }); emptyE rest
  | _ :: rest => emptyE rest

/-- One source read. -/
def read1 (a : Src) : M Word := do
  let x ← fetchSrc a
  emptyE [a]
  return x

/-- Two sources read, in field order. -/
def read2 (a b : Src) : M (Word × Word) := do
  let x ← fetchSrc a
  let y ← fetchSrc b
  emptyE [a, b]
  return (x, y)

/-- Three sources read. -/
def read3 (a b c : Src) : M (Word × Word × Word) := do
  let x ← fetchSrc a
  let y ← fetchSrc b
  let z ← fetchSrc c
  emptyE [a, b, c]
  return (x, y, z)

/-- A general register read. -/
def readG (r : GReg) : M Word := do return (← mySlot).g.get r

/-- A register of the class `g` or `zr` read. -/
def readGZ : GZ → M Word
  | .g r => readG r
  | .zr => pure 0

/-- A general register written. -/
def writeG (r : GReg) (v : Word) : M Unit := modMy fun sl => sl.setG r v

/-- A destination of the class `g` or `zr` written: `zr` discards (R11). -/
def writeGZ : GZ → Word → M Unit
  | .g r, v => writeG r v
  | .zr, _ => pure ()

/-- A destination written (R11): `g`, a push to a stream, or `zr`, which discards. -/
def writeDst : Dst → Word → M Unit
  | .g r, v => writeG r v
  | .d r, v => pushD r v
  | .zr, _ => pure ()

/-- The run of `n` general registers from `r` (R236, R247). -/
def readRun (r : Nat) (n : Nat) : M (List Word) := do
  let sl ← mySlot
  return (List.range n).map fun j => (sl.g[r + j]?).getD 0

/-- A general register by number, written. -/
def writeGN (r : Nat) (v : Word) : M Unit := modMy fun sl => { sl with g := sl.g.setIfInBounds r v }

end Sys2Proof.Machine
end

