-- ==== Sys2Proof/Machine/Ready.lean ====
section
/-! DEFINITION. Ready queues, counters and the waiting-task table, and what a core puts on the mesh (R231, R232, R235, R249, R253 to
R256, R322, R324). -/

namespace Sys2Proof.Machine

/-- `src` of a task that no message started (R14). -/
def noSrc : Word := BitVec.allOnes 64

/-- How many 64-byte places the overflow area of a core's slice has (R112, R232). -/
def areaPlaces (k : Core) : Nat := ((slotOf k 0).carveBase.toNat - (slotOf k 0).qbase.toNat) / 64

/-- How many messages and descriptors of a core lie in overflow. -/
def overflowed (k : Core) : Nat := (k.mq.length - 32) + (k.rq.filter fun r => r.ovf).length

/-- The places of the context's global overflow segment in use (R232). -/
def segmentUsed (s : State) (ctx : Nat) : Nat :=
  s.cores.foldl (fun n p => if p.2.ctx = some ctx then n + (overflowed p.2 - areaPlaces p.2) else n) 0

/-- Whether a core can take one more message or descriptor into its overflow (R232, R324); OVLEN counts 4 KiB (R383). -/
def overflowRoom (s : State) (c : Nat) : Bool :=
  let k := coreOf s c
  overflowed k < areaPlaces k ||
    match k.ctx with
    | none => false
    | some x => match nget s.ctxs x with
      | none => false
      | some y => decide (segmentUsed s x < y.desc.ovlen.toNat * 64)

/-- Whether the ready queue of a core would put a new descriptor of a class into overflow (R324). -/
def rqOver (k : Core) (cls : Nat) : Bool :=
  decide (64 ≤ (k.rq.filter fun r => !r.ovf).length) || k.rq.any fun r => r.ovf && r.cls = cls

/-- Whether the ready queue of a core and both overflow areas are full for a class. -/
def rqFull (s : State) (c cls : Nat) : Bool := rqOver (coreOf s c) cls && !overflowRoom s c

/-- A core with one more descriptor in its ready queue (R322, R324). -/
def addRq (s : State) (k : Core) (cls : Nat) (desc : Desc) (launch : Option Nat) (ctx : Nat) (src : Word) (kind : Nat) (data : List Word) :
    Core :=
  { k with rq := k.rq ++ [⟨cls, desc, launch, ctx, src, s.cycles, s.nextId, rqOver k cls, kind, data⟩], lastEvent := s.tick }

/-- A descriptor placed in a ready queue (R322, R324). -/
def enqueue (s : State) (c cls : Nat) (desc : Desc) (launch : Option Nat) (ctx : Nat) (src : Word) (kind : Nat) (data : List Word) :
    State :=
  { modCore s c (fun k => addRq s k cls desc launch ctx src kind data) with nextId := s.nextId + 1 }

/-- An entry taken out of a ready queue; the oldest overflowed descriptor moves into the free place (R324). -/
def rqRemove (k : Core) (seq : Nat) : Core :=
  let rest := k.rq.filter fun r => r.seq ≠ seq
  match rest.find? (fun r => r.ovf) with
  | none => { k with rq := rest }
  | some o => if (rest.filter fun r => !r.ovf).length < 64 then
      { k with rq := rest.map fun r => if r.seq = o.seq then { r with ovf := false } else r } else { k with rq := rest }

/-- Whether the condition of a waiting-task entry holds (R253). -/
def wtHolds (ge : Bool) (thr v : BitVec 32) : Bool := if ge then decide (thr.toInt ≤ v.toInt) else v == thr

/-- The waiting-task table tested after an update of counter `n` (R256), entries from `j` on. -/
def wtFire (s : State) (c n : Nat) : List Nat → State
  | [] => s
  | j :: r =>
    match (coreOf s c).wt[j]? with
    | some (some e) =>
      if e.ctr.toNat = n && wtHolds e.ge e.thr ((coreOf s c).ctr[n]?.getD 0) then
        let s := modCore s c fun k => { k with wt := k.wt.setIfInBounds j none }
        wtFire (enqueue s c 2 e.desc e.launch e.ctx noSrc 0 []) c n r
      else wtFire s c n r
    | _ => wtFire s c n r

/-- An update of a counter, with the table's firings (R249, R256). -/
def counterUpdate (s : State) (c n : Nat) (v : BitVec 32) : State :=
  wtFire (modCore s c fun k => { k with ctr := k.ctr.setIfInBounds n v, lastEvent := s.tick }) c n (List.range 16)

/-- A counter's value. -/
def counterAt (s : State) (c n : Nat) : BitVec 32 := ((coreOf s c).ctr[n]?).getD 0

/-- Whether a message takes a place in the sender's outbound buffer (R235). -/
def MsgBody.takesPlace : MsgBody → Bool
  | .load _ _ _ | .counter _ none _ _ _ | .reply _ _ _ _ | .fault _ _ _ _ | .count _ _ | .swin _ _ _ | .hresume _ _ | .notice _ => false
  | _ => true

/-- Whether the outbound buffer of a core is full (R235). -/
def outboundFull (s : State) (c : Nat) : Bool :=
  decide (8 ≤ (s.mesh.filter fun m => m.src.core = c && m.body.takesPlace).length)

/-- One of several; which is open (log entry 4). -/
def pick {α : Type} (s : State) : List α → Option α
  | [] => none
  | [x] => some x
  | l => l[(Config.free s.tick).toNat % l.length]?

/-- A message put on the mesh. -/
def inject (s : State) (dst : Nat) (src : Sender) (b : MsgBody) : State := { s with mesh := s.mesh ++ [⟨dst, src, b⟩] }

/-- The sender of a slot. -/
def senderOf (s : State) (c i : Nat) : Sender := let sl := slotAt s c i; ⟨c, i, sl.ctx, sl.task⟩

/-- A blocked or stalled slot made ready to try again. -/
def wake (s : State) (c i : Nat) : State :=
  modSlot s c i fun sl => match sl.st with | .blocked _ => { sl with st := .ready } | .stalled _ => { sl with st := .ready } | _ => sl

/-- A wait for a place in the outbound buffer; `rat` for the instructions that stall in the H slot. -/
def waitOutbound (rat : Bool) : M Unit := do
  let s ← get
  if outboundFull s s.cur then waitOn (if rat then .outboundRat else .outbound) else pure ()

/-- The launch that a new task on a core belongs to (R233, R327): the one that is current there. -/
def launchAt (s : State) (c : Nat) : Option Nat := (coreOf s c).launch

end Sys2Proof.Machine
end

