-- ==== Sys2Proof/Machine/Access.lean ====
section
/-! DEFINITION. Accesses: translation and its walks (R97 to R107), the resolution of local addresses (R64, R116, R312), reads through
the store buffer (R258, R260), stores (R73, R117, R121), and read-modify-writes at their owners (R241 to R249, R335, R340). -/

namespace Sys2Proof.Machine

/-- What an access does to a page (R104): it reads, it writes, it is a wide, matrix, engine or graph access. -/
structure Acc where
  rd : Bool
  wr : Bool
  bulk : Bool
deriving DecidableEq, Repr

abbrev accLoad : Acc := ⟨true, false, false⟩
abbrev accStore : Acc := ⟨false, true, false⟩
abbrev accRmw : Acc := ⟨true, true, false⟩
abbrev accBulkRd : Acc := ⟨true, false, true⟩
abbrev accBulkWr : Acc := ⟨false, true, true⟩

/-! ### Translation -/

/-- A canonical address (R65). -/
def canonical (va : Word) : Bool := (va.setWidth 57).signExtend 64 == va

/-- The 57 significant bits of an address (R97). -/
def va57 (va : Word) : Nat := va.toNat % 2 ^ 57

/-- The offset bits of a page size (R97). -/
def pageBits : Nat → Nat
  | 0 => 12 | 1 => 16 | 2 => 21 | _ => 30

/-- Whether an entry maps an address of a space. -/
def TlbEntry.hits (e : TlbEntry) (space a : Nat) : Bool :=
  e.space = space && e.vpage / 2 ^ pageBits e.size = a / 2 ^ pageBits e.size

/-- Whether two entries of one space overlap (R99). -/
def TlbEntry.overlaps (e f : TlbEntry) : Bool := e.hits f.space f.vpage || f.hits e.space e.vpage

/-- An entry put into a TLB of `cap` entries; `v` chooses the one that gives way (R99; log entry 8). -/
def tlbInsert (cap v : Nat) (l : List TlbEntry) (e : TlbEntry) : List TlbEntry :=
  let l := l.filter fun x => !x.overlaps e
  (if cap ≤ l.length then l.eraseIdx (v % l.length) else l) ++ [e]

/-- An entry delivered to a core's micro-TLB. -/
def fillUtlb (s : State) (c : Nat) (e : TlbEntry) : State :=
  let v := Config.victim s.tick
  { modCore s c fun k => { k with utlb := tlbInsert 32 v k.utlb e } with tick := s.tick + 1 }

/-- The service core number (`die * 8 + j`) that serves a quad (R101, R102). -/
def svcOf (s : State) (q : Nat) : Nat :=
  let j := if q < 1536 then q / 384 * 8 + q % 384 / 48 else (q - 1536) * 4 % 32
  (nget s.reassign j).getD j

/-- A request taken into a walk; the address of the first task that asked stands for it (R102, R110). -/
def Walk.take (w : Walk) (a : Nat) (who : Walker) : Walk :=
  if w.who.contains who then w
  else
    let task (q : Walker) : Bool := match q with | .slot _ _ => true | _ => false
    { w with who := w.who ++ [who], va := if task who && !w.who.any task then a else w.va }

/-- A walk or CW request sent to the service core (R101, R102, R107); one that already runs for the page, space and quad takes it in. -/
def addWalk (s : State) (q space a : Nat) (cw : Bool) (who : Walker) : State :=
  let same (w : Walk) : Bool := w.quad = q && w.space = space && w.va / 4096 = a / 4096 && w.cwReq = cw
  if s.walks.any same then { s with walks := s.walks.map fun w => if same w then w.take a who else w }
  else { s with walks := s.walks ++ [⟨svcOf s q, q, space, a, cw, false, false, [who]⟩] }

/-- Whether the last byte of a piece exists (R67): the populated ranges end at multiples of the pages, but for the counters and
what the HDM decoders claim. -/
def populated (s : State) (pa n : Nat) : Bool :=
  let ok (o : Owner) : Bool := match o with | .hole | .counterHole | .device => false | _ => true
  ok (ownerOf s.hdm pa) && ok (ownerOf s.hdm (pa + (n - 1)))

/-! ### Policies of the key slots (R213, R214) -/

/-- A policy word. -/
def KeySlot.pol (k : KeySlot) (j : Nat) : Nat := (k.policy.getD j 0).toNat

/-- FMT permits a format code. -/
def KeySlot.fmtOk (k : KeySlot) (c : Nat) : Bool := (k.pol 0 / 2 ^ 32).testBit c

/-- DBC. -/
def KeySlot.dbc (k : KeySlot) : Bool := (k.pol 0).testBit 8

/-- The furled window holds a range. -/
def KeySlot.inWindow (k : KeySlot) (va n : Nat) : Bool := decide (k.pol 1 ≤ va) && decide (va + n ≤ k.pol 1 + k.pol 2)

/-- Measurement `m` of the policy. -/
def KeySlot.meas (k : KeySlot) (m : Nat) : BitVec 384 :=
  BitVec.ofNat 384 ((List.range 6).foldl (fun a j => a + k.pol (3 + 6 * m + j) * 2 ^ (64 * j)) 0)

/-- Whether the policy lists a measurement. -/
def KeySlot.lists (k : KeySlot) (m : Option (BitVec 384)) : Bool :=
  match m with
  | none => false
  | some d => (List.range (k.pol 0 % 32)).any fun j => k.meas j == d

/-- A key slot. -/
def keyAt (s : State) (k : Nat) : KeySlot := (s.keys[k]?).getD ⟨.empty, 0, 0, 0, [], 0⟩

/-- Whether a physical range touches the tag region of a key (R211). -/
def inTagRegion (s : State) (pa n : Nat) : Bool :=
  s.keys.toList.any fun k => k.st ≠ .empty && decide (k.tagBase < pa + n) && decide (pa < k.tagBase + k.pol 2 / 16)

/-- The bindings of a set whose policy lists a measurement (R218). -/
def bindFor (s : State) (b : BitVec 64) (m : Option (BitVec 384)) : BitVec 64 :=
  BitVec.ofNat 64 ((List.range 64).foldl (fun a k => if b.getLsbD k && (keyAt s k).lists m then a + 2 ^ k else a) 0)

/-- The permission check of R104 on an entry, for a page whose answers (plain, CW) are known. -/
def permit (e : TlbEntry) (acc : Acc) (va : Word) (cwAns : Option WalkAns) (ask : State → State) : M Unit := do
  if acc.bulk && e.mt = .io then raiseAt .xlPerm va
  else if acc.rd && !e.r then raiseAt .xlPerm va
  else if acc.wr && e.cw then
    match cwAns with
    | some (.retry ck) => raiseT { code := .xlMiss, info := va, cookie := ck }
    | some .terminal => raiseAt .xlPerm va
    | _ => waitWith .xlate ask
  else if acc.wr && !e.w then raiseAt .xlPerm va
  else pure ()

/-- The entry for an address of the issuing task (R100): a delivered answer, the micro-TLB, the quad TLB, or a walk. -/
def lookup (va : Word) : M TlbEntry := do
  let s ← get
  let c := s.cur
  let i := actOf s c
  let sl := slotAt s c i
  if !canonical va then raiseAt .xlAddr va
  else
    let a := va57 va
    match nget sl.walkAns (a / 4096 * 2) with
    | some (.retry ck) => raiseT { code := .xlMiss, info := va, cookie := ck }
    | some .terminal => raiseAt .xlPerm va
    | some (.entry e) => pure e
    | _ =>
      match (coreOf s c).utlb.find? fun e => e.hits sl.ctx a with
      | some e => pure e
      | none =>
        match (quadAt s (quadOf c)).tlb.find? fun e => e.hits sl.ctx a with
        | some e => do set (fillUtlb s c e); pure e
        | none => waitWith .xlate fun s => addWalk s (quadOf c) sl.ctx a false (.slot c i)

/-- One address translated and checked (R100). -/
def xlate (acc : Acc) (va : Word) : M TlbEntry := do
  let e ← lookup va
  let s ← get
  let sl := slotAt s s.cur (actOf s s.cur)
  let a := va57 va
  permit e acc va (nget sl.walkAns (a / 4096 * 2 + 1)) fun s =>
    addWalk s (quadOf s.cur) sl.ctx a true (.slot s.cur (actOf s s.cur))
  return e

/-- The physical address that an entry gives (R100). -/
def TlbEntry.pa (e : TlbEntry) (va : Word) : Nat := e.ppn * 4096 + va57 va % 2 ^ pageBits e.size

/-- The first of `n` bytes that fails a check (R348). -/
def firstByte (n : Nat) (bad : Nat → Bool) : Nat := ((List.range n).find? bad).getD 0

/-- Whether an address lies in a counter window, which takes no wide, matrix, engine or graph access (R249). -/
def isCounter (s : State) (pa : Nat) : Bool := match ownerOf s.hdm pa with | .counter _ _ => true | _ => false

/-- The pieces of a global access, page by page, at most `f` of them. -/
def globalSegs (acc : Acc) : Nat → Word → Nat → M (List Seg)
  | 0, _, _ => pure []
  | f + 1, va, n => do
    if n = 0 then return []
    let e ← xlate acc va
    let m := min n (4096 - va.toNat % 4096)
    let pa := e.pa va
    let s ← get
    raiseIf (inTagRegion s pa m) .xlPerm (va + word (firstByte m fun j => inTagRegion s (pa + j) 1))
    raiseIf (!populated s pa m) .xlAddr (va + word (firstByte m fun j => !populated s (pa + j) 1))
    raiseIf (acc.bulk && isCounter s pa) .xlPerm va
    let rest ← globalSegs acc f (va + word m) (n - m)
    return ⟨va, pa, m, e.mt, e.key, true⟩ :: rest

/-! ### Local addresses -/

/-- Where a local access goes (R116). -/
inductive LTgt where
  | slice (off : Nat)
  | tpl (off : Nat)
  | global (va : Word)
deriving DecidableEq, Repr

/-- STKTOP (R114). -/
def stkTop (sl : Slot) : Nat :=
  sl.carveBase.toNat + sl.carveSize.toNat - 256 - 64 * sl.cowN.toNat - 256 * sl.spillN.toNat

/-- The length of the overflow segment in bytes and its base (R115). -/
def ovLen (sl : Slot) : Nat := sl.ovfp.toNat % 4096 * 4096
def ovSeg (sl : Slot) : Nat := sl.ovfp.toNat / 4096 * 4096

/-- LocalTarget (R116); a refused access with the first byte that fails (R348). -/
def localTarget (sl : Slot) (ea n : Nat) : Except (Code × Nat) LTgt :=
  let base := sl.carveBase.toNat
  let qb := sl.qbase.toNat
  if 0x18000 < ea + n then .error (.localBound, max ea 0x18000)
  else if ea + n ≤ qb then .ok (.slice ea)
  else if ea < qb then .error (.localBound, qb)
  else if sl.tplBase.toNat ≤ ea then .ok (.tpl ea)
  else if base ≤ ea && ea + n ≤ stkTop sl then .ok (.slice ea)
  else
    let w := min (ovLen sl - (16 - sl.spillN.toNat) * 256) (base - qb)
    if base - w ≤ ea && ea + n ≤ base then .ok (.global (word (ovSeg sl + ovLen sl - (base - ea))))
    else if ea + n ≤ base then .error (.stackOvf, ea)
    else .error (.localBound, if base ≤ ea then max ea (stkTop sl) else if base - w ≤ ea then base else ea)

/-- The window line of an offset (R312). -/
def winLine (sl : Slot) (off : Nat) : Nat := (off - sl.tplBase.toNat) / 64

/-- The offset of a copy-on-write line of a slot (R114). -/
def cowOff (sl : Slot) (j : Nat) : Nat := stkTop sl + 256 * sl.spillN.toNat + 64 * j

/-- Where an offset of the window is found by a slot: in its copy of the line, or in the template store (R312). -/
def winOff (sl : Slot) (off : Nat) : Nat :=
  match nget sl.lineMap (winLine sl off) with
  | some j => cowOff sl j + off % 64
  | none => off

/-- Bytes of one slice copied within it, poison with them. -/
def copyLocal (s : State) (c src dst n : Nat) : State :=
  let bytes := (List.range n).map fun j => (windowPa c (dst + j), rdByte s (windowPa c (src + j)))
  let ps := (List.range (n / 8)).filterMap fun j =>
    if isPoison s (windowPa c (src + 8 * j)) then some (windowPa c (dst + 8 * j) / 8) else none
  (perform s bytes ps).1

/-- The lowest copy-on-write line that a slot does not use. -/
def freeCow (sl : Slot) : Nat :=
  ((List.range 64).find? fun j => !sl.lineMap.any fun p => p.2 = j).getD 64

/-- The window lines of an access copied where the slot has no copy (R312), in ascending order. -/
def cowLines : List Nat → M Unit
  | [] => pure ()
  | l :: r => do
    let s ← get
    let c := s.cur
    let sl := slotAt s c (actOf s c)
    match nget sl.lineMap l with
    | some _ => cowLines r
    | none =>
      let j := freeCow sl
      modify fun s => copyLocal s c (sl.tplBase.toNat + 64 * l) (cowOff sl j) 64
      modMy fun sl => { sl with lineMap := nset sl.lineMap l j }
      cowLines r

/-- The pieces of an access to the template window, line by line (R312). -/
def winSegs (sl : Slot) (c : Nat) : Nat → Nat → Nat → List Seg
  | 0, _, _ => []
  | f + 1, ea, n =>
    if n = 0 then [] else
    let m := min n (64 - ea % 64)
    ⟨word ea, windowPa c (winOff sl ea), m, .normal, 0, false⟩ :: winSegs sl c f (ea + m) (n - m)

/-- TemplateAccess (R312). -/
def tplAccess (acc : Acc) (ea n : Nat) : M (List Seg) := do
  let sl ← mySlot
  let c ← myCore
  if !acc.wr || (sl.depth = 0 && sl.role = .prologue) then
    return winSegs sl c (n / 64 + 2) ea n
  raiseIf (sl.depth = 0) .localBound (word ea)
  let first := winLine sl ea
  let lines := (List.range (winLine sl (ea + (n - 1)) + 1 - first)).map (first + ·)
  let new := lines.filter fun l => (nget sl.lineMap l).isNone
  raiseIf (sl.cowN.toNat < new.length + sl.lineMap.length) .tplCopy (word ea)
  cowLines new
  return winSegs (← mySlot) c (n / 64 + 2) ea n

/-- The pieces of an access in space L (R116). -/
def localSegs (acc : Acc) (ea : Word) (n : Nat) : M (List Seg) := do
  let sl ← mySlot
  let c ← myCore
  match localTarget sl ea.toNat n with
  | .error (code, a) => raiseAt code (word a)
  | .ok (.slice off) => return [⟨ea, windowPa c off, n, .normal, 0, false⟩]
  | .ok (.tpl off) => tplAccess acc off n
  | .ok (.global va) => globalSegs acc (n / 4096 + 2) va n

/-- The pieces of an access, before the furled checks. -/
def resolveRaw (spc : Bool) (ea : Word) (n : Nat) (acc : Acc) : M (List Seg) :=
  if spc then globalSegs acc (n / 4096 + 2) ea n else localSegs acc ea n

/-! ### Furled pages and ranges, and the limit of program data -/

/-- The furled local range that a piece of a slice touches (R215). -/
def rangeAt (s : State) (pa n : Nat) : Option FurlRange :=
  match ownerOf s.hdm pa with
  | .slice k off => (coreOf s k).furl.find? fun r => decide (off < r.lb + r.len) && decide (r.lb < off + n)
  | _ => none

/-- Whether a piece touches a furled page or range (R219). -/
def Seg.furled (s : State) (g : Seg) : Bool := g.mt = .furled || (rangeAt s g.pa g.n).isSome

/-- Whether a piece lies wholly in furled pages and ranges (R219, R224). -/
def Seg.allFurled (s : State) (g : Seg) : Bool :=
  g.mt = .furled || (List.range g.n).all fun j => (rangeAt s (g.pa + j) 1).isSome

/-- Whether a piece reached through a translation goes past the program data of its slice (R117). -/
def Seg.pastQ (s : State) (g : Seg) : Bool :=
  match ownerOf s.hdm g.pa with
  | .slice k off => g.win && decide (qbaseOf s k < off + g.n)
  | _ => false

/-- The fault of a refused furled access (R219). -/
def furlRefusal (acc : Acc) : Code := if acc.wr then .furlWrite else .furlRead

/-- The first byte of a piece that lies in a furled page or range, and the first past the program data of its slice (R348). -/
def Seg.furledVa (s : State) (g : Seg) : Word :=
  if g.mt = .furled then g.va else g.va + word (firstByte g.n fun j => (rangeAt s (g.pa + j) 1).isSome)
def Seg.pastVa (s : State) (g : Seg) : Word := g.va + word (firstByte g.n fun j => { g with pa := g.pa + j, n := 1 }.pastQ s)

/-- The pieces of an access that no furled page or range may be part of; what reads is refused past the program data too (R117). -/
def resolve (spc : Bool) (ea : Word) (n : Nat) (acc : Acc) : M (List Seg) := do
  let gs ← resolveRaw spc ea n acc
  let s ← get
  match gs.find? fun g => g.furled s with
  | some g => raiseAt (furlRefusal acc) (g.furledVa s)
  | none =>
    if acc.rd then
      match gs.find? fun g => g.pastQ s with
      | some g => raiseAt .xlPerm (g.pastVa s)
      | none => return gs
    else return gs

/-! ### Reading through the store buffer -/

/-- Whether two byte ranges have a byte in common. -/
def meets (a n b m : Nat) : Bool := decide (a < b + m) && decide (b < a + n)

/-- Whether a buffered store touches a range, with what a read-modify-write reads or will touch at its owner (R241). -/
def StoreEnt.touches (e : StoreEnt) (pa n : Nat) : Bool :=
  (e.bytes.any fun b => pa ≤ b.1 && decide (b.1 < pa + n)) ||
    (match e.nib with | some (q, _, _) => pa ≤ q && decide (q < pa + n) | none => false) || e.rd.any fun r => meets pa n r.1 r.2

/-- Whether a buffered store holds data that is not yet there to be forwarded: a nibble (R124), a read-modify-write at its owner, or an
MSTORE behind an MROT (R200). -/
def StoreEnt.late (k : Core) (e : StoreEnt) : Bool :=
  e.nib.isSome || e.req ≠ .none || (e.tile.isSome && k.rots.any fun r => decide (r.id < e.id))

/-- Whether a read by a slot has to wait for a buffered store: another slot's, or one without data (R124, R260). -/
def sbBlocks (k : Core) (slot pa n : Nat) : Bool :=
  k.sb.any fun e => e.touches pa n && (e.slot ≠ slot || e.late k)

/-- Whether a slice can serve an access that another agent makes, as a built-in handler would (R69, R241, R242): an H task may run at the
owner, and no buffered store of the owner touches the bytes. -/
def sliceIdle (s : State) (pa n : Nat) : Bool :=
  match ownerOf s.hdm pa with
  | .slice o _ => hMayRun (coreOf s o) && !((coreOf s o).sb.any fun e => e.touches pa n)
  | _ => true

/-- Whether the task of a slot has pushed drain elements that are not yet in the store buffer, nor held by a fault (R162 to R164). -/
def drainsDue (k : Core) (i : Nat) : Bool :=
  ((slotOf k i).d.toList.any fun o => match o with | some st => st.drain && st.fault.isNone && st.q ≠ [] | none => false) ||
    k.orphans.any fun o => o.1 = i && o.2.1.task = (slotOf k i).task

/-- The pushed drain elements of the task come before what it does next (R154, R164; log entry 25). -/
def inOrder : M Unit := do
  let s ← get
  if drainsDue (coreOf s s.cur) (actOf s s.cur) then waitOn .order else pure ()

/-- Whether a task has read-modify-writes under way that its next read comes after (R245, R259; log entry 25). -/
def readsDue (k : Core) (i : Nat) : Bool :=
  k.sb.any fun e => e.slot = i && e.src.task = (slotOf k i).task && e.req ≠ .none && (e.acq || i ≠ 4)

/-- What a read of the task comes after: its pushed drain elements and its read-modify-writes. -/
def readOrder : M Unit := do
  inOrder
  let s ← get
  if readsDue (coreOf s s.cur) (actOf s s.cur) then waitOn .order else pure ()

/-- A byte as the issuing slot sees it (R260). -/
def fwdByte (s : State) (k : Core) (pa : Nat) : Byte :=
  k.sb.foldl (fun v e => match e.bytes.find? fun b => b.1 = pa with | some b => b.2 | none => v) (rdByte s pa)

/-- The poison of a byte's word as the store buffer would forward it (R73). -/
def fwdPoison (s : State) (k : Core) (pa : Nat) : Bool :=
  k.sb.foldl (fun p e => if e.poison.contains (pa / 8) then true else if coversWord e.bytes pa then false else p) (isPoison s pa)

/-- Bytes read with forwarding. -/
def fwdBytes (s : State) (k : Core) (pa n : Nat) : List Byte := (List.range n).map fun j => fwdByte s k (pa + j)

/-- A little-endian value read with forwarding. -/
def fwdNat (s : State) (k : Core) (pa n : Nat) : Nat := Alu.natOf (fwdBytes s k pa n)

/-- Whether any word of a range is poisoned, with forwarding. -/
def fwdAny (s : State) (k : Core) (pa n : Nat) : Bool := (List.range n).any fun j => fwdPoison s k (pa + j)

/-- Whether the buffered stores of the core cover a range. -/
def sbCovers (k : Core) (pa n : Nat) : Bool :=
  (List.range n).all fun j => k.sb.any fun e => e.bytes.any fun b => b.1 = pa + j

/-- Whether a release has to wait: some earlier store or read-modify-write of the slot is not yet performed, or not yet buffered (R263). -/
def releaseDue (k : Core) (i : Nat) : Bool := (k.sb.any fun e => e.slot = i) || drainsDue k i

/-- Release(task), as far as it waits: every earlier store and access of the task performed (R154, R263). -/
def releaseTask : M Unit := do
  let s ← get
  if releaseDue (coreOf s s.cur) (actOf s s.cur) then waitOn .fence else pure ()

/-- The release of an instruction that then waits for its own reply: made once, before its request goes out. -/
def releaseOnce : M Unit := do
  if (← mySlot).pend = .none then releaseTask else pure ()

/-- An instruction's reply, or the request for it (R122): `ask` sends the request, `w` is the wait for it. -/
def awaitReply (w : Wait) (va : Word) (ask : State → State) : M (List Word) := do
  let sl ← mySlot
  match sl.pend with
  | .none | .mem => waitWith w fun s => modSlot (ask s) s.cur (actOf s s.cur) fun sl => { sl with pend := .waiting }
  | .waiting => waitOn w
  | .got (.fault t) => raiseT { t with info := va }
  | .got .poison => raiseAt .poison va
  | .got (.vals v) => return v

/-- The wait for a reply from LPDDR-6, CXL or host memory (R122, R325): once per access. -/
def awaitMemory : M Unit := do
  let sl ← mySlot
  if sl.pend ≠ .mem then waitWith .replyMem fun s => modSlot s s.cur (actOf s s.cur) fun sl => { sl with pend := .mem }

/-- POISON at an address, what the read found of bit errors kept (R71, R72). -/
def poisonAt {α : Type} (va : Word) (pa n : Nat) : M α := fun _ => .error (.trap { code := .poison, info := va } fun s => eccTouch s pa n)

/-- A read of bytes that the issuing core reads itself, through its store buffer (R71, R72, R258, R260). -/
def readHere (g : Seg) : M Nat := do
  let s ← get
  let k := coreOf s s.cur
  if sbBlocks k (actOf s s.cur) g.pa g.n then waitOn .overlap
  let s' := eccTouch s g.pa g.n
  if fwdAny s' k g.pa g.n then poisonAt g.va g.pa g.n
  set s'
  return fwdNat s' k g.pa g.n

/-- A scalar read of one piece (R104, R121, R122): poison raises POISON, and a read of an IO page follows every earlier access of its
task. -/
def readSeg (g : Seg) : M Nat := do
  readOrder
  let s ← get
  let c := s.cur
  let i := actOf s c
  let k := coreOf s c
  if g.mt = .io && k.sb.any (fun e => e.slot = i) then waitOn .order
  match ownerOf s.hdm g.pa with
  | .slice o _ =>
    if o = c then readHere g
    else if k.sb.any fun e => e.touches g.pa g.n then
      (if sbBlocks k i g.pa g.n || !sbCovers k g.pa g.n then waitOn .overlap else do
        raiseIf (fwdAny s k g.pa g.n) .poison g.va
        return fwdNat s k g.pa g.n)
    else do
      let v ← awaitReply .replyCore g.va fun s => inject s o (senderOf s c i) (.load g.pa g.n .wait)
      return (v.headD 0).toNat
  | .counter o n =>
    if g.mt ≠ .io || g.n ≠ 4 || g.pa % 4 ≠ 0 then raiseAt .xlPerm g.va
    else if o = c then return (counterAt s c n).toNat
    else do
      let v ← awaitReply .replyCore g.va fun s => inject s o (senderOf s c i) (.counter n none false .wait 0)
      return (v.headD 0).toNat
  | _ => do
    awaitMemory
    readHere g

/-- A scalar load of `n` aligned bytes (R121). -/
def loadScalar (spc : Bool) (ea : Word) (n : Nat) : M Nat := do
  let gs ← resolve spc ea n accLoad
  match gs with
  | [] => return 0
  | g :: _ => readSeg g

/-! ### Stores -/

/-- A store with nothing special about it, for the buffer. -/
def StoreEnt.plain (id slot : Nat) (src : Sender) (va : Word) (bytes : List (Nat × Byte)) : StoreEnt where
  id := id
  slot := slot
  src := src
  bytes := bytes
  poison := []
  nib := none
  tile := none
  rel := false
  sent := false
  ack := .none
  va := va
  rd := []
  req := .none
  acq := false

/-- An entry put last into the store buffer of a core (R260), with the next number. -/
def addEnt (s : State) (c : Nat) (f : Nat → StoreEnt) : State :=
  { modCore s c fun k => { k with sb := k.sb ++ [f s.nextId] } with nextId := s.nextId + 1 }

/-- A store stalls where the buffer is full (R122). -/
def bufferRoom : M Unit := do
  let s ← get
  if Config.storeBuffer < (coreOf s s.cur).sb.length then waitOn .storeFull else pure ()

/-- A store of the issuing slot put into the core's buffer (R260). -/
def pushEnt (f : StoreEnt → StoreEnt) (va : Word) (bytes : List (Nat × Byte)) : M Unit := do
  bufferRoom
  modify fun s => addEnt s s.cur fun id => f (.plain id (actOf s s.cur) (senderOf s s.cur (actOf s s.cur)) va bytes)

/-- A store past the program data of a slice, not performed but recorded (R117). -/
def refuseStore (va : Word) : M Unit := modify fun s =>
  errRec s (slotAt s s.cur (actOf s s.cur)).ctx .xlPerm va s.cur (actOf s s.cur)

/-- A scalar store of one piece (R121, R73, R117); one to a counter window is a SET of the counter (R249). -/
def storeSeg (g : Seg) (v : Word) (rel : Bool) : M Unit := do
  let s ← get
  let c := s.cur
  let k := coreOf s c
  let bytes := ((List.range g.n).zip (Alu.bytesOf v.toNat g.n)).map fun p => (g.pa + p.1, p.2)
  if g.pastQ s then refuseStore g.va
  else match ownerOf s.hdm g.pa with
  | .slice o _ => do
    if o = c then raiseIf (g.n < 8 && fwdPoison s k g.pa) .poison g.va
    pushEnt (fun e => { e with rel := rel }) g.va bytes
  | .counter o n =>
    if g.mt ≠ .io || g.n ≠ 4 || g.pa % 4 ≠ 0 then raiseAt .xlPerm g.va
    else pushEnt (fun e => { e with rel := rel, req := .ctr o n (.rat 5 false true v 0) .none, rd := [(g.pa, 4)] }) g.va []
  | _ => pushEnt (fun e => { e with rel := rel }) g.va bytes

/-- A scalar store of `n` aligned bytes. -/
def storeScalar (spc : Bool) (ea : Word) (n : Nat) (v : Word) (rel : Bool) : M Unit := do
  let gs ← resolve spc ea n accStore
  inOrder
  match gs with
  | [] => pure ()
  | g :: _ => storeSeg g v rel

/-! ### Read-modify-writes -/

/-- The new value of a RAT (R244), from the old one. `fn` is FN of R25, `lit` has no part in it. -/
def ratNew (fn : Nat) (dbl : Bool) (old b c : Nat) : Nat :=
  let w := if dbl then 64 else 32
  let sp : Num.Spec := if dbl then ⟨11, 52, 1023, .ieee⟩ else ⟨8, 23, 127, .ieee⟩
  let sg (x : Nat) : Int := (BitVec.ofNat w x).toInt
  match fn with
  | 0 => (old + b) % 2 ^ w
  | 1 => (Num.fpAdd sp .rne 0 old b).1
  | 2 => (Num.roundSpec sp .rne true 0 (Num.vAdd (Num.decodeSpec sp old) (Num.decodeSpec sp b)).1).1
  | 3 => if sg b ≤ sg old then old else b
  | 4 => if sg old ≤ sg b then old else b
  | 5 => b
  | 6 => if old = b then c else old
  | 7 => old &&& b
  | 8 => old ||| b
  | _ => old ^^^ b

/-- What a read-modify-write does at its owner: the bytes it writes, its reply, and the counts that a FUT sends (R340). -/
structure RmwOut where
  writes : List (Nat × Byte)
  reply : Reply
  counts : List (Word × Bool)
deriving DecidableEq, Repr

/-- The bytes of a value written at an address. -/
def bytesAt (pa n v : Nat) : List (Nat × Byte) := ((List.range n).zip (Alu.bytesOf v n)).map fun p => (pa + p.1, p.2)

/-- A queue's control block is valid (R246). -/
def queueValid (qb head tail cap ew w4 : Nat) (rest : Bool) : Bool :=
  1 ≤ cap && cap ≤ 65536 && 1 ≤ ew && ew ≤ 8 && w4 < 2 ^ 17 && w4 % 8 = 0 && rest && decide (w4 + 8 * ew * cap ≤ qb) &&
    decide ((tail + 2 ^ 64 - head) % 2 ^ 64 ≤ cap)

/-- QENQ and QDEQ at the owner (R248). `win` is the physical address of the slice's offset 0. -/
def queueOp (rd : Nat → Nat → Nat) (ps : Nat → Nat → Bool) (qb win pa nw : Nat) (data : Option (List Word)) : RmwOut :=
  let f (j : Nat) := rd (pa + 8 * j) 8
  let head := f 0; let tail := f 1; let cap := f 2; let ew := f 3; let w4 := f 4
  let st (n : Nat) : RmwOut := ⟨[], .vals [word n], []⟩
  if ps pa 64 then ⟨[], .poison, []⟩
  else if !(queueValid qb head tail cap ew w4 (f 5 = 0 && f 6 = 0 && f 7 = 0)) || ew ≠ nw then st 3
  else
    match data with
    | some ws =>
      if (tail + 2 ^ 64 - head) % 2 ^ 64 = cap then st 1
      else
        let at0 := win + w4 + 8 * ew * (tail % cap)
        if ps at0 (8 * nw) then ⟨[], .poison, []⟩ else
        ⟨(ws.zipIdx.map fun p => bytesAt (at0 + 8 * p.2) 8 p.1.toNat).flatten ++ bytesAt (pa + 8) 8 ((tail + 1) % 2 ^ 64),
          .vals [0], []⟩
    | none =>
      if tail = head then st 2
      else
        let at0 := win + w4 + 8 * ew * (head % cap)
        if ps at0 (8 * nw) then ⟨[], .poison, []⟩ else
        ⟨bytesAt pa 8 ((head + 1) % 2 ^ 64), .vals (0 :: (List.range nw).map fun j => word (rd (at0 + 8 * j) 8)), []⟩

/-- FUT at the owner (R340): REG 0, SET 1, GET 2, RESET 3. -/
def futOp (old : Word) (fn : Nat) (psn : Bool) (b : Word) (pa : Nat) (va : Word) : RmwOut :=
  let st := old.toNat / 2 ^ 62
  let recVa : Word := (old.setWidth 62).signExtend 64
  match fn with
  | 0 =>
    match st with
    | 0 => ⟨bytesAt pa 8 (2 ^ 62 + b.toNat % 2 ^ 62), .vals [0], []⟩
    | 1 => ⟨[], .fault { code := .futBusy, info := va }, []⟩
    | 2 => ⟨[], .vals [2], [(b, false)]⟩
    | _ => ⟨[], .vals [3], [(b, true)]⟩
  | 1 =>
    let new := if psn then 3 * 2 ^ 62 else 2 * 2 ^ 62 + b.toNat % 2 ^ 62
    match st with
    | 0 => ⟨bytesAt pa 8 new, .vals [0], []⟩
    | 1 => ⟨bytesAt pa 8 new, .vals [0], [(recVa, psn)]⟩
    | _ => ⟨[], .fault { code := .futDouble, info := va }, []⟩
  | 2 => ⟨[], .vals [old], []⟩
  | _ => if st = 1 then ⟨[], .fault { code := .futBusy, info := va }, []⟩ else ⟨bytesAt pa 8 0, .vals [old], []⟩

/-- A memory barrier object is valid (R334). -/
def barObjValid (w : Nat) : Bool :=
  w / 2 ^ 56 = 0xB5 && 1 ≤ w / 2 ^ 40 % 65536 && 1 ≤ w / 2 ^ 24 % 65536 && decide (w / 2 ^ 24 % 65536 ≤ w / 2 ^ 40 % 65536)

/-- An arrival at a memory barrier object (R335): the token, or INV as bit 61. -/
def barObjOp (w pa : Nat) : RmwOut :=
  if !barObjValid w then ⟨[], .vals [word (2 ^ 61)], []⟩
  else
    let exp := w / 2 ^ 40 % 65536; let rem := w / 2 ^ 24 % 65536; let ph := w % 2 ^ 24
    let new := if rem = 1 then 0xB5 * 2 ^ 56 + exp * 2 ^ 40 + exp * 2 ^ 24 + (ph + 1) % 2 ^ 24
      else 0xB5 * 2 ^ 56 + exp * 2 ^ 40 + (rem - 1) * 2 ^ 24 + ph
    ⟨bytesAt pa 8 new, .vals [word ph], []⟩

/-- A bump block is valid (R275). -/
def bumpValid (cur last : Nat) : Bool := cur % 16 = 0 && last % 16 = 0 && cur ≠ 0 && decide (cur ≤ last)

/-- An allocation at a bump block (R275, R276): the address, 0 for FULL, 1 for INVALID. It is made where CUR still is `want`; with none it
only says what it would give, and 2 says that CUR has moved on. -/
def bumpOp (cur last size pa : Nat) (want : Option Word) : RmwOut :=
  if !bumpValid cur last then ⟨[], .vals [1], []⟩
  else if last < cur + size then ⟨[], .vals [0], []⟩
  else match want with
    | none => ⟨[], .vals [word cur], []⟩
    | some w => if w = word cur then ⟨bytesAt pa 8 (cur + size), .vals [w], []⟩ else ⟨[], .vals [2], []⟩

/-- A read-modify-write of `n` bytes at its owner (R241). `rd` and `ps` read memory as the owner sees it. -/
def rmwOut (rd : Nat → Nat → Nat) (ps : Nat → Nat → Bool) (qb win : Nat) (pa n : Nat) (va : Word) (op : Rmw) : RmwOut :=
  match op with
  | .rat fn dbl _ b c =>
    if ps pa n then ⟨[], .poison, []⟩ else
    let old := rd pa n
    ⟨bytesAt pa n (ratNew fn dbl old (b.toNat % 2 ^ (8 * n)) (c.toNat % 2 ^ (8 * n))), .vals [word old], []⟩
  | .enq nw data => queueOp rd ps qb win pa nw (some data)
  | .deq nw => queueOp rd ps qb win pa nw none
  | .fut fn psn b => if ps pa 8 then ⟨[], .poison, []⟩ else futOp (word (rd pa 8)) fn psn b pa va
  | .barrier => if ps pa 8 then ⟨[], .poison, []⟩ else barObjOp (rd pa 8) pa
  | .bump size w => if ps pa 16 then ⟨[], .poison, []⟩ else bumpOp (rd pa 8) (rd (pa + 8) 8) size pa w

/-- Counts sent off by a FUT (R338, R340). -/
def sendCounts (s : State) (src : Sender) : List (Word × Bool) → State
  | [] => s
  | (va, p) :: r => sendCounts { s with counts := s.counts ++ [⟨s.nextId, va, p, quadOf src.core, src⟩], nextId := s.nextId + 1 } src r

/-- The window address of offset 0 of the slice that holds an address. -/
def winBase (s : State) (pa : Nat) : Nat := match ownerOf s.hdm pa with | .slice o _ => windowPa o 0 | _ => 0

/-- The program-data limit at the owner of an address. -/
def qbAt (s : State) (pa : Nat) : Nat := match ownerOf s.hdm pa with | .slice o _ => qbaseOf s o | _ => 0

/-- The ranges a read-modify-write looks at, for the overlap with buffered stores. -/
def rmwTouches (k : Core) (s : State) (pa n : Nat) (op : Rmw) : List (Nat × Nat) :=
  match op with
  | .enq nw _ | .deq nw =>
    let rd (a : Nat) := fwdNat s k a 8
    let cap := max 1 (rd (pa + 16))
    let ix := match op with | .enq _ _ => rd (pa + 8) | _ => rd pa
    [(pa, 64), (winBase s pa + rd (pa + 32) % 2 ^ 17 + 8 * rd (pa + 24) % 2 ^ 17 * (ix % cap), 8 * nw)]
  | _ => [(pa, n)]

/-- Delivery of a result that is ready at once (R245). -/
def deliverR (va : Word) (dst : RDst) (r : Reply) (upd : State → State) : M (List Word) :=
  match dst, r with
  | _, .fault t => raiseT t
  | .g _, .poison => fun _ => .error (.trap { code := .poison, info := va } upd)
  | .e q, .poison => do modMy (fun sl => sl.fillE q 0 true); return []
  | .zr, .poison => do
    let sl ← mySlot
    let s ← get
    modify fun t => errRec t sl.ctx .poison va s.cur (actOf s s.cur)
    return []
  | .e q, .vals v => do modMy (fun sl => sl.fillE q (v.headD 0) false); return v
  | _, .vals v => return v

/-- What a read-modify-write may touch at an owner that the issuing core cannot read: its bytes, or for a queue the slice that holds it. -/
def rmwRange (s : State) (pa n : Nat) (op : Rmw) : List (Nat × Nat) :=
  match op with
  | .enq _ _ | .deq _ => [(pa, n), (winBase s pa, 0x18000)]
  | _ => [(pa, n)]

/-- A read-modify-write sent to its owner through the store buffer, behind the earlier stores of the core (R245, R259, R260). A form whose
result is awaited waits for its reply; the others go on, and later reads and releases of the task come after them. -/
def sendRmw (g : Seg) (req : RTo → SbReq) (range : List (Nat × Nat)) (far acq : Bool) (dst : RDst) : M (List Word) := do
  let i ← myIdx
  let ent (d : RTo) (e : StoreEnt) : StoreEnt := { e with rel := acq, acq := acq, req := req d, rd := range }
  match dst with
  | .g _ => do
    raiseIf (i = 4 && far) .hBlock
    if (← mySlot).pend = .none then do
      waitOutbound true
      bufferRoom
    awaitReply (if far then .replyCore else .replyMem) g.va fun s =>
      addEnt s s.cur fun id => ent .wait (.plain id (actOf s s.cur) (senderOf s s.cur (actOf s s.cur)) g.va [])
  | .e q => do
    waitOutbound true
    pushEnt (ent (.ereg q)) g.va []
    return []
  | .zr => do
    waitOutbound true
    pushEnt (ent .none) g.va []
    return []

/-- What a read finds of bit errors in several ranges (R71). -/
def eccScan (s : State) (l : List (Nat × Nat)) : State := l.foldl (fun s p => eccTouch s p.1 p.2) s

/-- A counter updated by its own core (R242, R251): what others read of it comes after the stores before it (R259). -/
def ownCounter (s : State) (c n : Nat) (v : BitVec 32) : State := modCore (counterUpdate s c n v) c fun k => { k with ctrMark := s.nextId }

/-- A read-modify-write of one piece, by the issuing core (R242, R244, R245). The result is what a blocking form receives. -/
def rmwSeg (g : Seg) (op : Rmw) (dst : RDst) (acq : Bool) : M (List Word) := do
  inOrder
  let s ← get
  let c := s.cur
  let i := actOf s c
  let k := coreOf s c
  if g.mt = .io && (slotOf k i).pend = .none && k.sb.any (fun e => e.slot = i) then waitOn .order
  match ownerOf s.hdm g.pa with
  | .slice o _ =>
    if o ≠ c then sendRmw g (fun d => .rmw g.pa g.n op d) (rmwRange s g.pa g.n op) true acq dst
    else do
      readOrder
      let touched := rmwTouches k s g.pa g.n op
      if touched.any (fun p => sbBlocks k i p.1 p.2) then waitOn .overlap
      raiseIf (touched.any fun p => (rangeAt s p.1 p.2).isSome) .furlWrite g.va
      let s' := eccScan s touched
      let r := rmwOut (fun a m => fwdNat s' k a m) (fun a m => fwdAny s' k a m) (qbaseOf s c) (windowPa c 0) g.pa g.n g.va op
      set s'
      if r.writes ≠ [] then pushEnt (fun e => { e with rd := touched }) g.va r.writes
      modify fun s => sendCounts s (senderOf s c i) r.counts
      deliverR g.va dst r.reply fun s => eccScan s touched
  | .counter o n =>
    match op with
    | .rat fn false _ b x =>
      if g.mt ≠ .io || g.n ≠ 4 || g.pa % 4 ≠ 0 || fn = 1 || fn = 2 then raiseAt .xlPerm g.va
      else if o = c then do
        readOrder
        let old := (counterAt s c n).toNat
        modify fun s => ownCounter s c n (BitVec.ofNat 32 (ratNew fn false old (b.toNat % 2 ^ 32) (x.toNat % 2 ^ 32)))
        deliverR g.va dst (.vals [word old]) id
      else sendRmw g (fun d => .ctr o n op d) [(g.pa, 4)] true acq dst
    | _ => raiseAt .xlPerm g.va
  | _ => sendRmw g (fun d => .rmw g.pa g.n op d) [(g.pa, g.n)] false acq dst

/-! ### Accesses of the wide and matrix units (R154, R155; log entry 5) -/

/-- The bytes of the pieces of a bulk access, with the poison of each byte's word; a core's own buffered stores are forwarded, what
else is buffered for the bytes is waited for, and another core's slice answers when it can (R69, R154). -/
def readBulk : List Seg → M (List (Byte × Bool))
  | [] => pure []
  | g :: r => do
    readOrder
    let s ← get
    let c := s.cur
    let k := coreOf s c
    if sbBlocks k (actOf s c) g.pa g.n then waitOn .overlap
    match ownerOf s.hdm g.pa with
    | .slice o _ => if o ≠ c && !sliceIdle s g.pa g.n then waitOn .overlap
    | _ => pure ()
    let s' := eccTouch s g.pa g.n
    set s'
    let here := (List.range g.n).map fun j => (fwdByte s' k (g.pa + j), fwdPoison s' k (g.pa + j))
    let rest ← readBulk r
    return here ++ rest

/-- The bytes of a bulk store that its pieces place, one entry of the store buffer for each piece; `data` gives each byte or nothing
where the store leaves it (R184). Bytes past the program data of a slice are not stored (R117). -/
def storeBulk (data : List (Option Byte)) (pois rel : Bool) (tile : Option (Fin 4)) : List Seg → M Unit
  | [] => pure ()
  | g :: r => do
    let s0 ← get
    let here := (data.take g.n).zipIdx.filterMap fun p => p.1.map fun b => (g.pa + p.2, b)
    let keep := match ownerOf s0.hdm g.pa with
      | .slice o _ => if g.win then here.filter fun b => decide (b.1 - windowPa o 0 < qbaseOf s0 o) else here
      | _ => here
    if keep.length < here.length then refuseStore g.va
    let e (e : StoreEnt) : StoreEnt := { e with poison := if pois then (keep.map fun b => b.1 / 8).eraseDups else [], tile := tile, rel := rel }
    if keep ≠ [] then
      modify fun s => addEnt s s.cur fun id => e (.plain id (actOf s s.cur) (senderOf s s.cur (actOf s s.cur)) g.va keep)
    storeBulk (data.drop g.n) pois rel tile r

/-- A bulk store comes behind the task's pushed drain elements and waits while the buffer is full (R122, R154). -/
def bulkRoom : M Unit := do
  inOrder
  bufferRoom

end Sys2Proof.Machine
end

