-- ==== Sys2Proof/Machine/Arith.lean ====
section
/-! DEFINITION. Integer arithmetic (R31 to R35). -/

namespace Sys2Proof.Machine

/-- A result of two sources (R31): both read, then the destination written. -/
def binOp (d : Dst) (a b : Src) (f : Word → Word → Word) : M Flow := do
  let (x, y) ← read2 a b
  writeDst d (f x y)
  return .next

/-- A result of one source, or of one source and a literal. -/
def unOp (d : Dst) (a : Src) (f : Word → Word) : M Flow := do
  let x ← read1 a
  writeDst d (f x)
  return .next

/-- A result of three sources. -/
def triOp (d : Dst) (a b c : Src) (f : Word → Word → Word → Word) : M Flow := do
  let (x, y, z) ← read3 a b c
  writeDst d (f x y z)
  return .next

/-- ADD (R35): the wrapped sum. -/
def execAddReg (sz : Sz) (d : Dst) (a b : Src) (s : State) : Host.Outcome State Fault Refusal :=
  issueW (eR3 0x02 0 sz d a b) (binOp d a b (Alu.atW sz Alu.fAdd)) s

/-- ADD with a sign-extended literal (R35, R22). -/
def execAddLit (sz : Sz) (d : Dst) (a : Src) (imm : BitVec 32) (s : State) : Host.Outcome State Fault Refusal :=
  issueW (eL2 0x03 0 sz d a imm) (unOp d a fun x => Alu.atW sz Alu.fAdd x (Alu.sx imm)) s

/-- SUB (R35): the wrapped difference. -/
def execSubReg (sz : Sz) (d : Dst) (a b : Src) (s : State) : Host.Outcome State Fault Refusal :=
  issueW (eR3 0x02 1 sz d a b) (binOp d a b (Alu.atW sz Alu.fSub)) s

/-- SUB with a sign-extended literal (R35, R22). -/
def execSubLit (sz : Sz) (d : Dst) (a : Src) (imm : BitVec 32) (s : State) : Host.Outcome State Fault Refusal :=
  issueW (eL2 0x03 1 sz d a imm) (unOp d a fun x => Alu.atW sz Alu.fSub x (Alu.sx imm)) s

/-- MUL (R35): the low half of the product. -/
def execMulReg (sz : Sz) (d : Dst) (a b : Src) (s : State) : Host.Outcome State Fault Refusal :=
  issueW (eR3 0x02 2 sz d a b) (binOp d a b (Alu.atW sz Alu.fMul)) s

/-- MUL with a sign-extended literal (R35, R22). -/
def execMulLit (sz : Sz) (d : Dst) (a : Src) (imm : BitVec 32) (s : State) : Host.Outcome State Fault Refusal :=
  issueW (eL2 0x03 2 sz d a imm) (unOp d a fun x => Alu.atW sz Alu.fMul x (Alu.sx imm)) s

/-- MULH (R35): the high half of the signed product. -/
def execMulhReg (sz : Sz) (d : Dst) (a b : Src) (s : State) : Host.Outcome State Fault Refusal :=
  issueW (eR3 0x02 3 sz d a b) (binOp d a b (Alu.atW sz Alu.fMulh)) s

/-- MULH with a sign-extended literal (R35, R22). -/
def execMulhLit (sz : Sz) (d : Dst) (a : Src) (imm : BitVec 32) (s : State) : Host.Outcome State Fault Refusal :=
  issueW (eL2 0x03 3 sz d a imm) (unOp d a fun x => Alu.atW sz Alu.fMulh x (Alu.sx imm)) s

/-- MULHU (R35): the high half of the unsigned product. -/
def execMulhuReg (sz : Sz) (d : Dst) (a b : Src) (s : State) : Host.Outcome State Fault Refusal :=
  issueW (eR3 0x02 4 sz d a b) (binOp d a b (Alu.atW sz Alu.fMulhu)) s

/-- MULHU with a sign-extended literal (R35, R22). -/
def execMulhuLit (sz : Sz) (d : Dst) (a : Src) (imm : BitVec 32) (s : State) : Host.Outcome State Fault Refusal :=
  issueW (eL2 0x03 4 sz d a imm) (unOp d a fun x => Alu.atW sz Alu.fMulhu x (Alu.sx imm)) s

/-- DIV (R35): the signed quotient with its fixed edge cases. -/
def execDivReg (sz : Sz) (d : Dst) (a b : Src) (s : State) : Host.Outcome State Fault Refusal :=
  issueW (eR3 0x02 5 sz d a b) (binOp d a b (Alu.atW sz Alu.fDiv)) s

/-- DIV with a sign-extended literal (R35, R22). -/
def execDivLit (sz : Sz) (d : Dst) (a : Src) (imm : BitVec 32) (s : State) : Host.Outcome State Fault Refusal :=
  issueW (eL2 0x03 5 sz d a imm) (unOp d a fun x => Alu.atW sz Alu.fDiv x (Alu.sx imm)) s

/-- DIVU (R35): the unsigned quotient. -/
def execDivuReg (sz : Sz) (d : Dst) (a b : Src) (s : State) : Host.Outcome State Fault Refusal :=
  issueW (eR3 0x02 6 sz d a b) (binOp d a b (Alu.atW sz Alu.fDivu)) s

/-- DIVU with a sign-extended literal (R35, R22). -/
def execDivuLit (sz : Sz) (d : Dst) (a : Src) (imm : BitVec 32) (s : State) : Host.Outcome State Fault Refusal :=
  issueW (eL2 0x03 6 sz d a imm) (unOp d a fun x => Alu.atW sz Alu.fDivu x (Alu.sx imm)) s

/-- REM (R35): the signed remainder. -/
def execRemReg (sz : Sz) (d : Dst) (a b : Src) (s : State) : Host.Outcome State Fault Refusal :=
  issueW (eR3 0x02 7 sz d a b) (binOp d a b (Alu.atW sz Alu.fRem)) s

/-- REM with a sign-extended literal (R35, R22). -/
def execRemLit (sz : Sz) (d : Dst) (a : Src) (imm : BitVec 32) (s : State) : Host.Outcome State Fault Refusal :=
  issueW (eL2 0x03 7 sz d a imm) (unOp d a fun x => Alu.atW sz Alu.fRem x (Alu.sx imm)) s

/-- REMU (R35): the unsigned remainder. -/
def execRemuReg (sz : Sz) (d : Dst) (a b : Src) (s : State) : Host.Outcome State Fault Refusal :=
  issueW (eR3 0x02 8 sz d a b) (binOp d a b (Alu.atW sz Alu.fRemu)) s

/-- REMU with a sign-extended literal (R35, R22). -/
def execRemuLit (sz : Sz) (d : Dst) (a : Src) (imm : BitVec 32) (s : State) : Host.Outcome State Fault Refusal :=
  issueW (eL2 0x03 8 sz d a imm) (unOp d a fun x => Alu.atW sz Alu.fRemu x (Alu.sx imm)) s

/-- MIN (R35): the signed minimum. -/
def execMinReg (sz : Sz) (d : Dst) (a b : Src) (s : State) : Host.Outcome State Fault Refusal :=
  issueW (eR3 0x02 9 sz d a b) (binOp d a b (Alu.atW sz Alu.fMin)) s

/-- MIN with a sign-extended literal (R35, R22). -/
def execMinLit (sz : Sz) (d : Dst) (a : Src) (imm : BitVec 32) (s : State) : Host.Outcome State Fault Refusal :=
  issueW (eL2 0x03 9 sz d a imm) (unOp d a fun x => Alu.atW sz Alu.fMin x (Alu.sx imm)) s

/-- MAX (R35): the signed maximum. -/
def execMaxReg (sz : Sz) (d : Dst) (a b : Src) (s : State) : Host.Outcome State Fault Refusal :=
  issueW (eR3 0x02 10 sz d a b) (binOp d a b (Alu.atW sz Alu.fMax)) s

/-- MAX with a sign-extended literal (R35, R22). -/
def execMaxLit (sz : Sz) (d : Dst) (a : Src) (imm : BitVec 32) (s : State) : Host.Outcome State Fault Refusal :=
  issueW (eL2 0x03 10 sz d a imm) (unOp d a fun x => Alu.atW sz Alu.fMax x (Alu.sx imm)) s

/-- MINU (R35): the unsigned minimum. -/
def execMinuReg (sz : Sz) (d : Dst) (a b : Src) (s : State) : Host.Outcome State Fault Refusal :=
  issueW (eR3 0x02 11 sz d a b) (binOp d a b (Alu.atW sz Alu.fMinu)) s

/-- MINU with a sign-extended literal (R35, R22). -/
def execMinuLit (sz : Sz) (d : Dst) (a : Src) (imm : BitVec 32) (s : State) : Host.Outcome State Fault Refusal :=
  issueW (eL2 0x03 11 sz d a imm) (unOp d a fun x => Alu.atW sz Alu.fMinu x (Alu.sx imm)) s

/-- MAXU (R35): the unsigned maximum. -/
def execMaxuReg (sz : Sz) (d : Dst) (a b : Src) (s : State) : Host.Outcome State Fault Refusal :=
  issueW (eR3 0x02 12 sz d a b) (binOp d a b (Alu.atW sz Alu.fMaxu)) s

/-- MAXU with a sign-extended literal (R35, R22). -/
def execMaxuLit (sz : Sz) (d : Dst) (a : Src) (imm : BitVec 32) (s : State) : Host.Outcome State Fault Refusal :=
  issueW (eL2 0x03 12 sz d a imm) (unOp d a fun x => Alu.atW sz Alu.fMaxu x (Alu.sx imm)) s

/-- LEA (R35): `a + b * 2^c`. -/
def execLeaReg (sz : Sz) (d : Dst) (a b : Src) (c : BitVec 6) (s : State) : Host.Outcome State Fault Refusal :=
  issueW (packR 0x02 13 d.code a.code b.code sz.code c.toNat 0) (binOp d a b (Alu.lea sz c)) s

/-- LEA with a literal (R35). -/
def execLeaLit (sz : Sz) (d : Dst) (a : Src) (c : BitVec 6) (imm : BitVec 32) (s : State) : Host.Outcome State Fault Refusal :=
  issueW (packL 0x03 13 d.code a.code c.toNat sz.code imm.toNat) (unOp d a fun x => Alu.lea sz c x (Alu.sx imm)) s

end Sys2Proof.Machine
end

