-- ==== Sys2Proof/Machine/MemScalar.lean ====
section
/-! DEFINITION. Scalar loads and stores, nibbles, PF, FENCE and WAITA (R120 to R130). -/

namespace Sys2Proof.Machine

/-- A scalar width in bytes as the exponent of R121. -/
abbrev bytesN (sz : Sz) : Nat := Alu.szB sz

/-- A loaded value extended to 64 bits (R121). -/
def extend (n : Nat) (sx : Bool) (v : Nat) : Word :=
  if sx then (BitVec.ofNat (8 * n) v).signExtend 64 else word v

/-- LD (R121): alignment, resolution, the read, the destination. -/
def loadTo (sz : Sz) (d : Dst) (m : Mode) (sx : Bool) (ea : Word) : M Flow := do
  let n := bytesN sz
  raiseIf (ea.toNat % n ≠ 0) .align ea
  let v ← loadScalar m.spc ea n
  writeDst d (extend n sx v)
  return .next

/-- ST (R121). -/
def storeFrom (sz : Sz) (m : Mode) (ea v : Word) : M Flow := do
  let n := bytesN sz
  raiseIf (ea.toNat % n ≠ 0) .align ea
  storeScalar m.spc ea n v m.ord
  return .next

/-- The byte and half of a 4-bit element (R124). -/
def nibAddr (a : Word) (i : Int) : Word × Nat := (a + BitVec.ofInt 64 (i / 2), (i % 2).toNat)

/-- LDN (R124). -/
def loadNib (d : Dst) (m : Mode) (sx : Bool) (a : Word) (i : Int) : M Flow := do
  let (ea, half) := nibAddr a i
  let v ← loadScalar m.spc ea 1
  let x : BitVec 4 := BitVec.ofNat 4 (v / 16 ^ half)
  writeDst d (if sx then x.signExtend 64 else x.setWidth 64)
  return .next

/-- STN (R124): the owner updates the nibble in one step, so the store buffer holds the update and not a byte. -/
def storeNib (m : Mode) (a : Word) (i : Int) (v : Word) : M Flow := do
  let (ea, half) := nibAddr a i
  let gs ← resolve m.spc ea 1 accStore
  inOrder
  match gs with
  | [] => return .next
  | g :: _ => do
    let s ← get
    let own : Bool := match ownerOf s.hdm g.pa with | .slice o _ => decide (o = s.cur) | _ => false
    let ctr : Bool := match ownerOf s.hdm g.pa with | .counter _ _ => true | _ => false
    if ctr then raiseAt .xlPerm g.va
    if g.pastQ s then refuseStore g.va
    else do
      raiseIf (own && fwdPoison s (coreOf s s.cur) g.pa) .poison g.va
      pushEnt (fun e => { e with nib := some (g.pa, half, v.setWidth 4), rel := m.ord }) g.va []
    return .next

/-- PF in space G (R125): the translation alone; a miss starts a walk whose answer goes to the micro-TLB. -/
def prefetch (spc : Bool) (ea : Word) : M Flow := do
  let s ← get
  let c := s.cur
  let sl ← mySlot
  let a := va57 ea
  if spc && canonical ea && !(coreOf s c).utlb.any (fun e => e.hits sl.ctx a) then
    match (quadAt s (quadOf c)).tlb.find? fun e => e.hits sl.ctx a with
    | some e => set (fillUtlb s c e)
    | none => set (addWalk s (quadOf c) sl.ctx a false (.prefetch c))
  return .next

/-- FENCE (R127): a full and a release fence wait for stores and loads, an acquire fence for loads, among them those of the
read-modify-writes still under way. -/
def fence (kind : FenceKind) : M Flow := do
  let s ← get
  let i := actOf s s.cur
  match kind with
  | .acq => if (coreOf s s.cur).sb.any fun e => e.slot = i && e.req ≠ .none then waitOn .fenceAcq
  | _ => releaseTask
  return .next

/-- A waiting form refused where it may not wait at all (R129, R325). -/
def mayBlock : M Unit := do
  let i ← myIdx
  let sl ← mySlot
  if i = 4 then raise .hBlock else if sl.mw ≠ 0 then raise .maskwBlock else pure ()

/-- Whether a drain of a context has begun (R359). -/
def draining (s : State) (ctx : Nat) : Bool := match nget s.ctxs ctx with | some x => x.drain.isSome | none => false

/-- A watched word registered with its owner, which keeps at most 16 (R130). -/
def watchWord (s : State) (c i pa : Nat) : State :=
  match ownerOf s.hdm pa with
  | .slice o _ =>
    if (coreOf s o).watched.contains (pa / 8, c * 8 + i) || 16 ≤ (coreOf s o).watched.length then s
    else modCore s o fun k => { k with watched := k.watched ++ [(pa / 8, c * 8 + i)] }
  | _ => s

/-- A sleeper's watched words forgotten. -/
def unwatch (s : State) (c i pa : Nat) : State :=
  match ownerOf s.hdm pa with
  | .slice o _ => modCore s o fun k => { k with watched := k.watched.filter fun w => w.2 ≠ c * 8 + i }
  | _ => s

/-- A computation whose waits leave a note in the slot. -/
def noting {α : Type} (f : Slot → Slot) (m : M α) : M α := fun s =>
  match m s with
  | .error (.wait w upd) => .error (.wait w fun s => let t := upd s; modSlot t t.cur (actOf t t.cur) f)
  | r => r

/-- A step whose effect stays even where what follows it waits or faults, and which is then not made again: `keep` notes its
result in the slot. -/
def commit {α β : Type} (first : M α) (keep : α → Slot → Slot) (rest : α → M β) : M β := fun s =>
  match first s with
  | .error e => .error e
  | .ok (a, s1) =>
    let s1 := modSlot s1 s1.cur (actOf s1 s1.cur) (keep a)
    match rest a s1 with
    | .ok r => .ok r
    | .error (.trap t f) => .error (.trap t fun _ => f s1)
    | .error (.wait w f) => .error (.wait w fun _ => f s1)

/-- WAITA (R129, R130). -/
def waitAddr (sz : Sz) (d a b c : GZ) (m : Mode) : M Flow := do
  mayBlock
  let n := bytesN sz
  let ea ← readGZ a
  let x ← readGZ b
  let lim ← readGZ c
  let s ← get
  let me := s.cur
  let i := actOf s me
  let sl := slotAt s me i
  let now := clkOf s me
  let t0 := sl.t0.getD now
  raiseIf (ea.toNat % n ≠ 0) .align ea
  let note0 (sl : Slot) : Slot := { sl with t0 := some t0 }
  let gs ← if sl.noted = [] then noting note0 (resolve m.spc ea n accLoad) else pure sl.noted
  let note (sl : Slot) : Slot := { sl with t0 := some t0, noted := gs }
  match gs with
  | [] => return .next
  | g :: _ => do
    let ctr : Bool := match ownerOf s.hdm g.pa with | .counter _ _ => true | _ => false
    raiseIf (g.mt = .io && !(ctr && n = 4)) .xlPerm g.va
    let v ← noting note (readSeg g)
    let want := x.toNat % 2 ^ (8 * n)
    let done (st : Word) : M Flow := do
      modify fun s => unwatch s me i g.pa
      writeGZ d st
      return .next
    if v ≠ want then done 0
    else if lim ≠ BitVec.allOnes 64 && lim.toNat ≤ (now - t0).toNat then done 1
    else if draining s sl.ctx then done 2
    else
      let till : Word := if lim = BitVec.allOnes 64 then lim else t0 + lim
      waitWith (.waita g.pa n (word want) till) fun s =>
        modSlot (watchWord s me i g.pa) me i fun sl => { sl with t0 := some t0, noted := gs, pend := .none }

/-- WAITA_TIMEOUT (R129): the limit of a sleeping WAITA is reached. -/
def execWaitaTimeout (rank : Nat) (slot : Fin 5) (s : State) : Host.Outcome State Fault Refusal :=
  match (slotAt s rank slot.val).st with
  | .blocked (.waita _ _ _ till) =>
    if till ≠ BitVec.allOnes 64 && till.toNat ≤ (clkOf s rank).toNat then .next (wake s rank slot.val) else .next s
  | _ => .next s

/-- WAITA_REREAD (R130): a sleeping WAITA reads its word again. -/
def execWaitaReread (rank : Nat) (slot : Fin 5) (s : State) : Host.Outcome State Fault Refusal :=
  match (slotAt s rank slot.val).st with
  | .blocked (.waita _ _ _ _) => .next (wake s rank slot.val)
  | _ => .next s

/-- LD, LDACQ with an index (R120 to R122). -/
def execLdReg (sz : Sz) (d : Dst) (a b : Src) (m : Mode) (scl : BitVec 3) (sx : Bool) (s : State) : Host.Outcome State Fault Refusal :=
  issueW (packR 0x30 0 d.code a.code b.code sz.code 0 (m.modR + scl.toNat * 2 ^ 20 + sx.toNat * 2 ^ 19)) (do
    let (x, y) ← read2 a b
    loadTo sz d m sx (x + y <<< scl.toNat)) s

/-- LD, LDACQ with an offset. -/
def execLdLit (sz : Sz) (d : Dst) (a : Src) (m : Mode) (sx : Bool) (off : BitVec 32) (s : State) : Host.Outcome State Fault Refusal :=
  issueW (packL 0x31 0 d.code a.code (m.cL + sx.toNat * 4) sz.code off.toNat) (do
    let x ← read1 a
    loadTo sz d m sx (x + Alu.sx off)) s

/-- ST, STREL with an index (R121). The fields pop in the order A, B (R13); the data register comes with D. -/
def execStReg (sz : Sz) (v : Src) (a b : Src) (m : Mode) (scl : BitVec 3) (s : State) : Host.Outcome State Fault Refusal :=
  issueW (packR 0x32 0 v.code a.code b.code sz.code 0 (m.modR + scl.toNat * 2 ^ 20)) (do
    let (x, y, z) ← read3 a b v
    storeFrom sz m (x + y <<< scl.toNat) z) s

/-- ST, STREL with an offset. -/
def execStLit (sz : Sz) (v : Src) (a : Src) (m : Mode) (off : BitVec 32) (s : State) : Host.Outcome State Fault Refusal :=
  issueW (packL 0x33 0 v.code a.code m.cL sz.code off.toNat) (do
    let (x, z) ← read2 a v
    storeFrom sz m (x + Alu.sx off) z) s

/-- LDN with an index register (R123, R124). -/
def execLdnReg (d : Dst) (a b : Src) (m : Mode) (sx : Bool) (s : State) : Host.Outcome State Fault Refusal :=
  issueW (packR 0x34 0 d.code a.code b.code 0 0 (m.modR + sx.toNat * 2 ^ 19)) (do
    let (x, y) ← read2 a b
    loadNib d m sx x y.toInt) s

/-- LDN with a literal index. -/
def execLdnLit (d : Dst) (a : Src) (m : Mode) (sx : Bool) (idx : BitVec 32) (s : State) : Host.Outcome State Fault Refusal :=
  issueW (packL 0x35 0 d.code a.code (m.cL + sx.toNat * 4) 0 idx.toNat) (do
    let x ← read1 a
    loadNib d m sx x idx.toInt) s

/-- STN with an index register (R124). -/
def execStnReg (v : Src) (a b : Src) (m : Mode) (s : State) : Host.Outcome State Fault Refusal :=
  issueW (packR 0x34 1 v.code a.code b.code 0 0 m.modR) (do
    let (x, y, z) ← read3 a b v
    storeNib m x y.toInt z) s

/-- STN with a literal index. -/
def execStnLit (v : Src) (a : Src) (m : Mode) (idx : BitVec 32) (s : State) : Host.Outcome State Fault Refusal :=
  issueW (packL 0x35 1 v.code a.code m.cL 0 idx.toNat) (do
    let (x, z) ← read2 a v
    storeNib m x idx.toInt z) s

/-- PF with an index (R125). -/
def execPfReg (a b : Src) (spc : Bool) (scl : BitVec 3) (s : State) : Host.Outcome State Fault Refusal :=
  issueW (packR 0x36 0 0 a.code b.code 0 0 (spc.toNat * 2 ^ 25 + scl.toNat * 2 ^ 20)) (do
    let (x, y) ← read2 a b
    prefetch spc (x + y <<< scl.toNat)) s

/-- PF with an offset. -/
def execPfLit (a : Src) (spc : Bool) (off : BitVec 32) (s : State) : Host.Outcome State Fault Refusal :=
  issueW (packL 0x37 0 0 a.code (spc.toNat * 32) 0 off.toNat) (do
    let x ← read1 a
    prefetch spc (x + Alu.sx off)) s

/-- FENCE (R126, R127): the wait does not depend on the scope (log entry 15). -/
def execFence (kind : FenceKind) (scope : Scope) (s : State) : Host.Outcome State Fault Refusal :=
  issueW (packR 0x3A 0 0 0 0 0 0 (kind.code * 8 + scope.code)) (Sys2Proof.Machine.fence kind) s

/-- WAITA (R128 to R130). -/
def execWaita (sz : Sz) (d a b c : GZ) (m : Mode) (s : State) : Host.Outcome State Fault Refusal :=
  issueW (packR 0x3C 0 d.code a.code b.code sz.code c.code m.modR) (waitAddr sz d a b c m) s

end Sys2Proof.Machine
end

