-- ==== Sys2Proof/Machine/Tasks.lean ====
section
/-! DEFINITION. The start and the end of tasks, TSPAWN, TCONT, TYIELD and MASKW (R54 to R56, R252, R319 to R330). -/

namespace Sys2Proof.Machine

/-! ### The start of a task (R14, R233, R252, R302, R306, R311, R349) -/

/-- What a task starts with beyond what its core and context give it. -/
structure Start where
  pc : Word
  g : List Word := []
  ix : Word := 0
  nix : Word := 1
  src : Word := noSrc
  launch : Option Nat := none
  ctx : Nat := 0
  sv : Bool := false
  depth : BitVec 2 := 0
  bind : BitVec 64 := 0
  meas : Option (BitVec 384) := none
  role : TplRole := .none
  tpl : Option Nat := none
  args : Option Word := none
deriving DecidableEq, Repr

/-- The measurement of the listed code image that holds a PC (R302). -/
def measAt (s : State) (ctx : Nat) (pc : Word) : Option (BitVec 384) :=
  match nget s.ctxs ctx with
  | none => none
  | some x => (x.images.find? fun im => im.code && decide (im.base.toNat ≤ pc.toNat) && decide (pc.toNat < im.base.toNat + im.len)).map
      (·.digest)

/-- `rank` and `rlen` on a core (R14, R233). -/
def rankOf (s : State) (c : Nat) : Word × Word :=
  match (launchAt s c).bind (nget s.launches) with
  | some l => (word (c - l.base), word l.rlen)
  | none => (0, 1)

/-- A task started in a free slot. FPST, FINFO, OVFP, the masks and the slice layout stay as they are (R43, R115, R348; log entry 1);
an item or a join starts with its masks false (R311). -/
def startTask (s : State) (c i : Nat) (t : Start) : State :=
  let d := (nget s.ctxs t.ctx).map (·.desc)
  let rr := rankOf s c
  let id := s.nextId + 1
  let s := modSlot s c i fun sl =>
    { sl.freed with
      st := .ready, pc := t.pc, g := Vector.ofFn fun j => t.g.getD j.val 0
      ix := t.ix, nix := t.nix, rank := rr.1, rlen := rr.2, src := t.src
      upc := match d with | some d => d.upc | none => sl.upc
      wdLim := match d with | some d => d.wdlim | none => sl.wdLim
      engMap := match d with | some d => d.eng.setWidth 64 | none => sl.engMap
      k := if t.role = .item ∨ t.role = .join then Vector.replicate 4 0 else sl.k
      task := id, ctx := t.ctx, launch := t.launch, sv := t.sv, depth := t.depth, bind := t.bind, meas := t.meas
      role := t.role, tpl := t.tpl
      argsDue := match t.args with | some a => some (0, a) | none => none }
  let s := modCore s c fun k => if i = 4 then { k.enter s t.ctx with preempted := k.act, act := some 4 } else k.enter s t.ctx
  { s with nextId := id }

/-- What a plain task descriptor starts (R252). -/
def descStart (s : State) (d : Desc) (ctx : Nat) (launch : Option Nat) (src : Word) : Start :=
  let pc := d.w0 &&& ~~~7
  { pc := pc, g := if d.w0.toNat % 4 = 0 then [d.w1] else [], src := src, launch := launch, ctx := ctx, meas := measAt s ctx pc
    args := if d.w0.toNat % 4 = 1 then some d.w1 else none }

/-- A free L slot. -/
def freeL (k : Core) : Option Nat := [0, 1, 2, 3].find? fun i => (slotOf k i).st = .free

/-- A core switched to its next ready L slot. -/
def switchL (s : State) (c after : Nat) : State := modCore s c fun k => { k with act := nextReady k after }

/-- Whether a resumed H task pre-empts the running L task now (R31, R320, R351). -/
def hMayResume (k : Core) : Bool :=
  match k.act with
  | none => true
  | some i => let sl := slotOf k i
    i ≠ 4 && (match sl.st with | .ready => sl.mw = 0 | .stalled _ => false | _ => true)

/-- Whether a drain keeps a core from starting tasks (R359). -/
def coreDraining (s : State) (c : Nat) : Bool :=
  match (coreOf s c).ctx with | some x => draining s x | none => false

/-- A run-time check on a descriptor (R327). -/
def descOk (d : Desc) : Bool := decide (d.w0.toNat % 4 < 2)

/-- TSPAWN and TCONT (R327, R328). -/
def spawn (a : GReg) (b : Src) (rel cont : Bool) : M Flow := do
  let s ← get
  let c := s.cur
  let i := actOf s c
  let sl ← mySlot
  let d : Desc := ⟨sl.g.get a, (sl.g[a.val + 1]?).getD 0⟩
  let t ← fetchSrc b
  raiseIf (!descOk d) .illField
  raiseIf (sl.rlen.toNat ≤ t.toNat) .illField
  if cont || rel then releaseTask
  let cls := if cont then 1 else 3
  if t = sl.rank then
    if rqFull s c cls then waitOn (.readyFull c)
    modify fun s => enqueue s c cls d (launchAt s c) sl.ctx noSrc 0 []
  else do
    waitOutbound false
    modify fun s => inject s (c - sl.rank.toNat + t.toNat) (senderOf s c i) (.spawn d cont)
  if cont then
    modify fun s => endTask s c i true
    return .stay
  return .next

/-- TYIELD (R56). -/
def yieldTask : M Flow := do
  let s ← get
  let c := s.cur
  let i := actOf s c
  if i ≠ 4 && (slotAt s c i).mw = 0 then
    match [1, 2, 3].map (fun j => (i + j) % 4) |>.find? fun j => (slotAt s c j).st = .ready with
    | some j => modify fun s => modCore s c fun k => { k with act := some j }
    | none => pure ()
  return .next

/-- MASKW (R330): the instruction that opens the window is not counted in it. -/
def maskWindow (n : BitVec 5) : M Flow := do
  let i ← myIdx
  let sl ← mySlot
  if i ≠ 4 && sl.mw = 0 && n ≠ 0 then modMy fun sl => { sl with mw := n.toNat + 1 }
  return .next

/-- TEND (R55). -/
def execTend (s : State) : Host.Outcome State Fault Refusal :=
  issueW (packR 0x28 0 0 0 0 0 0 0) (do
    let c ← myCore
    let i ← myIdx
    modify fun s => endTask s c i true
    return .stay) s

/-- TYIELD (R56). -/
def execTyield (s : State) : Host.Outcome State Fault Refusal :=
  issueW (packR 0x28 1 0 0 0 0 0 0) (yieldTask) s

/-- TSPAWN (R326, R327). -/
def execTspawn (a : GReg) (b : Src) (rel : Bool) (s : State) : Host.Outcome State Fault Refusal :=
  issueW (packR 0x60 0 0 a.val b.code 0 0 rel.toNat) (spawn a b rel false) s

/-- TCONT (R326 to R328): always a release. -/
def execTcont (a : GReg) (b : Src) (rel : Bool) (s : State) : Host.Outcome State Fault Refusal :=
  issueW (packR 0x6E 0 0 a.val b.code 0 0 rel.toNat) (spawn a b rel true) s

/-- MASKW (R329, R330). -/
def execMaskw (n : BitVec 5) (s : State) : Host.Outcome State Fault Refusal :=
  issueW (packL 0x66 0 0 0 0 0 n.toNat) (maskWindow n) s

end Sys2Proof.Machine
end

