-- ==== Sys2Proof/Machine/Messages.lean ====
section
/-! DEFINITION. Messages at the receiving core, the built-in handlers, the store buffer's sends, and how a core takes its next task
(chapters 11 and 15: R230 to R242, R260, R311, R314, R321 to R324, R327, R335, R338, R349, R355). -/

namespace Sys2Proof.Machine

/-! ### The device's own reads of global memory -/

/-- What a read that the device makes for a context gives. -/
inductive DevRd where
  | val (v : Nat)
  | walk (s : State)
  | fault (code : Code) (cookie : Nat)

/-- A read of `n` bytes that a core's device makes in a space, on behalf of one of its slots (R233). -/
def devRead (s : State) (c i space : Nat) (va : Word) (n : Nat) : DevRd :=
  if !canonical va then .fault .xlAddr 0
  else
    let a := va57 va
    let use (e : TlbEntry) : DevRd :=
      let pa := e.pa va
      if !e.r || e.mt = .io || inTagRegion s pa n then .fault .xlPerm 0
      else if !populated s pa n then .fault .xlAddr 0
      else if e.mt = .furled || (rangeAt s pa n).isSome then .fault .furlRead 0
      else if anyPoison s pa n then .fault .poison 0
      else .val (rdNat s pa n)
    match nget (slotAt s c i).walkAns (a / 4096 * 2) with
    | some (.retry ck) => .fault .xlMiss ck
    | some .terminal => .fault .xlPerm 0
    | some (.entry e) => use e
    | _ =>
      match (coreOf s c).utlb.find? fun e => e.hits space a with
      | some e => use e
      | none =>
        match (quadAt s (quadOf c)).tlb.find? fun e => e.hits space a with
        | some e => use e
        | none => .walk (addWalk s (quadOf c) space a false (.slot c i))

/-! ### Stores performed -/

/-- A store's place in the buffer of its core given up. -/
def freeEnt (s : State) (a : Ack) : State :=
  match a with
  | .none => s
  | .entry k id => modCore s k fun k => { k with sb := k.sb.filter fun x => x.id ≠ id }

/-- The address that the record of a refused partial write names: that of the first byte refused (R73, R110). -/
def StoreEnt.badVa (s : State) (e : StoreEnt) : Word :=
  match e.bytes.find? fun b => (isPoison s b.1 && !coversWord e.bytes b.1) || subFencedAt s b.1 with
  | some b => e.va + word (b.1 - (e.bytes.headD (0, 0)).1)
  | none => e.va

/-- A store of a buffer performed by the owner of its bytes, with the error record of a refused partial write of a poisoned word; the
table of R73 has no row of its own for a partial scalar store to LPDDR-6, CXL or host memory, and the model treats it as one executed
at its owner (log entry 25). -/
def performEnt (s : State) (e : StoreEnt) : State :=
  let r : State × Bool :=
    match e.nib with
    | some (pa, half, v) =>
      if isPoison s pa then (s, true)
      else
        let old := (rdByte s pa).toNat
        let new := if half = 0 then old / 16 * 16 + v.toNat else old % 16 + 16 * v.toNat
        perform s [(pa, BitVec.ofNat 8 new)] []
    | none => perform s e.bytes e.poison
  freeEnt (if r.2 then errRec r.1 e.src.ctx .poison (e.badVa s) e.src.core e.src.slot else r.1) e.ack

/-- Where a buffered store goes: the physical address that decides. -/
def StoreEnt.pa (e : StoreEnt) : Nat := match e.nib with | some (pa, _, _) => pa | none => (e.bytes.headD (0, 0)).1

/-- The core that executes a buffered store as the owner of its slice or of its counter, if any. -/
def StoreEnt.target (s : State) (e : StoreEnt) : Option Nat :=
  match e.req with
  | .ctr o _ _ _ => some o
  | .rmw pa _ _ _ => (match ownerOf s.hdm pa with | .slice o _ => some o | _ => none)
  | .none => (match ownerOf s.hdm e.pa with | .slice o _ => some o | _ => none)

/-- The error record of a posted access that met poison (R245). -/
def postedErr (s : State) (src : Sender) (va : Word) (r : Reply) (d : RTo) : State :=
  match d, r with
  | .none, .poison => errRec s src.ctx .poison va src.core src.slot
  | .none, .fault t => errRec s src.ctx t.code t.info src.core src.slot
  | _, _ => s

/-- A reply written straight into the register that waits, or discarded where the task has ended (R55, R231). -/
def giveReply (s : State) (c i task : Nat) (d : RTo) (r : Reply) : State :=
  let sl := slotAt s c i
  if sl.task ≠ task then s
  else
    match d with
    | .wait => if sl.pend = .waiting then wake (modSlot s c i fun sl => { sl with pend := .got r }) c i else s
    | .ereg q =>
      (match r with
        | .vals v => modSlot s c i fun sl => sl.fillE q (v.headD 0) false
        | .poison => modSlot s c i fun sl => sl.fillE q 0 true
        | .fault f => errRec s sl.ctx f.code f.info c i)
    | .none => s

/-- The message that carries a buffered store or read-modify-write to its owner. -/
def StoreEnt.body (e : StoreEnt) : MsgBody :=
  match e.req, e.nib with
  | .rmw pa n op d, _ => .rmw pa n op d e.va e.id
  | .ctr _ j op d, _ => .counter j (some op) e.rel d e.id
  | .none, some (pa, half, v) => .stn pa half v e.id e.va
  | .none, none => .store e.bytes e.poison e.id e.va

/-- A buffered store executed from the buffer of its own core: by the core for its own slice and counters, by the agent of LPDDR-6, CXL
or host memory (R69, R242, R244, R249). -/
def runEnt (s : State) (c : Nat) (e : StoreEnt) : State :=
  let s := modCore s c fun k => { k with sb := k.sb.filter fun x => x.id ≠ e.id }
  match e.req with
  | .none => performEnt (eccTouch s (e.pa / 8 * 8) 8) e
  | .ctr o n op d =>
    (match op with
      | .rat fn _ _ b x =>
        let old := (counterAt s o n).toNat
        giveReply (ownCounter s o n (BitVec.ofNat 32 (ratNew fn false old (b.toNat % 2 ^ 32) (x.toNat % 2 ^ 32)))) c e.slot e.src.task d
          (.vals [word old])
      | _ => s)
  | .rmw pa n op d =>
    let s := eccTouch s pa n
    let r := rmwOut (fun a m => rdNat s a m) (fun a m => anyPoison s a m) 0 0 pa n e.va op
    let s := sendCounts (perform s r.writes []).1 e.src r.counts
    giveReply (postedErr s e.src e.va r.reply d) c e.slot e.src.task d r.reply

/-- STORE_BUFFER_SEND (R260): the oldest buffered store not yet sent is performed or sent to its owner, once every earlier store has
been performed, or is in flight to the same owner on the same die; a release once every earlier one has been performed (R263). It takes a
place of the outbound buffer where it is a remote store or a read-modify-write (R235), and an MSTORE waits for the MROTs before it
(R200). -/
def execStoreBufferSend (rank : Nat) (s : State) : Host.Outcome State Fault Refusal :=
  let k := coreOf s rank
  match k.sb.find? fun e => !e.sent with
  | none => .next s
  | some e =>
    let before := k.sb.takeWhile fun x => x.id ≠ e.id
    let run := !e.rel && before.all fun x => x.target s = e.target s && (match e.target s with | some o => dieOf o = dieOf rank | none => false)
    if (before ≠ [] && !run) || (e.tile.isSome && k.rots.any fun r => decide (r.id < e.id)) then .next s
    else
      match e.target s with
      | some o =>
        if o = rank then .next (if before ≠ [] then s else runEnt s rank e)
        else if outboundFull s rank then .next s
        else
          .next (inject (modCore s rank fun k => { k with sb := k.sb.map fun x => if x.id = e.id then { x with sent := true } else x }) o e.src e.body)
      | none => .next (if before ≠ [] || outboundFull s rank then s else runEnt s rank e)

/-! ### Built-in handlers -/

/-- The reply sent to a waiting instruction, or nothing where none is due. -/
def replyTo (s : State) (m : Msg) (r : Reply) (d : RTo) : State :=
  match d with
  | .none => s
  | _ => { s with mesh := s.mesh ++ [⟨m.src.core, m.src, .reply r m.src.slot m.src.task d⟩] }

/-- Whether a read by a built-in handler has to wait for the owner's buffered stores (R260). -/
def ownerBusy (s : State) (c pa n : Nat) : Bool := (coreOf s c).sb.any fun e => e.touches pa n

/-- A store that arrived from elsewhere put behind the owner's buffered stores (R242). -/
def pushAt (s : State) (c : Nat) (src : Sender) (va : Word) (bytes : List (Nat × Byte)) (pois : List Nat)
    (nib : Option (Nat × Nat × BitVec 4)) (ack : Ack) (rd : List (Nat × Nat)) : State :=
  addEnt s c fun id => { StoreEnt.plain id 5 src va bytes with poison := pois, nib := nib, ack := ack, rd := rd }

/-- A remote load executed (R69, R72, R117). -/
def hLoad (s : State) (c : Nat) (m : Msg) (pa n : Nat) (d : RTo) : Option State :=
  if ownerBusy s c pa n then none
  else
    let s := eccTouch s pa n
    some (replyTo s m (if anyPoison s pa n then .poison else .vals [word (rdNat s pa n)]) d)

/-- A remote read-modify-write executed as one step (R241, R244, R248, R335, R340). Its place in the sender's buffer is held until what it
writes has been performed (R263). -/
def hRmw (s : State) (c : Nat) (m : Msg) (pa n : Nat) (op : Rmw) (d : RTo) (va : Word) (ent : Nat) : Option State :=
  let k := coreOf s c
  let touched := rmwTouches { k with sb := [] } s pa n op
  if touched.any fun p => ownerBusy s c p.1 p.2 then none
  else
    let s := eccScan s touched
    let r : RmwOut := if touched.any fun p => (rangeAt s p.1 p.2).isSome then ⟨[], .fault { code := .furlWrite, info := va }, []⟩ else rmwOut (fun a m => rdNat s a m) (fun a m => anyPoison s a m) (qbaseOf s c) (windowPa c 0) pa n va op
    let s := if r.writes ≠ [] then pushAt s c m.src va r.writes [] none (.entry m.src.core ent) touched else freeEnt s (.entry m.src.core ent)
    some (postedErr (replyTo (sendCounts s m.src r.counts) m r.reply d) m.src va r.reply d)

/-- A counter's access from another core (R249): after the stores that the counter's core made before it last updated one (R259). -/
def hCounter (s : State) (c : Nat) (m : Msg) (idx : Nat) (op : Option Rmw) (d : RTo) (ent : Nat) : Option State :=
  if (coreOf s c).sb.any fun e => decide (e.id < (coreOf s c).ctrMark) then none
  else
    let old := counterAt s c idx
    let s := match op with
      | some (.rat fn _ _ b x) =>
        freeEnt (counterUpdate s c idx (BitVec.ofNat 32 (ratNew fn false old.toNat (b.toNat % 2 ^ 32) (x.toNat % 2 ^ 32)))) (.entry m.src.core ent)
      | _ => s
    some (replyTo s m (.vals [old.setWidth 64]) d)

/-- SENDW at the destination (R240): what its counter shows to other cores comes after its payload. Words for a furled range are refused as a
store there is (R215, R219; log entry 48). -/
def hSendw (s : State) (c : Nat) (m : Msg) (base wlen off : Nat) (data : List Word) (cn : Option Nat) : State :=
  let nw := data.length
  if off % 8 ≠ 0 || wlen < off + 8 * nw || qbaseOf s c < base + off + 8 * nw then
    errRec s m.src.ctx .handle 0 m.src.core m.src.slot
  else if (rangeAt s (windowPa c (base + off)) (8 * nw)).isSome then errRec s m.src.ctx .furlWrite 0 m.src.core m.src.slot
  else
    let bytes := (data.zipIdx.map fun p => bytesAt (windowPa c (base + off + 8 * p.2)) 8 p.1.toNat).flatten
    let s := if bytes ≠ [] then pushAt s c m.src 0 bytes [] none .none [] else s
    match cn with
    | some n => ownCounter s c n (counterAt s c n + 1)
    | none => s

/-- The kinds of built-in handlers, by the row of the table that executes them. -/
inductive HKind where
  | load | store | stn | rat | enq | deq | fut | sendw | bar | other
deriving DecidableEq, Repr

/-- The handler that executes a message; none for a message that is no built-in one. -/
def MsgBody.hkind : MsgBody → Option HKind
  | .load _ _ _ => some .load
  | .store _ _ _ _ => some .store
  | .stn _ _ _ _ _ => some .stn
  | .rmw _ _ (.rat _ _ _ _ _) _ _ _ => some .rat
  | .rmw _ _ (.enq _ _) _ _ _ => some .enq
  | .rmw _ _ (.deq _) _ _ _ => some .deq
  | .rmw _ _ (.fut _ _ _) _ _ _ => some .fut
  | .rmw _ _ .barrier _ _ _ => some .bar
  | .rmw _ _ (.bump _ _) _ _ _ => some .rat
  | .counter _ none _ _ _ => some .load
  | .counter _ (some (.rat _ _ true _ _)) _ _ _ => some .store
  | .counter _ (some _) _ _ _ => some .rat
  | .sendw _ _ _ _ _ _ => some .sendw
  | .swin _ _ _ | .hresume _ _ => some .other
  | _ => none

/-- A built-in message executed at its core; none where it has to wait. What SWIN and HRESUME do is given by `other`. -/
def runBuiltin (other : State → Nat → Msg → Option State) (s : State) (c : Nat) (m : Msg) : Option State :=
  match m.body with
  | .load pa n d => hLoad s c m pa n d
  | .store bytes pois id va => some (pushAt s c m.src va bytes pois none (.entry m.src.core id) [])
  | .stn pa half v id va => some (pushAt s c m.src va [] [] (some (pa, half, v)) (.entry m.src.core id) [])
  | .rmw pa n op d va id => hRmw s c m pa n op d va id
  | .counter i op _ d id => hCounter s c m i op d id
  | .sendw _ base wlen off data cn => some (hSendw s c m base wlen off data cn)
  | .swin _ _ _ => other s c m
  | .hresume _ _ => other s c m
  | _ => some s

/-! ### What arrives at a core -/

/-- The messages on the mesh for a core that satisfy `p` and may arrive now: of one sender on the same die, the oldest (R70). -/
def arrivals (s : State) (c : Nat) (p : MsgBody → Bool) : List Msg :=
  (s.mesh.zipIdx.filter fun m => m.1.dst = c && p m.1.body &&
    !(s.mesh.take m.2).any fun o => o.dst = c && p o.body && o.src.core = m.1.src.core && dieOf o.src.core = dieOf c).map (·.1)

/-- Which of several messages arrives first is open (R70, log entry 4). -/
def pickMsg (s : State) (l : List Msg) : Option Msg := pick s l

/-- One message taken off the mesh. -/
def takeMsg (s : State) (m : Msg) : State := { s with mesh := s.mesh.erase m, tick := s.tick + 1 }

/-- Whether a context has ended or is none. -/
def ctxGone (s : State) (x : Nat) : Bool := match nget s.ctxs x with | none => true | some y => y.st = .ended

/-- The context that a message is for. -/
def Msg.target (m : Msg) : Nat :=
  match m.body with
  | .sendw x _ _ _ _ _ | .hmsg _ _ x | .lmsg _ _ x => x
  | _ => m.src.ctx

/-- The descheduled context whose preserved state takes a message that arrives at a core (R234, R359): it and the core it was given. -/
def keptAt (s : State) (c x : Nat) : Option (Context × Saved × Core) :=
  if (coreOf s c).ctx = some x then none
  else (nget s.ctxs x).bind fun y => y.saved.bind fun v => (nget v.cores c).map fun k => (y, v, k)

/-- The core of a descheduled context's preserved state changed. -/
def keepIn (s : State) (c x : Nat) (y : Context) (v : Saved) (k : Core) : State :=
  { s with ctxs := nset s.ctxs x { y with saved := some { v with cores := nset v.cores c k } } }

/-- MESSAGE_QUEUE_ENTRY (R232): a built-in or H message enters the message queue, unless its places are full; one for an ended context is
discarded with a record, one for a descheduled context kept with its state (R234, R359). A supervisor's access to a halted H slot finds
room (R29, R30). -/
def execMessageQueueEntry (rank : Nat) (s : State) : Host.Outcome State Fault Refusal :=
  let isH (b : MsgBody) : Bool := b.hkind.isSome || (match b with | .hmsg _ _ _ => true | _ => false)
  match pickMsg s (arrivals s rank isH) with
  | none => .next s
  | some m =>
    let user := match m.body with | .sendw _ _ _ _ _ _ | .hmsg _ _ _ => true | _ => false
    if user && ctxGone s m.target then .next (errRec (takeMsg s m) m.src.ctx .handle 0 m.src.core m.src.slot)
    else match keptAt s rank m.target with
      | some (y, v, k) => .next (keepIn (takeMsg s m) rank m.target y v { k with mq := k.mq ++ [m] })
      | none =>
        let super := (slotAt s rank 4).st = .halted && (match m.body with | .swin _ _ _ | .hresume _ _ => true | _ => false)
        if 32 ≤ (coreOf s rank).mq.length && !overflowRoom s rank && !super then .next s
        else .next (modCore (takeMsg s m) rank fun k => { k with mq := k.mq ++ [m], lastEvent := s.tick })

/-- An arriving descriptor put into the ready queue of a core, or kept with the preserved state of its descheduled context (R234, R328). -/
def arriveRq (s : State) (c cls : Nat) (desc : Desc) (ctx : Nat) (src : Word) (kind : Nat) (data : List Word) : State :=
  match keptAt s c ctx with
  | some (y, v, k) => { keepIn s c ctx y v (addRq s k cls desc k.launch ctx src kind data) with nextId := s.nextId + 1 }
  | none => enqueue s c cls desc (launchAt s c) ctx src kind data

/-- Whether an arriving descriptor of a class has to wait for room (R324). -/
def arriveFull (s : State) (c cls ctx : Nat) : Bool := (keptAt s c ctx).isNone && rqFull s c cls

/-- L_MESSAGE (R231): an L message becomes a descriptor of class Message. -/
def execLMessage (rank : Nat) (s : State) : Host.Outcome State Fault Refusal :=
  match pickMsg s (arrivals s rank fun b => match b with | .lmsg _ _ _ => true | _ => false) with
  | none => .next s
  | some m =>
    match m.body with
    | .lmsg hn data ctx =>
      if ctxGone s ctx then .next (errRec (takeMsg s m) m.src.ctx .handle 0 m.src.core m.src.slot)
      else if arriveFull s rank 1 ctx then .next s
      else .next (arriveRq (takeMsg s m) rank 1 ⟨0, 0⟩ ctx 0 1 (word hn :: word m.src.core :: word m.src.ctx :: data))
    | _ => .next s

/-- REPLY (R231): written straight into the register that waits, or discarded where the task has ended (R55). -/
def execReply (rank : Nat) (s : State) : Host.Outcome State Fault Refusal :=
  match pickMsg s (arrivals s rank fun b => match b with | .reply _ _ _ _ => true | _ => false) with
  | none => .next s
  | some m =>
    match m.body with
    | .reply r i t d => .next (giveReply (modCore (takeMsg s m) rank fun k => { k with lastEvent := s.tick }) rank i t d r)
    | _ => .next s

/-- SPAWN_MESSAGE (R327): a descriptor from another core is enqueued in its class. -/
def execSpawnMessage (rank : Nat) (s : State) : Host.Outcome State Fault Refusal :=
  match pickMsg s (arrivals s rank fun b => match b with | .spawn _ _ => true | _ => false) with
  | none => .next s
  | some m =>
    match m.body with
    | .spawn d cont =>
      let cls := if cont then 1 else 3
      if arriveFull s rank cls m.src.ctx then .next s
      else .next (arriveRq (takeMsg s m) rank cls d m.src.ctx 0 4 [word m.src.core, word m.src.ctx])
    | _ => .next s

/-- FAULT_MESSAGE (R324, R349): the supervisor handler's descriptor; without room the message waits. -/
def execFaultMessage (rank : Nat) (s : State) : Host.Outcome State Fault Refusal :=
  match pickMsg s (arrivals s rank fun b => match b with | .fault _ _ _ _ => true | _ => false) with
  | none => .next s
  | some m =>
    match m.body with
    | .fault t f0 f1 f2 =>
      if arriveFull s rank 1 m.src.ctx then .next s
      else .next (arriveRq (takeMsg s m) rank 1 ⟨0, 0⟩ m.src.ctx 0 3 [t, f0, f1, f2, word m.src.core, word m.src.ctx])
    | _ => .next s

/-! ### The H slot -/

/-- The oldest H descriptor of a ready queue (R321, R322). -/
def oldestH (k : Core) : Option RqEnt := k.rq.find? fun e => e.kind ≠ 1 && e.kind ≠ 2 && e.kind ≠ 3 && e.desc.w0.getLsbD 2

/-- The oldest message of the queue that may run: in a drain the user's H messages wait (R234, R359). -/
def oldestMsg (s : State) (c : Nat) : Option Msg :=
  let k := coreOf s c
  if coreDraining s c then k.mq.find? fun m => m.body.hkind.isSome else k.mq.head?

/-- The message that the H slot takes next (R30, R321): the oldest that may run; where the H slot is halted, a supervisor's access. -/
def nextMsg (s : State) (c : Nat) : Option Msg :=
  let k := coreOf s c
  if (slotOf k 4).st = .halted then k.mq.find? fun m => match m.body with | .swin _ _ _ | .hresume _ _ => true | _ => false
  else if !hMayRun k then none
  else if decide (16 ≤ k.hRun) && !coreDraining s c && (oldestH k).isSome then none
  else oldestMsg s c

/-- A message taken from the queue of a core, counted among those run in a row while an H descriptor waits (R321). -/
def msgTaken (s : State) (c : Nat) (m : Msg) : State :=
  modCore s c fun k => { k with mq := k.mq.erase m, hRun := if (oldestH k).isSome then k.hRun + 1 else 0 }

/-- A built-in handler of one kind run from the message queue, if it is that one's turn (R232, R241). -/
def builtinTurn (p : HKind → Bool) (other : State → Nat → Msg → Option State) (c : Nat) (s : State) : State :=
  match nextMsg s c with
  | none => s
  | some m =>
    match m.body.hkind with
    | none => s
    | some h => if !p h then s else (runBuiltin other (msgTaken s c m) c m).getD s

/-- No other handler. -/
def noOther (s : State) (_ : Nat) (_ : Msg) : Option State := some s

/-- REMOTE_LOAD (R69, R117). -/
def execRemoteLoad (rank : Nat) (s : State) : Host.Outcome State Fault Refusal := .next (builtinTurn (· == .load) noOther rank s)
/-- REMOTE_STORE (R73, R121, R249). -/
def execRemoteStore (rank : Nat) (s : State) : Host.Outcome State Fault Refusal := .next (builtinTurn (· == .store) noOther rank s)
/-- REMOTE_STN (R124). -/
def execRemoteStn (rank : Nat) (s : State) : Host.Outcome State Fault Refusal := .next (builtinTurn (· == .stn) noOther rank s)
/-- REMOTE_RAT (R244, R249). -/
def execRemoteRat (rank : Nat) (s : State) : Host.Outcome State Fault Refusal := .next (builtinTurn (· == .rat) noOther rank s)
/-- REMOTE_QENQ (R248). -/
def execRemoteQenq (rank : Nat) (s : State) : Host.Outcome State Fault Refusal := .next (builtinTurn (· == .enq) noOther rank s)
/-- REMOTE_QDEQ (R248). -/
def execRemoteQdeq (rank : Nat) (s : State) : Host.Outcome State Fault Refusal := .next (builtinTurn (· == .deq) noOther rank s)
/-- REMOTE_FUT (R340). -/
def execRemoteFut (rank : Nat) (s : State) : Host.Outcome State Fault Refusal := .next (builtinTurn (· == .fut) noOther rank s)
/-- SENDW_HANDLER (R240). -/
def execSendwHandler (rank : Nat) (s : State) : Host.Outcome State Fault Refusal := .next (builtinTurn (· == .sendw) noOther rank s)
/-- BARRIER_OBJECT_ARRIVAL (R335). -/
def execBarrierObjectArrival (rank : Nat) (s : State) : Host.Outcome State Fault Refusal :=
  .next (builtinTurn (· == .bar) noOther rank s)

/-- What is added to the context of a sender on another package, and to its core (R230, R380). -/
def farCtx : Nat := 2 ^ 60

/-- The handle index under which a context names a sender (R230). -/
def srcOfSender (s : State) (ctx core sctx : Nat) : Word :=
  match nget s.ctxs ctx with
  | none => BitVec.allOnes 64 - 1
  | some x =>
    match x.handles.find? fun h => match h.2 with
      | .core pkg rank tc _ _ _ =>
        if core < 0x1000000 then pkg = s.pkg && rank.toNat = core && tc = sctx
        else pkg.toNat * 8192 + rank.toNat + 0x1000000 = core && tc = sctx % farCtx
      | _ => false with
    | some h => word h.1
    | none => BitVec.allOnes 64 - 1

/-- A handler or message task started in a slot from its handler number and payload (R233): the handler table is read now; what it
refuses is discarded with a HANDLE record. `gone` is the state without the message. -/
def startHandler (s gone : State) (c i ctx hn core sctx : Nat) (data : List Word) : State :=
  let clear (t : State) : State := modSlot t c i fun sl => { sl with walkAns := [] }
  match nget s.ctxs ctx with
  | none => errRec gone sctx .handle 0 core i
  | some x =>
    if x.desc.hcnt.toNat ≤ hn then errRec (clear gone) ctx .handle 0 c i
    else
      match devRead s c i ctx (x.desc.htab + word (8 * hn)) 8 with
      | .walk s' => s'
      | .fault code _ => postTerm (clear gone) ctx code.num code.cls.bits (x.desc.htab + word (8 * hn)) 0 c i 0
      | .val v =>
        if v % 8 ≠ 1 then errRec (clear gone) ctx .handle 0 c i
        else
          let pc := word (v / 8 * 8)
          startTask (clear gone) c i { pc := pc, g := data, src := srcOfSender s ctx core sctx, launch := launchAt s c, ctx := ctx
                                       meas := measAt s ctx pc }

/-- An entry of the ready queue started in a slot. -/
def startEntry (s : State) (c i : Nat) (e : RqEnt) : State :=
  let gone := modCore s c fun k => rqRemove k e.seq
  match e.kind with
  | 1 => match e.data with
    | hn :: core :: sctx :: data => startHandler s gone c i e.ctx hn.toNat core.toNat sctx.toNat data
    | _ => gone
  | 3 => match e.data with
    | t :: f0 :: f1 :: f2 :: core :: sctx :: _ =>
      let sve : Word := match nget s.ctxs e.ctx with | some x => x.desc.sve | none => 0
      startTask gone c i { pc := sve, g := [t, f0, f1, f2], src := srcOfSender s e.ctx core.toNat sctx.toNat, launch := e.launch
                           ctx := e.ctx, sv := true, meas := measAt s e.ctx sve }
    | _ => gone
  | 4 => match e.data with
    | core :: sctx :: _ => startTask gone c i (descStart s e.desc e.ctx e.launch (srcOfSender s e.ctx core.toNat sctx.toNat))
    | _ => gone
  | _ => startTask gone c i (descStart s e.desc e.ctx e.launch e.src)

/-- A free H slot takes its next work (R321), and a halted one the supervisor's accesses (R29, R30). -/
def hTake (other : State → Nat → Msg → Option State) (c : Nat) (s : State) : State :=
  match nextMsg s c with
  | some m =>
    (match m.body with
      | .hmsg hn data ctx => startHandler s (msgTaken s c m) c 4 ctx hn m.src.core m.src.ctx data
      | _ => (runBuiltin other (msgTaken s c m) c m).getD s)
  | none =>
    if !hMayRun (coreOf s c) || coreDraining s c then s
    else match oldestH (coreOf s c) with
      | some e => startEntry (modCore s c fun k => { k with hRun := 0 }) c 4 e
      | none => s

/-- The L slots of a core whose valid park record holds a cookie. -/
def cookieSlots (s : State) (c : Nat) (ck : Word) : List Nat :=
  [0, 1, 2, 3].filter fun i => let sl := slotAt s c i
    parkValid s c sl && parkWord s c sl 29 = ck && (parkWord s c sl 26).toNat % 256 = 0x10

/-- The slots still in upcall mode that a notice will wake when they detach (R355): those that it has not woken before. -/
def noticeDue (s : State) (c : Nat) (e : RqEnt) : List Nat :=
  (cookieSlots s c (e.data.headD 0)).filter fun i =>
    (slotAt s c i).st ≠ .free && (slotAt s c i).st ≠ .parked && (slotAt s c i).up && !(e.data.drop 1).contains (word i)

/-- The parked slots that a notice wakes (R355). -/
def noticeParked (s : State) (c : Nat) (e : RqEnt) : List Nat :=
  (cookieSlots s c (e.data.headD 0)).filter fun i => (slotAt s c i).st = .parked

/-- Whether a notice is held back: its cookie lies in the record of a slot still in upcall mode, and of no parked one (R355). -/
def heldBack (s : State) (c : Nat) (e : RqEnt) : Bool := noticeParked s c e = [] && noticeDue s c e ≠ []

/-- A notice selected (R355): each parked slot whose valid record holds the cookie returns to upcall mode, in ascending order. It is kept
for the slots that still have to detach. -/
def notice (s : State) (c : Nat) (e : RqEnt) : State :=
  let ck := e.data.headD 0
  let parked := noticeParked s c e
  parked.foldl (fun s i => modSlot s c i fun sl => { sl with st := .ready, up := true, pc := sl.upc, g := sl.g.setIfInBounds 0 ck })
    (modCore s c fun k => if noticeDue s c e = [] then rqRemove k e.seq
      else { k with rq := k.rq.map fun r => if r.seq = e.seq then { r with data := r.data ++ parked.map word } else r })

/-- UPCALL_COMPLETION_NOTICE (R355): the oldest notice of a core that is not held back, whether or not an L slot is free. -/
def execUpcallCompletionNotice (rank : Nat) (s : State) : Host.Outcome State Fault Refusal :=
  if coreDraining s rank then .next s
  else
    match (coreOf s rank).rq.find? fun e => e.kind = 2 && !heldBack s rank e with
    | none => .next s
    | some e => .next (modCore (notice s rank e) rank fun k => { k with rr := 0 })

/-! ### L slots: TAKE_L (R311, R314, R316, R323) -/

/-- Physical registers of a quad that are free. -/
def freePregs (q : Quad) : List (Fin 192) := (List.finRange 192).filter fun p => !(q.pregs.get p).used

/-- The copies of a template's frozen registers made in a quad that still lacks them, if it has the room (R314). -/
def shareIn (s : State) (t q : Nat) : Option State :=
  match nget s.tpls t with
  | none => none
  | some x =>
    if !x.toCopy.contains q then some s
    else
      let free := freePregs (quadAt s q)
      if free.length < x.frozen.length then none
      else
        let pairs := x.frozen.zip free
        let s := pairs.foldl (fun s p => modQuad s q fun k =>
          { k with pregs := k.pregs.set p.2.val ⟨true, 1, p.1.2.1, p.1.2.2.1, p.1.2.2.2⟩ p.2.isLt }) s
        some (modTpl s t fun x => { x with toCopy := x.toCopy.filter (· ≠ q), wide := x.wide ++ pairs.map fun p => (q, p.1.1, p.2) })

/-- What a core offers an L slot. -/
inductive Offer where
  | queued (e : RqEnt)
  | item (t k : Nat)
  | join (t : Nat)
deriving DecidableEq, Repr

/-- The next item of a template that a core offers, if any is left (R311). -/
def nextItem (s : State) (c : Nat) (u : Cursor) : Option Nat :=
  match nget s.tpls u.tpl with
  | none => none
  | some x => if u.next < x.n && x.cores.contains c then some u.next else none

/-- Whether every store of an ended task has been performed (R266, R316). -/
def settled (k : Core) (task : Nat) : Bool := !(k.sb.any fun e => e.src.task = task) && !(k.orphans.any fun o => o.2.1.task = task)

/-- The offers of a core by class, each with its class and the cycle its age counts from. An item waits until no store that is still
buffered touches the copy-on-write lines of the slot it would start in (R312, R315), a join until the items' stores are performed. -/
def offers (s : State) (c : Nat) : List (Nat × Nat × Offer) :=
  let k := coreOf s c
  let lines := match freeL k with
    | some i => !k.sb.any fun e => e.slot = i || e.touches (windowPa c (cowOff (slotOf k i) 0)) (64 * (slotOf k i).cowN.toNat)
    | none => false
  let room (t : Nat) : Bool := lines && (shareIn s t (quadOf c)).isSome
  let stamps := k.cursors.filterMap fun u => if room u.tpl then (nextItem s c u).map fun j => (0, u.since, Offer.item u.tpl j) else none
  let joins := s.tpls.filterMap fun t => match t.2.join with
    | .placed _ since => if t.2.home = c && k.ctx = some t.2.ctx && t.2.ended.all (fun e => settled (coreOf s e.1) e.2) && room t.1 then some (0, since, Offer.join t.1) else none
    | _ => none
  let isL (e : RqEnt) : Bool := e.kind = 1 || (e.kind = 2 && !heldBack s c e) || e.kind = 3 || e.kind ≠ 2 && !e.desc.w0.getLsbD 2
  stamps ++ joins ++ (k.rq.filter isL).map fun e => (e.cls, e.age, Offer.queued e)

/-- The oldest of some offers; the earlier in the list where two are of one cycle. -/
def oldestOf : List (Nat × Nat × Offer) → Option (Nat × Nat × Offer)
  | [] => none
  | x :: r => match oldestOf r with
    | none => some x
    | some y => if y.2.1 < x.2.1 then some y else some x

/-- TakeL (R323): which offer is next. -/
def takeChoice (s : State) (c : Nat) : Option (Nat × Nat × Offer) :=
  let all := offers s c
  match oldestOf (all.filter fun o => decide (4096 < s.cycles - o.2.1)) with
  | some o => some o
  | none =>
    let rr := (coreOf s c).rr
    [0, 1, 2, 3].map (fun j => (rr + j) % 4) |>.findSome? fun cl => oldestOf (all.filter fun o => o.1 = cl)

/-- The shared mapping of a template's registers in a quad, and one reference more on each (R314). -/
def mapShared (s : State) (c i t : Nat) : State :=
  match nget s.tpls t with
  | none => s
  | some x =>
    (x.wide.filter fun w => w.1 = quadOf c).foldl (fun s w =>
      let s := modQuad s (quadOf c) fun k =>
        let r := k.pregs.get w.2.2
        { k with pregs := k.pregs.set w.2.2.val { r with refs := r.refs + 1 } w.2.2.isLt }
      modSlot s c i fun sl => { sl with w := sl.w.setIfInBounds w.2.1 (.shared w.2.2) }) s

/-- The overlay of a nested template copied into the first copy-on-write lines of a slot (R315). -/
def preload (s : State) (c i : Nat) (ov : List (Nat × List Byte × List Nat)) : State :=
  ov.zipIdx.foldl (fun s p =>
    let sl := slotAt s c i
    let dst := cowOff sl p.2
    let s := (perform s (p.1.2.1.zipIdx.map fun b => (windowPa c (dst + b.2), b.1)) (p.1.2.2.map fun w => windowPa c dst / 8 + w)).1
    modSlot s c i fun sl => { sl with lineMap := nset sl.lineMap p.1.1 p.2 }) s

/-- An item or a join started (R311). -/
def startStamp (s : State) (c i t : Nat) (item : Option Nat) : State :=
  match nget s.tpls t with
  | none => s
  | some x =>
    let jpc : Word := match x.join with | .placed pc _ => pc | _ => 0
    let pc := match item with | some _ => x.pc | none => jpc
    let m := match item with | some _ => x.meas | none => measAt s x.ctx jpc
    let n := word x.n
    let s := startTask s c i
      { pc := pc, g := x.g.toList, ix := match item with | some k => word k | none => n
        nix := n, launch := x.launch, ctx := x.ctx, depth := x.depth, bind := bindFor s x.bind m, meas := m
        role := match item with | some _ => .item | none => .join
        tpl := some t }
    preload (mapShared s c i t) c i x.overlay

/-- The cursor of a template moved past the item it offered (R311). -/
def advance (s : State) (c t : Nat) : State :=
  match nget s.tpls t with
  | none => s
  | some x => modCore s c fun k => { k with
      cursors := k.cursors.map fun u => if u.tpl = t then { u with next := u.next + x.cores.length, since := s.cycles } else u }

/-- The rotation after a task started in the slot that ran last: it comes after the other ready slots (R320). -/
def rotateL (s : State) (c i : Nat) : State := if (coreOf s c).act = some i then switchL s c i else s

/-- TAKE_L (R323): the chosen offer started in a free L slot; no launch means no stamped item. The rotation moves on with the start. -/
def takeL (c : Nat) (s : State) : State :=
  if coreDraining s c then s
  else
    match freeL (coreOf s c), takeChoice s c with
    | some i, some (cl, _, o) =>
      let on (s : State) : State := modCore s c fun k => { k with rr := (cl + 1) % 4 }
      (match o with
        | .queued e => if e.kind = 2 then on (notice s c e)
          else
            let t := startEntry s c i e
            if (coreOf t c).rq.any fun r => r.seq = e.seq then t else on (rotateL t c i)
        | .item t k =>
          (match shareIn s t (quadOf c) with
            | none => s
            | some s2 => on (rotateL (startStamp (advance s2 c t) c i t (some k)) c i))
        | .join t =>
          (match shareIn s t (quadOf c) with
            | none => s
            | some s2 => on (rotateL (modTpl (startStamp s2 c i t none) t fun x => { x with join := .running }) c i)))
    | _, _ => s

/-- TAKE_L. -/
def execTakeL (rank : Nat) (s : State) : Host.Outcome State Fault Refusal := .next (takeL rank s)

/-! ### Counts against continuation records (R338) -/

/-- A count executed at the record's owner: PSN, JOIN, and the continuation at zero. None where the owner's buffered stores have to
be performed first. -/
def countAt (s : State) (o pa : Nat) (r : CountReq) : Option State :=
  if !hMayRun (coreOf s o) || ownerBusy s o pa 32 then none
  else
    let rd (j : Nat) := rdNat s (pa + 8 * j) 8
    if anyPoison s pa 32 then some (errRec s r.src.ctx .poison r.va r.src.core r.src.slot)
    else
      let join := (rd 2 % 2 ^ 32 + 2 ^ 32 - 1) % 2 ^ 32
      let w2 := rd 2 / 2 ^ 32 * 2 ^ 32 + join
      let w3 := if r.psn then rd 3 / 2 * 2 + 1 else rd 3
      let d : Desc := ⟨word (rd 0), word (rd 1)⟩
      let s := pushAt s o r.src r.va (bytesAt (pa + 16) 8 w2 ++ bytesAt (pa + 24) 8 w3) [] none .none [(pa, 32)]
      if !descOk d then some (errRec s r.src.ctx .illField r.va r.src.core r.src.slot)
      else if join ≠ 0 then some s
      else some (enqueue s o 2 d (launchAt s o) r.src.ctx noSrc 0 [])

/-- The entry that translates a count's record, in the quad TLB of its sender, or what its walk answered. -/
def countXlate (s : State) (r : CountReq) : Option (Except Code TlbEntry) :=
  let a := va57 r.va
  match nget ((nget s.unitAns (1000000 + r.id)).getD []) (a / 4096 * 2) with
  | some (.retry _) => some (.error .xlMiss)
  | some .terminal => some (.error .xlPerm)
  | some (.entry e) => some (.ok e)
  | _ => ((quadAt s r.quad).tlb.find? fun e => e.hits r.src.ctx a).map .ok

/-- COUNT (R338): the oldest count whose record lies in the core's slice; the counts whose record does not translate to a slice are
recorded on the terminal ring, those that wait for a walk ask for it. -/
def execCount (rank : Nat) (s : State) : Host.Outcome State Fault Refusal :=
  let drop (s : State) (r : CountReq) : State :=
    { s with counts := s.counts.filter fun x => x.id ≠ r.id, unitAns := ndel s.unitAns (1000000 + r.id) }
  let bad (s : State) (r : CountReq) (code : Code) : State := errRec (drop s r) r.src.ctx code r.va r.src.core r.src.slot
  let one (s : State) (r : CountReq) : State :=
    match countXlate s r with
    | none => addWalk s r.quad r.src.ctx (va57 r.va) false (.unit (1000000 + r.id))
    | some (.error code) => bad s r code
    | some (.ok e) =>
      let pa := e.pa r.va
      let cw := nget ((nget s.unitAns (1000000 + r.id)).getD []) (va57 r.va / 4096 * 2 + 1)
      if !e.r || e.mt = .io then bad s r .xlPerm
      else if e.cw then (match cw with
        | some (.retry _) => bad s r .xlMiss
        | some .terminal => bad s r .xlPerm
        | _ => addWalk s r.quad r.src.ctx (va57 r.va) true (.unit (1000000 + r.id)))
      else if !e.w || inTagRegion s pa 32 then bad s r .xlPerm
      else if e.mt = .furled || (rangeAt s pa 32).isSome then bad s r .furlWrite
      else match ownerOf s.hdm pa with
        | .slice o off =>
          if qbaseOf s o < off + 32 then bad s r .xlPerm
          else if o ≠ rank then s
          else (match countAt (drop s r) o pa r with | some s' => s' | none => s)
        | _ => bad s r (if populated s pa 32 then .xlPerm else .xlAddr)
  .next (s.counts.foldl one s)

end Sys2Proof.Machine
end

