-- ==== Sys2Proof/Machine/Atomics.lean ====
section
/-! DEFINITION. Remote atomics, queues, counters and the waiting-task table (R241 to R256). -/

namespace Sys2Proof.Machine

/-- The operand of an atomic, its address aligned, resolved, released where ordered, and performed at the owner (R244, R245). -/
def atomicAt (fn : Nat) (w : FSz) (d : RDst) (ea b c : Word) (m : Mode) : M Flow := do
  let n := if w = .f64 then 8 else 4
  raiseIf (ea.toNat % n ≠ 0) .align ea
  let gs ← resolve m.spc ea n accRmw
  if m.ord then releaseOnce
  match gs with
  | [] => return .next
  | g :: _ => do
    let v ← rmwSeg g (.rat fn (w = .f64) false b c) d m.ord
    match d with
    | .g r => writeG r (v.headD 0)
    | _ => pure ()
    return .next

/-- A RAT with a register operand. -/
def ratReg (fn : Nat) (w : FSz) (d : RDst) (a : GReg) (b : Src) (m : Mode) : M Flow := do
  let ea ← readG a
  let y ← read1 b
  atomicAt fn w d ea y 0 m

/-- A RAT with a literal operand (R22). -/
def ratLit (fn : Nat) (w : FSz) (d : RDst) (a : GReg) (imm : BitVec 32) (m : Mode) : M Flow := do
  let ea ← readG a
  atomicAt fn w d ea (Alu.sx imm) 0 m

/-- A queue instruction: its control block must lie in a slice (R246, R248). -/
def queueAt (d : RDst) (a : GReg) (m : Mode) (op : Rmw) : M (List Word) := do
  let ea ← readG a
  raiseIf (ea.toNat % 64 ≠ 0) .align ea
  let gs ← resolve m.spc ea 64 accRmw
  match gs with
  | [] => return []
  | g :: _ => do
    let s ← get
    match ownerOf s.hdm g.pa with
    | .slice _ _ => pure ()
    | _ => raiseAt .xlPerm ea
    if m.ord then releaseOnce
    rmwSeg g op d m.ord

/-- QENQ (R248). -/
def enqueueOp (d : RDst) (a b : GReg) (m : Mode) (nw : BitVec 4) : M Flow := do
  let p ← readRun b.val nw.toNat
  let v ← queueAt d a m (.enq nw.toNat p)
  match d with
  | .g r => writeG r (v.headD 0)
  | _ => pure ()
  return .next

/-- General registers written in a run from `r`. -/
def writeRun (r : Nat) : List Word → M Unit
  | [] => pure ()
  | v :: rest => do writeGN r v; writeRun (r + 1) rest

/-- QDEQ (R248): the element registers change only with status 0. -/
def dequeueOp (d a : GReg) (m : Mode) (nw : BitVec 4) : M Flow := do
  let v ← queueAt (.g d) a m (.deq nw.toNat)
  if v.headD 0 = 0 then writeRun d.val v else writeG d (v.headD 0)
  return .next

/-- The number of the counter that CN and a register name (R251). -/
def ctrNum (b : GZ) (cn : BitVec 6) : M Nat := do
  let x ← readGZ b
  return (x.toNat + cn.toNat) % 64

/-- CTRSET (R251). -/
def counterSet (a : Src) (b : GZ) (cn : BitVec 6) : M Flow := do
  let x ← read1 a
  let n ← ctrNum b cn
  readOrder
  modify fun s => ownCounter s s.cur n (x.setWidth 32)
  return .next

/-- CTRADD (R251): the old value sign-extended. -/
def counterAdd (d : GZ) (a : Src) (b : GZ) (cn : BitVec 6) : M Flow := do
  let x ← read1 a
  let n ← ctrNum b cn
  readOrder
  let s ← get
  let old := counterAt s s.cur n
  modify fun s => ownCounter s s.cur n (old + x.setWidth 32)
  writeGZ d (old.signExtend 64)
  return .next

/-- CTRRD (R251). -/
def counterRead (d : GReg) (b : GZ) (cn : BitVec 6) : M Flow := do
  let n ← ctrNum b cn
  readOrder
  let s ← get
  writeG d ((counterAt s s.cur n).signExtend 64)
  return .next

/-- WTSET (R255): fires at once, arms the lowest free entry, or finds none. -/
def armEntry (d a : GZ) (b : GReg) (x : GZ) (ge : Bool) (cn : BitVec 6) : M Flow := do
  let sl ← mySlot
  let c ← myCore
  let desc : Desc := ⟨sl.g.get b, (sl.g[b.val + 1]?).getD 0⟩
  raiseIf (!descOk desc) .illField
  let n ← ctrNum x cn
  let thr : BitVec 32 := (← readGZ a).setWidth 32
  let s ← get
  if wtHolds ge thr (counterAt s c n) then do
    modify fun s => enqueue s c 2 desc sl.launch sl.ctx noSrc 0 []
    writeGZ d 16
  else
    match (List.range 16).find? fun j => ((coreOf s c).wt[j]?).getD none |>.isNone with
    | none => writeGZ d (BitVec.allOnes 64)
    | some j => do
      modMyCore fun k => { k with wt := k.wt.setIfInBounds j (some ⟨BitVec.ofNat 6 n, thr, ge, desc, sl.launch, sl.ctx⟩) }
      writeGZ d (word j)
  return .next

/-- WTCLR (R255). -/
def cancelEntry (d : GZ) (a : GReg) : M Flow := do
  let x ← readG a
  let s ← get
  let j := x.toNat % 16
  let armed := (((coreOf s s.cur).wt[j]?).getD none).isSome
  modMyCore fun k => { k with wt := k.wt.setIfInBounds j none }
  writeGZ d (Alu.bit armed)
  return .next

/-- RATADD (R243 to R245). -/
def execRataddReg (w : FSz) (d : RDst) (a : GReg) (b : Src) (m : Mode) (s : State) : Host.Outcome State Fault Refusal :=
  issueW (eRat 0 w d a b 0 m) (ratReg 0 w d a b m) s

/-- RATADD with a literal (R243 to R245). -/
def execRataddLit (w : FSz) (d : RDst) (a : GReg) (imm : BitVec 32) (m : Mode) (s : State) : Host.Outcome State Fault Refusal :=
  issueW (eRatL 0 w d a imm m) (ratLit 0 w d a imm m) s

/-- RATFADD (R243 to R245). -/
def execRatfaddReg (w : FSz) (d : RDst) (a : GReg) (b : Src) (m : Mode) (s : State) : Host.Outcome State Fault Refusal :=
  issueW (eRat 1 w d a b 0 m) (ratReg 1 w d a b m) s

/-- RATFADD with a literal (R243 to R245). -/
def execRatfaddLit (w : FSz) (d : RDst) (a : GReg) (imm : BitVec 32) (m : Mode) (s : State) : Host.Outcome State Fault Refusal :=
  issueW (eRatL 1 w d a imm m) (ratLit 1 w d a imm m) s

/-- RATFADDS (R243 to R245). -/
def execRatfaddsReg (w : FSz) (d : RDst) (a : GReg) (b : Src) (m : Mode) (s : State) : Host.Outcome State Fault Refusal :=
  issueW (eRat 2 w d a b 0 m) (ratReg 2 w d a b m) s

/-- RATFADDS with a literal (R243 to R245). -/
def execRatfaddsLit (w : FSz) (d : RDst) (a : GReg) (imm : BitVec 32) (m : Mode) (s : State) : Host.Outcome State Fault Refusal :=
  issueW (eRatL 2 w d a imm m) (ratLit 2 w d a imm m) s

/-- RATMAX (R243 to R245). -/
def execRatmaxReg (w : FSz) (d : RDst) (a : GReg) (b : Src) (m : Mode) (s : State) : Host.Outcome State Fault Refusal :=
  issueW (eRat 3 w d a b 0 m) (ratReg 3 w d a b m) s

/-- RATMAX with a literal (R243 to R245). -/
def execRatmaxLit (w : FSz) (d : RDst) (a : GReg) (imm : BitVec 32) (m : Mode) (s : State) : Host.Outcome State Fault Refusal :=
  issueW (eRatL 3 w d a imm m) (ratLit 3 w d a imm m) s

/-- RATMIN (R243 to R245). -/
def execRatminReg (w : FSz) (d : RDst) (a : GReg) (b : Src) (m : Mode) (s : State) : Host.Outcome State Fault Refusal :=
  issueW (eRat 4 w d a b 0 m) (ratReg 4 w d a b m) s

/-- RATMIN with a literal (R243 to R245). -/
def execRatminLit (w : FSz) (d : RDst) (a : GReg) (imm : BitVec 32) (m : Mode) (s : State) : Host.Outcome State Fault Refusal :=
  issueW (eRatL 4 w d a imm m) (ratLit 4 w d a imm m) s

/-- RATSWP (R243 to R245). -/
def execRatswpReg (w : FSz) (d : RDst) (a : GReg) (b : Src) (m : Mode) (s : State) : Host.Outcome State Fault Refusal :=
  issueW (eRat 5 w d a b 0 m) (ratReg 5 w d a b m) s

/-- RATSWP with a literal (R243 to R245). -/
def execRatswpLit (w : FSz) (d : RDst) (a : GReg) (imm : BitVec 32) (m : Mode) (s : State) : Host.Outcome State Fault Refusal :=
  issueW (eRatL 5 w d a imm m) (ratLit 5 w d a imm m) s

/-- RATCAS (R244): the expected value in B, the new one in C. -/
def execRatcas (w : FSz) (d : RDst) (a : GReg) (b : Src) (c : GReg) (m : Mode) (s : State) : Host.Outcome State Fault Refusal :=
  issueW (eRat 6 w d a b c.val m) (do
    let ea ← readG a
    let y ← read1 b
    let z ← readG c
    atomicAt 6 w d ea y z m) s

/-- RATAND (R243 to R245). -/
def execRatandReg (w : FSz) (d : RDst) (a : GReg) (b : Src) (m : Mode) (s : State) : Host.Outcome State Fault Refusal :=
  issueW (eRat 7 w d a b 0 m) (ratReg 7 w d a b m) s

/-- RATAND with a literal (R243 to R245). -/
def execRatandLit (w : FSz) (d : RDst) (a : GReg) (imm : BitVec 32) (m : Mode) (s : State) : Host.Outcome State Fault Refusal :=
  issueW (eRatL 7 w d a imm m) (ratLit 7 w d a imm m) s

/-- RATOR (R243 to R245). -/
def execRatorReg (w : FSz) (d : RDst) (a : GReg) (b : Src) (m : Mode) (s : State) : Host.Outcome State Fault Refusal :=
  issueW (eRat 8 w d a b 0 m) (ratReg 8 w d a b m) s

/-- RATOR with a literal (R243 to R245). -/
def execRatorLit (w : FSz) (d : RDst) (a : GReg) (imm : BitVec 32) (m : Mode) (s : State) : Host.Outcome State Fault Refusal :=
  issueW (eRatL 8 w d a imm m) (ratLit 8 w d a imm m) s

/-- RATXOR (R243 to R245). -/
def execRatxorReg (w : FSz) (d : RDst) (a : GReg) (b : Src) (m : Mode) (s : State) : Host.Outcome State Fault Refusal :=
  issueW (eRat 9 w d a b 0 m) (ratReg 9 w d a b m) s

/-- RATXOR with a literal (R243 to R245). -/
def execRatxorLit (w : FSz) (d : RDst) (a : GReg) (imm : BitVec 32) (m : Mode) (s : State) : Host.Outcome State Fault Refusal :=
  issueW (eRatL 9 w d a imm m) (ratLit 9 w d a imm m) s

/-- QENQ (R246 to R248). -/
def execQenq (d : RDst) (a b : GReg) (m : Mode) (nw : BitVec 4) (s : State) : Host.Outcome State Fault Refusal :=
  issueW (packR 0x56 0 d.code a.val b.val 0 0 (m.modR + nw.toNat)) (enqueueOp d a b m nw) s

/-- QDEQ (R246 to R248). -/
def execQdeq (d a : GReg) (m : Mode) (nw : BitVec 4) (s : State) : Host.Outcome State Fault Refusal :=
  issueW (packR 0x58 0 d.val a.val 0 0 0 (m.modR + nw.toNat)) (dequeueOp d a m nw) s

/-- CTRSET (R251). -/
def execCtrset (a : Src) (b : GZ) (cn : BitVec 6) (s : State) : Host.Outcome State Fault Refusal :=
  issueW (packR 0x5A 0 0 a.code b.code 0 0 cn.toNat) (counterSet a b cn) s

/-- CTRADD (R251). -/
def execCtradd (d : GZ) (a : Src) (b : GZ) (cn : BitVec 6) (s : State) : Host.Outcome State Fault Refusal :=
  issueW (packR 0x5A 1 d.code a.code b.code 0 0 cn.toNat) (counterAdd d a b cn) s

/-- CTRRD (R251). -/
def execCtrrd (d : GReg) (b : GZ) (cn : BitVec 6) (s : State) : Host.Outcome State Fault Refusal :=
  issueW (packR 0x5A 2 d.val 0 b.code 0 0 cn.toNat) (counterRead d b cn) s

/-- WTSET (R254, R255). -/
def execWtset (d a : GZ) (b : GReg) (c : GZ) (ge : Bool) (cn : BitVec 6) (s : State) : Host.Outcome State Fault Refusal :=
  issueW (packR 0x5C 0 d.code a.code b.val 0 c.code (ge.toNat * 64 + cn.toNat)) (armEntry d a b c ge cn) s

/-- WTCLR (R254, R255). -/
def execWtclr (d : GZ) (a : GReg) (s : State) : Host.Outcome State Fault Refusal :=
  issueW (packR 0x5C 0 d.code a.val 0 0 0 128) (cancelEntry d a) s

end Sys2Proof.Machine
end

