-- ==== Sys2Proof/Machine/Branch.lean ====
section
/-! DEFINITION. Branches, calls and jumps (R16, R50 to R53). -/

namespace Sys2Proof.Machine

/-- The target of a word offset (R16, R50). -/
def target (pc : Word) (off : BitVec 32) : Word := pc + Alu.sx off * 8

/-- A conditional branch (R50). -/
def branchIf (a c : Src) (off : BitVec 32) (cond : Word → Word → Bool) : M Flow := do
  let (x, y) ← read2 a c
  let sl ← mySlot
  return if cond x y then .goto (target sl.pc off) else .next

/-- BEQ (R50). -/
def execBeq (sz : Sz) (a c : Src) (off : BitVec 32) (s : State) : Host.Outcome State Fault Refusal :=
  issueW (eBr 0 sz a c off) (branchIf a c off (Alu.condEq sz)) s

/-- BNE (R50). -/
def execBne (sz : Sz) (a c : Src) (off : BitVec 32) (s : State) : Host.Outcome State Fault Refusal :=
  issueW (eBr 1 sz a c off) (branchIf a c off (fun x y => !Alu.condEq sz x y)) s

/-- BLT (R50). -/
def execBlt (sz : Sz) (a c : Src) (off : BitVec 32) (s : State) : Host.Outcome State Fault Refusal :=
  issueW (eBr 2 sz a c off) (branchIf a c off (Alu.condLt sz)) s

/-- BGE (R50). -/
def execBge (sz : Sz) (a c : Src) (off : BitVec 32) (s : State) : Host.Outcome State Fault Refusal :=
  issueW (eBr 3 sz a c off) (branchIf a c off (fun x y => !Alu.condLt sz x y)) s

/-- BLTU (R50). -/
def execBltu (sz : Sz) (a c : Src) (off : BitVec 32) (s : State) : Host.Outcome State Fault Refusal :=
  issueW (eBr 4 sz a c off) (branchIf a c off (Alu.condLtu sz)) s

/-- BGEU (R50). -/
def execBgeu (sz : Sz) (a c : Src) (off : BitVec 32) (s : State) : Host.Outcome State Fault Refusal :=
  issueW (eBr 5 sz a c off) (branchIf a c off (fun x y => !Alu.condLtu sz x y)) s

/-- B (R50). -/
def execB (off : BitVec 32) (s : State) : Host.Outcome State Fault Refusal :=
  issueW (packL 0x20 6 0 0 0 0 off.toNat) (do return .goto (target (← mySlot).pc off)) s

/-- CALL (R51): `g22` takes the return address. -/
def execCall (off : BitVec 32) (s : State) : Host.Outcome State Fault Refusal :=
  issueW (packL 0x22 0 0 0 0 0 off.toNat) (do
    let sl ← mySlot
    writeG 22 (sl.pc + 8)
    return .goto (target sl.pc off)) s

/-- JMP (R52): the target is read before `g22` is written; a misaligned one raises PC_ALIGN. -/
def execJmp (a : Src) (link : Bool) (s : State) : Host.Outcome State Fault Refusal :=
  issueW (packR 0x24 0 0 a.code 0 0 0 link.toNat) (do
    let t ← read1 a
    raiseIf (t.toNat % 8 ≠ 0) .pcAlign t
    let sl ← mySlot
    if link then writeG 22 (sl.pc + 8)
    return .goto t) s

/-- LOOP (R53). -/
def execLoop (d : GReg) (off : BitVec 32) (s : State) : Host.Outcome State Fault Refusal :=
  issueW (packL 0x26 0 d.val 0 0 0 off.toNat) (do
    let sl ← mySlot
    let n := sl.g.get d - 1
    writeG d n
    return if n ≠ 0 then .goto (target sl.pc off) else .next) s

end Sys2Proof.Machine
end

