-- ==== Sys2Proof/Machine/Crypto.lean ====
section
/-! DEFINITION. The ciphers and hashes that the spec names by their standards: AES-256, XTS-AES-256 (IEEE 1619), the tag of AES-256-GCM
over an empty plaintext, SHA-384 (R210, R211, R290, R302). Blocks are lists of byte values. -/

namespace Sys2Proof.Crypto

/-! ### AES-256 -/

/-- Multiplication in the field of AES, `n` steps. -/
def gmul : Nat → Nat → Nat → Nat
  | 0, _, _ => 0
  | n + 1, a, b =>
    let r := gmul n (let d := 2 * a; if d < 256 then d else (d ^^^ 0x11B) % 256) (b / 2)
    if b % 2 = 1 then a ^^^ r else r

/-- A field element's inverse, as its 254th power. -/
def ginv (a : Nat) : Nat :=
  let sq (x : Nat) := gmul 8 x x
  let a2 := sq a
  let a4 := sq a2
  let a8 := sq a4
  let a16 := sq a8
  let a32 := sq a16
  let a64 := sq a32
  let a128 := sq a64
  gmul 8 a2 (gmul 8 a4 (gmul 8 a8 (gmul 8 a16 (gmul 8 a32 (gmul 8 a64 a128)))))

/-- A byte rotated left. -/
def rotl8 (x n : Nat) : Nat := (x <<< n ||| x >>> (8 - n)) % 256

/-- The S-box. -/
def sbox (a : Nat) : Nat :=
  let b := ginv a
  b ^^^ rotl8 b 1 ^^^ rotl8 b 2 ^^^ rotl8 b 3 ^^^ rotl8 b 4 ^^^ 0x63

/-- The inverse S-box. -/
def sboxInv (a : Nat) : Nat := ginv (rotl8 a 1 ^^^ rotl8 a 3 ^^^ rotl8 a 6 ^^^ 5)

/-- Two lists of bytes added. -/
def xorL (a b : List Nat) : List Nat := List.zipWith (· ^^^ ·) a b

/-- The words of the key schedule of AES-256, each of four bytes, from word `i` on; `n` words are still to come. -/
def keyWords : Nat → Nat → List (List Nat) → List (List Nat)
  | 0, _, ws => ws
  | n + 1, i, ws =>
    let prev := ws.getD (i - 1) []
    let t := if i % 8 = 0 then
        (match prev with
          | [a, b, c, d] => [sbox b ^^^ (2 ^ (i / 8 - 1)) % 256, sbox c, sbox d, sbox a]
          | l => l)
      else if i % 8 = 4 then prev.map sbox else prev
    keyWords n (i + 1) (ws ++ [xorL (ws.getD (i - 8) []) t])

/-- The 15 round keys of a 32-byte key. -/
def roundKeys (key : List Nat) : List (List Nat) :=
  let first := (List.range 8).map fun j => (key.drop (4 * j)).take 4
  let ws := keyWords 52 8 first
  (List.range 15).map fun r => ((ws.drop (4 * r)).take 4).flatten

/-- The rows shifted, or shifted back. -/
def shiftRows (inv : Bool) (b : List Nat) : List Nat :=
  (List.range 16).map fun k =>
    let r := k % 4
    let c := k / 4
    b.getD (4 * ((if inv then c + 4 - r else c + r) % 4) + r) 0

/-- One column mixed with the coefficients of a row. -/
def mixCol (co : List Nat) (col : List Nat) : List Nat :=
  (List.range 4).map fun r => (List.range 4).foldl (fun a j => a ^^^ gmul 8 (co.getD ((j + 4 - r) % 4) 0) (col.getD j 0)) 0

/-- The columns mixed. -/
def mixColumns (co b : List Nat) : List Nat := ((List.range 4).map fun c => mixCol co ((b.drop (4 * c)).take 4)).flatten

/-- AES-256 encryption of one block under its round keys. -/
def aesEnc (rk : List (List Nat)) (b : List Nat) : List Nat :=
  let r := (List.range 13).foldl (fun b r =>
    xorL (mixColumns [2, 3, 1, 1] (shiftRows false (b.map sbox))) (rk.getD (r + 1) [])) (xorL b (rk.getD 0 []))
  xorL (shiftRows false (r.map sbox)) (rk.getD 14 [])

/-- AES-256 decryption of one block. -/
def aesDec (rk : List (List Nat)) (b : List Nat) : List Nat :=
  let r := (List.range 13).foldl (fun b r =>
    mixColumns [14, 11, 13, 9] (xorL ((shiftRows true b).map sboxInv) (rk.getD (13 - r) []))) (xorL b (rk.getD 14 []))
  xorL ((shiftRows true r).map sboxInv) (rk.getD 0 [])

/-- The bytes of a number, most significant first. -/
def beBytes (n x : Nat) : List Nat := (List.range n).map fun j => x / 256 ^ (n - 1 - j) % 256

/-- The number of bytes given most significant first. -/
def ofBe (l : List Nat) : Nat := l.foldl (fun a b => 256 * a + b) 0

/-- The bytes of a number, least significant first. -/
def leBytes (n x : Nat) : List Nat := (List.range n).map fun j => x / 256 ^ j % 256

/-- The number of bytes given least significant first. -/
def ofLe (l : List Nat) : Nat := l.foldr (fun b a => b + 256 * a) 0

/-! ### XTS-AES-256 on a data unit of 256 bytes (R210) -/

/-- The tweak of the next block. -/
def xtsNext (t : Nat) : Nat := let d := 2 * t; if d < 2 ^ 128 then d else (d % 2 ^ 128) ^^^ 0x87

/-- The blocks of a data unit run through a block function, each with its tweak; `n` blocks. -/
def xtsBlocks (f : List Nat → List Nat) : Nat → Nat → List Nat → List Nat
  | 0, _, _ => []
  | n + 1, t, b =>
    let tw := leBytes 16 t
    xorL (f (xorL (b.take 16) tw)) tw ++ xtsBlocks f n (xtsNext t) (b.drop 16)

/-- A granule encrypted or decrypted (R210): the first 32 key bytes are Key1, which the data use, the others Key2. `seq` is the
data-unit sequence number. The key's bytes are taken most significant first (log entry 13). -/
def xts (enc : Bool) (key : BitVec 512) (seq : Nat) (data : List Nat) : List Nat :=
  let kb := beBytes 64 key.toNat
  let k1 := roundKeys (kb.take 32)
  let k2 := roundKeys (kb.drop 32)
  let t := ofLe (aesEnc k2 (leBytes 16 seq))
  xtsBlocks (if enc then aesEnc k1 else aesDec k1) 16 t data

/-! ### The tag of AES-256-GCM over an empty plaintext (R211) -/

/-- Multiplication in GHASH's field; bit 127 of a number is the first bit of its block; `n` bits of `x` are left. -/
def ghMul (x : Nat) : Nat → Nat → Nat → Nat
  | 0, _, z => z
  | n + 1, v, z =>
    ghMul x n (if v % 2 = 1 then (v / 2) ^^^ (0xE1 * 2 ^ 120) else v / 2) (if x.testBit n then z ^^^ v else z)

/-- GHASH over blocks. -/
def ghash (h : Nat) (blocks : List (List Nat)) : Nat := blocks.foldl (fun y b => ghMul (y ^^^ ofBe b) 128 h 0) 0

/-- The tag of a granule (R211): the IV is four zero bytes and the address, the additional data the ciphertext. -/
def gmac (key : BitVec 256) (v : Nat) (ct : List Nat) : List Nat :=
  let rk := roundKeys (beBytes 32 key.toNat)
  let h := ofBe (aesEnc rk (List.replicate 16 0))
  let blocks := ((List.range 16).map fun j => (ct.drop (16 * j)).take 16) ++ [beBytes 8 2048 ++ beBytes 8 0]
  xorL (beBytes 16 (ghash h blocks)) (aesEnc rk (List.replicate 4 0 ++ beBytes 8 v ++ [0, 0, 0, 1]))

/-! ### SHA-384 -/

/-- The first `n` odd primes' companions: whether a number has no divisor from 2 to `d`. -/
def noDiv (p : Nat) : Nat → Bool
  | 0 => true
  | 1 => true
  | d + 1 => p % (d + 1) ≠ 0 && noDiv p d

/-- The first 80 primes. -/
def primes : List Nat := ((List.range 410).filter fun p => 2 ≤ p && noDiv p (min (p - 1) 20)).take 80

/-- The integer cube root by bits from `i` down. -/
def icbrt (n : Nat) : Nat → Nat → Nat
  | 0, r => r
  | i + 1, r => let t := r + 2 ^ i; icbrt n i (if t * t * t ≤ n then t else r)

/-- The round constants: the fractions of the cube roots of the first 80 primes. -/
def shaK : List (BitVec 64) := primes.map fun p => BitVec.ofNat 64 (icbrt (p * 2 ^ 192) 68 0)

/-- The initial state: the fractions of the square roots of the ninth to sixteenth primes. -/
def shaInit : List (BitVec 64) := ((primes.drop 8).take 8).map fun p => BitVec.ofNat 64 (Num.isqrt (p * 2 ^ 128) 68 0)

/-- The message schedule extended to 80 words; `n` words are still to come. -/
def shaSched : Nat → Nat → List (BitVec 64) → List (BitVec 64)
  | 0, _, w => w
  | n + 1, t, w =>
    let at0 (j : Nat) := w.getD (t - j) 0
    let s0 (x : BitVec 64) := x.rotateRight 1 ^^^ x.rotateRight 8 ^^^ (x >>> 7)
    let s1 (x : BitVec 64) := x.rotateRight 19 ^^^ x.rotateRight 61 ^^^ (x >>> 6)
    shaSched n (t + 1) (w ++ [s1 (at0 2) + at0 7 + s0 (at0 15) + at0 16])

/-- One round. -/
def shaRound (s : List (BitVec 64)) (kw : BitVec 64) : List (BitVec 64) :=
  match s with
  | [a, b, c, d, e, f, g, h] =>
    let t1 := h + (e.rotateRight 14 ^^^ e.rotateRight 18 ^^^ e.rotateRight 41) + ((e &&& f) ^^^ (~~~e &&& g)) + kw
    let t2 := (a.rotateRight 28 ^^^ a.rotateRight 34 ^^^ a.rotateRight 39) + ((a &&& b) ^^^ (a &&& c) ^^^ (b &&& c))
    [t1 + t2, a, b, c, d + t1, e, f, g]
  | l => l

/-- One block of 128 bytes taken in. -/
def shaBlock (h : List (BitVec 64)) (b : List Nat) : List (BitVec 64) :=
  let w := shaSched 64 16 ((List.range 16).map fun j => BitVec.ofNat 64 (ofBe ((b.drop (8 * j)).take 8)))
  List.zipWith (· + ·) h ((List.zipWith (· + ·) shaK w).foldl shaRound h)

/-- Whole blocks taken in, at most `n`. -/
def shaBlocks : Nat → List (BitVec 64) → List Nat → List (BitVec 64)
  | 0, h, _ => h
  | n + 1, h, l => if l.length < 128 then h else shaBlocks n (shaBlock h (l.take 128)) (l.drop 128)

/-- The padding of a message of `len` bytes in all, after its last whole block. -/
def shaPad (len : Nat) : List Nat :=
  let z := (128 + 111 - len % 128) % 128
  0x80 :: List.replicate z 0 ++ beBytes 16 (8 * len)

/-- The digest from a state, the bytes after the last whole block, and the length of the message. -/
def shaFinish (h : List (BitVec 64)) (rest : List Nat) (len : Nat) : BitVec 384 :=
  let l := rest ++ shaPad len
  let r := shaBlocks (l.length / 128) h l
  BitVec.ofNat 384 ((r.take 6).foldl (fun a x => a * 2 ^ 64 + x.toNat) 0)

/-- SHA-384 of a message. -/
def sha384 (m : List Nat) : BitVec 384 := shaFinish (shaBlocks (m.length / 128) shaInit m) (m.drop (m.length / 128 * 128)) m.length

end Sys2Proof.Crypto
end

