-- ==== Sys2Proof/Machine/Fabric.lean ====
section
/-! DEFINITION. What the network interface of Halyard gives to the fabric: packets with their numbers and counters (R367, R368, R375;
log entry 11). -/

namespace Sys2Proof.Machine

/-- A packet with nothing in it. -/
def Packet.blank : Packet := ⟨true, 0, 0, false, false, false, false, 0, 0, 0, 0, 0, 0, [], []⟩

/-- A sending direction re-keyed: a new handshake goes out in clear, EPOCH flips and CTR starts again at 0 (R378). -/
def rekeyOut (s : State) (sid : BitVec 32) (qpn : Nat) : State :=
  match nget s.sessions sid.toNat with
  | none => s
  | some x => { s with
      sessions := nset s.sessions sid.toNat { x with sendCtr := 0, epoch := !x.epoch }
      sent := s.sent ++ [⟨0x0D, qpn, { Packet.blank with sid := sid, epoch := !x.epoch }⟩] }

/-- A packet given to the fabric under its session's key, with the next counter; a direction that has used up its 2^32 counters is
re-keyed first (R367, R378). -/
def transmit (s : State) (qpn opc : Nat) (p : Packet) : State :=
  let full : Bool := match nget s.sessions p.sid.toNat with | some x => decide (2 ^ 32 ≤ x.sendCtr) | none => false
  let s := if full then rekeyOut s p.sid qpn else s
  match nget s.sessions p.sid.toNat with
  | none => { s with sent := s.sent ++ [⟨opc, qpn, p⟩] }
  | some x => { s with
      sessions := nset s.sessions p.sid.toNat { x with sendCtr := x.sendCtr + 1 }
      sent := s.sent ++ [⟨opc, qpn, { p with ctr := x.sendCtr, epoch := x.epoch }⟩] }

/-- A queue pair changed. -/
def modQp (s : State) (n : Nat) (f : Qp → Qp) : State :=
  match nget s.qps n with | some q => { s with qps := nset s.qps n (f q) } | none => s

/-- A packet that needs an answer, sent on a queue pair for a command (0 for none): it takes the next number and waits (R367,
R375). Nothing is sent on one that is not READY. -/
def qpPost (s : State) (n opc cmd : Nat) (p : Packet) : State :=
  match nget s.qps n with
  | none => s
  | some q =>
    if q.st ≠ .ready then s
    else
    let p := { p with psn := BitVec.ofNat 24 q.psn, dqpn := q.rec0.dqpn, sid := q.rec0.sid }
    transmit { s with qps := nset s.qps n { q with
      psn := (q.psn + 1) % 2 ^ 24, out := q.out ++ [⟨q.psn, opc, p, cmd, 0, s.ns, false, 0, none⟩] } } n opc p

/-- The queue pair of a context to a package. -/
def qpTo (s : State) (ctx pkg : Nat) : Option Nat :=
  (s.qps.find? fun q => q.2.ctx = ctx && q.2.rec0.ppkg.toNat = pkg).map (·.1)

/-- The STRICT queue pair of a context to a package, over which messages to its cores travel (R380). -/
def strictQpTo (s : State) (ctx pkg : Nat) : Option Nat :=
  (s.qps.find? fun q => q.2.ctx = ctx && q.2.rec0.ppkg.toNat = pkg && q.2.rec0.strict).map (·.1)

end Sys2Proof.Machine
end

