-- ==== Sys2Proof/Machine/Sync.lean ====
section
/-! DEFINITION. Barriers, futures and FRZ (R308 to R317, R331 to R341). -/

namespace Sys2Proof.Machine

/-! ### Hardware barriers (R331 to R333) -/

/-- A barrier instance. -/
def barAt (s : State) (k : BarKey) : BarInst := ((s.bars.find? fun b => b.1 = k).map (·.2)).getD ⟨0, [], 0⟩

/-- A barrier instance replaced. -/
def setBar (s : State) (k : BarKey) (b : BarInst) : State := { s with bars := s.bars.filter (fun x => x.1 ≠ k) ++ [(k, b)] }

/-- The instance that a barrier instruction names, this member of it, and how many members it expects (R331). A core on which no
launch is current is a region of its own. -/
def barOf (s : State) (c i : Nat) (sc : Scope) : BarKey × Nat × Nat :=
  let sl := slotAt s c i
  let reg (p : Nat → Bool) : Nat := match sl.launch.bind (nget s.launches) with
    | some l => ((regionOf l).filter p).length
    | none => 1
  let id := match sl.launch with | some l => l | none => 2 ^ 40 + c
  match sc with
  | .core => (.core c, i, 0)
  | .quad => (.quad id (quadOf c), c, reg fun k => quadOf k = quadOf c)
  | .die => (.die id (dieOf c), c, reg fun k => dieOf k = dieOf c)
  | .pod | .sys =>
    let g := match nget s.ctxs sl.ctx with | some x => x.podGroup | none => []
    (.pod sl.ctx, s.pkg.toNat, g.length)
  | .pkg => (.pkg id, c, reg fun _ => true)

/-! The tree of a pod group (R381; log entry 11): the root first, then the other members in their order; the children of place `p`
are the places `8 p + 1` to `8 p + 8`. -/

/-- The members of a pod group in tree order. -/
def podOrder (x : Context) : List Nat := x.podRoot :: x.podGroup.filter (· ≠ x.podRoot)

/-- The place of a package in the tree. -/
def podPlace (x : Context) (pkg : Nat) : Nat := (podOrder x).findIdx (· = pkg)

/-- The children of a package in the tree. -/
def podKids (x : Context) (pkg : Nat) : List Nat :=
  (List.range 8).filterMap fun j => (podOrder x)[8 * podPlace x pkg + 1 + j]?

/-- A BARRIER packet handed to the fabric, on the context's queue pair to a package: word 0 is 1 for a release. -/
def podSend (s : State) (ctx pkg : Nat) (release : Bool) : State :=
  match qpTo s ctx pkg with
  | none => s
  | some n => qpPost s n 0x0C 0 { Packet.blank with vals := [Alu.bit release] }

/-- The phase of a pod barrier ended at this package, and the release sent on (R381). -/
def podRelease (s : State) (ctx : Nat) (x : Context) : State :=
  let b := barAt s (.pod ctx)
  let s := setBar s (.pod ctx) ⟨b.phase + 1, [], 0⟩
  (podKids x s.pkg.toNat).foldl (fun s k => podSend s ctx k true) s

/-- An arrival of this package or of a child's whole subtree (R381): complete, it goes up, or ends the phase at the root. -/
def podArrive (s : State) (ctx member : Nat) : State :=
  match nget s.ctxs ctx with
  | none => s
  | some x =>
    let me := s.pkg.toNat
    let b := barAt s (.pod ctx)
    let arrived := sinsert b.arrived member
    let s := setBar s (.pod ctx) { b with arrived := arrived }
    if (me :: podKids x me).all arrived.contains then
      if podPlace x me = 0 then podRelease s ctx x
      else match (podOrder x)[(podPlace x me - 1) / 8]? with
        | some p => podSend s ctx p false
        | none => s
    else s

/-- An arrival recorded (R333): the last one ends the phase. -/
def arriveAt (s : State) (k : BarKey) (member expect : Nat) : State :=
  match k with
  | .pod ctx => podArrive s ctx member
  | _ =>
    let b := barAt s k
    let e := match k with | .core _ => (if b.arrived = [] then expect else b.expect) | _ => expect
    let arrived := sinsert b.arrived member
    if arrived.length = e then setBar s k ⟨b.phase + 1, [], 0⟩ else setBar s k ⟨b.phase, arrived, e⟩

/-- The checks and the release of an arrival (R331 to R333); the instance, the member and its count. -/
def arriveChecks (b : Option GReg) (sc : Scope) : M (BarKey × Nat × Nat) := do
  let s ← get
  let c := s.cur
  let i := actOf s c
  let n ← match b with
    | some r => readG r
    | none => pure 1
  raiseIf (sc = .core && !(decide (1 ≤ n.toNat) && decide (n.toNat ≤ 4))) .illField
  raiseIf (sc = .core && i = 4) .barScope
  let (k, member, e) := barOf s c i sc
  raiseIf (sc = .pod && e = 0) .barScope
  raiseIf ((barAt s k).arrived.contains member) .barTwice
  releaseTask
  return (k, member, if sc = .core then n.toNat else e)

/-- BARARRIVE (R333). -/
def barArrive (d : GZ) (b : Option GReg) (sc : Scope) : M Flow := do
  let (k, member, e) ← arriveChecks b sc
  let s ← get
  let t := (barAt s k).phase
  set (arriveAt s k member e)
  writeGZ d (t.setWidth 64)
  return .next

/-- The status with which a wait for a phase ends, if it ends (R332, R333). -/
def barStatus (phase tok : BitVec 32) (drain : Bool) : Option Word :=
  let p : Word := phase.setWidth 64
  if phase - tok = 1 then some p
  else if phase ≠ tok then some (p + word (2 ^ 63))
  else if drain then some (p + word (2 ^ 62))
  else none

/-- WAIT with a token (R333); `keep` is what the wait leaves in the slot. -/
def barWaitOn (d : GZ) (k : BarKey) (t : BitVec 32) (keep : State → State) : M Flow := do
  let s ← get
  match barStatus (barAt s k).phase t (draining s (← mySlot).ctx) with
  | some v => do
    writeGZ d v
    return .next
  | none => waitWith (.barWait k t) keep

/-- BARWAIT (R333). -/
def barWait (d : GZ) (b : GReg) (sc : Scope) : M Flow := do
  let x ← readG b
  let s ← get
  barWaitOn d (barOf s s.cur (actOf s s.cur) sc).1 (x.setWidth 32) id

/-- BARSYNC (R333): the arrival is made once, and the token kept while the slot waits. -/
def barSync (d : GZ) (b : Option GReg) (sc : Scope) : M Flow := do
  let sl ← mySlot
  match sl.t0 with
  | some t => do
    let s ← get
    barWaitOn d (barOf s s.cur (actOf s s.cur) sc).1 (t.setWidth 32) id
  | none => do
    let (k, member, e) ← arriveChecks b sc
    let s ← get
    let t := (barAt s k).phase
    let s' := arriveAt s k member e
    set s'
    barWaitOn d k t fun _ => modSlot s' s'.cur (actOf s' s'.cur) fun sl => { sl with t0 := some (t.setWidth 64) }

/-! ### Memory barrier objects (R334 to R336) -/

/-- The object at an address, resolved for an access that no IO page may be part of. -/
def barObject (spc : Bool) (ea : Word) (acc : Acc) : M (Option Seg) := do
  raiseIf (ea.toNat % 8 ≠ 0) .align ea
  let gs ← resolve spc ea 8 acc
  match gs with
  | [] => return none
  | g :: _ => do
    raiseIf (g.mt = .io) .xlPerm ea
    return some g

/-- An arrival at an object (R335): the token, or bit 61. -/
def objArrive (a : GReg) (spc : Bool) : M (Word × Option Seg) := do
  let ea ← readG a
  match ← barObject spc ea accRmw with
  | none => return (0, none)
  | some g => do
    releaseOnce
    let v ← rmwSeg g .barrier (.g 0) false
    return (v.headD 0, some g)

/-- BARARRIVE at an object (R335). -/
def barArriveMem (d : GZ) (a : GReg) (spc : Bool) : M Flow := do
  let (v, _) ← objArrive a spc
  writeGZ d v
  return .next

/-- The status with which a wait at an object ends, if it ends (R336). -/
def objStatus (w tok : Nat) (drain : Bool) : Option Word :=
  let dlt := (w % 2 ^ 24 + 2 ^ 24 - tok % 2 ^ 24) % 2 ^ 24
  if !barObjValid w then some (word (2 ^ 61))
  else if dlt = 1 then some (word (w % 2 ^ 24))
  else if dlt ≠ 0 then some (word (2 ^ 63 + w % 2 ^ 24))
  else if drain then some (word (2 ^ 62 + w % 2 ^ 24))
  else none

/-- The wait at an object that is resolved (R336): it reads the word as WAITA does. -/
def objWaitAt (d : GZ) (g : Seg) (tok : Nat) : M Flow := do
  let note (sl : Slot) : Slot := { sl with noted := [g] }
  let v ← noting note (readSeg g)
  let s ← get
  let me := s.cur
  let i := actOf s me
  match objStatus v tok (draining s (slotAt s me i).ctx) with
  | some st => do
    modify fun s => unwatch s me i g.pa
    writeGZ d st
    return .next
  | none => waitWith (.objBar g.pa tok) fun s => modSlot (watchWord s me i g.pa) me i fun sl => { sl with noted := [g], pend := .none }

/-- The wait at an object (R336). -/
def objWaitOn (d : GZ) (a : GReg) (spc : Bool) (tok : Nat) : M Flow := do
  match (← mySlot).noted with
  | g :: _ => objWaitAt d g tok
  | [] => do
    let ea ← readG a
    match ← barObject spc ea accLoad with
    | none => return .next
    | some g => objWaitAt d g tok

/-- BARWAIT at an object (R336). -/
def barWaitMem (d : GZ) (a b : GReg) (spc : Bool) : M Flow := do
  let t ← readG b
  objWaitOn d a spc (t.toNat % 2 ^ 24)

/-- BARSYNC at an object (R335, R336): the arrival, which is made once, and then the wait with its token. -/
def barSyncMem (d : GZ) (a : GReg) (spc : Bool) : M Flow := do
  let sl ← mySlot
  match sl.t0, sl.noted with
  | some t, g :: _ => objWaitAt d g t.toNat
  | _, _ =>
    commit (objArrive a spc) (fun x sl => { sl with t0 := some x.1, noted := x.2.toList, pend := .none }) fun x =>
      match x.2 with
      | some g => if x.1.getLsbD 61 then do
          writeGZ d x.1
          return .next
        else objWaitAt d g x.1.toNat
      | none => return .next

/-! ### Futures (R337 to R341) -/

/-- A FUT operation at its owner (R340): the result. -/
def futAt (fn : Nat) (psn : Bool) (a : GReg) (b : Word) (spc rel : Bool) : M Word := do
  let ea ← readG a
  raiseIf (ea.toNat % 8 ≠ 0) .align ea
  let gs ← resolve spc ea 8 accRmw
  match gs with
  | [] => return 0
  | g :: _ => do
    raiseIf (g.mt = .io) .xlPerm ea
    raiseIf (fn = 0 && (b.toNat % 32 ≠ 0 || !canonical b)) .illField
    raiseIf (fn = 1 && !psn && decide (2 ^ 62 ≤ b.toNat)) .illField
    if rel then releaseOnce
    let v ← rmwSeg g (.fut fn psn b) (.g 0) false
    return v.headD 0

/-- FUTREG (R340). -/
def futReg (d : GZ) (a b : GReg) (spc : Bool) : M Flow := do
  let r ← readG b
  let v ← futAt 0 false a r spc true
  writeGZ d v
  return .next

/-- FUTSET (R340). -/
def futSet (a : GReg) (b : GZ) (spc psn : Bool) : M Flow := do
  let x ← readGZ b
  let _ ← futAt 1 psn a x spc true
  return .next

/-- FUTGET (R340). -/
def futGet (d a : GReg) (spc : Bool) : M Flow := do
  let v ← futAt 2 false a 0 spc false
  writeG d v
  return .next

/-- FUTRESET (R340). -/
def futReset (d : GZ) (a : GReg) (spc : Bool) : M Flow := do
  let v ← futAt 3 false a 0 spc false
  writeGZ d v
  return .next

/-! ### FRZ (R308 to R317) -/

/-- How many template records of the running context a core holds (R308). -/
def tplCount (s : State) (c : Nat) : Nat :=
  (s.tpls.filter fun t => t.2.cores.contains c && (coreOf s c).ctx = some t.2.ctx).length

/-- The mapped wide registers of a slot: number and physical register. -/
def mappedW (sl : Slot) : List (Nat × Fin 192) :=
  sl.w.toList.zipIdx.filterMap fun p => match p.1 with | .priv q => some (p.2, q) | .shared q => some (p.2, q) | .unmapped => none

/-- The template store of one core copied to another (R310). -/
def copyStore (s : State) (src dst lo : Nat) : State :=
  let s' := zeroRange s (windowPa dst lo) (windowPa dst 0x18000)
  let n := 0x18000 - lo
  let bytes := (List.range n).filterMap fun j =>
    let b := rdByte s (windowPa src (lo + j))
    if b = 0 then none else some (windowPa dst (lo + j), b)
  let ps := (List.range (n / 8)).filterMap fun j =>
    if isPoison s (windowPa src (lo + 8 * j)) then some (windowPa dst (lo + 8 * j) / 8) else none
  let s' := bytes.foldl (fun s b => wrByte s b.1 b.2) s'
  { s' with poison := ps.foldl (fun l w => sinsert l (physOf s' (w * 8) / 8)) s'.poison }

/-- The copy-on-write lines of a slot with their contents and the places of their poisoned words (R310). -/
def overlayOf (s : State) (c : Nat) (sl : Slot) : List (Nat × List Byte × List Nat) :=
  sl.lineMap.map fun p =>
    let pa := windowPa c (cowOff sl p.2)
    (p.1, rdBytes s pa 64, (List.range 8).filter fun j => isPoison s (pa + 8 * j))

/-- The template made, shared and placed, and the freezing task ended (R310, R314, R315, R316). -/
def freeze (s : State) (c i n : Nat) (cores : List Nat) (j : Option Word) : State :=
  let sl := slotAt s c i
  let maps := mappedW sl
  let quad := quadAt s (quadOf c)
  let id := s.nextId + 1
  let others := ((cores.map quadOf).eraseDups).filter (· ≠ quadOf c)
  let t : Tpl := {
    launch := sl.launch, ctx := sl.ctx, parent := sl.tpl, byJoin := sl.role = .join, depth := sl.depth + 1, home := c, homeSlot := i
    cores := cores, n := n, pending := n, pc := sl.pc + 8, g := sl.g
    wide := maps.map fun m => (quadOf c, m.1, m.2)
    toCopy := if maps = [] then [] else others
    frozen := maps.map fun m => let r := quad.pregs.get m.2; (m.1, r.data, r.tag, r.poison)
    overlay := if sl.depth = 0 then [] else overlayOf s c sl
    bind := sl.bind, meas := sl.meas
    join := match j with | none => .none | some pc => if n = 0 then .placed pc s.cycles else .waiting pc
    ended := [] }
  let s := if sl.depth = 0 then (cores.filter (· ≠ c)).foldl (fun s k => copyStore s c k sl.tplBase.toNat) s else s
  let s := cores.zipIdx.foldl (fun s k => modCore s k.1 fun q => { q with cursors := q.cursors ++ [⟨id, k.2, s.cycles⟩] }) s
  let s := { s with tpls := nset s.tpls id t, nextId := id }
  let s := endTask (modSlot s c i fun sl => { sl with w := Vector.replicate 16 .unmapped }) c i false
  if n = 0 && j.isNone then
    let s := tplRemove s id t
    match t.parent with
    | none => s
    | some p => tplEnd s p t.byJoin [] 4
  else s

/-- FRZ (R310). -/
def frzTask (a : Src) (b : Option GReg) : M Flow := do
  let s ← get
  let c := s.cur
  let i := actOf s c
  let sl ← mySlot
  raiseIf (i = 4 || decide (3 ≤ sl.depth.toNat) || (sl.depth = 0 && sl.role ≠ .prologue)) .tplDepth
  let n ← read1 a
  raiseIf (decide (2 ^ 32 ≤ n.toNat)) .illField
  let j := b.map fun r => sl.g.get r
  raiseIf ((j.getD 0).toNat % 8 ≠ 0) .illField
  let region := match sl.launch.bind (nget s.launches) with | some l => regionOf l | none => [c]
  let cores := if sl.depth = 0 then region else region.filter fun k => quadOf k = quadOf c
  raiseIf (cores.any fun k => decide (4 ≤ tplCount s k)) .tplCopy
  let k := coreOf s c
  if (k.dq.any fun r => r.slot = i) || (k.rots.any fun r => r.slot = i) then waitOn .retireSlot
  releaseTask
  modify fun s => freeze s c i n.toNat cores j
  return .stay

/-- BARARRIVE (R331 to R333). -/
def execBararrive (d : GZ) (b : Option GReg) (scope : Scope) (s : State) : Host.Outcome State Fault Refusal :=
  issueW (packR 0x68 0 d.code 0 (optG b) 0 0 scope.code) (barArrive d b scope) s

/-- BARWAIT (R332, R333). -/
def execBarwait (d : GZ) (b : GReg) (scope : Scope) (s : State) : Host.Outcome State Fault Refusal :=
  issueW (packR 0x68 1 d.code 0 b.val 0 0 scope.code) (barWait d b scope) s

/-- BARSYNC (R332, R333). -/
def execBarsync (d : GZ) (b : Option GReg) (scope : Scope) (s : State) : Host.Outcome State Fault Refusal :=
  issueW (packR 0x68 2 d.code 0 (optG b) 0 0 scope.code) (barSync d b scope) s

/-- BARARRIVE at a memory barrier object (R335). The scope orders no more than `.sys` does here (log entry 15). -/
def execBararriveMem (d : GZ) (a : GReg) (spc : Bool) (scope : Scope) (s : State) : Host.Outcome State Fault Refusal :=
  issueW (packR 0x68 0 d.code a.val 0 0 0 (spc.toNat * 2 ^ 25 + 16 + scope.code)) (barArriveMem d a spc) s

/-- BARWAIT at a memory barrier object (R336). -/
def execBarwaitMem (d : GZ) (a b : GReg) (spc : Bool) (scope : Scope) (s : State) : Host.Outcome State Fault Refusal :=
  issueW (packR 0x68 1 d.code a.val b.val 0 0 (spc.toNat * 2 ^ 25 + 16 + scope.code)) (barWaitMem d a b spc) s

/-- BARSYNC at a memory barrier object (R335, R336). -/
def execBarsyncMem (d : GZ) (a : GReg) (spc : Bool) (scope : Scope) (s : State) : Host.Outcome State Fault Refusal :=
  issueW (packR 0x68 2 d.code a.val 0 0 0 (spc.toNat * 2 ^ 25 + 16 + scope.code)) (barSyncMem d a spc) s

/-- FUTREG (R339 to R341). -/
def execFutreg (d : GZ) (a b : GReg) (spc : Bool) (s : State) : Host.Outcome State Fault Refusal :=
  issueW (packR 0x6C 0 d.code a.val b.val 0 0 (spc.toNat * 2 ^ 25)) (futReg d a b spc) s

/-- FUTSET, FUTSET.p (R339 to R341). -/
def execFutset (a : GReg) (b : GZ) (spc psn : Bool) (s : State) : Host.Outcome State Fault Refusal :=
  issueW (packR 0x6C 1 0 a.val b.code 0 0 (spc.toNat * 2 ^ 25 + psn.toNat)) (futSet a b spc psn) s

/-- FUTGET (R339 to R341). -/
def execFutget (d a : GReg) (spc : Bool) (s : State) : Host.Outcome State Fault Refusal :=
  issueW (packR 0x6C 2 d.val a.val 0 0 0 (spc.toNat * 2 ^ 25)) (futGet d a spc) s

/-- FUTRESET (R339 to R341). -/
def execFutreset (d : GZ) (a : GReg) (spc : Bool) (s : State) : Host.Outcome State Fault Refusal :=
  issueW (packR 0x6C 3 d.code a.val 0 0 0 (spc.toNat * 2 ^ 25)) (futReset d a spc) s

/-- FRZ (R309, R310). -/
def execFrz (a : Src) (b : Option GReg) (s : State) : Host.Outcome State Fault Refusal :=
  issueW (packR 0x6A 0 0 a.code (optG b) 0 0 b.isSome.toNat) (frzTask a b) s

end Sys2Proof.Machine
end

