-- ==== Sys2Proof/Machine/WideInt.lean ====
section
/-! DEFINITION. The common rules of wide instructions and the wide integer group (R154 to R159, R166 to R182). -/

namespace Sys2Proof.Machine

/-! ### Elements (R166 to R168) -/

/-- The element width of a type in bits. -/
def etW : Et → Nat
  | .i8 => 8 | .i16 | .bf16 | .f16 => 16 | .i32 | .f32 => 32

/-- The binary layout of an FP element type. -/
def etSpec : Et → Num.Spec
  | .bf16 => ⟨8, 7, 127, .ieee⟩
  | .f16 => ⟨5, 10, 15, .ieee⟩
  | _ => ⟨8, 23, 127, .ieee⟩

/-- Element `i` of width `w` (R166). -/
def elem (w : Nat) (x : WideBits) (i : Nat) : Nat := (x.toNat >>> (i * w)) % 2 ^ w

/-- A wide register from its elements, lowest first. -/
def packE (w : Nat) (l : List Nat) : WideBits := BitVec.ofNat 2048 (l.foldr (fun v a => v % 2 ^ w + a * 2 ^ w) 0)

/-- Whether the mask governs an element as written (R166, R168). -/
def lane (w : Nat) (mask : Word) (i : Nat) : Bool := mask.getLsbD (i * w / 32)

/-- Elementwise writing (R168): an element whose lane the mask enables receives what `f` computes, in ascending order with a carried
state; another keeps its old value, or is zeroed. -/
def elemwise {σ : Type} (w n : Nat) (mask : Word) (kz : Bool) (old : WideBits) (f : Nat → σ → Nat × Num.Flags × σ) (st : σ) :
    WideBits × Num.Flags × σ :=
  let r := (List.range n).foldl (fun (a : List Nat × Num.Flags × σ) i =>
    if lane w mask i then let v := f i a.2.2; (v.1 :: a.1, a.2.1 ||| v.2.1, v.2.2)
    else ((if kz then 0 else elem w old i) :: a.1, a.2)) ([], 0, st)
  (packE w r.1.reverse, r.2)

/-! ### Wide registers (R158, R159) -/

/-- What a wide register holds: 256 bytes, its seal tag, its poison bit. -/
structure WVal where
  data : WideBits
  tag : Option (Fin 64)
  poison : Bool
deriving DecidableEq, Repr

/-- A wide register as a slot sees it (R158): unmapped reads as zero. -/
def wideOf (s : State) (c i : Nat) (r : WReg) : WVal :=
  let at0 (p : Fin 192) : WVal := let x := (quadAt s (quadOf c)).pregs.get p; ⟨x.data, x.tag, x.poison⟩
  match (slotAt s c i).w.get r with
  | .unmapped => ⟨0, none, false⟩
  | .priv p => at0 p
  | .shared p => at0 p

/-- A wide register read. -/
def wread (r : WReg) : M WVal := do
  let s ← get
  return wideOf s s.cur (actOf s s.cur) r

/-- A physical register written. -/
def setPreg (s : State) (q : Nat) (p : Fin 192) (x : PReg) : State :=
  modQuad s q fun k => { k with pregs := k.pregs.set p.val x p.isLt }

/-- A wide register written (R158): a private register stays, an unmapped or shared one takes a free physical register. -/
def wwrite (r : WReg) (v : WVal) : M Unit := do
  let s ← get
  let c := s.cur
  let q := quadOf c
  let alloc (s : State) : M Unit :=
    match (List.finRange 192).find? fun p => !((quadAt s q).pregs.get p).used with
    | none => raise .wregCopy
    | some p => do
      set (setPreg s q p ⟨true, 1, v.data, v.tag, v.poison⟩)
      modMy fun sl => { sl with w := sl.w.set r.val (.priv p) r.isLt }
  match (slotAt s c (actOf s c)).w.get r with
  | .priv p => set (setPreg s q p { (quadAt s q).pregs.get p with data := v.data, tag := v.tag, poison := v.poison })
  | .unmapped => alloc s
  | .shared p => do
    alloc s
    modify fun s => dropPreg s q p

/-- The common seal of a result's sources (R159). -/
def joinTags : List (Option (Fin 64)) → M (Option (Fin 64))
  | [] => pure none
  | t :: r => do
    let u ← joinTags r
    match t, u with
    | some x, some y => if x = y then pure (some x) else raise .furlMix
    | some x, none => pure (some x)
    | none, u => pure u

/-- A source whose value would leave the wide registers must not be sealed (R159). -/
def noLeak (l : List WVal) : M Unit := raiseIf (l.any fun v => v.tag.isSome) .furlLeak

/-! ### Acceptance and retirement (R155 to R157; log entry 5) -/

/-- A free entry of the dispatch queue (R155, step 6). -/
def queueRoom : M Unit := do
  let s ← get
  if 16 ≤ (coreOf s s.cur).dq.length then waitOn .dqFull

/-- An instruction accepted: what is still due when it retires. -/
def accept (matrix : Bool) (flags : Num.Flags) (result : Option (EReg × Word × Bool)) (doom : Option (Trap × Word))
    (tile : Option (Fin 4)) : M Unit := do
  let sl ← mySlot
  let i ← myIdx
  let s ← get
  modMyCore fun k => { k with dq := k.dq ++ [⟨matrix, i, sl.task, flags, result, doom, tile, false, [], s.nextId⟩] }

/-- The key slots under which the instruction accepted last was accepted (R213, R217). -/
def keyed (ks : List (Nat × Bool)) : M Unit := modMyCore fun k =>
  { k with dq := k.dq.dropLast ++ (k.dq.drop (k.dq.length - 1)).map fun (r : Retire) => { r with keys := ks } }

/-- An instruction of the wide unit accepted. -/
def acceptW (flags : Num.Flags) (result : Option (EReg × Word × Bool)) : M Unit := accept false flags result none none

/-- A retirement (R156, R157, R220): the flags, the scalar result, or the end of the task. -/
def retire (s : State) (c : Nat) (r : Retire) : State :=
  let s := modSlot s c r.slot fun sl => { sl with fpst := sl.fpst ||| r.flags }
  let mine := (slotAt s c r.slot).task = r.task
  let s := match r.result with
    | some (e, v, p) => if mine then modSlot s c r.slot fun sl => sl.fillE e v p else s
    | none => s
  match r.doom with
  | some (t, pc) => if mine then
      terminal (modSlot s c r.slot fun sl => { sl with finfo2 := pc }) c r.slot t.code t.info t.cause pc
    else s
  | none => s

/-- Whether matrix instructions that a task accepted have yet to complete; with a tile, those that name it (R209). -/
def matrixDue (k : Core) (task : Nat) (c : Option (Fin 4)) : Bool :=
  (k.dq.any fun r => r.matrix && r.task = task && (c.isNone || r.tile = c)) ||
    k.sb.any fun e => e.src.task = task && e.tile.isSome && (c.isNone || e.tile = c)

/-- Whether a tile is claimed (R196): one given up is, until what its task had accepted for it has completed (R55, R208). -/
def tileClaimed (k : Core) (c : Fin 4) : Bool :=
  let t := k.tiles.get c
  match t.owner with
  | none => false
  | some o => !t.giving || matrixDue k o.2 (some c)

/-- The mappings of ended tasks end once nothing that they had accepted is left to retire (R55, R158). -/
def mapsDue (s : State) (c : Nat) : State :=
  let last (m : Nat × List WMap) : Bool := !((coreOf s c).dq.any fun r => r.task = m.1)
  let s' := modCore s c fun k => { k with unmapDue := k.unmapDue.filter fun m => !last m }
  ((coreOf s c).unmapDue.filter last).foldl (fun s m => unmapList s (quadOf c) m.2) s'

/-- The oldest entry of a core's dispatch queue retired, if it is of the unit asked for; an MROT's once both its parts are done (R200). -/
def retireHead (s : State) (c : Nat) (matrix : Bool) : Option State :=
  match (coreOf s c).dq with
  | [] => none
  | r :: rest =>
    if r.matrix = matrix && (!r.rot || (coreOf s c).rots = [] || rest.any (·.rot)) then
      some (mapsDue (retire (modCore s c fun k => { k with dq := rest }) c r) c)
    else none

/-- WIDE_UNIT_RETIRE (R156): one instruction of the next core, in turn, that has one for the wide unit. -/
def execWideUnitRetire (quad : Nat) (s : State) : Host.Outcome State Fault Refusal :=
  let rr := (quadAt s quad).rrCore
  let order := [0, 1, 2, 3].map fun j => (rr + j) % 4
  match order.findSome? fun j => (retireHead s (quad * 4 + j) false).map fun t => (j, t) with
  | none => .next s
  | some (j, t) => .next (modQuad t quad fun q => { q with rrCore := (j + 1) % 4 })

/-! ### The second operand -/

/-- A scalar cut to an element type (R167). -/
def cut (et : Et) (x : Word) : Nat := x.toNat % 2 ^ etW et

/-- The element index in a type, exact (R167). -/
def indexOf (et : Et) (i : Nat) : Nat :=
  if etInt et then i % 2 ^ etW et else (Num.roundSpec (etSpec et) .rne false 0 (.fin false i 0)).1

/-- The second operand: the register it reads, if any, and its element `i` (R167). -/
def secondOp (et : Et) : WOpnd → M (List WVal × (Nat → Nat))
  | .reg r => do let v ← wread r; return ([v], fun i => elem (etW et) v.data i)
  | .bcast g => do let x ← read1 g; return ([], fun _ => cut et x)
  | .lane => pure ([], indexOf et)

/-- A wide result: seals and poison joined over the sources, the elements written under the mask (R155, R159, R168). `f` gets the old
element, the index and the state that it carries; `keepOld` says that the old contents are a source whatever the mask. -/
def wideTo {σ : Type} (et : Et) (wd : WReg) (k : KReg) (kz keepOld : Bool) (srcs : List WVal) (st : σ)
    (f : (Nat → Nat) → Nat → σ → Nat × Num.Flags × σ) : M (σ × Num.Flags) := do
  let old ← wread wd
  let all := if keepOld || (!kz && k ≠ 0) then old :: srcs else srcs
  let tag ← joinTags (all.map (·.tag))
  queueRoom
  let r := elemwise (etW et) (etN et) ((← mySlot).mask k) kz old.data (f (elem (etW et) old.data)) st
  wwrite wd ⟨r.1, tag, all.any (·.poison)⟩
  return (r.2.2, r.2.1)

/-! ### Integers (R170) -/

/-- The signed value of an element. -/
def sg (w x : Nat) : Int := (BitVec.ofNat w x).toInt

/-- A wide integer operation by its FN (R170); `t` is the count and `c` the low word of the funnel shifts. -/
def intElem (fn w a b t c : Nat) : Nat :=
  let s := b % w
  match fn with
  | 0 => (a + b) % 2 ^ w
  | 1 => (a + 2 ^ w - b) % 2 ^ w
  | 2 => a * b % 2 ^ w
  | 3 => if sg w a ≤ sg w b then a else b
  | 4 => if sg w b ≤ sg w a then a else b
  | 5 => min a b
  | 6 => max a b
  | 7 => a &&& b
  | 8 => a ||| b
  | 9 => a ^^^ b
  | 10 => (a <<< s) % 2 ^ w
  | 11 => a >>> s
  | 12 => ((sg w a >>> s) % 2 ^ w).toNat
  | 13 => (((a * 2 ^ w + c) <<< (t % w)) >>> w) % 2 ^ w
  | _ => ((a * 2 ^ w + c) >>> (t % w)) % 2 ^ w

/-- A wide integer instruction (R170). -/
def wideInt (fn : Nat) (et : Et) (wd wa : WReg) (srcs : List WVal) (b : Nat → Nat) (k : KReg) (kz isReg : Bool) : M Flow := do
  let a ← wread wa
  let w := etW et
  let keep : Bool := decide (13 ≤ fn) && isReg
  let _ ← wideTo et wd k kz keep (a :: srcs) () fun old i _ =>
    (intElem fn w (elem w a.data i) (b i) (if isReg then old i else b i) (if isReg then b i else 0), 0, ())
  acceptW 0 none
  return .next

/-- The register form. -/
def wideIntReg (fn : Nat) (et : Et) (wd wa : WReg) (b : WOpnd) (k : KReg) (kz : Bool) : M Flow := do
  let (srcs, f) ← secondOp et b
  wideInt fn et wd wa srcs f k kz (match b with | .reg _ => true | _ => false)

/-- The literal form (R22, R167). -/
def wideIntLit (fn : Nat) (et : Et) (wd wa : WReg) (imm : BitVec 32) (k : KReg) (kz : Bool) : M Flow :=
  wideInt fn et wd wa [] (fun _ => cut et (Alu.sx imm)) k kz false

/-! ### Floating point (R169, R171) -/

/-- A wide FP operation by its FN (R171); `c` is the old element. -/
def fpElem (fn : Nat) (et : Et) (rm : Rm) (sr a b c : Nat) : Nat × Num.Flags :=
  let sp := etSpec et
  match fn with
  | 0 => Num.fpAdd sp rm sr a b
  | 1 => Num.fpSub sp rm sr a b
  | 2 => Num.fpMul sp rm sr a b
  | 3 => Num.fpFma sp rm sr a b c
  | 4 => Num.fpMinMax sp false a b
  | 5 => Num.fpMinMax sp true a b
  | 6 => (a % 2 ^ (sp.eb + sp.mb), 0)
  | 7 => Num.fpUnary Num.vExp2 sp rm sr a
  | 8 => Num.fpUnary Num.vRcp sp rm sr a
  | 9 => Num.fpUnary Num.vRsq sp rm sr a
  | _ => Num.fpUnary Num.vLog2 sp rm sr a

/-- One step of the stochastic state for a written element, where the rounding is SR (R90, R91). -/
def srStep (rm : Rm) (s : Word) : Word := if rm = .sr then Num.srAdvance s else s

/-- A wide FP instruction (R171). -/
def wideFp (fn : Nat) (et : Et) (wd wa : WReg) (srcs : List WVal) (b : Nat → Nat) (k : KReg) (kz : Bool) (rm : Rm) : M Flow := do
  let a ← wread wa
  let w := etW et
  let srst := (coreOf (← get) (← myCore)).srst
  let (sr, fl) ← wideTo et wd k kz (fn = 3) (a :: srcs) srst fun old i st =>
    let st := srStep rm st
    let r := fpElem fn et rm (Num.srTop st) (elem w a.data i) (b i) (old i)
    (r.1, r.2, st)
  modMyCore fun k => { k with srst := sr }
  acceptW fl none
  return .next

/-- The register form. -/
def wideFpReg (fn : Nat) (et : Et) (wd wa : WReg) (b : WOpnd) (k : KReg) (kz : Bool) (rm : Rm) : M Flow := do
  let (srcs, f) ← secondOp et b
  wideFp fn et wd wa srcs f k kz rm

/-- The literal form, rounded to nearest even (R169). -/
def wideFpLit (fn : Nat) (et : Et) (wd wa : WReg) (imm : BitVec 32) (k : KReg) (kz : Bool) : M Flow :=
  wideFp fn et wd wa [] (fun _ => cut et (Alu.sx imm)) k kz .rne

/-- The unary members. -/
def wideFpUn (fn : Nat) (et : Et) (wd wa : WReg) (k : KReg) (kz : Bool) (rm : Rm) : M Flow :=
  wideFp fn et wd wa [] (fun _ => 0) k kz rm

/-! ### Compare and select (R172, R173) -/

/-- A comparison of two elements (R172). -/
def cmpElem (et : Et) (cond a b : Nat) : Bool × Num.Flags :=
  let w := etW et
  if etInt et then
    (match cond with
      | 0 => a == b | 1 => a != b | 2 => decide (sg w a < sg w b) | 3 => decide (sg w a ≤ sg w b) | 4 => decide (a < b)
      | _ => decide (a ≤ b), 0)
  else
    let sp := etSpec et
    let un : Bool := Num.vIsNaN (Num.decodeSpec sp a) || Num.vIsNaN (Num.decodeSpec sp b)
    match cond with
    | 0 => Num.fpCmp sp 0 a b
    | 1 => let r := Num.fpCmp sp 0 a b; (!r.1, r.2)
    | 2 => Num.fpCmp sp 1 a b
    | 3 => Num.fpCmp sp 2 a b
    | _ => (un, (Num.fpCmp sp 0 a b).2)

/-- The mask that WCMP writes, and its flags (R172). -/
def cmpMask (et : Et) (cond : Nat) (any kz : Bool) (mask old : Word) (a : WideBits) (b : Nat → Nat) : Word × Num.Flags :=
  let w := etW et
  let per := 32 / w
  let r := (List.range 64).foldl (fun (s : Nat × Num.Flags) i =>
    if mask.getLsbD i then
      let l := (List.range per).map fun j => cmpElem et cond (elem w a (i * per + j)) (b (i * per + j))
      let v := if any then l.any (·.1) else l.all (·.1)
      (s.1 + (if v then 2 ^ i else 0), l.foldl (fun f x => f ||| x.2) s.2)
    else (s.1 + (if !kz && old.getLsbD i then 2 ^ i else 0), s.2)) (0, 0)
  (word r.1, r.2)

/-- WCMP (R172): with a poisoned source every enabled lane is false and the task ends with POISON (R72). -/
def wideCmp (et : Et) (kd : KReg) (wa : WReg) (b : WOpnd) (k : KReg) (kz : Bool) (cond : BitVec 4) (any : Bool) : M Flow := do
  let (srcs, f) ← secondOp et b
  let a ← wread wa
  noLeak (a :: srcs)
  queueRoom
  let sl ← mySlot
  let mask := sl.mask k
  let old := sl.mask kd
  if (a :: srcs).any (·.poison) then do
    modMy fun sl => sl.setK kd (if kz then 0 else old &&& ~~~mask)
    accept false 0 none (some ({ code := .poison }, sl.pc)) none
  else do
    let r := cmpMask et cond.toNat any kz mask old a.data f
    modMy fun sl => sl.setK kd r.1
    acceptW r.2 none
  return .next

/-- WSEL (R173). -/
def wideSel (et : Et) (wd wa : WReg) (b : WOpnd) (k : KReg) : M Flow := do
  let (srcs, f) ← secondOp et b
  let a ← wread wa
  let w := etW et
  let mask := (← mySlot).mask k
  let _ ← wideTo et wd 0 false false (a :: srcs) () fun _ i _ => (if lane w mask i then elem w a.data i else f i, 0, ())
  acceptW 0 none
  return .next

/-! ### WCVT (R174, R175) -/

/-- How many elements of a format a register holds (R175). -/
def capOf (f : Num.Fmt) : Nat := 2048 / Num.fmtPlace f

/-- WCVT: a part converted (R175). -/
def wideCvt (wd wa : WReg) (dt : Option (Fin 4)) (sf : BitVec 5) (part : BitVec 3) (sat : Bool) (rm : Rm) (df : BitVec 5) :
    M Flow := do
  let srcF : Num.Fmt := match dt with | some t => .dt t | none => (Num.fmtOfCode sf.toNat).getD .fp32
  let dstF : Num.Fmt := (Num.fmtOfCode df.toNat).getD .fp32
  let core := coreOf (← get) (← myCore)
  match dstF with
  | .dt t => raiseIf ((core.dt.get t).status ≠ 0) .illField
  | _ => pure ()
  let a ← wread wa
  let old ← wread wd
  let ns := capOf srcF
  let nd := capOf dstF
  let m := min ns nd
  let merge : Bool := decide (ns < nd)
  let all := if merge then [old, a] else [a]
  let tag ← joinTags (all.map (·.tag))
  queueRoom
  let off := part.toNat * m
  let r := (List.range m).foldl (fun (x : List Nat × Num.Flags × Word) e =>
    let st := srStep rm x.2.2
    let v := Num.decodeFmt core.dt srcF (elem (Num.fmtPlace srcF) a.data (if merge then e else if nd < ns then off + e else e))
    let o := Num.encodeFmt core.dt dstF rm sat (Num.srTop st) v
    (o.1.toNat % 2 ^ Num.fmtWidth dstF :: x.1, x.2.1 ||| o.2, st)) ([], 0, core.srst)
  let out := r.1.reverse
  let w := Num.fmtPlace dstF
  let elems := if merge then
      (List.range nd).map fun i => if off ≤ i && i < off + m then out.getD (i - off) 0 else elem w old.data i
    else out
  modMyCore fun k => { k with srst := r.2.2 }
  wwrite wd ⟨packE w elems, tag, all.any (·.poison)⟩
  acceptW r.2.1 none
  return .next

/-! ### Reductions and scans (R176 to R178) -/

/-- The largest and smallest signed value of a width, and the all-ones element. -/
def wMaxS (w : Nat) : Int := 2 ^ (w - 1) - 1
def wMinS (w : Nat) : Int := -(2 ^ (w - 1))

/-- The identity of an integer reduction, as Combine's 64-bit value (R177). -/
def intIdent (w op : Nat) : Int :=
  match op with
  | 1 => wMaxS w | 2 => wMinS w | 3 => 2 ^ w - 1 | 5 => 2 ^ w - 1 | _ => 0

/-- An element as Combine's value: sign-extended for ADD, MIN and MAX, else zero-extended (R177). -/
def intExt (w op : Nat) (u : Bool) (x : Nat) : Int := if op ≤ 2 && !u then sg w x else x

/-- Combine on integers (R177). -/
def intComb (op : Nat) (a b : Int) : Int :=
  match op with
  | 0 => a + b
  | 1 | 3 => min a b
  | 2 | 4 => max a b
  | 5 => (a.toNat &&& b.toNat : Nat)
  | 6 => (a.toNat ||| b.toNat : Nat)
  | _ => (a.toNat ^^^ b.toNat : Nat)

/-- The identity of an FP reduction: +0, +∞, -∞ (R177). -/
def fpIdent (et : Et) (op : Nat) : Nat :=
  let sp := etSpec et
  let inf := (2 ^ sp.eb - 1) * 2 ^ sp.mb
  match op with | 1 => inf | 2 => inf + 2 ^ (sp.eb + sp.mb) | _ => 0

/-- Combine on FP elements (R177). -/
def fpComb (et : Et) (op a b : Nat) : Nat × Num.Flags :=
  match op with
  | 0 => Num.fpAdd (etSpec et) .rne 0 a b
  | 1 => Num.fpMinMax (etSpec et) false a b
  | _ => Num.fpMinMax (etSpec et) true a b

/-- One level of the tree: neighbours combined; an absent element gives way (R177). -/
def treeLevel {α : Type} (f : α → α → α × Num.Flags) : List (Option α) → List (Option α) × Num.Flags
  | a :: b :: r =>
    let t := treeLevel f r
    match a, b with
    | some x, some y => let v := f x y; (some v.1 :: t.1, v.2 ||| t.2)
    | some x, none => (some x :: t.1, t.2)
    | none, y => (y :: t.1, t.2)
  | l => (l, 0)

/-- The fixed tree of R177, `n` levels. -/
def tree {α : Type} (f : α → α → α × Num.Flags) : Nat → List (Option α) → Option α × Num.Flags
  | 0, l => (l.headD none, 0)
  | n + 1, l => let t := treeLevel f l; let r := tree f n t.1; (r.1, t.2 ||| r.2)

/-- WRED (R177). -/
def wideRed (et : Et) (ed : EReg) (wa : WReg) (k : KReg) (op : BitVec 3) (u : Bool) : M Flow := do
  let a ← wread wa
  noLeak [a]
  queueRoom
  let w := etW et
  let mask := (← mySlot).mask k
  let o := op.toNat
  if etInt et then do
    let l := (List.range (etN et)).map fun i => if lane w mask i then some (intExt w o u (elem w a.data i)) else none
    let r := tree (fun x y => (intComb o x y, 0)) 8 l
    acceptW 0 (some (ed, BitVec.ofInt 64 (r.1.getD (intIdent w o)), a.poison))
  else do
    let l := (List.range (etN et)).map fun i => if lane w mask i then some (elem w a.data i) else none
    let r := tree (fpComb et o) 8 l
    acceptW r.2 (some (ed, word (r.1.getD (fpIdent et o)), a.poison))
  return .next

/-- WSCAN (R178). -/
def wideScan (et : Et) (wd wa : WReg) (k : KReg) (kz : Bool) (op : BitVec 3) (excl : Bool) : M Flow := do
  let a ← wread wa
  let w := etW et
  let o := op.toNat
  let ident : Nat := if etInt et then (intIdent w o % 2 ^ w).toNat else fpIdent et o
  let comb (acc x : Nat) : Nat × Num.Flags :=
    if etInt et then ((intComb o (intExt w o false acc) (intExt w o false x) % 2 ^ w).toNat, 0) else fpComb et o acc x
  let (_, fl) ← wideTo et wd k kz false [a] ident fun _ i acc =>
    let r := comb acc (elem w a.data i)
    (if excl then acc else r.1, r.2, r.1)
  acceptW fl none
  return .next

/-! ### Permutes, moves and masks (R179 to R182) -/

/-- A move of elements, each chosen by its index. -/
def wideMove (et : Et) (wd : WReg) (k : KReg) (kz : Bool) (srcs : List WVal) (f : Nat → Nat) : M Flow := do
  let _ ← wideTo et wd k kz false srcs () fun _ i _ => (f i, 0, ())
  acceptW 0 none
  return .next

/-- WPERM (R179). -/
def widePerm (et : Et) (wd wa wb : WReg) (k : KReg) (kz : Bool) : M Flow := do
  let a ← wread wa
  let b ← wread wb
  let w := etW et
  wideMove et wd k kz [a, b] fun i => elem w a.data (elem w b.data i % etN et)

/-- WSLIDE (R179). -/
def wideSlide (et : Et) (wd wa wb : WReg) (g : Src) (k : KReg) (kz : Bool) : M Flow := do
  let t ← read1 g
  let a ← wread wa
  let b ← wread wb
  let w := etW et
  let n := etN et
  wideMove et wd k kz [a, b] fun i =>
    let j := i + t.toNat % 512
    if j < n then elem w a.data j else if j < 2 * n then elem w b.data (j - n) else 0

/-- WBCAST (R179). -/
def wideBcast (et : Et) (wd wa : WReg) (g : Src) (k : KReg) (kz : Bool) : M Flow := do
  let t ← read1 g
  let a ← wread wa
  wideMove et wd k kz [a] fun _ => elem (etW et) a.data (t.toNat % etN et)

/-- WZIP (R179). -/
def wideZip (et : Et) (wd wa wb : WReg) (k : KReg) (kz hi : Bool) : M Flow := do
  let a ← wread wa
  let b ← wread wb
  let w := etW et
  let h := if hi then etN et / 2 else 0
  wideMove et wd k kz [a, b] fun i => if i % 2 = 0 then elem w a.data (h + i / 2) else elem w b.data (h + i / 2)

/-- WMOVS, insert (R180). -/
def wideInsert (et : Et) (wd : WReg) (g : Src) (k : KReg) (kz : Bool) : M Flow := do
  let x ← read1 g
  wideMove et wd k kz [] fun _ => cut et x

/-- WMOVS, extract (R180). -/
def wideExtract (et : Et) (ed : EReg) (wa : WReg) (ln : BitVec 8) (sx : Bool) : M Flow := do
  let a ← wread wa
  noLeak [a]
  queueRoom
  let w := etW et
  let x := elem w a.data ln.toNat
  acceptW 0 (some (ed, if sx then BitVec.ofInt 64 (sg w x) else word x, a.poison))
  return .next

/-- WIDX (R181). -/
def wideIdx (et : Et) (wd : WReg) (g : Option Src) (k : KReg) (kz : Bool) (step : BitVec 16) : M Flow := do
  let base ← match g with
    | some g => read1 g
    | none => pure 0
  let w := etW et
  wideMove et wd k kz [] fun i => ((base.toNat + (i : Int) * step.toInt) % 2 ^ w).toNat

/-- The mask of the first `n` lanes (R182). -/
def firstLanes (n : Nat) : Word := BitVec.ofNat 64 (2 ^ min n 64 - 1)

/-- The word of a KOP (R182). -/
def kopWord : KOp → Word
  | .bin f kd ka kb => packW 0x94 0 kd.val ka.val kb.val 0 false 0 0 0 f.val
  | .inv kd ka => packW 0x94 0 kd.val ka.val 0 0 false 0 0 0 4
  | .mov kd ka => packW 0x94 0 kd.val ka.val 0 0 false 0 0 0 5
  | .set kd g => packW 0x94 0 kd.val 0 0 0 false 0 1 g.code 6
  | .popc ed ka => packW 0x94 0 0 ka.val 0 0 false 0 0 (24 + ed.val) 7
  | .first ed ka => packW 0x94 0 0 ka.val 0 0 false 0 0 (24 + ed.val) 8

/-- KOP (R182). -/
def maskOp (op : KOp) : M Flow := do
  let sl ← mySlot
  let put (kd : KReg) (v : Word) : M Flow := do
    queueRoom
    modMy fun sl => sl.setK kd v
    acceptW 0 none
    return .next
  let out (ed : EReg) (v : Nat) : M Flow := do
    queueRoom
    acceptW 0 (some (ed, word v, false))
    return .next
  match op with
  | .bin f kd ka kb =>
    let a := sl.mask ka
    let b := sl.mask kb
    put kd (match f with | 0 => a &&& b | 1 => a ||| b | 2 => a ^^^ b | 3 => a &&& ~~~b)
  | .inv kd ka => put kd (~~~(sl.mask ka))
  | .mov kd ka => put kd (sl.mask ka)
  | .set kd g => do
    let x ← read1 g
    put kd (firstLanes x.toNat)
  | .popc ed ka => out ed (Alu.popN (sl.mask ka).toNat 64)
  | .first ed ka => out ed (((List.range 64).find? fun i => (sl.mask ka).getLsbD i).getD 64)

/-- WADD (R170). -/
def execWaddReg (et : Et) (wd wa : WReg) (b : WOpnd) (k : KReg) (kz : Bool) (s : State) : Host.Outcome State Fault Refusal :=
  issueW (eW 0x80 0 et wd wa b k kz 0) (wideIntReg 0 et wd wa b k kz) s

/-- WADD with a literal (R170). -/
def execWaddLit (et : Et) (wd wa : WReg) (imm : BitVec 32) (k : KReg) (kz : Bool) (s : State) : Host.Outcome State Fault Refusal :=
  issueW (eWL 0x81 0 et wd wa imm k kz) (wideIntLit 0 et wd wa imm k kz) s

/-- WSUB (R170). -/
def execWsubReg (et : Et) (wd wa : WReg) (b : WOpnd) (k : KReg) (kz : Bool) (s : State) : Host.Outcome State Fault Refusal :=
  issueW (eW 0x80 1 et wd wa b k kz 0) (wideIntReg 1 et wd wa b k kz) s

/-- WSUB with a literal (R170). -/
def execWsubLit (et : Et) (wd wa : WReg) (imm : BitVec 32) (k : KReg) (kz : Bool) (s : State) : Host.Outcome State Fault Refusal :=
  issueW (eWL 0x81 1 et wd wa imm k kz) (wideIntLit 1 et wd wa imm k kz) s

/-- WMUL (R170). -/
def execWmulReg (et : Et) (wd wa : WReg) (b : WOpnd) (k : KReg) (kz : Bool) (s : State) : Host.Outcome State Fault Refusal :=
  issueW (eW 0x80 2 et wd wa b k kz 0) (wideIntReg 2 et wd wa b k kz) s

/-- WMUL with a literal (R170). -/
def execWmulLit (et : Et) (wd wa : WReg) (imm : BitVec 32) (k : KReg) (kz : Bool) (s : State) : Host.Outcome State Fault Refusal :=
  issueW (eWL 0x81 2 et wd wa imm k kz) (wideIntLit 2 et wd wa imm k kz) s

/-- WMIN (R170). -/
def execWminReg (et : Et) (wd wa : WReg) (b : WOpnd) (k : KReg) (kz : Bool) (s : State) : Host.Outcome State Fault Refusal :=
  issueW (eW 0x80 3 et wd wa b k kz 0) (wideIntReg 3 et wd wa b k kz) s

/-- WMIN with a literal (R170). -/
def execWminLit (et : Et) (wd wa : WReg) (imm : BitVec 32) (k : KReg) (kz : Bool) (s : State) : Host.Outcome State Fault Refusal :=
  issueW (eWL 0x81 3 et wd wa imm k kz) (wideIntLit 3 et wd wa imm k kz) s

/-- WMAX (R170). -/
def execWmaxReg (et : Et) (wd wa : WReg) (b : WOpnd) (k : KReg) (kz : Bool) (s : State) : Host.Outcome State Fault Refusal :=
  issueW (eW 0x80 4 et wd wa b k kz 0) (wideIntReg 4 et wd wa b k kz) s

/-- WMAX with a literal (R170). -/
def execWmaxLit (et : Et) (wd wa : WReg) (imm : BitVec 32) (k : KReg) (kz : Bool) (s : State) : Host.Outcome State Fault Refusal :=
  issueW (eWL 0x81 4 et wd wa imm k kz) (wideIntLit 4 et wd wa imm k kz) s

/-- WMINU (R170). -/
def execWminuReg (et : Et) (wd wa : WReg) (b : WOpnd) (k : KReg) (kz : Bool) (s : State) : Host.Outcome State Fault Refusal :=
  issueW (eW 0x80 5 et wd wa b k kz 0) (wideIntReg 5 et wd wa b k kz) s

/-- WMINU with a literal (R170). -/
def execWminuLit (et : Et) (wd wa : WReg) (imm : BitVec 32) (k : KReg) (kz : Bool) (s : State) : Host.Outcome State Fault Refusal :=
  issueW (eWL 0x81 5 et wd wa imm k kz) (wideIntLit 5 et wd wa imm k kz) s

/-- WMAXU (R170). -/
def execWmaxuReg (et : Et) (wd wa : WReg) (b : WOpnd) (k : KReg) (kz : Bool) (s : State) : Host.Outcome State Fault Refusal :=
  issueW (eW 0x80 6 et wd wa b k kz 0) (wideIntReg 6 et wd wa b k kz) s

/-- WMAXU with a literal (R170). -/
def execWmaxuLit (et : Et) (wd wa : WReg) (imm : BitVec 32) (k : KReg) (kz : Bool) (s : State) : Host.Outcome State Fault Refusal :=
  issueW (eWL 0x81 6 et wd wa imm k kz) (wideIntLit 6 et wd wa imm k kz) s

/-- WAND (R170). -/
def execWandReg (et : Et) (wd wa : WReg) (b : WOpnd) (k : KReg) (kz : Bool) (s : State) : Host.Outcome State Fault Refusal :=
  issueW (eW 0x80 7 et wd wa b k kz 0) (wideIntReg 7 et wd wa b k kz) s

/-- WAND with a literal (R170). -/
def execWandLit (et : Et) (wd wa : WReg) (imm : BitVec 32) (k : KReg) (kz : Bool) (s : State) : Host.Outcome State Fault Refusal :=
  issueW (eWL 0x81 7 et wd wa imm k kz) (wideIntLit 7 et wd wa imm k kz) s

/-- WOR (R170). -/
def execWorReg (et : Et) (wd wa : WReg) (b : WOpnd) (k : KReg) (kz : Bool) (s : State) : Host.Outcome State Fault Refusal :=
  issueW (eW 0x80 8 et wd wa b k kz 0) (wideIntReg 8 et wd wa b k kz) s

/-- WOR with a literal (R170). -/
def execWorLit (et : Et) (wd wa : WReg) (imm : BitVec 32) (k : KReg) (kz : Bool) (s : State) : Host.Outcome State Fault Refusal :=
  issueW (eWL 0x81 8 et wd wa imm k kz) (wideIntLit 8 et wd wa imm k kz) s

/-- WXOR (R170). -/
def execWxorReg (et : Et) (wd wa : WReg) (b : WOpnd) (k : KReg) (kz : Bool) (s : State) : Host.Outcome State Fault Refusal :=
  issueW (eW 0x80 9 et wd wa b k kz 0) (wideIntReg 9 et wd wa b k kz) s

/-- WXOR with a literal (R170). -/
def execWxorLit (et : Et) (wd wa : WReg) (imm : BitVec 32) (k : KReg) (kz : Bool) (s : State) : Host.Outcome State Fault Refusal :=
  issueW (eWL 0x81 9 et wd wa imm k kz) (wideIntLit 9 et wd wa imm k kz) s

/-- WSHL (R170). -/
def execWshlReg (et : Et) (wd wa : WReg) (b : WOpnd) (k : KReg) (kz : Bool) (s : State) : Host.Outcome State Fault Refusal :=
  issueW (eW 0x80 10 et wd wa b k kz 0) (wideIntReg 10 et wd wa b k kz) s

/-- WSHL with a literal (R170). -/
def execWshlLit (et : Et) (wd wa : WReg) (imm : BitVec 32) (k : KReg) (kz : Bool) (s : State) : Host.Outcome State Fault Refusal :=
  issueW (eWL 0x81 10 et wd wa imm k kz) (wideIntLit 10 et wd wa imm k kz) s

/-- WSHR (R170). -/
def execWshrReg (et : Et) (wd wa : WReg) (b : WOpnd) (k : KReg) (kz : Bool) (s : State) : Host.Outcome State Fault Refusal :=
  issueW (eW 0x80 11 et wd wa b k kz 0) (wideIntReg 11 et wd wa b k kz) s

/-- WSHR with a literal (R170). -/
def execWshrLit (et : Et) (wd wa : WReg) (imm : BitVec 32) (k : KReg) (kz : Bool) (s : State) : Host.Outcome State Fault Refusal :=
  issueW (eWL 0x81 11 et wd wa imm k kz) (wideIntLit 11 et wd wa imm k kz) s

/-- WSAR (R170). -/
def execWsarReg (et : Et) (wd wa : WReg) (b : WOpnd) (k : KReg) (kz : Bool) (s : State) : Host.Outcome State Fault Refusal :=
  issueW (eW 0x80 12 et wd wa b k kz 0) (wideIntReg 12 et wd wa b k kz) s

/-- WSAR with a literal (R170). -/
def execWsarLit (et : Et) (wd wa : WReg) (imm : BitVec 32) (k : KReg) (kz : Bool) (s : State) : Host.Outcome State Fault Refusal :=
  issueW (eWL 0x81 12 et wd wa imm k kz) (wideIntLit 12 et wd wa imm k kz) s

/-- WFSHL (R170). -/
def execWfshlReg (et : Et) (wd wa : WReg) (b : WOpnd) (k : KReg) (kz : Bool) (s : State) : Host.Outcome State Fault Refusal :=
  issueW (eW 0x80 13 et wd wa b k kz 0) (wideIntReg 13 et wd wa b k kz) s

/-- WFSHL with a literal (R170). -/
def execWfshlLit (et : Et) (wd wa : WReg) (imm : BitVec 32) (k : KReg) (kz : Bool) (s : State) : Host.Outcome State Fault Refusal :=
  issueW (eWL 0x81 13 et wd wa imm k kz) (wideIntLit 13 et wd wa imm k kz) s

/-- WFSHR (R170). -/
def execWfshrReg (et : Et) (wd wa : WReg) (b : WOpnd) (k : KReg) (kz : Bool) (s : State) : Host.Outcome State Fault Refusal :=
  issueW (eW 0x80 14 et wd wa b k kz 0) (wideIntReg 14 et wd wa b k kz) s

/-- WFSHR with a literal (R170). -/
def execWfshrLit (et : Et) (wd wa : WReg) (imm : BitVec 32) (k : KReg) (kz : Bool) (s : State) : Host.Outcome State Fault Refusal :=
  issueW (eWL 0x81 14 et wd wa imm k kz) (wideIntLit 14 et wd wa imm k kz) s

end Sys2Proof.Machine
end

