-- ==== Sys2Proof/Machine/WideMem.lean ====
section
/-! DEFINITION. Wide loads and stores, furled memory and FBIND (R183 to R188, R210 to R225). -/

namespace Sys2Proof.Machine

/-! ### Wide loads and stores (R183 to R188) -/

/-- The runs of covered bytes below `n`: first byte and length, in ascending order (R184). -/
def runs (cov : Nat → Bool) (n : Nat) : List (Nat × Nat) :=
  ((List.range n).foldl (fun (l : List (Nat × Nat)) j =>
    if cov j then (match l with
      | (o, m) :: r => if o + m = j then (o, m + 1) :: r else (j, 1) :: l
      | [] => [(j, 1)]) else l) []).reverse

/-- The pieces of the runs of an access from `ea`. -/
def runSegs (spc : Bool) (ea : Word) (acc : Acc) : List (Nat × Nat) → M (List (Nat × List Seg))
  | [] => pure []
  | (o, n) :: r => do
    let gs ← resolve spc (ea + word o) n acc
    let rest ← runSegs spc ea acc r
    return (o, gs) :: rest

/-- The bytes of the runs, each with its place and its word's poison. -/
def runRead : List (Nat × List Seg) → M (List (Nat × Byte × Bool))
  | [] => pure []
  | (o, gs) :: r => do
    let b ← readBulk gs
    let rest ← runRead r
    return (b.zipIdx.map fun x => (o + x.2, x.1.1, x.1.2)) ++ rest

/-- Which bytes of a register a mask covers. -/
def covers (sl : Slot) (k : KReg) (j : Nat) : Bool := (sl.mask k).getLsbD (j / 4)

/-- The bytes of a wide register with some replaced. -/
def patch (old : WideBits) (kz : Bool) (new : List (Nat × Byte × Bool)) : WideBits :=
  packE 8 ((List.range 256).map fun j => match new.find? fun x => x.1 = j with
    | some x => x.2.1.toNat
    | none => if kz then 0 else elem 8 old j)

/-- WLD (R184). -/
def wideLoad (wd : WReg) (ea : Word) (k : KReg) (kz spc : Bool) : M Flow := do
  let sl ← mySlot
  let old ← wread wd
  let merge := !kz && k ≠ 0
  let rs ← runSegs spc ea accBulkRd (runs (covers sl k) 256)
  queueRoom
  let b ← runRead rs
  wwrite wd ⟨patch old.data kz b, if merge then old.tag else none, (merge && old.poison) || b.any (·.2.2)⟩
  acceptW 0 none
  return .next

/-- Runs of a register's bytes put into the store buffer. -/
def runStore (x : WVal) (rel : Bool) : List (Nat × List Seg) → M Unit
  | [] => pure ()
  | (o, gs) :: r => do
    let n := gs.foldl (fun n g => n + g.n) 0
    storeBulk ((List.range n).map fun j => some (BitVec.ofNat 8 (elem 8 x.data (o + j)))) x.poison rel none gs
    runStore x rel r

/-- WST (R184): the bytes of enabled lanes, with BM only those whose byte of WB has bit 7 set. -/
def wideStore (wa : WReg) (bm : Option WReg) (ea : Word) (k : KReg) (spc rel : Bool) : M Flow := do
  let sl ← mySlot
  let x ← wread wa
  let (m, cov) ← match bm with
    | some r => do let v ← wread r; pure ([v], fun j => covers sl k j && (elem 8 v.data j).testBit 7)
    | none => pure ([], covers sl k)
  noLeak (x :: m)
  let rs ← runSegs spc ea accBulkWr (runs cov 256)
  queueRoom
  bulkRoom
  runStore { x with poison := (x :: m).any (·.poison) } rel rs
  acceptW 0 none
  return .next

/-- The addresses of the enabled lanes of a gather or scatter, in ascending order (R185). -/
def laneAddrs (sl : Slot) (k : KReg) (base : Word) (idx : WideBits) (scale : BitVec 3) : List (Nat × Word) :=
  (List.range 64).filterMap fun i => if (sl.mask k).getLsbD i then
    some (i, base + (BitVec.ofNat 32 (elem 32 idx i)).signExtend 64 <<< scale.toNat) else none

/-- The pieces of the lanes of a gather or scatter. -/
def laneSegs (spc : Bool) (acc : Acc) : List (Nat × Word) → M (List (Nat × List Seg))
  | [] => pure []
  | (i, a) :: r => do
    raiseIf (a.toNat % 4 ≠ 0) .align a
    let gs ← resolve spc a 4 acc
    let rest ← laneSegs spc acc r
    return (4 * i, gs) :: rest

/-- WGATH (R185). -/
def gather (wd wa : WReg) (g : GReg) (k : KReg) (kz : Bool) (m : Mode) (scale : BitVec 3) : M Flow := do
  let sl ← mySlot
  let ix ← wread wa
  let old ← wread wd
  noLeak [ix]
  let merge := !kz && k ≠ 0
  let rs ← laneSegs m.spc accBulkRd (laneAddrs sl k (sl.g.get g) ix.data scale)
  queueRoom
  let b ← runRead rs
  wwrite wd ⟨patch old.data kz b, if merge then old.tag else none, ix.poison || (merge && old.poison) || b.any (·.2.2)⟩
  acceptW 0 none
  return .next

/-- WSCAT (R185). -/
def scatter (wa wb : WReg) (g : GReg) (k : KReg) (m : Mode) (scale : BitVec 3) : M Flow := do
  let sl ← mySlot
  let x ← wread wa
  let ix ← wread wb
  noLeak [x, ix]
  let rs ← laneSegs m.spc accBulkWr (laneAddrs sl k (sl.g.get g) ix.data scale)
  queueRoom
  bulkRoom
  runStore { x with poison := x.poison || ix.poison } m.ord rs
  acceptW 0 none
  return .next

/-- The pieces of a spill slot (R116). -/
def spillSegs (k : Fin 16) (acc : Acc) : M (List Seg) := do
  let sl ← mySlot
  let c ← myCore
  if k.val < sl.spillN.toNat then
    let off := stkTop sl + 256 * k.val
    return [⟨word off, windowPa c off, 256, .normal, 0, false⟩]
  else
    let va := word (ovSeg sl + 256 * (k.val - sl.spillN.toNat))
    raiseIf (decide (ovLen sl < (16 - sl.spillN.toNat) * 256)) .stackOvf va
    resolve true va 256 acc

/-- WSPILL (R187). -/
def wideSpill (wa : WReg) (k : Fin 16) : M Flow := do
  let x ← wread wa
  noLeak [x]
  let gs ← spillSegs k accBulkWr
  queueRoom
  bulkRoom
  runStore x false [(0, gs)]
  let sl ← mySlot
  let q := quadOf (← myCore)
  match sl.w.get wa with
  | .unmapped => pure ()
  | .priv p => modify fun s => dropPreg s q p
  | .shared p => modify fun s => dropPreg s q p
  modMy fun sl => { sl with w := sl.w.set wa.val .unmapped wa.isLt }
  acceptW 0 none
  return .next

/-- WFILL (R187): the register becomes private, whatever it was. -/
def wideFill (wd : WReg) (k : Fin 16) : M Flow := do
  let gs ← spillSegs k accBulkRd
  queueRoom
  let b ← runRead [(0, gs)]
  wwrite wd ⟨patch 0 true b, none, b.any (·.2.2)⟩
  acceptW 0 none
  return .next

/-- DTLD (R85 to R87, R188). -/
def loadTable (t : Fin 4) (g : Src) (spc : Bool) (rpt : Option EReg) : M Flow := do
  let base ← read1 g
  raiseIf (base.toNat % 4 ≠ 0) .align base
  let gs ← resolve spc base 1024 accBulkRd
  queueRoom
  let b ← readBulk gs
  let entry (c : Nat) : BitVec 19 :=
    let w := (b.drop (4 * c)).take 4
    if w.any (·.2) then 0x3FE00 else BitVec.ofNat 19 (Alu.natOf (w.map (·.1)))
  let entries := (List.range 256).map entry
  let status : BitVec 3 := if b.any (·.2) then 4 else Num.tabStatus entries
  modMyCore fun k => { k with dt := k.dt.set t.val ⟨entries, status⟩ t.isLt }
  acceptW 0 (rpt.map fun e => (e, status.setWidth 64, false))
  return .next

/-! ### Furled memory (R210 to R225) -/

/-- Whether a task may use a key (R218, R219, R302). -/
def bound (s : State) (sl : Slot) (k : Nat) : Bool :=
  sl.bind.getLsbD k && !sl.up && (keyAt s k).st = .loaded && decide ((keyAt s k).ctx = sl.ctx)

/-- The key of the range that a piece lies in, and the virtual address of its granule by the range (R215). -/
def Seg.ranged (s : State) (g : Seg) : Option (Nat × Nat) :=
  match rangeAt s g.pa g.n, ownerOf s.hdm g.pa with
  | some r, .slice _ off => some (r.key, (r.vb + word (off - r.lb)).toNat)
  | _, _ => none

/-- The key of a piece and the virtual address that its granule is encrypted under (R210, R215). -/
def furlOf (s : State) (g : Seg) : Option (Nat × Nat) := if g.mt = .furled then some (g.key, g.va.toNat) else g.ranged s

/-- Every key and address under which a piece is checked: those of its page, and in addition those of its range (R215, R219). -/
def furlKeys (s : State) (g : Seg) : List (Nat × Nat) :=
  (furlOf s g).toList ++ if g.mt = .furled then (g.ranged s).toList.filter fun x => x ≠ (g.key, g.va.toNat) else []

/-- The checks of a decrypting path or SEALST on a piece: bindings, then formats and windows (R214, R219, R224, R225). -/
def furlChecks (ea : Word) (fmt : KeySlot → Bool) (ks : List (Nat × Nat)) (n : Nat) : M Unit := do
  let s ← get
  let sl ← mySlot
  raiseIf (ks.any fun x => !bound s sl x.1) .furlKey ea
  raiseIf (ks.any fun x => !fmt (keyAt s x.1) || !(keyAt s x.1).inWindow x.2 n) .furlPolicy ea

/-- The physical address of a granule's tag (R211). -/
def tagPa (k : KeySlot) (v : Nat) : Nat := k.tagBase + 16 * ((v - k.pol 1) / 256)

/-- The pieces of an access that may reach furled memory; what reads past program data is refused (R117). -/
def resolveAny (spc : Bool) (ea : Word) (n : Nat) (acc : Acc) : M (List Seg) := do
  let gs ← resolveRaw spc ea n acc
  let s ← get
  match gs.find? fun g => acc.rd && g.pastQ s with
  | some g => raiseAt .xlPerm (g.pastVa s)
  | none => return gs

/-- A granule as a decrypting path finds it (R220): a poisoned word gives POISON, whatever the tag. -/
inductive Granule where
  | clear (pt : List Nat)
  | poisoned (pt : List Nat)
  | badTag
deriving DecidableEq, Repr

/-- A granule decrypted from its ciphertext, the poison of its words and its tag (R210, R211, R220). -/
def decryptGranule (k : KeySlot) (v : Nat) (ct : List Byte) (pois : Bool) (tag : List Byte) : Granule :=
  let c := ct.map (·.toNat)
  if pois then .poisoned (Crypto.xts false k.xts (v / 256) c)
  else if Crypto.gmac k.tagKey v c ≠ tag.map (·.toNat) then .badTag
  else .clear (Crypto.xts false k.xts (v / 256) c)

/-- The granule at a piece of 256 bytes read as one update (R212). Where the piece lies in a range besides its furled page, the owner's check
of the range's tag applies as well (R215, R220). -/
def readGranule (g : Seg) (ky v : Nat) : M Granule := do
  let b ← readBulk [g]
  let s ← get
  let k := coreOf s s.cur
  let find (x : Nat × Nat) : Granule :=
    let pa := tagPa (keyAt s x.1) x.2
    decryptGranule (keyAt s x.1) x.2 (b.map (·.1)) (b.any (·.2) || fwdAny s k pa 16) (fwdBytes s k pa 16)
  return if ((furlKeys s g).filter fun x => x ≠ (ky, v)).any fun x => find x = .badTag then .badTag else find (ky, v)

/-- A granule encrypted and tagged: the bytes of one update (R210 to R212). -/
def sealedBytes (k : KeySlot) (v pa : Nat) (pt : List Nat) : List (Nat × Byte) :=
  let ct := Crypto.xts true k.xts (v / 256) pt
  (ct.zipIdx.map fun b => (pa + b.2, BitVec.ofNat 8 b.1)) ++
    ((Crypto.gmac k.tagKey v ct).zipIdx.map fun b => (tagPa k v + b.2, BitVec.ofNat 8 b.1))

/-- Whether a policy permits the format that an element type stands for (R224). -/
def etPermitted (k : KeySlot) : Et → Bool
  | .i8 => [0x05, 0x06, 0x07, 0x08, 0x09, 0x0A, 0x0B, 0x0C, 0x0D, 0x10, 0x11, 0x12, 0x18, 0x19, 0x1A, 0x1B].any k.fmtOk
  | .i32 => k.fmtOk 0x0E
  | .f32 => k.fmtOk 0x00
  | .bf16 => k.fmtOk 0x01
  | .f16 => k.fmtOk 0x02
  | .i16 => false

/-- WLDF (R224). -/
def wideDecrypt (et : Et) (wd : WReg) (g : GReg) (k : KReg) (kz : Bool) (m : Mode) (ofs : BitVec 20) : M Flow := do
  let sl ← mySlot
  let ea := sl.g.get g + ofs.signExtend 64
  let gs ← resolveAny m.spc ea 256 accBulkRd
  let s ← get
  if !gs.any (fun g => g.furled s) then do
    let f ← wideLoad wd ea k kz m.spc
    wwrite wd { (← wread wd) with tag := none }
    return f
  else if !gs.all (fun g => g.allFurled s) then raiseAt .furlRead ea
  else do
    raiseIf (ea.toNat % 256 ≠ 0) .align ea
    match gs with
    | [seg] =>
      match furlOf s seg with
      | none => raiseAt .furlRead ea
      | some (ky, v) => do
        furlChecks ea (etPermitted · et) (furlKeys s seg) 256
        let old ← wread wd
        let merge := !kz && k ≠ 0
        raiseIf (merge && old.tag.any fun t => t.val ≠ ky) .furlMix
        queueRoom
        let gr ← readGranule seg ky v
        let tag : Option (Fin 64) := some (Fin.ofNat 64 ky)
        let put (pt : List Nat) (pois : Bool) : M Unit := do
          let new := (List.range 256).filterMap fun j => if covers sl k j then some (j, BitVec.ofNat 8 (pt.getD j 0), false) else none
          wwrite wd ⟨patch old.data kz new, tag, pois⟩
          acceptW 0 none
          keyed [(ky, seg.mt ≠ .furled)]
        match gr with
        | .clear pt => put pt (merge && old.poison)
        | .poisoned pt => put pt true
        | .badTag => do
          wwrite wd ⟨0, tag, true⟩
          accept false 0 none (some ({ code := .furlTag, info := word v }, sl.pc)) none
        return .next
    | _ => raiseAt .furlRead ea

/-- SEALST (R225). -/
def wideSeal (wa : WReg) (g : GReg) (m : Mode) (ofs : BitVec 20) : M Flow := do
  let sl ← mySlot
  let ea := sl.g.get g + ofs.signExtend 64
  let x ← wread wa
  let gs ← resolveAny m.spc ea 256 accBulkWr
  let s ← get
  if !gs.any (fun g => g.furled s) then wideStore wa none ea 0 m.spc m.ord
  else if !gs.all (fun g => g.allFurled s) then raiseAt .furlWrite ea
  else do
    raiseIf (ea.toNat % 256 ≠ 0) .align ea
    match gs with
    | [seg] =>
      match furlOf s seg with
      | none => raiseAt .furlWrite ea
      | some (ky, v) => do
        furlChecks ea (fun _ => true) (furlKeys s seg) 256
        raiseIf (x.tag.any fun t => t.val ≠ ky) .furlMix
        queueRoom
        bulkRoom
        if seg.pastQ s then refuseStore ea
        else do
          let bytes := sealedBytes (keyAt s ky) v seg.pa ((List.range 256).map (elem 8 x.data))
          let ps := if x.poison then (List.range 32).map fun j => seg.pa / 8 + j else []
          modify fun s => addEnt s s.cur fun id =>
            { StoreEnt.plain id (actOf s s.cur) (senderOf s s.cur (actOf s s.cur)) ea bytes with poison := ps, rel := m.ord }
        acceptW 0 none
        keyed [(ky, false)]
        return .next
    | _ => raiseAt .furlWrite ea

/-! ### FBIND (R215 to R218) -/

/-- The pages of a range translated in order, at most `f` of them: each must be furled under the key, and lie in its window (R217). -/
def rangePages (ky : Nat) : Nat → Word → Nat → M (List Seg)
  | 0, _, _ => pure []
  | f + 1, va, n => do
    if n = 0 then return []
    let e ← lookup va
    let s ← get
    raiseIf (e.mt ≠ .furled || e.key ≠ ky || !(keyAt s ky).inWindow (va57 va / 2 ^ pageBits e.size * 2 ^ pageBits e.size + (va.toNat - va57 va))
      (2 ^ pageBits e.size)) .furlPolicy va
    let m := min n (4096 - va.toNat % 4096)
    let rest ← rangePages ky f (va + word m) (n - m)
    return ⟨va, e.pa va, m, e.mt, e.key, true⟩ :: rest

/-- Where the pages of a range lie: in one piece of the own slice, below its program data's limit (R217). -/
def rangePlace (vb n c : Nat) (gs : List Seg) (s : State) : Option Nat :=
  match gs with
  | [] => none
  | g0 :: _ =>
    match ownerOf s.hdm g0.pa with
    | .slice o lb =>
      let ok := gs.all fun g => match ownerOf s.hdm g.pa with
        | .slice o' off => decide (o' = c) && decide (off = lb + (g.va.toNat - vb))
        | _ => false
      if o = c && ok && decide (lb + n ≤ qbaseOf s c) then some lb else none
    | _ => none

/-- The checks that FBIND makes of a key (R217). -/
def bindChecks (k : Nat) : M Unit := do
  let s ← get
  let sl ← mySlot
  let key := keyAt s k
  raiseIf (key.st ≠ .loaded) .furlKey
  raiseIf (decide (key.ctx ≠ sl.ctx) || !key.lists sl.meas || sl.up) .furlPolicy

/-- FBIND with OPR 0. -/
def bindTask (a : GReg) : M Flow := do
  let x ← readG a
  raiseIf (decide (64 ≤ x.toNat)) .illField
  bindChecks x.toNat
  modMy fun sl => { sl with bind := sl.bind ||| BitVec.ofNat 64 (2 ^ x.toNat) }
  return .next

/-- FBIND with OPR 1. -/
def bindRange (a b c : GReg) : M Flow := do
  let x ← readG a
  let vb ← readG b
  let n ← readG c
  raiseIf (decide (64 ≤ x.toNat)) .illField
  bindChecks x.toNat
  raiseIf (vb.toNat % 256 ≠ 0 || n.toNat % 256 ≠ 0 || n = 0 || decide (0x10000 < n.toNat)) .align vb
  let gs ← rangePages x.toNat (n.toNat / 4096 + 2) vb n.toNat
  let s ← get
  let me := s.cur
  match rangePlace vb.toNat n.toNat me gs s with
  | none => raiseAt .furlPolicy vb
  | some lb => do
    let old := (coreOf s me).furl
    raiseIf (decide (4 ≤ old.length) || old.any fun r => decide (lb < r.lb + r.len) && decide (r.lb < lb + n.toNat)) .illField
    modMyCore fun k => { k with furl := k.furl ++ [⟨x.toNat, lb, n.toNat, vb⟩] }
    modMy fun sl => { sl with bind := sl.bind ||| BitVec.ofNat 64 (2 ^ x.toNat) }
    return .next

/-- FBIND with OPR 2: it waits for the accepted instructions that read a range of the slot (log entry 5). -/
def bindDrop (a : GReg) : M Flow := do
  let x ← readG a
  raiseIf (decide (64 ≤ x.toNat)) .illField
  let s ← get
  if (coreOf s s.cur).dq.any fun r => r.keys.contains (x.toNat, true) then waitOn .retireCore
  modMyCore fun k => { k with furl := k.furl.filter fun r => r.key ≠ x.toNat }
  return .next

/-- WLD (R183, R184). -/
def execWldReg (wd : WReg) (g : GReg) (k : KReg) (kz : Bool) (m : Mode) (ofs : BitVec 20) (s : State) : Host.Outcome State Fault Refusal :=
  issueW (packW 0xA0 0 wd.val 0 0 k.val kz 0 0 g.val (m.modW + ofs.toNat)) (do
    let b ← readG g
    wideLoad wd (b + ofs.signExtend 64) k kz m.spc) s

/-- WLD at a local offset (R183, R184). -/
def execWldLit (wd : WReg) (k : KReg) (kz : Bool) (imm : BitVec 32) (s : State) : Host.Outcome State Fault Refusal :=
  issueW (packWL 0xA1 0 wd.val 0 k.val kz 0 imm.toNat) (wideLoad wd (Alu.sx imm) k kz false) s

/-- WST (R183, R184). -/
def execWstReg (wa : WReg) (bm : Option WReg) (g : GReg) (k : KReg) (m : Mode) (ofs : BitVec 20) (s : State) : Host.Outcome State Fault Refusal :=
  issueW (packW 0xA2 0 0 wa.val (match bm with | some x => x.val | none => 0) k.val false 0 0 g.val (m.modW + bm.isSome.toNat * 2 ^ 20 + ofs.toNat)) (do
    let b ← readG g
    wideStore wa bm (b + ofs.signExtend 64) k m.spc m.ord) s

/-- WST at a local offset (R183, R184). -/
def execWstLit (wa : WReg) (k : KReg) (imm : BitVec 32) (s : State) : Host.Outcome State Fault Refusal :=
  issueW (packWL 0xA3 0 0 wa.val k.val false 0 imm.toNat) (wideStore wa none (Alu.sx imm) k false false) s

/-- WGATH (R185). -/
def execWgath (et : Et) (wd wa : WReg) (g : GReg) (k : KReg) (kz : Bool) (m : Mode) (scale : BitVec 3) (s : State) : Host.Outcome State Fault Refusal :=
  issueW (packW 0xA4 0 wd.val wa.val 0 k.val kz et.code 0 g.val (m.modW + scale.toNat * 2 ^ 18)) (gather wd wa g k kz m scale) s

/-- WSCAT (R185). -/
def execWscat (et : Et) (wa wb : WReg) (g : GReg) (k : KReg) (m : Mode) (scale : BitVec 3) (s : State) : Host.Outcome State Fault Refusal :=
  issueW (packW 0xA6 0 0 wa.val wb.val k.val false et.code 0 g.val (m.modW + scale.toNat * 2 ^ 18)) (scatter wa wb g k m scale) s

/-- WLDF (R224). -/
def execWldf (et : Et) (wd : WReg) (g : GReg) (k : KReg) (kz : Bool) (m : Mode) (ofs : BitVec 20) (s : State) : Host.Outcome State Fault Refusal :=
  issueW (packW 0xA8 0 wd.val 0 0 k.val kz et.code 0 g.val (m.modW + ofs.toNat)) (wideDecrypt et wd g k kz m ofs) s

/-- SEALST (R225). -/
def execSealst (wa : WReg) (g : GReg) (m : Mode) (ofs : BitVec 20) (s : State) : Host.Outcome State Fault Refusal :=
  issueW (packW 0xAA 0 0 wa.val 0 0 false 0 0 g.val (m.modW + ofs.toNat)) (wideSeal wa g m ofs) s

/-- WSPILL (R187). -/
def execWspill (wa : WReg) (slot : Fin 16) (s : State) : Host.Outcome State Fault Refusal :=
  issueW (packW 0xAC 0 0 wa.val 0 0 false 0 0 0 slot.val) (wideSpill wa slot) s

/-- WFILL (R187). -/
def execWfill (wd : WReg) (slot : Fin 16) (s : State) : Host.Outcome State Fault Refusal :=
  issueW (packW 0xAC 1 wd.val 0 0 0 false 0 0 0 slot.val) (wideFill wd slot) s

/-- DTLD (R188). -/
def execDtld (t : Fin 4) (g : Src) (spc : Bool) (rpt : Option EReg) (s : State) : Host.Outcome State Fault Refusal :=
  issueW (packW 0xAE 0 t.val 0 0 0 false 0 0 g.code (spc.toNat * 2 ^ 23 + rpt.isSome.toNat * 2 ^ 22 + (match rpt with | some r => r.val | none => 0) * 2 ^ 19)) (loadTable t g spc rpt) s

/-- FBIND (R216, R217). -/
def execFbind (a : GReg) (s : State) : Host.Outcome State Fault Refusal :=
  issueW (packR 0xC6 0 0 a.val 0 0 0 0) (bindTask a) s

/-- FBIND.range (R216, R217). -/
def execFbindRange (a b c : GReg) (s : State) : Host.Outcome State Fault Refusal :=
  issueW (packR 0xC6 0 0 a.val b.val 0 c.val 1) (bindRange a b c) s

/-- FBIND.drop (R216, R217). -/
def execFbindDrop (a : GReg) (s : State) : Host.Outcome State Fault Refusal :=
  issueW (packR 0xC6 0 0 a.val 0 0 0 2) (bindDrop a) s

end Sys2Proof.Machine
end

