-- ==== Sys2Proof/Machine/Units.lean ====
section
/-! DEFINITION. How the units that translate for themselves reach memory: copy engines, Halyard engines and Bunting units (R104, R107,
R117, R147). -/

namespace Sys2Proof.Machine

/-- Why a unit stops: a walk it has to wait for, or the status that ends what it does, with word 1 and the virtual address. -/
inductive UStop where
  | walk (f : State → State)
  | fault (st : Nat) (w1 va : Word)

/-- What a unit does between two waits. -/
abbrev U := StateT State (Except UStop)

/-- A fault of a unit at an address. -/
def uFault {α : Type} (st : Nat) (va : Word) : U α := fun _ => .error (.fault st va va)

/-- A fault of a unit where a condition holds. -/
def uFaultIf (b : Bool) (c : Code) (va : Word) : U Unit := if b then uFault c.num va else pure ()

/-- A unit as it translates: its TLB, the number its walks carry, its die, the address space (log entry 18). -/
structure UnitId where
  tlb : Nat
  wid : Nat
  die : Nat
  space : Nat
deriving DecidableEq, Repr

/-- The number under which a die's units ask its service cores. -/
def UnitId.quad (u : UnitId) : Nat := 1536 + 2 * u.die

/-- What a walk of the unit answered. -/
def unitAnswer (s : State) (u : UnitId) (key : Nat) : Option WalkAns := nget ((nget s.unitAns u.wid).getD []) key

/-- The entry of an address for a unit (R107): an answer of its walk, its TLB, or a walk. -/
def uLookup (u : UnitId) (va : Word) : U TlbEntry := do
  let s ← get
  if !canonical va then uFault Code.xlAddr.num va
  else
    let a := va57 va
    match unitAnswer s u (a / 4096 * 2) with
    | some (.retry ck) => fun _ => .error (.fault Code.xlMiss.num (word ck) va)
    | some .terminal => uFault Code.xlPerm.num va
    | some (.entry e) => do
      set { s with unitTlb := nset s.unitTlb u.tlb (tlbInsert 512 (Config.victim s.tick) ((nget s.unitTlb u.tlb).getD []) e), tick := s.tick + 1 }
      return e
    | _ =>
      match ((nget s.unitTlb u.tlb).getD []).find? fun e => e.hits u.space a with
      | some e => return e
      | none => fun _ => .error (.walk fun s => addWalk s u.quad u.space a false (.unit u.wid))

/-- An address translated and checked for a unit (R104, R107). -/
def uXlate (u : UnitId) (acc : Acc) (va : Word) : U TlbEntry := do
  let e ← uLookup u va
  let s ← get
  let a := va57 va
  if e.mt = .io || (acc.rd && !e.r) then uFault Code.xlPerm.num va
  else if acc.wr && e.cw then
    match unitAnswer s u (a / 4096 * 2 + 1) with
    | some (.retry ck) => fun _ => .error (.fault Code.xlMiss.num (word ck) va)
    | some .terminal => uFault Code.xlPerm.num va
    | _ => fun _ => .error (.walk fun s => addWalk s u.quad u.space a true (.unit u.wid))
  else if acc.wr && !e.w then uFault Code.xlPerm.num va
  else return e

/-- What a unit does at a slice takes its turn there as a built-in handler's access would, and comes after what is buffered for it (R69, R241,
R242; log entry 6); what the access finds of bit errors is counted (R71, R74). -/
def uIdle (pa n : Nat) : U Unit := do
  let s ← get
  if !sliceIdle s pa n then (fun _ => .error (.walk id) : U Unit)
  set (eccTouch s pa n)

/-- A piece of an access by a unit, within one page. `role` is the status of a furled page there; none for FURLMOVE, which takes no
other (R117, R146, R147). -/
def uSeg (u : UnitId) (acc : Acc) (role : Option Code) (va : Word) (n : Nat) : U Seg := do
  let e ← uXlate u acc va
  let s ← get
  let pa := e.pa va
  uFaultIf (inTagRegion s pa n) .xlPerm va
  uFaultIf (!populated s pa n) .xlAddr va
  let g : Seg := ⟨va, pa, n, e.mt, e.key, true⟩
  match role with
  | some c => uFaultIf (g.furled s) c va
  | none => uFaultIf (e.mt ≠ .furled) .furlCopy va
  uFaultIf (g.pastQ s) .xlPerm va
  uFaultIf (isCounter s pa) .xlPerm va
  uIdle pa n
  return g

/-- The pieces of an access by a unit, at most `f` pages. -/
def uSegs (u : UnitId) (acc : Acc) (role : Option Code) : Nat → Word → Nat → U (List Seg)
  | 0, _, _ => pure []
  | f + 1, va, n => do
    if n = 0 then return []
    let m := min n (4096 - va.toNat % 4096)
    let g ← uSeg u acc role va m
    let rest ← uSegs u acc role f (va + word m) (n - m)
    return g :: rest

/-- The physical addresses of the bytes of some pieces, in order. -/
def segBytes (gs : List Seg) : List Nat := (gs.map fun g => (List.range g.n).map (g.pa + ·)).flatten

/-- What the walks of a unit answered forgotten, at the end of what it did. -/
def forgetAnswers (s : State) (wid : Nat) : State := { s with unitAns := ndel s.unitAns wid }

/-- A read-modify-write executed at the owner as one step, for a unit (R241). The entries of a queue may lie in no furled range (R219). -/
def uRmw (src : Sender) (pa n : Nat) (va : Word) (op : Rmw) : U Reply := do
  let s ← get
  let touched := rmwTouches { Core.reset with sb := [] } s pa n op
  if touched.any fun p => !sliceIdle s p.1 p.2 then (fun _ => .error (.walk id) : U Unit)
  if touched.any fun p => (rangeAt s p.1 p.2).isSome then return .fault { code := .furlWrite, info := va }
  let s := eccScan s touched
  let r := rmwOut (fun a m => rdNat s a m) (fun a m => anyPoison s a m) (qbAt s pa) (winBase s pa) pa n va op
  set (sendCounts (perform s r.writes []).1 src r.counts)
  return r.reply

end Sys2Proof.Machine
end

