-- ==== Sys2Proof/Machine/Engines.lean ====
section
/-! DEFINITION. Copy engines: their channels, the commands and their completion (R131 to R153). -/

namespace Sys2Proof.Machine

/-! ### Channels and the three instructions (R131 to R138) -/

/-- The key of a channel. -/
def chanKey (eng ch : Nat) : Nat := eng * 64 + ch

/-- A channel. -/
def chanAt (s : State) (key : Nat) : Chan := (nget s.chans key).getD ⟨0, [], [], [], [], []⟩

/-- A channel changed. -/
def modChan (s : State) (key : Nat) (f : Chan → Chan) : State := { s with chans := nset s.chans key (f (chanAt s key)) }

/-- ChannelOf: the channel that an engine index names (R132, R135). -/
def channelOf (idx : BitVec 6) : M (Nat × Nat) := do
  let s ← get
  let sl ← mySlot
  let count := sl.engMap.toNat / 65536 % 128
  raiseIf (decide (count ≤ idx.toNat)) .handle
  match (nget s.ctxs sl.ctx).bind fun x => nget x.handles (sl.engMap.toNat % 4096 + idx.toNat) with
  | some (.engine eng ch) => return (eng, ch)
  | _ => raise .handle

/-- EPUSH (R135): a drain ends a blocked one without an append. In upcall mode the task has no bindings (R302). -/
def enginePush (a : Fin 17) (idx : BitVec 6) : M Flow := do
  let (eng, ch) ← channelOf idx
  let w ← readRun a.val 8
  let s ← get
  let sl ← mySlot
  let i ← myIdx
  let key := chanKey eng ch
  if 32 ≤ (chanAt s key).cmds.length then
    if i ≠ 4 && sl.mw = 0 && draining s sl.ctx then return .next
    else waitOn (.cmdFull eng ch)
  set { modChan s key fun c => { c with cmds := c.cmds ++ [⟨s.nextId, w, if sl.up then 0 else sl.bind, senderOf s s.cur i, s.nextId, s.tick⟩] } with
    nextId := s.nextId + 1 }
  return .next

/-- Whether a pop into a pair by a task is pending at any channel. -/
def popPending (s : State) (core slot task : Nat) (n : Fin 4) : Bool :=
  s.chans.any fun c => c.2.pops.any fun p => p = ⟨core, slot, task, n⟩

/-- ASYNC_POP (R137): the oldest pending pop of a channel takes the oldest result; that of a task that has ended is discarded. -/
def asyncPop (s : State) (eng ch : Nat) : State :=
  let key := chanKey eng ch
  match (chanAt s key).pops, (chanAt s key).results with
  | p :: ps, (a, b) :: rs =>
    let s := modChan s key fun x => { x with pops := ps, results := rs }
    if (slotAt s p.core p.slot).task = p.task then
      modSlot s p.core p.slot fun sl =>
        (sl.fillE (Fin.ofNat 8 (2 * p.pair.val)) a false).fillE (Fin.ofNat 8 (2 * p.pair.val + 1)) b false
    else s
  | _, _ => s

/-- EPOP (R137): results that pending pops are due come before it. -/
def enginePop (d : PopDst) (idx : BitVec 6) : M Flow := do
  let (eng, ch) ← channelOf idx
  let s ← get
  let c := s.cur
  let i := actOf s c
  let sl := slotAt s c i
  let key := chanKey eng ch
  let put (x y : Word) : M Flow := do
    match d with
    | .g r => do writeGN r.val x; writeGN (r.val + 1) y
    | _ => pure ()
    return .next
  match d with
  | .e n => do
    if popPending s c i sl.task n then waitOn (.asyncPop eng ch)
    set (asyncPop (modChan s key fun x => { x with pops := x.pops ++ [⟨c, i, sl.task, n⟩] }) eng ch)
    return .next
  | _ =>
    let x := chanAt s key
    match x.results.drop x.pops.length with
    | (a, b) :: _ => do
      set (modChan s key fun x => { x with results := x.results.eraseIdx x.pops.length })
      put a b
    | [] =>
      if i ≠ 4 && sl.mw = 0 && draining s sl.ctx then put 0x0000010000000000 0
      else waitOn (.resEmpty eng ch)

/-- ESTAT (R138). PEND has six bits: for more than 63 pending pops, on which the rule is silent, the model takes the count modulo 64 (log
entry 12). -/
def engineStat (d : GZ) (idx : BitVec 6) : M Flow := do
  let (eng, ch) ← channelOf idx
  let x := chanAt (← get) (chanKey eng ch)
  writeGZ d (word (x.pops.length % 64 * 2 ^ 24 + x.results.length * 2 ^ 16 + (x.exec.length + x.held.length) % 8 * 2 ^ 8 + x.cmds.length))
  return .next

/-- ENGINE_RESULT (R133): a held result enters the result FIFO once there is room, and a pending pop takes it (R137). -/
def resultIn (s : State) (eng ch : Nat) : State :=
  let key := chanKey eng ch
  match (chanAt s key).held with
  | r :: rest =>
    if (chanAt s key).results.length < 32 then
      asyncPop (modChan s key fun x => { x with held := rest, results := x.results ++ [r] }) eng ch
    else s
  | [] => s

/-! ### The fields of a command (R139 to R141) -/

/-- A word of a command. -/
def Cmd.word (c : Cmd) (j : Nat) : Nat := (c.w.getD j 0).toNat

/-- Fields of word 0. -/
def Cmd.oper (c : Cmd) : Nat := c.word 0 / 2 ^ 56
def Cmd.bit (c : Cmd) (j : Nat) : Bool := (c.word 0).testBit j
def Cmd.sf (c : Cmd) : Nat := c.word 0 / 2 ^ 40 % 32
def Cmd.df (c : Cmd) : Nat := c.word 0 / 2 ^ 32 % 32
def Cmd.rm (c : Cmd) : Rm := match c.word 0 / 2 ^ 24 % 4 with | 0 => .rne | 1 => .rtz | 2 => .sr | _ => .rna
def Cmd.dims (c : Cmd) : Nat := c.word 0 / 2 ^ 16 % 256
def Cmd.tag (c : Cmd) : Nat := c.word 0 % 65536

/-- ROWS, COLS, SSTR; XR, XC, DSTR; LEN. -/
def Cmd.rows (c : Cmd) : Nat := c.word 3 / 2 ^ 48
def Cmd.cols (c : Cmd) : Nat := c.word 3 / 2 ^ 32 % 65536
def Cmd.sstr (c : Cmd) : Int := (BitVec.ofNat 32 (c.word 3)).toInt
def Cmd.xr (c : Cmd) : Nat := c.word 4 / 2 ^ 48
def Cmd.xc (c : Cmd) : Nat := c.word 4 / 2 ^ 32 % 65536
def Cmd.dstr (c : Cmd) : Int := (BitVec.ofNat 32 (c.word 4)).toInt
def Cmd.len (c : Cmd) : Nat := c.word 3 % 2 ^ 32

/-- The fetch form of COPY (R144). -/
def Cmd.isFetch (c : Cmd) : Bool := c.oper = 1 && c.word 2 = 0

/-- The formats a copy engine takes (R75). -/
def engFmt (code : Nat) : Option Num.Fmt :=
  match Num.fmtOfCode code with
  | some .e8m0 | some (.dt _) | none => none
  | some f => some f

/-- The format of the source and of the destination; FILL has only the second. -/
def Cmd.srcFmt (c : Cmd) : Num.Fmt := (engFmt (if c.oper = 4 then c.df else c.sf)).getD .uint8
def Cmd.dstFmt (c : Cmd) : Num.Fmt := (engFmt c.df).getD .uint8

/-- The destination shape of a plane: rows and columns (R142). -/
def Cmd.dr (c : Cmd) : Nat := if c.bit 55 then c.cols else c.rows
def Cmd.dc (c : Cmd) : Nat := if c.bit 55 then c.rows else c.cols
def Cmd.planes (c : Cmd) : Nat := if c.oper = 3 || c.oper = 5 then c.dims + 1 else 1

/-- The completion flags C, F and B together. -/
def Cmd.anyCompl (c : Cmd) : Bool := c.bit 52 || c.bit 51 || c.bit 50

/-- The field rules of R139 to R141 and R144. The table of R141 has no column for word 5: the model takes it to be zero except where a scale is
read from it (log entry 12). -/
def Cmd.fieldsOk (c : Cmd) : Bool :=
  let op := c.oper
  let modes := c.bit 53 || c.bit 27 || c.bit 26 || c.word 0 / 2 ^ 24 % 4 ≠ 0
  let t := c.bit 55
  let z := c.bit 54
  let shapeOk : Bool := !(Num.fmtWidth c.srcFmt = 4 && op ≠ 4 && c.cols % 2 ≠ 0) && !(Num.fmtWidth c.dstFmt = 4 && c.dc % 2 ≠ 0)
  c.word 0 / 2 ^ 45 % 8 = 0 && c.word 0 / 2 ^ 37 % 8 = 0 && c.word 0 / 2 ^ 28 % 16 = 0 &&
    decide ((c.bit 52).toNat + (c.bit 51).toNat + (c.bit 50).toNat ≤ 1) &&
    !(c.bit 50 && c.word 7 ≠ 0) && !(c.bit 51 && c.word 7 / 2 ^ 62 ≠ 0) &&
    (if op = 5 && c.bit 26 then decide (c.word 5 < 2 ^ (if c.bit 27 then 8 else 32)) else c.word 5 = 0) &&
    (match op with
      | 1 => c.sf = 0 && c.df = 0 && !t && !z && !modes && c.dims = 0 && c.word 4 = 0 && c.word 3 / 2 ^ 32 = 0 &&
          (c.word 2 ≠ 0 || (1 ≤ c.len && c.len ≤ 8 && c.bit 49))
      | 2 => c.sf = c.df && (engFmt c.sf).isSome && !modes && c.dims = 0 && shapeOk
      | 3 => c.sf = c.df && (engFmt c.sf).isSome && !modes && shapeOk
      | 4 => c.sf = 0 && (engFmt c.df).isSome && !t && !z && !modes && c.dims = 0 && c.word 3 % 2 ^ 32 = 0 &&
          c.word 4 / 2 ^ 32 = 0 && shapeOk
      | 5 => (engFmt c.sf).isSome && (engFmt c.df).isSome && shapeOk
      | 6 => c.sf = 0 && c.df = 0 && !t && !z && !modes && c.dims = 0 && c.word 4 = 0 && c.word 3 / 2 ^ 32 = 0 && c.len % 256 = 0
      | _ => false)

/-- Bytes of an element as it is aligned and addressed (R76, R141). -/
def elemBytes (f : Num.Fmt) : Nat := max 1 (Num.fmtWidth f / 8)

/-- The first misaligned address or stride of a command (R141): of several, the model reports the first in the order word 1, SSTR, word 2, DSTR,
word 6 (log entry 12). -/
def Cmd.misaligned (c : Cmd) : Option Word :=
  let sa := elemBytes c.srcFmt
  let da := elemBytes c.dstFmt
  let sstr := BitVec.ofInt 64 c.sstr
  let dstr := BitVec.ofInt 64 c.dstr
  let l : List (Word × Nat) :=
    (match c.oper with
      | 1 => []
      | 6 => [(c.w.getD 1 0, 256), (c.w.getD 2 0, 256)]
      | 4 => [(c.w.getD 2 0, da), (dstr, da)]
      | _ => [(c.w.getD 1 0, sa), (sstr, if Num.fmtWidth c.srcFmt = 4 then 2 else sa), (c.w.getD 2 0, da), (dstr, da)]) ++
    (if c.anyCompl then [(c.w.getD 6 0, 8)] else [])
  (l.find? fun x => x.1.toNat % x.2 ≠ 0).map (·.1)

/-- The status of a command before any access: ILL_FIELD first, then ALIGN (R141). -/
def Cmd.check (c : Cmd) : Option (Nat × Word × Word) :=
  if !c.fieldsOk then some (Code.illField.num, 0, 0)
  else c.misaligned.map fun x => (Code.align.num, x, x)

/-! ### The payload (R142 to R148) -/

/-- The first word that poison affected noted (R148). -/
def Exec.note (x : Exec) (va : Word) : Exec := if x.pois.isNone then { x with pois := some (va &&& ~~~7) } else x

/-- Some bytes written by an engine, poisoned where their source was; a refused partial write is noted (R72, R73, R148). The first word affected
is taken to be the destination's (log entry 12). -/
def engWrite (x : Exec) (bytes : List (Nat × Byte)) (pois : Bool) (va : Word) : U Exec := do
  let s ← get
  let r := perform s bytes (if pois then (bytes.map fun b => b.1 / 8).eraseDups else [])
  set r.1
  return if pois || r.2 then x.note va else x

/-- The bytes of a block of COPY, grouped by destination word: destination address and source address of each. -/
def byWord : List (Nat × Nat) → List (List (Nat × Nat))
  | [] => []
  | p :: r => match byWord r with
    | (q :: g) :: rest => if p.1 / 8 = q.1 / 8 then (p :: q :: g) :: rest else [p] :: (q :: g) :: rest
    | _ => [[p]]

/-- The groups of a block written in ascending order. -/
def copyWords (va : Word) : List (List (Nat × Nat)) → Exec → U Exec
  | [], x => pure x
  | g :: r, x => do
    let s ← get
    let x ← engWrite x (g.map fun p => (p.1, rdByte s p.2)) (g.any fun p => isPoison s p.2) va
    copyWords (va + word g.length) r x

/-- One 256-byte-aligned destination block of COPY (R144, R147). -/
def copyUnit (u : UnitId) (x : Exec) : U Exec := do
  let c := x.cmd
  let d := c.w.getD 2 0 + word x.done
  let n := min (c.len - x.done) (256 - d.toNat % 256)
  let sg ← uSegs u accBulkRd (some .furlCopy) 3 (c.w.getD 1 0 + word x.done) n
  let dg ← uSegs u accBulkWr (some .furlWrite) 3 d n
  let x ← copyWords d (byWord ((segBytes dg).zip (segBytes sg))) x
  return { x with done := x.done + n }

/-- The fetch form of COPY (R144, R148). -/
def fetchUnit (u : UnitId) (x : Exec) : U Exec := do
  let c := x.cmd
  let sg ← uSegs u accBulkRd (some .furlRead) 3 (c.w.getD 1 0) c.len
  let s ← get
  let pas := segBytes sg
  match pas.zipIdx.find? fun p => isPoison s p.1 with
  | some p => return { x.note (c.w.getD 1 0 + word p.2) with done := c.len }
  | none => return { x with done := c.len, fetch := word (Alu.natOf (pas.map (rdByte s))) }

/-- One granule of FURLMOVE (R145, R146, R148). -/
def moveUnit (u : UnitId) (x : Exec) : U Exec := do
  let c := x.cmd
  let sv := c.w.getD 1 0 + word x.done
  let dv := c.w.getD 2 0 + word x.done
  let sg ← uSeg u accBulkRd none sv 256
  let dg ← uSeg u accBulkWr none dv 256
  let s ← get
  uFaultIf (sg.key ≠ dg.key) .furlMix sv
  let ky := sg.key
  let key := keyAt s ky
  uFaultIf (!x.keys.contains ky) .furlKey sv
  uFaultIf (!key.inWindow sv.toNat 256) .furlPolicy sv
  uFaultIf (!key.inWindow dv.toNat 256) .furlPolicy dv
  uIdle (tagPa key sv.toNat) 16
  let s ← get
  let ct := rdBytes s sg.pa 256
  let tagP := anyPoison s (tagPa key sv.toNat) 16
  let ps := (List.range 32).filter fun j => tagP || isPoison s (sg.pa + 8 * j)
  uFaultIf (ps = [] && Crypto.gmac key.tagKey sv.toNat (ct.map (·.toNat)) ≠ (rdBytes s (tagPa key sv.toNat) 16).map (·.toNat)) .furlTag sv
  let pt := Crypto.xts false key.xts (sv.toNat / 256) (ct.map (·.toNat))
  set (perform s (sealedBytes key dv.toNat dg.pa pt) (ps.map fun j => dg.pa / 8 + j)).1
  let x := match ps with | j :: _ => x.note (dv + word (8 * j)) | [] => x
  return { x with done := x.done + 256 }

/-- A destination element of a row, resolved: its column and address, where it is written, and what its source is. -/
structure DElem where
  j : Nat
  dva : Word
  dpa : Nat
  src : Option (Nat × Nat)
deriving DecidableEq, Repr

/-- Element `c` of a row at a format: its offset in bytes (R76). -/
def elemOff (f : Num.Fmt) (c : Nat) : Nat := if Num.fmtWidth f = 4 then c / 2 else c * elemBytes f

/-- The elements of destination row `i` of plane `p` resolved, columns ascending: every page that the row reads or writes (R142,
R147). -/
def rowElemsOf (u : UnitId) (c : Cmd) (p i : Nat) : List Nat → U (List DElem)
  | [] => pure []
  | j :: r => do
    let (rr, cc) := if c.bit 55 then (j, i) else (i, j)
    let fill := c.oper = 4
    let beyond := !fill && (decide (min c.xr c.rows ≤ rr) || decide (min c.xc c.cols ≤ cc))
    if beyond && !c.bit 54 then rowElemsOf u c p i r
    else do
      let dva := BitVec.ofInt 64 ((c.word 2 : Int) + ((p * c.dr + i : Nat) : Int) * c.dstr + (elemOff c.dstFmt j : Nat))
      let sva := BitVec.ofInt 64 ((c.word 1 : Int) + ((p * c.rows + rr : Nat) : Int) * c.sstr + (elemOff c.srcFmt cc : Nat))
      let src ← if beyond || fill then pure none else do
        let g ← uSeg u accBulkRd (some .furlCopy) sva (elemBytes c.srcFmt)
        pure (some (g.pa, cc))
      let g ← uSeg u accBulkWr (some .furlWrite) dva (elemBytes c.dstFmt)
      let rest ← rowElemsOf u c p i r
      return ⟨j, dva, g.pa, src⟩ :: rest

/-- The scale of word 5 (R143). -/
def Cmd.scale (c : Cmd) : Option Num.Val :=
  if !c.bit 26 then none
  else if c.bit 27 then some (if c.word 5 % 256 = 255 then .nan false else .fin false 1 ((c.word 5 % 256 : Nat) - 127))
  else some (Num.decodeSpec ⟨8, 23, 127, .ieee⟩ (c.word 5 % 2 ^ 32))

/-- The code at a source element. -/
def srcCode (s : State) (f : Num.Fmt) (pa cc : Nat) : Nat :=
  let v := rdNat s pa (elemBytes f)
  if Num.fmtWidth f = 4 then v / 16 ^ (cc % 2) % 16 else v % 2 ^ Num.fmtWidth f

/-- A converted element from its source value: its code and flags (R143). -/
def convertElem (c : Cmd) (sr : Nat) (v : Num.Val) : Nat × Num.Flags :=
  let (x, inv) := match c.scale with | some k => Num.vMul v k | none => (v, false)
  let o := Num.encodeFmt Core.reset.dt c.dstFmt c.rm (c.bit 53) sr x
  (o.1.toNat % 2 ^ Num.fmtWidth c.dstFmt, o.2 ||| (if inv then Num.flNV else 0))

/-- An element written: a 4-bit one changes its nibble only (R142). -/
def putElem (f : Num.Fmt) (e : DElem) (code : Nat) (pois : Bool) (x : Exec) : U Exec := do
  let s ← get
  let v := if Num.fmtWidth f = 4 then
      let old := (rdByte s e.dpa).toNat
      if e.j % 2 = 0 then old / 16 * 16 + code else old % 16 + 16 * code
    else code
  engWrite x (bytesAt e.dpa (elemBytes f) v) pois e.dva

/-- The elements of a row produced and written in order (R142, R143, R148). -/
def produceRow (eng : Nat) : List DElem → Exec → U Exec
  | [], x => pure x
  | e :: r, x => do
    let s ← get
    let c := x.cmd
    let en := (nget s.engines eng).getD ⟨1, 0, false⟩
    let sr := if c.oper = 5 then srStep c.rm en.sr else en.sr
    if sr ≠ en.sr then set { s with engines := nset s.engines eng { en with sr := sr } }
    let (code, fl, pois) : Nat × Num.Flags × Bool :=
      match e.src with
      | none =>
        if c.oper = 5 then let o := convertElem c (Num.srTop sr) (.fin false 0 0); (o.1, o.2, false)
        else (if c.oper = 4 then c.word 1 % 2 ^ Num.fmtWidth c.dstFmt else 0, 0, false)
      | some (pa, cc) =>
        let k := srcCode s c.srcFmt pa cc
        let p := anyPoison s pa (elemBytes c.srcFmt)
        if c.oper = 5 then let o := convertElem c (Num.srTop sr) (Num.decodeFmt Core.reset.dt c.srcFmt k); (o.1, o.2, p) else (k, 0, p)
    let x ← putElem c.dstFmt e code pois { x with flags := x.flags ||| fl }
    produceRow eng r x

/-- One destination row of a shape (R142, R147). -/
def rowUnit (eng : Nat) (u : UnitId) (x : Exec) : U Exec := do
  let c := x.cmd
  let l ← rowElemsOf u c (x.done / max 1 c.dr) (x.done % max 1 c.dr) (List.range c.dc)
  let x ← produceRow eng l x
  return { x with done := x.done + 1 }

/-- How much a command has to do, in the count of its progress: bytes, or destination rows through all planes (R147, R150). -/
def Cmd.total (c : Cmd) : Nat :=
  if c.oper = 1 || c.oper = 6 then c.len else c.planes * c.dr

/-- The next unit of a command. -/
def unitOf (eng : Nat) (u : UnitId) (x : Exec) : U Exec :=
  if x.cmd.isFetch then fetchUnit u x
  else if x.cmd.oper = 1 then copyUnit u x
  else if x.cmd.oper = 6 then moveUnit u x
  else rowUnit eng u x

/-- The units of a command, up to `n`: until a walk has to be waited for, a status ends it, or all is done. The Bool says whether it
has ended. -/
def runUnits (eng : Nat) (u : UnitId) : Nat → Exec → State → State × Exec × Bool
  | 0, x, s => (s, x, true)
  | n + 1, x, s =>
    if x.stop.isSome || x.cmd.total ≤ x.done then (s, x, true)
    else
      match unitOf eng u x s with
      | .ok (x', s') => runUnits eng u n x' s'
      | .error (.walk f) => (f s, x, false)
      | .error (.fault st w1 va) => (s, { x with stop := some (st, w1, va) }, true)

/-! ### Completion (R149 to R151) -/

/-- A future resolved, or a barrier object arrived at, by a completion step: the status it gives. -/
def complAt (x : Exec) (pa : Nat) (va : Word) (op : Rmw) : U (Option (Nat × Word × Word)) := do
  match (← uRmw x.cmd.src pa 8 va op) with
  | .poison => return some (Code.poison.num, va, va)
  | .fault t => return some (t.code.num, va, va)
  | .vals v => return if op = .barrier && v.headD 0 = word (2 ^ 61) then some (0x80, va, va) else none

/-- The completion step at word 6 in the order C, F, B (R149): the first status found there. -/
def complUnit (u : UnitId) (x : Exec) : U (Option (Nat × Word × Word)) := do
  let c := x.cmd
  let va := c.w.getD 6 0
  let good := x.stop.isNone
  if !(c.bit 51 || c.bit 50 || (c.bit 52 && good)) || va.toNat % 8 ≠ 0 then return none
  let g ← uSeg u (if c.bit 51 || c.bit 50 then ⟨true, true, true⟩ else accBulkWr) (some .furlWrite) va 8
  let s ← get
  if c.bit 52 && good then set (perform s (bytesAt g.pa 8 (c.word 7)) []).1
  let f ← if c.bit 51 then complAt x g.pa va (.fut 1 (!good) (word (c.word 7 % 2 ^ 62))) else pure none
  let b ← if c.bit 50 then complAt x g.pa va .barrier else pure none
  return f.or b

/-- The statuses that always leave a record (R151): those of class T, and FURL_KEY. -/
def alwaysRecorded (st : Nat) : Bool := [0x11, 0x12, 0x20, 0x21, 0x22, 0x24, 0x25, 0x26, 0x27, 0x38, 0x50].contains st

/-- A record of an engine on the terminal ring of a context, with the END mask (R151, R356). -/
def engRecord (s : State) (ctx st : Nat) (va ck : Word) (core slot : Nat) : State :=
  let s := postTerm s ctx st 2 va ck core slot 0
  match nget s.ctxs ctx with
  | some y => if y.desc.endMask.getLsbD st then { s with ctxs := nset s.ctxs ctx { y with endDue := true } } else s
  | none => s

/-- The status of a command that has ended, with word 1 and the address: what ended it replaces POISON (R148, R150). -/
def Exec.status (x : Exec) (compl : Option (Nat × Word × Word)) : Nat × Word × Word :=
  match x.stop, x.pois, compl with
  | some t, _, _ => t
  | none, some va, _ => (Code.poison.num, if x.cmd.isFetch then 0 else va, va)
  | none, none, some t => t
  | none, none, none => (0, if x.cmd.isFetch || x.cmd.oper = 0x13 || x.cmd.oper = 0x14 then x.fetch
      else if x.cmd.oper = 5 || x.cmd.oper = 0x15 then x.flags.setWidth 64 else 0, 0)

/-- A command's records and result, which a pending pop takes (R133, R137, R149 to R151). -/
def finish (s : State) (key : Nat) (x : Exec) (compl : Option (Nat × Word × Word)) : State :=
  let c := x.cmd
  let (st, w1, va) := x.status compl
  let a := c.bit 49
  let ctx := (chanAt s key).ctx
  let s := match x.stop, x.pois with
    | some _, some p => engRecord s ctx Code.poison.num p 0 c.src.core c.src.slot
    | _, _ => s
  let s := if st ≠ 0 && (alwaysRecorded st || !a) then
      engRecord s ctx st va (if st = 0x10 then w1 else 0) c.src.core c.src.slot else s
  let r : Word × Word := (word (c.tag * 2 ^ 48 + st * 2 ^ 40 + c.oper * 2 ^ 32 + x.done % 2 ^ 32), w1)
  let s := forgetAnswers s (2000000 + c.id)
  let s := modChan s key fun ch =>
    let ch := { ch with exec := ch.exec.filter fun y => y.cmd.id ≠ c.id }
    if !a then ch
    else if ch.results.length < 32 && ch.held = [] then { ch with results := ch.results ++ [r] } else { ch with held := ch.held ++ [r] }
  if a then asyncPop s (key / 64) (key % 64) else s

/-- How a channel's command translates. -/
def chanUnit (s : State) (eng key : Nat) (c : Cmd) : UnitId := ⟨eng, 2000000 + c.id, eng / 16, (chanAt s key).ctx⟩

/-- An executing command taken as far as it goes, with its completion step (R147 to R151). -/
def advanceCmd (s : State) (eng key : Nat) (x : Exec) : State :=
  let u := chanUnit s eng key x.cmd
  let (s, x, ended) := runUnits eng u (x.cmd.total + 1) x s
  let keep (s : State) : State := modChan s key fun ch => { ch with exec := ch.exec.map fun y => if y.cmd.id = x.cmd.id then x else y }
  if !ended then keep s
  else
    match complUnit u x s with
    | .ok (r, s) => finish s key x r
    | .error (.walk f) => keep (f s)
    | .error (.fault st w1 va) => finish s key x (some (st, w1, va))

/-- The drain streams of a task on a core, those that it has left behind among them. -/
def drainsOf (k : Core) (slot task : Nat) : List Stream :=
  (if (slotOf k slot).task = task then (slotOf k slot).d.toList.filterMap id else []) ++
    (k.orphans.filter fun o => o.2.1.task = task).map fun o => o.2.2.2

/-- Whether the stores and accesses that a task made before an EPUSH have been performed, what it had pushed into its drain streams among
them (R135, R152, R154, R164). -/
def pusherDone (s : State) (c : Cmd) : Bool :=
  let k := coreOf s c.src.core
  !(k.sb.any fun e => e.src.task = c.src.task && decide (e.id < c.mark)) &&
    !((drainsOf k c.src.slot c.src.task).any fun st => st.drain && st.fault.isNone && st.q.any fun e => decide (e.seq < c.born))

/-- The command of a channel that starts next (R133). -/
def nextCmd (ch : Chan) : Option Cmd :=
  match ch.cmds.find? fun c => c.bit 48 with
  | some c => some c
  | none => ch.cmds.head?

/-- Whether a context's channels start commands: it runs and no drain has begun (R153). -/
def ctxRuns (s : State) (ctx : Nat) : Bool :=
  match nget s.ctxs ctx with | some x => x.st = .running && x.drain.isNone | none => false

/-- The channels of an engine in its turn order: from the one after the last that started a command. -/
def chanOrder (rr : Nat) : List Nat := (List.range 64).map fun j => (rr + 1 + j) % 64

/-- The channel and command that an engine starts next, if any (R131, R133). -/
def nextStart (s : State) (eng : Nat) : Option (Nat × Cmd) :=
  let en := (nget s.engines eng).getD ⟨1, 63, false⟩
  let running := (List.range 64).foldl (fun n ch => n + (chanAt s (chanKey eng ch)).exec.length + (chanAt s (chanKey eng ch)).held.length) 0
  if 4 ≤ running || en.fenced then none
  else (chanOrder en.rr).findSome? fun j =>
    let ch := chanAt s (chanKey eng j)
    if ch.held ≠ [] || !ctxRuns s ch.ctx then none
    else match nextCmd ch with
      | some c => if pusherDone s c then some (j, c) else none
      | none => none

/-- The keys under which an engine starts a command: those that its pusher had bound and that are LOADED for its context now (R146, R213). -/
def keysOf (s : State) (ctx : Nat) (c : Cmd) : List Nat :=
  if c.oper = 6 then (List.range 64).filter fun n => c.bind.getLsbD n && (keyAt s n).st = .loaded && decide ((keyAt s n).ctx = ctx) else []

/-- The commands of an engine that execute, each with its channel. -/
def executing (s : State) (eng : Nat) : List (Nat × Exec) :=
  (List.range 64).flatMap fun j => (chanAt s (chanKey eng j)).exec.map fun x => (chanKey eng j, x)

/-- An engine's next command started, if it is one of the operation (R131, R133). -/
def startNext (p : Nat → Bool) (s : State) (eng : Nat) : State :=
  match nextStart s eng with
  | none => s
  | some (j, c) =>
    if !p c.oper then s
    else
      let key := chanKey eng j
      let en := (nget s.engines eng).getD ⟨1, 63, false⟩
      let x : Exec := ⟨c, 0, 0, none, c.check, 0, keysOf s (chanAt s key).ctx c, false⟩
      let s := { s with engines := nset s.engines eng { en with rr := j } }
      modChan s key fun ch => { ch with cmds := ch.cmds.filter fun y => y.id ≠ c.id, exec := ch.exec ++ [x] }

/-- The turn of a copy engine for one operation: the next command starts if it is one, and one of those that execute goes on (R131, R133);
which, where there are several, is open (log entry 12). -/
def engineTurn (p : Nat → Bool) (s : State) (eng : Nat) : State :=
  let s := startNext p s eng
  let l := (executing s eng).filter fun x => p x.2.cmd.oper
  match pick s l with
  | some (key, x) => advanceCmd { s with tick := s.tick + 1 } eng key x
  | none => s

/-- A reserved operation ends with ILL_FIELD whichever row runs it; the model lets the row of COPY do it (R141). -/
def isCopyOper (n : Nat) : Bool := n = 1 || n = 0 || decide (6 < n)

/-- EPUSH (R134, R135). -/
def execEpush (a : Fin 17) (idx : BitVec 6) (s : State) : Host.Outcome State Fault Refusal :=
  issueW (packR 0xC0 0 0 a.val 0 0 0 idx.toNat) (enginePush a idx) s

/-- EPOP (R136, R137). -/
def execEpop (d : PopDst) (idx : BitVec 6) (s : State) : Host.Outcome State Fault Refusal :=
  issueW (packR 0xC2 0 d.code 0 0 0 0 idx.toNat) (enginePop d idx) s

/-- ESTAT (R138). -/
def execEstat (d : GZ) (idx : BitVec 6) (s : State) : Host.Outcome State Fault Refusal :=
  issueW (packR 0xC4 0 d.code 0 0 0 0 idx.toNat) (engineStat d idx) s

/-- COPY (R144). -/
def execCopy (eng : Nat) (s : State) : Host.Outcome State Fault Refusal :=
  .next (engineTurn isCopyOper s eng)

/-- COPY2D (R142). -/
def execCopy2d (eng : Nat) (s : State) : Host.Outcome State Fault Refusal :=
  .next (engineTurn (· == 2) s eng)

/-- COPY3D (R142). -/
def execCopy3d (eng : Nat) (s : State) : Host.Outcome State Fault Refusal :=
  .next (engineTurn (· == 3) s eng)

/-- FILL (R142, R143). -/
def execFill (eng : Nat) (s : State) : Host.Outcome State Fault Refusal :=
  .next (engineTurn (· == 4) s eng)

/-- CONVERT (R143). -/
def execConvert (eng : Nat) (s : State) : Host.Outcome State Fault Refusal :=
  .next (engineTurn (· == 5) s eng)

/-- FURLMOVE (R145, R146). -/
def execFurlmove (eng : Nat) (s : State) : Host.Outcome State Fault Refusal :=
  .next (engineTurn (· == 6) s eng)

/-- ENGINE_RESULT (R133). -/
def execEngineResult (eng ch : Nat) (s : State) : Host.Outcome State Fault Refusal :=
  .next (resultIn s eng ch)

/-- ASYNC_POP (R137). -/
def execAsyncPop (eng ch : Nat) (s : State) : Host.Outcome State Fault Refusal :=
  .next (asyncPop s eng ch)

end Sys2Proof.Machine
end

