-- ==== Sys2Proof/Machine/Objects.lean ====
section
/-! DEFINITION. Objects: layout maps, allocation and word access (R269 to R278). -/

namespace Sys2Proof.Machine

/-! ### Layout records and the layout table (R271, R272) -/

/-- NFIX, TAIL and the stride of a layout record. -/
def layNfix (r : List Word) : Nat := (r.headD 0).toNat / 2 ^ 16 % 2 ^ 24
def layTail (r : List Word) : Bool := (r.headD 0).getLsbD 9
def layStride (r : List Word) : Nat := (r.headD 0).toNat % 64 + 1

/-- The zero and range rules of a layout record. -/
def layOk (r : List Word) : Bool :=
  let w := (r.headD 0).toNat
  let pmap := (r.getD 1 0).toNat
  let emap := (r.getD 2 0).toNat
  w / 2 ^ 40 = 0 && w / 2 ^ 10 % 64 = 0 && w / 2 ^ 6 % 8 = 0 && decide (pmap < 2 ^ min 64 (layNfix r)) &&
    (if layTail r then decide (emap < 2 ^ layStride r) else w % 64 = 0 && emap = 0)

/-- A LEN fits a type. -/
def layFits (r : List Word) (n : Nat) : Bool :=
  if layTail r then decide (layNfix r ≤ n) && (n - layNfix r) % layStride r = 0 else n = layNfix r

/-- Body word `i` is marked as a pointer. -/
def layPtr (r : List Word) (i : Nat) : Bool :=
  (decide (i < layNfix r) && decide (i < 64) && (r.getD 1 0).getLsbD i) ||
    (layTail r && decide (layNfix r ≤ i) && (r.getD 2 0).getLsbD ((i - layNfix r) % layStride r))

/-- The layout record of a type of a context. -/
def layoutAt (s : State) (ctx t : Nat) : Option (List Word) := (nget s.ctxs ctx).bind fun x => nget x.layout t

/-- The layout fingerprint of a context (R272): digest byte 0 is the least significant. -/
def fingerprint (s : State) (ctx : Nat) : Word :=
  match nget s.ctxs ctx with
  | none => 0
  | some x =>
    match x.layout.getLast? with
    | none => 0
    | some (high, _) =>
      let entry (t : Nat) : List Nat := match nget x.layout t with
        | some r => (r.map fun w => Crypto.leBytes 8 w.toNat).flatten
        | none => List.replicate 24 0
      let d := Crypto.sha384 ((List.range (high + 1)).map entry).flatten
      word (Crypto.ofBe ((Crypto.beBytes 48 d.toNat).take 8 |>.reverse))

/-- LMAP (R273, R274): an L task blocks once, and the table is updated when it goes on. -/
def registerLayout (d a b : GReg) : M Flow := do
  let t ← readG a
  let r ← readRun b.val 3
  raiseIf (!layOk r) .illField
  let s ← get
  let sl ← mySlot
  if sl.t0.isNone then
    releaseTask
    waitWith .lmap fun s => modSlot s s.cur (actOf s s.cur) fun sl => { sl with t0 := some 0 }
  else
    match nget s.ctxs sl.ctx with
    | none => do
      writeGN d.val 3
      writeGN (d.val + 1) 0
      return .next
    | some x =>
      let old := nget x.layout t.toNat
      let st : Nat := if x.desc.lcap.toNat ≤ t.toNat then 3 else match old with | none => 0 | some q => if q = r then 1 else 2
      if st = 0 then set { s with ctxs := nset s.ctxs sl.ctx { x with layout := nset x.layout t.toNat r } }
      let s ← get
      writeGN d.val (word st)
      writeGN (d.val + 1) (fingerprint s sl.ctx)
      return .next

/-! ### Headers (R269) -/

/-- TYPE and LEN of a header word. -/
def hdrType (h : Word) : Nat := h.toNat / 2 ^ 40
def hdrLen (h : Word) : Nat := h.toNat / 2 ^ 16 % 2 ^ 24

/-- The allocation size of a length. -/
def allocSize (n : Nat) : Nat := (16 + 8 * n + 15) / 16 * 16

/-- A valid header in a context. -/
def hdrValid (s : State) (ctx : Nat) (h : Word) : Bool :=
  h.toNat / 2 ^ 11 % 32 = 0 && h.toNat % 256 = 0 &&
    match layoutAt s ctx (hdrType h) with | some r => layFits r (hdrLen h) | none => false

/-- The body words of an object that are pointer words (R270, R271). -/
def ptrWords (s : State) (ctx : Nat) (h : Word) : List Nat :=
  if h.getLsbD 10 then [] else
  match layoutAt s ctx (hdrType h) with
  | none => []
  | some r => (List.range (hdrLen h)).filter (layPtr r)

/-! ### Accesses of OALLOC and OBJ (R104, R117) -/

/-- The pieces of an access that graph instructions make. -/
def resolveGraph (ea : Word) (n : Nat) (acc : Acc) : M (List Seg) := do
  let gs ← resolveRaw true ea n acc
  let s ← get
  match gs.find? fun g => g.furled s with
  | some g => raiseAt .furlGraph g.va
  | none =>
    if acc.rd then
      match gs.find? fun g => g.pastQ s with
      | some g => raiseAt .xlPerm g.va
      | none => return gs
    else return gs

/-- The read-modify-write of OALLOC at the bump block (R276). -/
def bumpAt (blk : Word) (op : Rmw) : M Word := do
  let gs ← resolveGraph blk 16 ⟨true, true, true⟩
  match gs with
  | [] => return 1
  | g :: _ => do
    let v ← rmwSeg g op (.g 0) false
    return v.headD 1

/-- The block carved off where CUR has not moved on, then the stores of the object at `o`, whose pieces are `gs` (R276). -/
def allocMade (d : GReg) (blk : Word) (t n o : Word) (gs : List Seg) : M Flow := do
  let v ← bumpAt blk (.bump (allocSize n.toNat) (some o))
  if v = 2 then waitWith .order fun s => modSlot s s.cur (actOf s s.cur) fun sl => { sl with t0 := none, noted := [], pend := .none }
  else do
    if 16 ≤ v.toNat then do
      let hdr := word (t.toNat * 2 ^ 40 + n.toNat * 2 ^ 16 + 0x100)
      storeBulk ((Alu.bytesOf hdr.toNat 8 ++ List.replicate (8 + 8 * n.toNat) 0).map some) false false none gs
    writeG d v
    return .next

/-- OALLOC (R275, R276): the allocation, then the header and a zero body. The pages of the object are translated first, at the address
that CUR gives, so that an OALLOC that faults has allocated nothing (R8). -/
def allocObject (d a : GReg) (b c : GZ) : M Flow := do
  let blk ← readG a
  let t ← readGZ b
  let n ← readGZ c
  let s ← get
  let sl ← mySlot
  let fits := match layoutAt s sl.ctx t.toNat with | some r => layFits r n.toNat | none => false
  raiseIf (!fits || decide (2 ^ 24 ≤ n.toNat)) .objHdr blk
  raiseIf (blk.toNat % 16 ≠ 0) .align blk
  bulkRoom
  if sl.noted ≠ [] then allocMade d blk t n (sl.t0.getD 0) sl.noted
  else
    let look : M (Word × List Seg) := do
      let v ← bumpAt blk (.bump (allocSize n.toNat) none)
      if v.toNat < 16 then return (v, [])
      else do
        let gs ← resolveGraph v 8 accBulkWr
        let hs ← resolveGraph (v + 8) (8 + 8 * n.toNat) accBulkWr
        return (v, gs ++ hs)
    commit look (fun x sl => { sl with t0 := some x.1, noted := x.2, pend := .none }) fun x =>
      if x.2 = [] then do
        writeG d x.1
        return .next
      else allocMade d blk t n x.1 x.2

/-- A word of an object read as a load of the task (R278). -/
def graphLoad (ea : Word) : M Word := do
  let gs ← resolveGraph ea 8 accBulkRd
  match gs with
  | [] => return 0
  | g :: _ => do
    let v ← readSeg g
    return word v

/-- The header of the object that OBJ names, checked, and then what `rest` does with it (R278). -/
def withHeader (o : Word) (rest : Word → M Flow) : M Flow := do
  let sl ← mySlot
  raiseIf (o.toNat % 16 ≠ 0) .objHdr o
  let first : M Word := match sl.t0 with | some h => pure h | none => graphLoad o
  commit first (fun h sl => { sl with t0 := some h, pend := if sl.t0.isSome then sl.pend else .none }) fun h => do
    let s ← get
    raiseIf (!hdrValid s sl.ctx h) .objHdr o
    rest h

/-- The address of a body word, checked (R278). -/
def bodyWord (o i h : Word) : M Word := do
  raiseIf (!h.getLsbD 8) .objDead o
  raiseIf (decide (hdrLen h ≤ i.toNat)) .objBound o
  return o + 16 + i <<< 3

/-- OBJLDW (R278). -/
def objLoad (d : GZ) (a : GReg) (b : GZ) (idx : BitVec 23) : M Flow := do
  let o ← readG a
  let x ← readGZ b
  withHeader o fun h => do
    let ea ← bodyWord o (x + idx.setWidth 64) h
    let v ← graphLoad ea
    writeGZ d v
    return .next

/-- OBJSTW (R278). -/
def objStore (v : GZ) (a : GReg) (b : GZ) (rel : Bool) (idx : BitVec 23) : M Flow := do
  let o ← readG a
  let x ← readGZ b
  let y ← readGZ v
  if rel then releaseTask
  withHeader o fun h => do
    let ea ← bodyWord o (x + idx.setWidth 64) h
    let gs ← resolveGraph ea 8 accBulkWr
    match gs with
    | [] => return .next
    | g :: _ => do
      storeSeg g y rel
      return .next

/-- OBJTYPE (R278). -/
def objType (d : GZ) (a : GReg) : M Flow := do
  let o ← readG a
  withHeader o fun h => do
    writeGZ d (word (hdrType h + h.toNat / 2 ^ 8 % 256 * 2 ^ 32))
    return .next

/-- OBJLEN (R278). -/
def objLen (d : GZ) (a : GReg) : M Flow := do
  let o ← readG a
  withHeader o fun h => do
    writeGZ d (word (hdrLen h))
    return .next

/-- LMAP (R273, R274). -/
def execLmap (d a b : GReg) (s : State) : Host.Outcome State Fault Refusal :=
  issueW (packR 0x7A 0 d.val a.val b.val 0 0 0) (registerLayout d a b) s

/-- OALLOC (R276). -/
def execOalloc (d a : GReg) (b c : GZ) (s : State) : Host.Outcome State Fault Refusal :=
  issueW (packR 0x7C 0 d.val a.val b.code 0 c.code 0) (allocObject d a b c) s

/-- OBJLDW (R277, R278). -/
def execObjldw (d : GZ) (a : GReg) (b : GZ) (acq : Bool) (idx : BitVec 23) (s : State) : Host.Outcome State Fault Refusal :=
  issueW (packR 0x7E 0 d.code a.val b.code 0 0 (acq.toNat * 2 ^ 23 + idx.toNat)) (objLoad d a b idx) s

/-- OBJSTW (R277, R278). -/
def execObjstw (v : GZ) (a : GReg) (b : GZ) (rel : Bool) (idx : BitVec 23) (s : State) : Host.Outcome State Fault Refusal :=
  issueW (packR 0x7E 1 v.code a.val b.code 0 0 (rel.toNat * 2 ^ 23 + idx.toNat)) (objStore v a b rel idx) s

/-- OBJTYPE (R277, R278). -/
def execObjtype (d : GZ) (a : GReg) (s : State) : Host.Outcome State Fault Refusal :=
  issueW (packR 0x7E 2 d.code a.val 0 0 0 0) (objType d a) s

/-- OBJLEN (R277, R278). -/
def execObjlen (d : GZ) (a : GReg) (s : State) : Host.Outcome State Fault Refusal :=
  issueW (packR 0x7E 3 d.code a.val 0 0 0 0) (objLen d a) s

end Sys2Proof.Machine
end

