-- ==== Sys2Proof/Machine/Graphs.lean ====
section
/-! DEFINITION. Graph walks and graph landing zones (R267, R279 to R295). -/

namespace Sys2Proof.Machine

/-! ### What a walk does between two waits -/

/-- Why a walk's attempt ends before its end: a translation it has to wait for, a fault with word 1 and the address, FULL, LANDFULL,
a difference that GCMP found, or a fault at the receiver of a GSEND. -/
inductive GStop where
  | wait (f : State → State)
  | fault (st : Nat) (w1 va : Word)
  | full
  | differ (i : Word)

/-- A walk's attempt: the machine, the block's words, the walk's record. What was done stays done where it ends with a `GStop`. -/
structure GRun where
  s : State
  w : List Word
  g : GWalk

/-- The steps of an attempt. -/
abbrev G := ExceptT GStop (StateM GRun)

/-- The walk as a unit that translates: of its own number, in its unit's TLB (R288). -/
def GWalk.uid (g : GWalk) : UnitId := ⟨200 + g.unit.getD 0, 3000000 + g.id, g.unit.getD 0 / 2, g.ctx⟩

/-- A unit's step within an attempt. -/
def liftU {α : Type} (x : U α) : G α := fun r =>
  match x r.s with
  | .ok (a, s) => (.ok a, { r with s := s })
  | .error (.walk f) => (.error (.wait f), r)
  | .error (.fault st w1 va) => (.error (.fault st w1 va), r)

/-- Writes that a walk makes together: where one of them faults none has been made (R281, R287, R289). -/
def together {α : Type} (x : G α) : G α := fun r => match x r with
  | (.error e, _) => (.error e, r)
  | o => o

/-- A fault of a walk. -/
def gFault {α : Type} (c : Code) (va : Word) : G α := throw (.fault c.num va va)

/-- A word of the block. -/
def GRun.word (r : GRun) (j : Nat) : Nat := (r.w.getD j 0).toNat

/-- A word of the block set. -/
def setW (j : Nat) (v : Nat) : G Unit := modify fun r => { r with w := r.w.set j (word v) }

/-- Bytes that a walk stores: they mark other walks, never itself (R283). -/
def ownStore (id : Nat) (bytes : List (Nat × Byte)) (s : State) : State :=
  let s' := (perform s bytes []).1
  { s' with gwalks := s'.gwalks.map fun g =>
      if g.id = id then { g with marked := ((s.gwalks.find? fun h => h.id = id).map (·.marked)).getD g.marked } else g }

/-- A word that a walk reads: translated and checked, poison raises POISON (R72, R117, R288). -/
def rdW (u : UnitId) (va : Word) : U Word := do
  let g ← uSeg u accBulkRd (some .furlGraph) va 8
  let s ← get
  uFaultIf (anyPoison s g.pa 8) .poison va
  return word (rdNat s g.pa 8)

/-- A word that a walk writes. -/
def wrW (u : UnitId) (id : Nat) (va : Word) (v : Nat) : U Unit := do
  let g ← uSeg u accBulkWr (some .furlGraph) va 8
  modify fun s => ownStore id (bytesAt g.pa 8 v) s

/-- Reads and writes of the walk. -/
def gRd (va : Word) : G Nat := do let r ← get; let v ← liftU (rdW r.g.uid va); return v.toNat
def gWr (va : Word) (v : Nat) : G Unit := do let r ← get; liftU (wrW r.g.uid r.g.id va v)

/-! ### The forwarding table and the work array (R280, R281) -/

/-- H(key). -/
def foldKey (ftlog key : Nat) : Nat :=
  (List.range 60).foldl (fun a j => a ^^^ (key % 2 ^ 57 / 2 ^ (4 + ftlog * j) % 2 ^ ftlog)) 0

/-- A key looked up from entry `i` on, through at most `n` entries: its entry with the value, or the first empty entry, or neither. -/
def probe (key : Nat) : Nat → Nat → G (Option (Word × Option Nat))
  | 0, _ => pure none
  | n + 1, i => do
    let r ← get
    let log := r.word 5
    let at0 : Word := r.w.getD 4 0 + word (16 * (i % 2 ^ log))
    let k ← gRd at0
    if k = key then do let v ← gRd (at0 + 8); return some (at0, some v)
    else if k = 0 then return some (at0, none)
    else probe key n (i + 1)

/-- A key looked up. -/
def lookupKey (key : Nat) : G (Option (Word × Option Nat)) := do
  let r ← get
  probe key (2 ^ r.word 5) (foldKey (r.word 5) key)

/-- The address of an entry of the work array. -/
def workVa (s : Nat) : G Word := do let r ← get; return r.w.getD 6 0 + word (16 * s)

/-- An insertion at an empty entry that `lookupKey` found. -/
def insertKey (key v : Nat) (at0 : Option (Word × Option Nat)) : G Unit := do
  match at0 with
  | some (va, none) => do gWr va key; gWr (va + 8) v
  | _ => throw .full

/-- The next serial number given to a new object; `partner` is word 1 of its entry. -/
def newSerial (p partner : Nat) : G Nat := do
  let r ← get
  let n := r.word 8
  let e ← workVa n
  gWr e p
  gWr (e + 8) partner
  setW 8 (n + 1)
  return n

/-- Serial(p) (R281). -/
def serialOf (p : Nat) : G Nat := do
  match ← lookupKey p with
  | some (_, some v) => return v
  | found => do
    let r ← get
    if r.word 8 = r.word 7 || found.isNone then throw .full
    together do
      insertKey p (r.word 8) found
      newSerial p 0

/-- A pointer checked before it is followed (R270); the fault names the pointer word. -/
def checkPtr (p : Nat) (at0 : Word) : G Unit := do
  if !canonical (word p) then gFault .xlAddr at0
  else if p % 16 ≠ 0 then gFault .objHdr at0
  else pure ()

/-- Ref of a pointer word (R281). -/
def refOf (p : Nat) (at0 : Word) : G Nat := do
  if p = 0 then return 0
  checkPtr p at0
  let v ← serialOf p
  return v + 1

/-! ### Snapshots (R282, R283) -/

/-- The filter bits of some words set; whether the words between that are not read are watched too is open (R283, log entry 3). -/
def watchBits (pas : List Nat) : G Unit := modify fun r =>
  { r with g := { r.g with filt := (pas.map fun pa => (watchLoc r.s.hdm pa, watchIdx pa)).foldl (fun l b => if l.contains b then l else b :: l) r.g.filt } }

/-- The words of an object read one by one: each is watched, then read. -/
def readWords (p : Word) : List Nat → G (List Word)
  | [] => pure []
  | j :: l => do
    let r ← get
    let g ← liftU (uSeg r.g.uid accBulkRd (some .furlGraph) (p + word (8 * j)) 8)
    watchBits [g.pa]
    let v ← liftU (rdW r.g.uid (p + word (8 * j)))
    let rest ← readWords p l
    return v :: rest

/-- A word that belongs to an object and is not read, watched where a free value says so: a false positive (R283). -/
def watchMaybe (va : Word) : G Unit := do
  let r ← get
  set { r with s := { r.s with tick := r.s.tick + 1 } }
  if (Config.free r.s.tick).getLsbD 0 then do
    let g ← liftU (uSeg r.g.uid accBulkRd (some .furlGraph) va 8)
    watchBits [g.pa]

/-- The snapshot of a live object, its header checked: header word 0 and the body words (R270, R282). -/
def snapshot (p : Word) : G (Word × List Word) := do
  let h ← readWords p [0]
  let h := h.headD 0
  let r ← get
  if !hdrValid r.s r.g.ctx h then gFault .objHdr p
  if !h.getLsbD 8 then gFault .objDead p
  watchMaybe (p + 8)
  let b ← readWords p ((List.range (hdrLen h)).map (· + 2))
  if hdrLen h % 2 = 1 then watchMaybe (p + word (16 + 8 * hdrLen h))
  return (h, b)

/-- The body with every pointer word replaced by its Ref, in ascending order. -/
def bodyRefs (p : Word) (ptrs : List Nat) : List (Word × Nat) → G (List Nat)
  | [] => pure []
  | (v, i) :: l => do
    let x ← if ptrs.contains i then refOf v.toNat (p + 16 + word (8 * i)) else pure v.toNat
    let rest ← bodyRefs p ptrs l
    return x :: rest

/-! ### The five walks (R289 to R292, R295) -/

/-- An allocation by a unit from a bump block: the address, or nothing where it cannot be had; nothing is taken unless the object can
be written (R275, R289). -/
def allocAt (u : UnitId) (id : Nat) (blk : Word) (n : Nat) : U (Option Word) := do
  let g ← uSeg u ⟨true, true, true⟩ (some .furlGraph) blk 16
  let s ← get
  uFaultIf (anyPoison s g.pa 16) .poison blk
  let cur := rdNat s g.pa 8
  let last := rdNat s (g.pa + 8) 8
  let size := allocSize n
  if !bumpValid cur last || decide (last < cur + size) then return none
  else do
    let _ ← uSegs u accBulkWr (some .furlGraph) (size / 4096 + 2) (word cur) (16 + 8 * n)
    modify fun s => ownStore id (bytesAt g.pa 8 (cur + size)) s
    return some (word cur)

/-- The words of a new object written: header word 0, zero, the body. -/
def writeObject (u : UnitId) (id : Nat) (o : Word) (h : Word) : List (Nat × Nat) → U Unit
  | [] => do wrW u id o h.toNat; wrW u id (o + 8) 0
  | (v, i) :: l => do wrW u id (o + 16 + word (8 * i)) v; writeObject u id o h l

/-- The canonical stream's part of an object taken into the hash (R290). -/
def hashObject (hst : List Word) (ws : List Nat) : List Word :=
  let bytes := (ws.map (Crypto.leBytes 8)).flatten
  let n := (bytes.length + 127) / 128
  let l := bytes ++ List.replicate (n * 128 - bytes.length) 0
  Crypto.shaBlocks n (hst.take 8) l ++ [word ((hst.getD 8 0).toNat + n * 128)]

/-- An object handed to the receiver of a stream: its header word and its body with Refs (R295, R380). -/
def sendObject (s : State) (g : GWalk) (ws : List Word) : State :=
  match s.streams.find? fun x => x.id = g.stream && x.walk = g.id && x.qp.isNone with
  | some _ => { s with streams := s.streams.map fun x => if x.id = g.stream then { x with inbox := x.inbox ++ [ws] } else x }
  | none => match g.answer with
    | some (n :: _) => qpPost s n 0x0B 0 { Packet.blank with vals := word 1 :: word g.stream :: ws }
    | _ => s

/-- The pair of objects of a serial compared (R291). -/
def comparePair (p1 p2 : Word) (ptrs : List Nat) : List ((Word × Word) × Nat) → G Unit
  | [] => pure ()
  | ((x, y), i) :: l => do
    if !ptrs.contains i then
      if x ≠ y then throw (.differ (word i)) else pure ()
    else if x = 0 && y = 0 then pure ()
    else if x = 0 || y = 0 then throw (.differ (word i))
    else do
      checkPtr x.toNat (p1 + 16 + word (8 * i))
      checkPtr y.toNat (p2 + 16 + word (8 * i))
      let a ← lookupKey x.toNat
      let b ← lookupKey (y.toNat + 1)
      match a.bind (·.2), b.bind (·.2) with
      | none, none => do
        let r ← get
        if r.word 8 = r.word 7 || a.isNone || b.isNone then throw .full
        together do
          insertKey x.toNat (r.word 8) a
          let b ← lookupKey (y.toNat + 1)
          insertKey (y.toNat + 1) (r.word 8) b
          let _ ← newSerial x.toNat y.toNat
      | v, w => if v ≠ w then throw (.differ (word i)) else pure ()
    comparePair p1 p2 ptrs l

/-- The object NDONE processed (R281, R289 to R292, R295). -/
def processObject : G Unit := do
  let r ← get
  let n := r.word 9
  let e ← workVa n
  let p ← gRd e
  if r.g.oper = 0x74 then do
    let q ← gRd (e + 8)
    let (h1, b1) ← snapshot (word p)
    let (h2, b2) ← snapshot (word q)
    if h1 ≠ h2 then throw (.differ (BitVec.allOnes 64))
    let r ← get
    comparePair (word p) (word q) (ptrWords r.s r.g.ctx h1) (b1.zip b2).zipIdx
    let r ← get
    setW 10 (r.word 10 + 2 * allocSize (hdrLen h1))
  else do
    let (h, b) ← snapshot (word p)
    if r.g.oper = 0x78 && h.getLsbD 9 then gWr (e + 8) 0
    else do
      let r ← get
      let ws ← bodyRefs (word p) (ptrWords r.s r.g.ctx h) b.zipIdx
      let r ← get
      match r.g.oper with
      | 0x70 => do
        match ← liftU (allocAt r.g.uid r.g.id (r.w.getD 2 0) ws.length) with
        | none => throw .full
        | some o => do
          liftU (writeObject r.g.uid r.g.id o h ws.zipIdx)
          gWr (e + 8) o.toNat
      | 0x76 => set { r with g := { r.g with hst := hashObject r.g.hst (h.toNat :: ws) } }
      | 0x78 => do
        let cur ← gRd (word p)
        gWr (word p) (cur - cur % 512 + cur % 256)
        gWr (e + 8) 1
        setW 11 (r.word 11 + 1)
      | _ => set { r with s := sendObject r.s r.g (h :: ws.map word) }
    let r ← get
    setW 10 (r.word 10 + allocSize (hdrLen h))
  setW 9 (n + 1)

/-- The roots discovered (R281, R291). -/
def discoverRoots : G Unit := do
  let r ← get
  let p := r.word 1
  if r.g.oper = 0x74 then do
    let q := r.word 2
    if p = 0 && q = 0 then pure ()
    else if p = 0 || q = 0 then throw (.differ (BitVec.allOnes 64))
    else do
      checkPtr p (word p)
      checkPtr q (word q)
      together do
        insertKey p 0 (← lookupKey p)
        insertKey (q + 1) 0 (← lookupKey (q + 1))
        let _ ← newSerial p q
  else if p = 0 then pure ()
  else do
    checkPtr p (word p)
    let _ ← serialOf p

/-- The fix-up of some copies (R289, R295): in the object at `obj s`, every pointer word with a nonzero Ref becomes `target` of it. -/
def fixObjects (u : UnitId) (id ctx : Nat) (obj : Nat → Word) : List Nat → U Unit
  | [] => pure ()
  | k :: l => do
    let o ← rdW u (obj k)
    let h ← rdW u o
    let s ← get
    let rec words : List Nat → U Unit
      | [] => pure ()
      | i :: is => do
        let v ← rdW u (o + 16 + word (8 * i))
        if v = 0 then words is
        else do
          let t ← rdW u (obj (v.toNat - 1))
          wrW u id (o + 16 + word (8 * i)) t.toNat
          words is
    words (ptrWords s ctx h)
    fixObjects u id ctx obj l

/-- Every value of the forwarding table replaced by the address of its copy (R289). -/
def fixTable (u : UnitId) (id : Nat) (ft wb : Word) : List Nat → U Unit
  | [] => pure ()
  | j :: l => do
    let k ← rdW u (ft + word (16 * j))
    if k = 0 then fixTable u id ft wb l
    else do
      let v ← rdW u (ft + word (16 * j + 8))
      let a ← rdW u (wb + word (16 * v.toNat + 8))
      wrW u id (ft + word (16 * j + 8)) a.toNat
      fixTable u id ft wb l

/-- GCOPY's fix-up pass and its result (R289): made as one, so that a walk that stops in it has left its copies as they were. -/
def fixCopies : G Unit := together do
  let r ← get
  let wb : Word := r.w.getD 6 0
  let n := r.word 8
  let u := r.g.uid
  liftU (fixObjects u r.g.id r.g.ctx (fun k => wb + word (16 * k + 8)) (List.range n))
  liftU (fixTable u r.g.id (r.w.getD 4 0) wb (List.range (2 ^ r.word 5)))
  let root ← if n = 0 then pure 0 else gRd (wb + 8)
  setW 11 root

/-! ### The end of a walk (R279, R284, R287) -/

/-- The fault code of a number. -/
def codeOf (n : Nat) : Code :=
  match [Code.align, .xlMiss, .xlPerm, .xlAddr, .furlGraph, .poison, .handle, .objHdr, .objDead, .graphLayout].find? fun c => c.num = n with
  | some c => c
  | none => .xlPerm

/-- The block's words stored, those from `j` on. -/
def storeBlock (id pa : Nat) (s : State) (ws : List (Word × Nat)) : State :=
  ws.foldl (fun s p => ownStore id (bytesAt (pa + 8 * p.2) 8 p.1.toNat) s) s

/-- The words of a block at a stop or the end with a state and a fault code. -/
def endWords (r : GRun) (state fcode : Nat) (lost : Bool) : List Word :=
  let old := r.word 0
  let bit (b : Bool) (j : Nat) : Nat := if b then 2 ^ j else 0
  let w0 := state * 2 ^ 56 + r.g.oper * 2 ^ 48 + fcode * 2 ^ 40 + bit (lost || old.testBit 39) 39 + bit (r.g.marked || old.testBit 38) 38
  let fin := state = 3 || state = 4
  let hs : List Word :=
    if r.g.oper ≠ 0x76 then (List.range 9).map fun j => r.w.getD (16 + j) 0
    else if fin then
      let n := (r.g.hst.getD 8 0).toNat
      let d := Crypto.shaFinish (r.g.hst.take 8) [] n
      (List.range 6).map (fun j => word (Crypto.ofLe (((Crypto.beBytes 48 d.toNat).drop (8 * j)).take 8))) ++ [0, 0, 0]
    else r.g.hst
  let keep := state = 2
  word w0 :: ((List.range 7).map fun j => r.w.getD (j + 1) 0) ++ ((List.range 5).map fun j => r.w.getD (8 + j) 0) ++
    [if keep then word r.g.stream else 0, 0, 0] ++ hs ++ (List.range 7).map fun j => if keep then r.w.getD (25 + j) 0 else 0

/-- What a graph instruction's attempt comes to. -/
inductive GOut where
  /-- it completes with a status -/
  | done (st : Nat) (s : State)
  /-- it waits, and is tried again -/
  | again (s : State)
  /-- it faults -/
  | trap (t : Trap) (s : State)

/-- A landing zone released: HOLD and NRECV zero, the stream forgotten (R294). -/
def releaseZone (s : State) (id : Nat) : State :=
  match s.streams.find? fun x => x.id = id with
  | none => s
  | some x =>
    let s := (perform s (bytesAt x.pa 8 0 ++ bytesAt (x.pa + 40) 8 0) []).1
    { s with streams := s.streams.filter fun y => y.id ≠ id }

/-- A stream no longer held at a peer's zone. -/
def forgetZone (s : State) (stream : Nat) : State :=
  { s with qps := s.qps.map fun (q : Nat × Qp) => (q.1, { q.2 with zones := q.2.zones.filter fun z => z.1 ≠ stream }) }

/-- A stream that its sender ends: its zone is released, here or by a packet to the package where it lies (R294). -/
def giveUpStream (s : State) (stream : Nat) : State :=
  match s.qps.find? fun q => q.2.zones.any fun z => z.1 = stream with
  | some (n, _) => forgetZone (qpPost s n 0x0B 0 { Packet.blank with vals := [word 3, word stream] }) stream
  | none => if s.streams.any fun x => x.id = stream && x.qp.isNone then releaseZone s stream else s

/-- The zone of a walk that gives it up. -/
def giveUpZone (s : State) (g : GWalk) : State := if g.oper ≠ 0x72 || g.stream = 0 then s else giveUpStream s g.stream

/-- The walk's record without its slot. -/
def dropWalk (s : State) (id : Nat) : State := { forgetAnswers s (3000000 + id) with gwalks := s.gwalks.filter fun g => g.id ≠ id }

/-- The walk's record replaced. -/
def putWalk (s : State) (g : GWalk) : State := { s with gwalks := s.gwalks.map fun h => if h.id = g.id then { g with marked := h.marked } else h }

/-- A walk ended with a state (R279, R287): its slot and filters given up, its zone released unless it is kept for a resumption. -/
def endWalk (r : GRun) (state fcode : Nat) (lost : Bool) : State :=
  let s := storeBlock r.g.id r.g.pa r.s (endWords r state fcode lost).zipIdx
  let s := if state = 5 || state = 6 then giveUpZone s r.g else if state = 2 then s else forgetZone s r.g.stream
  dropWalk s r.g.id

/-- A walk stopped by a fault of class U, which keeps its slot and filters (R287). -/
def keepWalk (r : GRun) (fcode : Nat) : State :=
  let s := storeBlock r.g.id r.g.pa r.s (endWords r 2 fcode false).zipIdx
  forgetAnswers (putWalk s { r.g with running := false }) (3000000 + r.g.id)

/-- The end of an attempt that met a stop. -/
def stopped (r : GRun) (pre : State) : GStop → GOut
  | .wait f => .again (f pre)
  | .full => .done 5 (endWalk r 5 0 false)
  | .differ i =>
    let dirty := r.g.marked || (r.word 0).testBit 39 || (r.word 0).testBit 38
    let n := if r.word 8 = 0 then 1 else r.word 9 + 1
    let r := { r with w := (r.w.set 11 (word n)).set 12 i }
    let st := if dirty then 4 else 3
    .done st (endWalk r st 0 false)
  | .fault st w1 va =>
    let c := codeOf st
    if c.cls = .u then .trap { code := c, info := va, cookie := if st = 0x10 then w1.toNat else 0 } (keepWalk r st)
    else .trap { code := c, info := va } (endWalk r 6 st false)

/-! ### The landing zone (R293 to R295) -/

/-- What a check of a zone says: how the walk goes on, with the new stream. 0 claimed or still held, 7 busy, 0x4B another layout,
0x38 an invalid descriptor. -/
structure ZoneAns where
  code : Nat
  stream : Nat

/-- A landing zone as its receiver reaches it: a Bunting unit of a die (R293; log entry 18). -/
def zoneUid (die wid ctx : Nat) : UnitId := ⟨200 + 2 * die, 5000000 + wid, die, ctx⟩

/-- A unit's step whose faults, whatever they are, give another value. -/
def orElse {α : Type} (x : U α) (y : U α) : U α := fun s => match x s with
  | .error (.fault _ _ _) => y s
  | o => o

/-- The core whose slice holds a descriptor's AQ, where it is one below QBASE (R294). -/
def aqSlice (s : State) (pa : Nat) : Option Nat :=
  match ownerOf s.hdm pa with | .slice o off => if off + 64 ≤ qbaseOf s o then some o else none | _ => none

/-- The identity of a new stream, which differs from every other's of the pod: a new number and the package (R293). -/
def streamId (s : State) : Nat := (s.nextId + 1) * 2 ^ 21 + s.pkg.toNat

/-- The checks of a zone and its claim (R294). `hold` is 0 for a NEW walk, the stream of an INTERRUPTED one otherwise. -/
def zoneCheck (die : Nat) (ctx : Nat) (desc fp : Word) (hold : Nat) (qp : Option Nat) (walk src : Nat) : U ZoneAns := do
  let s ← get
  if fp ≠ fingerprint s ctx then return ⟨0x4B, 0⟩
  else if desc.toNat % 64 ≠ 0 then return ⟨0x38, 0⟩
  else do
    let u := zoneUid die walk ctx
    let g ← uSeg u ⟨true, true, true⟩ (some .furlGraph) desc 64
    let s ← get
    uFaultIf (anyPoison s g.pa 64) .poison desc
    let f (j : Nat) := rdNat s (g.pa + 8 * j) 8
    let aq ← orElse (do let q ← uSeg u ⟨true, true, true⟩ (some .furlGraph) (word (f 4)) 64; return aqSlice (← get) q.pa) (pure none)
    let s ← get
    let ok := f 6 = 0 && f 7 = 0 && decide (1 ≤ f 3) && decide (f 3 ≤ 2 ^ 24) && f 1 % 16 = 0 && f 2 % 8 = 0 && f 4 % 64 = 0 &&
      aq.isSome
    if !ok then return ⟨0x38, 0⟩
    else if hold = 0 then
      if f 0 ≠ 0 then return ⟨7, 0⟩
      else do
        let id := streamId s
        let s := (perform s (bytesAt g.pa 8 id ++ bytesAt (g.pa + 40) 8 0) []).1
        set ({ s with nextId := s.nextId + 1, streams := s.streams ++ [⟨id, ctx, desc, g.pa, qp, walk, [], none, src, dieOf (aq.getD 0)⟩] } : State)
        return ⟨0, id⟩
    else if f 0 = hold && (s.streams.any fun x => x.id = hold) then do
      set ({ s with streams := s.streams.map fun x => if x.id = hold then { x with walk := walk } else x } : State)
      return ⟨0, hold⟩
    else return ⟨0x38, 0⟩

/-- A record on a receiving context's terminal ring (R294, R295). -/
def zoneRecord (s : State) (ctx st : Nat) (va : Word) : State := engRecord s ctx st va 0 0 0

/-- The zone checked for a walk on this package or another; a descriptor that cannot be read is invalid too, and the record of an invalid one
is the receiver's (R294). -/
def zoneOpen (s : State) (die ctx : Nat) (desc fp : Word) (hold : Nat) (qp : Option Nat) (walk src : Nat) : Except State (ZoneAns × State) :=
  match zoneCheck die ctx desc fp hold qp walk src s with
  | .ok (a, s) => .ok (a, if a.code = 0x38 then zoneRecord s ctx 0x38 0 else s)
  | .error (.walk f) => .error (f s)
  | .error (.fault _ _ _) => .ok (⟨0x38, 0⟩, zoneRecord s ctx 0x38 0)

/-- The end of a stream told to the walk that sends it: a state, and a fault code (R295). -/
def tellSender (s : State) (x : LStream) (state fcode : Nat) : State :=
  match x.qp with
  | none => { s with gwalks := s.gwalks.map fun g => if g.id = x.walk then { g with fix := state * 256 + fcode + 1 } else g }
  | some n => qpPost s n 0x0B 0 { Packet.blank with vals := [word 2, word x.walk, word state, word fcode] }

/-- A stream that ends LANDFULL, or FAILED by a fault of the receiver. -/
def streamFails (s : State) (x : LStream) (state fcode : Nat) (va : Word) : State :=
  let s := if state = 6 then zoneRecord s x.ctx fcode va else s
  tellSender (releaseZone s x.id) x state fcode

/-- The words of a stream's descriptor can be read (R72, R295). -/
def descHere (x : LStream) : U State := do
  uIdle x.pa 64
  let s ← get
  uFaultIf (anyPoison s x.pa 64) .poison x.desc
  return s

/-- The object at the head of a stream received (R295); the Bool says LANDFULL. -/
def receiveObject (u : UnitId) (x : LStream) (ws : List Word) : U Bool := do
  let s ← descHere x
  let f (j : Nat) := rdNat s (x.pa + 8 * j) 8
  let k := f 5
  if f 3 ≤ k then return true
  else do
    match ← allocAt u 0 (word (f 1)) (ws.length - 1) with
    | none => return true
    | some o => do
      writeObject u 0 o (ws.headD 0) ((ws.drop 1).map (·.toNat)).zipIdx
      wrW u 0 (word (f 2 + 8 * k)) o.toNat
      modify fun s => (perform s (bytesAt (x.pa + 40) 8 (k + 1)) []).1
      return false

/-- The unit that receives a stream: one of the die whose slice holds AQ (R293). -/
def streamUid (x : LStream) : UnitId := zoneUid x.die x.id x.ctx

/-- LANDING_OBJECT (R295): the oldest stream with an object to receive receives it. -/
def landObject (s : State) : State :=
  match s.streams.find? fun x => x.inbox ≠ [] with
  | none => s
  | some x =>
    let wid := (streamUid x).wid
    match receiveObject (streamUid x) x (x.inbox.headD []) s with
    | .ok (true, s) => streamFails (forgetAnswers s wid) x 8 0 0
    | .ok (false, s) => forgetAnswers { s with streams := s.streams.map fun y => if y.id = x.id then { y with inbox := y.inbox.drop 1 } else y } wid
    | .error (.walk f) => f s
    | .error (.fault st _ va) => streamFails (forgetAnswers s wid) x 6 st va

/-- The fix-up at the receiver and the notice (R295); the Bool says LANDFULL. -/
def finishStream (u : UnitId) (x : LStream) (n : Nat) : U Bool := do
  let s ← descHere x
  let f (j : Nat) := rdNat s (x.pa + 8 * j) 8
  let ltab : Word := word (f 2)
  fixObjects u 0 x.ctx (fun k => ltab + word (8 * k)) (List.range n)
  let root ← if n = 0 then pure 0 else rdW u ltab
  let aq : Word := word (f 4)
  let g ← orElse (uSeg u ⟨true, true, true⟩ (some .furlGraph) aq 64) (uFault Code.xlPerm.num aq)
  let s ← get
  uFaultIf (aqSlice s g.pa).isNone .xlPerm aq
  match (← uRmw ⟨0, 0, x.ctx, 0⟩ g.pa 64 aq (.enq 2 [root, word n])) with
  | .vals [v] => return v ≠ 0
  | .poison => uFault Code.poison.num aq
  | .fault t => uFault t.code.num aq
  | _ => return true

/-- LANDING_COMPLETE (R295): a stream whose objects have all been received, and whose sender has closed its filters, is fixed up, its
notice enqueued, its zone freed, and the sender told. -/
def landComplete (s : State) : State :=
  match s.streams.find? fun x => x.inbox = [] && x.ended.isSome with
  | none => s
  | some x =>
    let wid := (streamUid x).wid
    match finishStream (streamUid x) x (x.ended.getD 0) s with
    | .ok (true, s) => streamFails (forgetAnswers s wid) x 8 0 0
    | .ok (false, s) => tellSender (releaseZone (forgetAnswers s wid) x.id) x 3 0
    | .error (.walk f) => f s
    | .error (.fault st _ va) => streamFails (forgetAnswers s wid) x 6 st va

/-! ### The instruction (R285, R286) -/

/-- The block's address checked and its words read (R279). -/
def openBlock (u : UnitId) (b : Word) : U (Seg × List Word) := do
  let g ← uSeg u ⟨true, true, true⟩ (some .furlGraph) b 256
  let s ← get
  uFaultIf (anyPoison s g.pa 256) .poison b
  return (g, (List.range 32).map fun j => word (rdNat s (g.pa + 8 * j) 8))

/-- The zero, range and alignment rules of a NEW block (R279, R286). -/
def blockCheck (op : Nat) (w : List Word) : Option (Code × Word) :=
  let f (j : Nat) := (w.getD j 0).toNat
  let zeros := (List.range 24).all fun j => f (8 + j) = 0
  if !((op = 0x70 || op = 0x74 || f 2 = 0) && decide (f 3 < 4) && decide (4 ≤ f 5) && decide (f 5 ≤ 28) && decide (1 ≤ f 7) &&
      decide (f 7 ≤ 2 ^ 24) && zeros) then some (.illField, 0)
  else if f 4 % 2 ^ (4 + f 5) ≠ 0 then some (.align, w.getD 4 0)
  else if f 6 % 16 ≠ 0 then some (.align, w.getD 6 0)
  else if op = 0x70 && f 2 % 16 ≠ 0 then some (.align, w.getD 2 0)
  else none

/-- A range set to zero by a walk, page by page (R279). -/
def clearRange (u : UnitId) (id : Nat) : Nat → Word → Nat → U Unit
  | 0, _, _ => pure ()
  | f + 1, va, n => do
    if n = 0 then pure ()
    else do
      let m := min n (4096 - va.toNat % 4096)
      let g ← uSeg u accBulkWr (some .furlGraph) va m
      modify fun s => ownStore id ((List.range m).map fun j => (g.pa + j, 0)) s
      clearRange u id f (va + word m) (n - m)

/-- The forwarding table and the work array zeroed where CLR says so. -/
def clearTables (u : UnitId) (id : Nat) (w : List Word) : U Unit := do
  if (w.getD 3 0).getLsbD 0 then do
    let n := 16 * 2 ^ (w.getD 5 0).toNat
    clearRange u id (n / 4096 + 2) (w.getD 4 0) n
    let m := 16 * (w.getD 7 0).toNat
    clearRange u id (m / 4096 + 2) (w.getD 6 0) m

/-- The walk of a task that runs. -/
def myWalk (s : State) (c i task : Nat) : Option GWalk := s.gwalks.find? fun g => g.running && g.holder = (c, i, task)

/-- A walk slot for a walk that has none (R288): its own unit first, then the other of the die; earlier walks of the die first. -/
def seatWalk (s : State) (g : GWalk) : GWalk :=
  let open' (u : Nat) : Bool := !s.buntFenced.contains u
  let die := dieOf g.holder.1
  let before := s.gwalks.takeWhile fun h => h.id ≠ g.id
  let used (u : Nat) : Nat := (s.gwalks.filter fun h => h.unit = some u).length
  let first := if g.holder.1 % 1536 < 768 then 2 * die else 2 * die + 1
  let other := if g.holder.1 % 1536 < 768 then 2 * die + 1 else 2 * die
  if g.unit.isSome || before.any (fun h => h.unit.isNone && dieOf h.holder.1 = die) then g
  else if used first < 8 && open' first then { g with unit := some first }
  else if used other < 8 && open' other then { g with unit := some other }
  else g

/-- What GHASH's HSTATE holds while the walk is ACTIVE is open (R279; log entry 3). -/
def openHash (s : State) (g : GWalk) : State :=
  if g.oper ≠ 0x76 then s
  else
    let s' := storeBlock g.id g.pa s ((List.range 9).map fun j => (Config.free (s.tick + j), 16 + j))
    { s' with tick := s'.tick + 9 }

/-- The first attempt of a graph instruction: the block's state decides (R286). -/
def startWalk (s : State) (c i : Nat) (op : Nat) (b : Word) : GOut :=
  let sl := slotAt s c i
  let u : UnitId := ⟨200 + 2 * dieOf c, 4000000 + c * 8 + i, dieOf c, sl.ctx⟩
  let done (s : State) : State := forgetAnswers s u.wid
  match openBlock u b s with
  | .error (.walk f) => .again (f s)
  | .error (.fault st w1 va) => .trap { code := codeOf st, info := va, cookie := if st = 0x10 then w1.toNat else 0 } (done s)
  | .ok ((g, w), s) =>
    let w0 := (w.getD 0 0).toNat
    let state := w0 / 2 ^ 56
    let oper := w0 / 2 ^ 48 % 256
    let kept := s.gwalks.find? fun h => h.pa = g.pa
    let phase := if op = 0x72 then 3 else 0
    let bad : GOut := .trap { code := .illField, info := 0 } (done s)
    let active (s : State) (w : List Word) (old : GWalk) (marks : Nat) : GOut :=
      let w0 := 2 ^ 56 + op * 2 ^ 48 + marks
      let s := storeBlock old.id g.pa s ((word w0, 0) :: (List.range 7).map fun j => (if j = 2 then w.getD 3 0 &&& ~~~2 else w.getD (j + 1) 0, 25 + j))
      .again (openHash (done s) old)
    match state with
    | 1 => .again s
    | 0 =>
      match blockCheck op w with
      | some (code, info) => .trap { code := code, info := info } (done s)
      | none =>
        let id := s.nextId + 1
        (match clearTables u id w s with
        | .error (.walk f) => .again (f s)
        | .error (.fault st w1 va) => .trap { code := codeOf st, info := va, cookie := if st = 0x10 then w1.toNat else 0 } (done s)
        | .ok (_, s) =>
          let new : GWalk := ⟨id, g.pa, sl.ctx, op, (c, i, sl.task), none, true, [], false, phase, 0, Crypto.shaInit ++ [0], 0, none⟩
          active { s with nextId := id, gwalks := s.gwalks ++ [new] } w new 0)
    | 2 =>
      let same := (List.range 7).all fun j => if j = 2 then (w.getD 3 0 &&& ~~~2) = w.getD 27 0 else w.getD (j + 1) 0 = w.getD (25 + j) 0
      if oper ≠ op || !same then bad
      else
        let hst := (List.range 9).map fun j => w.getD (16 + j) 0
        let stream := (w.getD 13 0).toNat
        let id := s.nextId + 1
        let walk : GWalk := match kept with
          | some h => { h with holder := (c, i, sl.task), running := true, phase := phase, fix := 0, hst := hst, answer := none }
          | none => ⟨id, g.pa, sl.ctx, op, (c, i, sl.task), none, true, [], false, phase, 0, hst, stream, none⟩
        let s := match kept with
          | some _ => putWalk s walk
          | none => { s with nextId := id, gwalks := s.gwalks ++ [walk] }
        if (w.getD 3 0).getLsbD 1 then
          .done 6 (done (endWalk ⟨s, w, walk⟩ 6 0 false))
        else active s w walk (w0 % 2 ^ 40 / 2 ^ 38 * 2 ^ 38)
    | 3 | 4 | 5 | 6 | 8 => if oper ≠ op then bad else .done state (done s)
    | _ => bad

/-- The walk's record as far as an attempt took it, and the block's counts, stored (R286). -/
def saveRun (r : GRun) : State :=
  putWalk (storeBlock r.g.id r.g.pa r.s ((List.range 5).map fun j => (r.w.getD (8 + j) 0, 8 + j))) r.g

/-- GSEND's checks as the walk starts or resumes (R294): `hs` is the landing zone that the handle names. -/
def openZone (r : GRun) (pre : State) (b : Word) (hd : Option Handle) : GOut :=
  let s := r.s
  let g := r.g
  let fails (s : State) (code : Nat) : State := endWalk { r with s := s } 6 code false
  let goOn (s : State) (stream : Nat) (n : Option Nat) : GOut :=
    let g := { g with phase := 0, stream := stream, answer := n.map fun n => [n], fix := 0 }
    .again (putWalk (storeBlock g.id g.pa s [(word stream, 13)]) g)
  let decide' (s : State) (code stream : Nat) (n : Option Nat) : GOut :=
    let new := r.word 9 = 0 && r.word 8 = 0 && g.stream = 0
    let back : List (Word × Nat) := (0, 0) :: (List.range 7).map fun j => (0, 25 + j)
    match code with
    | 0 => goOn (match n with
      | some q => modQp s q fun y => { y with zones := y.zones.filter (fun z => z.1 ≠ stream) ++ [(stream, g.ctx)] }
      | none => s) stream n
    | 7 => .done 7 (dropWalk (storeBlock g.id g.pa s back) g.id)
    | 0x4B =>
      if new then .trap { code := .graphLayout, info := b } (dropWalk (storeBlock g.id g.pa s back) g.id)
      else .trap { code := .graphLayout, info := b } (keepWalk { r with s := s } 0x4B)
    | _ => .done 6 (fails s 0x38)
  match hd with
  | some (.landing pkg ctx desc qpn) =>
    if pkg = s.pkg.toNat then
      let gone : Bool := match nget s.ctxs ctx with | some x => x.st = .ended || x.st = .error | none => true
      if gone then .trap { code := .handle } (fails s 0x38)
      else match zoneOpen s (dieOf g.holder.1) ctx desc (fingerprint s g.ctx) g.stream none g.id g.ctx with
        | .error _ => match zoneOpen pre (dieOf g.holder.1) ctx desc (fingerprint s g.ctx) g.stream none g.id g.ctx with
          | .error s => .again s
          | .ok _ => .again pre
        | .ok (a, s) => decide' s a.code a.stream none
    else
      let n := qpn.toNat
      let ready : Bool := match nget s.qps n with | some q => q.st = .ready | none => false
      if !ready then .done 6 (fails s 0x38)
      else match g.answer with
        | none =>
          let s := qpPost s n 0x0B 0 { Packet.blank with vals := [0, word ctx, desc, fingerprint s g.ctx, word g.id, word g.stream] }
          .again (putWalk s { g with answer := some [] })
        | some (code :: stream :: _) => decide' s code stream (some n)
        | some _ => .again s
  | _ => .trap { code := .handle } (fails s 0x38)

/-- The objects done: the filters close, and the walk completes, or GSEND's asks the receiver to (R284, R295). -/
def closeWalk (r : GRun) (pre : State) : GOut :=
  let dirty := r.g.marked || (r.word 0).testBit 39 || (r.word 0).testBit 38
  let st := if dirty then 4 else 3
  match r.g.oper with
  | 0x70 =>
    (match fixCopies r with
    | (.ok _, r) => .done st (endWalk r st 0 false)
    | (.error e, _) => stopped r pre e)
  | 0x72 =>
    let g := { r.g with phase := 2, filt := [], hst := [word st] }
    let s := putWalk r.s g
    let n := r.word 8
    (match g.answer with
    | some (q :: _) => .again (qpPost s q 0x0B 0 { Packet.blank with vals := [word 4, word g.stream, word n] })
    | _ => .again { s with streams := s.streams.map fun x => if x.id = g.stream then { x with ended := some n } else x })
  | _ => .done st (endWalk r st 0 false)

/-- A walk that stops while it waits for its receiver: a stream of this package is not asked to complete any longer (R287). -/
def callBack (s : State) (g : GWalk) : State :=
  if g.oper = 0x72 then { s with streams := s.streams.map fun x => if x.id = g.stream && x.qp.isNone then { x with ended := none } else x } else s

/-- A further attempt of a graph instruction whose walk runs: a drain stops it, otherwise it takes its slot, opens its zone, processes an
object or completes (R286 to R288). -/
def runWalk (s : State) (c i : Nat) (b : Word) (g : GWalk) (hd : Option Handle) : GOut :=
  let w := (List.range 32).map fun j => word (rdNat s (g.pa + 8 * j) 8)
  let r : GRun := ⟨s, w, g⟩
  if draining s (slotAt s c i).ctx && g.fix = 0 then
    .done 2 (endWalk { r with s := callBack s g } 2 0 true)
  else if g.fix ≠ 0 then
    let state := (g.fix - 1) / 256
    let fc := (g.fix - 1) % 256
    if state = 3 then
      let st := (g.hst.headD 3).toNat
      .done st (endWalk r st 0 false)
    else .done state (endWalk r state fc false)
  else
    match (seatWalk s g).unit with
    | none => .again s
    | some _ =>
      let r := { r with g := seatWalk s g }
      match g.phase with
      | 3 => openZone { r with s := putWalk s r.g } s b hd
      | 2 => .again s
      | _ =>
        if r.word 9 < r.word 8 then
          match processObject r with
          | (.ok _, r) => .again (forgetAnswers (saveRun r) (3000000 + g.id))
          | (.error e, r') => stopped r' (putWalk s r.g) e
        else if r.word 8 = 0 && (r.word 1 ≠ 0 || (g.oper = 0x74 && r.word 2 ≠ 0)) then
          match discoverRoots r with
          | (.ok _, r) => .again (forgetAnswers (saveRun r) (3000000 + g.id))
          | (.error e, r') => stopped r' (putWalk s r.g) e
        else closeWalk r (putWalk s r.g)

/-- A graph instruction (R285, R286); one that a drain finds waiting for its block ends INTERRUPTED and leaves the block (R359). -/
def graphOp (op : Nat) (d : GZ) (a : GReg) (h : Option Src) : M Flow := do
  let b ← readG a
  let x ← match h with | some q => read1 q | none => pure 0
  raiseIf (b.toNat % 256 ≠ 0) .align b
  let s ← get
  let c := s.cur
  let i := actOf s c
  let sl := slotAt s c i
  raiseIf (i = 4) .hBlock
  raiseIf (sl.mw ≠ 0) .maskwBlock
  let hd := if 4095 < x.toNat then none else (nget s.ctxs sl.ctx).bind fun y => nget y.handles x.toNat
  let out ← match myWalk s c i sl.task with
    | some g => pure (runWalk s c i b g hd)
    | none => do
      releaseTask
      match startWalk s c i op b with
      | .again s' => if draining s sl.ctx && (myWalk s' c i sl.task).isNone then pure (.done 2 (forgetAnswers s (4000000 + c * 8 + i))) else pure (.again s')
      | o => pure o
  match out with
  | .done st s => do
    set s
    writeGZ d (word st)
    return .next
  | .again s' => waitWith .walkTurn fun _ => s'
  | .trap t s' => fun _ => .error (.trap t fun _ => s')

/-- GCOPY (R285, R286, R289). -/
def execGcopy (d : GZ) (a : GReg) (s : State) : Host.Outcome State Fault Refusal :=
  issueW (packR 0x70 0 d.code a.val 0 0 0 0) (graphOp 0x70 d a none) s

/-- GSEND (R285, R286, R294, R295). -/
def execGsend (d : GZ) (a : GReg) (b : Src) (s : State) : Host.Outcome State Fault Refusal :=
  issueW (packR 0x72 0 d.code a.val b.code 0 0 0) (graphOp 0x72 d a (some b)) s

/-- GCMP (R285, R286, R291). -/
def execGcmp (d : GZ) (a : GReg) (s : State) : Host.Outcome State Fault Refusal :=
  issueW (packR 0x74 0 d.code a.val 0 0 0 0) (graphOp 0x74 d a none) s

/-- GHASH (R285, R286, R290). -/
def execGhash (d : GZ) (a : GReg) (s : State) : Host.Outcome State Fault Refusal :=
  issueW (packR 0x76 0 d.code a.val 0 0 0 0) (graphOp 0x76 d a none) s

/-- GFREE (R285, R286, R292). -/
def execGfree (d : GZ) (a : GReg) (s : State) : Host.Outcome State Fault Refusal :=
  issueW (packR 0x78 0 d.code a.val 0 0 0 0) (graphOp 0x78 d a none) s

/-- LANDING_OBJECT (R295). -/
def execLandingObject (s : State) : Host.Outcome State Fault Refusal :=
  .next (landObject s)

/-- LANDING_COMPLETE (R295). -/
def execLandingComplete (s : State) : Host.Outcome State Fault Refusal :=
  .next (landComplete s)

end Sys2Proof.Machine
end

