-- ==== Sys2Proof/Machine/Send.lean ====
section
/-! DEFINITION. SEND, SENDW and the host queues (R227 to R240). -/

namespace Sys2Proof.Machine

/-! ### Handles -/

/-- HandleEntry (R229): the entry of the context's handle table that an index names. -/
def handleEntry (x : Word) : M Handle := do
  let s ← get
  let sl ← mySlot
  match (nget s.ctxs sl.ctx).bind fun y => nget y.handles x.toNat with
  | some h => if 4095 < x.toNat then raise .handle else pure h
  | none => raise .handle

/-- Where a message for a core of a package goes: the core, or the fabric (R235, R380). -/
def destOf (s : State) (pkg rank : Nat) : Nat := if pkg = s.pkg.toNat then rank else 0x1000000 + pkg * 8192 + rank

/-- SEND (R237). -/
def send (a : Src) (b : GReg) (rel hc : Bool) (nw : BitVec 3) (hn : BitVec 10) : M Flow := do
  let x ← read1 a
  let h ← handleEntry x
  let s ← get
  let me := senderOf s s.cur (actOf s s.cur)
  let p ← readRun b.val nw.toNat
  match h with
  | .core pkg rank tctx hmax _ _ => do
    raiseIf (decide (hmax.toNat < hn.toNat)) .handle
    waitOutbound false
    if rel then releaseTask
    modify fun s => inject s (destOf s pkg.toNat rank.toNat) me (if hc then .hmsg hn.toNat p tctx else .lmsg hn.toNat p tctx)
  | .hostQueue ring _ => do
    raiseIf hc .illField
    waitOutbound false
    if rel then releaseTask
    modify fun s => inject s (0x400000 + ring) me (.lmsg hn.toNat p me.ctx)
  | _ => raise .handle
  return .next

/-- SENDW (R240): always a release. -/
def sendWin (a : Src) (b : GReg) (c : GZ) (nw : BitVec 3) (ce : Bool) (cn : BitVec 6) : M Flow := do
  let x ← read1 a
  let h ← handleEntry x
  let off ← readGZ c
  let p ← readRun b.val nw.toNat
  match h with
  | .core pkg rank tctx _ wbase wlen => do
    waitOutbound false
    releaseTask
    modify fun s => inject s (destOf s pkg.toNat rank.toNat) (senderOf s s.cur (actOf s s.cur))
      (.sendw tctx wbase.toNat wlen.toNat off.toNat p (if ce then some cn.toNat else none))
  | _ => raise .handle
  return .next

/-! ### Rings (R109 to R111; log entry 9) -/

/-- The control block of a ring: base, size in records, head, tail. -/
def ringWord (s : State) (pa j : Nat) : Nat := rdNat s (pa + 8 * j) 8

/-- The sizes of a ring (R110). -/
def ringSizes : List Nat := [16, 32, 64, 128, 256, 512, 1024, 2048, 4096, 8192, 16384, 32768, 65536]

/-- Whether a ring has no place for a record; one whose size is none of R110 has none (log entry 9). -/
def ringFull (s : State) (pa : Nat) : Bool :=
  !ringSizes.contains (ringWord s pa 1) || decide (ringWord s pa 1 ≤ (ringWord s pa 3 + 2 ^ 64 - ringWord s pa 2) % 2 ^ 64)

/-- A record written, and then the tail advanced (R110). -/
def ringPut (s : State) (pa : Nat) (ws : List Word) : State :=
  let tail := ringWord s pa 3
  let at0 := ringWord s pa 0 + 64 * (tail % max 1 (ringWord s pa 1))
  let s := ws.zipIdx.foldl (fun s p => wrNat s (at0 + 8 * p.2) 8 p.1.toNat) s
  wrNat s (pa + 24) 8 ((tail + 1) % 2 ^ 64)

/-- The record of a SEND to a host queue (R238). -/
def hostRecord (m : Msg) (hn : Nat) (p : List Word) : List Word :=
  word (hn + p.length * 1024 + vfOf m.src.ctx % 512 * 65536) ::
    ((List.range 6).map fun j => p.getD j 0) ++ [word (m.src.core % 8192 + m.src.slot % 8 * 8192)]

/-- HOST_QUEUE_RECORD (R238): the oldest message for a host queue whose ring has a place becomes a record there. -/
def execHostQueueRecord (s : State) : Host.Outcome State Fault Refusal :=
  let pa (m : Msg) : Nat := ((nget s.rings (1000 + (m.dst - 0x400000))).getD ⟨0, []⟩).pa
  match s.mesh.find? fun m => decide (0x400000 ≤ m.dst) && decide (m.dst < 0x1000000) && !ringFull s (pa m) with
  | none => .next s
  | some m =>
    match m.body with
    | .lmsg hn p _ => .next { ringPut s (pa m) (hostRecord m hn p) with mesh := s.mesh.erase m }
    | _ => .next s

/-- SEND (R236 to R238). -/
def execSend (a : Src) (b : GReg) (rel hc : Bool) (nw : BitVec 3) (hn : BitVec 10) (s : State) : Host.Outcome State Fault Refusal :=
  issueW (packR 0x50 0 0 a.code b.val 0 0 (rel.toNat * 2 ^ 14 + hc.toNat * 2 ^ 13 + nw.toNat * 2 ^ 10 + hn.toNat)) (Sys2Proof.Machine.send a b rel hc nw hn) s

/-- SENDW (R239, R240). -/
def execSendw (a : Src) (b : GReg) (c : GZ) (nw : BitVec 3) (ce : Bool) (cn : BitVec 6) (s : State) : Host.Outcome State Fault Refusal :=
  issueW (packR 0x52 0 0 a.code b.val 0 c.code (nw.toNat + ce.toNat * 8 + cn.toNat * 16)) (sendWin a b c nw ce cn) s

end Sys2Proof.Machine
end

