-- ==== Sys2Proof/Machine/System.lean ====
section
/-! DEFINITION. Traps and returns, system registers, halted slots, TLBs, IDLE, DBG, WDOG and the reporting port (R27, R101 to R111, R342 to R365). -/

namespace Sys2Proof.Machine

/-! ### Traps and returns (R343, R347 to R357) -/

/-- PRIV outside supervisor mode (R343). -/
def needSuper : M Unit := do
  let s ← get
  raiseIf (!isSuper s.cur (← mySlot)) .priv

/-- Whether a word is one that PRIV guards (R25, R27, R343). -/
def privWord (w : Word) : Bool :=
  let op := w.toNat / 2 ^ 56
  let fn := w.toNat / 2 ^ 52 % 16
  (fn = 0 && (op = 0xD8 || op = 0xDA)) || (op = 0xDC && fn ≤ 1) ||
    (fn = 0 && (op = 0xD4 || op = 0xD6) && 0x100 ≤ w.toNat % 4096)

/-- ILLEGAL_WORD (R27): a word that fails a check on the word; PRIV comes before ILL_REG and ILL_FIELD. -/
def illegal (c : Ill) (w : Word) : M Flow := do
  let s ← get
  let sl ← mySlot
  match c with
  | .op => raise .illOp
  | .reg => if privWord w && !isSuper s.cur sl then raise .priv else raise .illReg
  | .field => if privWord w && !isSuper s.cur sl then raise .priv else raise .illField

/-- VALID of the issuing slot's park record cleared (R354). -/
def clearValid : M Unit := modify fun s =>
  let c := s.cur
  let sl := slotAt s c (actOf s c)
  wrNat s (parkPa c sl 30) 8 ((parkWord s c sl 30).toNat / 2 * 2)

/-- What every UPRET checks first (R354). -/
def needUpcall : M Unit := do
  let s ← get
  let sl ← mySlot
  raiseIf (!sl.up || !parkValid s s.cur sl) .illField

/-- UPRET.resume, RETURN FROM AN EXCEPTION (R354, R265): the registers not kept, MW, the program counter; MW as restored is what is
left after this instruction. -/
def upResume (keep : BitVec 24) : M Flow := do
  needUpcall
  releaseTask
  let s ← get
  let c := s.cur
  let sl ← mySlot
  let mw := min ((parkWord s c sl 25).toNat % 32) 16
  let pc := parkWord s c sl 24
  let g := Vector.ofFn fun (j : Fin 24) => if keep.getLsbD j.val then sl.g.get j else parkWord s c sl j.val
  clearValid
  modMy fun sl => { sl with g := g, mw := if mw = 0 then 0 else mw + 1, up := false }
  return .goto pc

/-- UPRET.detach (R354, R355). -/
def upDetach : M Flow := do
  needUpcall
  modMy fun sl => { sl.completed with st := .parked, up := false }
  return .stay

/-- UPRET.abandon (R354). -/
def upAbandon : M Flow := do
  needUpcall
  clearValid
  let c ← myCore
  let i ← myIdx
  modMy fun sl => { sl with up := false }
  modify fun s => endTask s c i true
  return .stay

/-! ### System registers (R342 to R345) -/

/-- CARVE (R113). -/
def carveWord (sl : Slot) : Word :=
  word (sl.qbase.toNat * 2 ^ 46 + sl.cowN.toNat * 2 ^ 39 + sl.spillN.toNat * 2 ^ 34 + sl.carveSize.toNat * 2 ^ 17 + sl.carveBase.toNat)

/-- FESTAT (R12): the full bits. -/
def festat (sl : Slot) : Word := word (sl.e.toList.zipIdx.foldl (fun a p => if p.1.full then a + 2 ^ p.2 else a) 0)

/-- A system register of a slot read; none where the number is not assigned (R344). -/
def sysRead (s : State) (c i n : Nat) : Option Word :=
  let k := coreOf s c
  let sl := slotOf k i
  match n with
  | 0x000 => some (slotst c i sl)
  | 0x001 => some (fpstWord sl)
  | 0x002 => some k.srst
  | 0x003 => some sl.upc
  | 0x004 => some (word (parkOff sl))
  | 0x005 => some sl.finfo0
  | 0x006 => some sl.finfo1
  | 0x007 => some sl.finfo2
  | 0x008 => some (carveWord sl)
  | 0x009 => some sl.ovfp
  | 0x00A => some (sl.tplBase.setWidth 64)
  | 0x020 => some sl.engMap
  | 0x030 => some (sl.wdLim.setWidth 64)
  | 0x050 => some (festat sl)
  | 0x100 => some (match nget s.ctxs sl.ctx with | some x => x.desc.sve | none => 0)
  | 0x108 => some (s.rptw.setWidth 64)
  | 0x110 => if 6144 ≤ c then some (word ((c - 6144) % 8 + (c - 6144) / 8 * 16)) else none
  | _ => if 0x010 ≤ n && n ≤ 0x017 then k.rgn[n - 0x010]? else none

/-- What an access to a system register waits for first (R118, R157, R345). -/
def sysWait (s : State) (c i n : Nat) (wr : Bool) : Option Wait :=
  let k := coreOf s c
  if n = 0x001 then (if k.dq.any fun r => r.slot = i then some .retireSlot else none)
  else if n = 0x002 then (if k.dq ≠ [] then some .retireCore else none)
  else if wr && 0x010 ≤ n && n ≤ 0x017 then (if k.sb ≠ [] then some .overlap else none)
  else none

/-- Whether a region register takes a value (R118). -/
def rgnOk (v : Word) : Bool :=
  rgnSwz v ≠ 7 && rgnBase v % 128 = 0 && rgnSize v % 128 = 0 && decide (rgnBase v + rgnSize v ≤ 0x18000)

/-- A system register of a slot written, under its own write rule (R43, R90, R115, R118, R132, R344, R352). -/
def sysWrite (s : State) (c i n : Nat) (v : Word) : State :=
  match n with
  | 0x001 => modSlot s c i fun sl => sl.setFpst v
  | 0x002 => modCore s c fun k => { k with srst := v }
  | 0x003 => if v.toNat % 8 = 0 then modSlot s c i fun sl => { sl with upc := v } else s
  | 0x009 => modSlot s c i fun sl => { sl with ovfp := v }
  | 0x020 => if (v &&& 0xFFFFFFFFFF80F000) = 0 && decide (v.toNat % 4096 + v.toNat / 65536 % 128 ≤ 4096) then
      modSlot s c i fun sl => { sl with engMap := v } else s
  | _ => if 0x010 ≤ n && n ≤ 0x017 && rgnOk v then
      modCore s c fun k => { k with rgn := k.rgn.setIfInBounds (n - 0x010) (v &&& 0x1FFFFFFFFF) } else s

/-- SRD (R345). -/
def readSys (d : GZ) (n : Nat) : M Flow := do
  if 0x100 ≤ n then needSuper
  let s ← get
  let i ← myIdx
  match sysRead s s.cur i n with
  | none => raise .illField
  | some _ => do
    match sysWait s s.cur i n false with
    | some w => waitOn w
    | none => pure ()
    writeGZ d ((sysRead s s.cur i n).getD 0)
    return .next

/-- SWR (R345). -/
def writeSys (n : Nat) (a : GZ) : M Flow := do
  if 0x100 ≤ n then needSuper
  let s ← get
  let i ← myIdx
  raiseIf (sysRead s s.cur i n).isNone .illField
  match sysWait s s.cur i n true with
  | some w => waitOn w
  | none => pure ()
  let v ← readGZ a
  modify fun s => sysWrite s s.cur i n v
  return .next

/-! ### SWIN and HRESUME (R350, R351) -/

/-- A wide register of any slot written (R158); none where no physical register is free. -/
def putWide (s : State) (c i : Nat) (r : WReg) (v : WVal) : Option State :=
  let q := quadOf c
  let fresh (s : State) : Option State :=
    match (List.finRange 192).find? fun p => !((quadAt s q).pregs.get p).used with
    | none => none
    | some p => some (modSlot (setPreg s q p ⟨true, 1, v.data, v.tag, v.poison⟩) c i fun sl => { sl with w := sl.w.set r.val (.priv p) r.isLt })
  match (slotAt s c i).w.get r with
  | .priv p => some (setPreg s q p { (quadAt s q).pregs.get p with data := v.data, tag := v.tag, poison := v.poison })
  | .unmapped => fresh s
  | .shared p => (fresh s).map fun s => dropPreg s q p

/-- What SWIN finds at the halted slot. -/
inductive SwinOut where
  | done (s : State) (v : Word)
  | fault (c : Code)
  | wait

/-- Word `j` of a wide register. -/
def wideWord (x : WideBits) (j : Nat) : Word := word (elem 64 x j)

/-- A wide register with one word replaced. -/
def setWideWord (x : WideBits) (j : Nat) (v : Word) : WideBits :=
  packE 64 ((List.range 32).map fun i => if i = j then v.toNat else elem 64 x i)

/-- SWIN at the slot it names: a read, or a write of a value (R350, R223). -/
def swinAt (s : State) (c i sel : Nat) (wr : Option Word) : SwinOut :=
  let sl := slotAt s c i
  let upd (f : Slot → Slot) : SwinOut := .done (modSlot s c i f) 0
  if sl.st ≠ .halted then .fault .illField
  else if sel < 0x18 then
    match wr with
    | none => .done s ((sl.g[sel]?).getD 0)
    | some v => upd fun sl => { sl with g := sl.g.setIfInBounds sel v }
  else if sel < 0x20 then
    let r : EReg := Fin.ofNat 8 sel
    match wr with
    | none => if (sl.e.get r).poison then .fault .poison else .done s (sl.e.get r).val
    | some v => upd fun sl => sl.fillE r v false
  else if sel = 0x20 then
    match wr with
    | none => .done s sl.pc
    | some v => if v.toNat % 8 ≠ 0 then .fault .illField else upd fun sl => { sl with pc := v }
  else if 0x30 ≤ sel && sel ≤ 0x33 then
    let r : KReg := Fin.ofNat 4 sel
    match wr with
    | none => .done s (sl.mask r)
    | some v => upd fun sl => sl.setK r v
  else if 0x100 ≤ sel && sel ≤ 0x2FF then
    let r : WReg := Fin.ofNat 16 ((sel - 0x100) / 32)
    let x := wideOf s c i r
    match wr with
    | none => if x.tag.isSome then .fault .furlDebug else if x.poison then .fault .poison else .done s (wideWord x.data (sel % 32))
    | some v =>
      let new : WVal := if x.tag.isSome then ⟨setWideWord 0 (sel % 32) v, none, false⟩
        else { x with data := setWideWord x.data (sel % 32) v }
      match putWide s c i r new with
      | some s => .done s 0
      | none => .fault .wregCopy
  else if 0x400 ≤ sel && sel ≤ 0x4FF then
    match sysRead s c i (sel - 0x400) with
    | none => .fault .illField
    | some v =>
      if (sysWait s c i (sel - 0x400) wr.isSome).isSome then .wait
      else match wr with
        | none => .done s v
        | some v => .done (sysWrite s c i (sel - 0x400) v) 0
  else .fault .illField

/-- HRESUME at the slot it names: the state and the status (R351). -/
def resumeAt (s : State) (c i : Nat) (next : Bool) : State × Word :=
  if (slotAt s c i).st = .halted then
    (modSlot s c i fun sl => { sl with st := .ready, pc := if next then sl.pc + 8 else sl.pc }, 0)
  else (s, 1)

/-- The built-in handlers of SWIN and HRESUME at another core; none where it has to wait. -/
def sysOther (s : State) (c : Nat) (m : Msg) : Option State :=
  match m.body with
  | .swin slot sel wr =>
    match swinAt s c slot sel wr with
    | .done s v => some (replyTo s m (.vals [v]) .wait)
    | .fault code => some (replyTo s m (.fault { code := code }) .wait)
    | .wait => none
  | .hresume slot next => let r := resumeAt s c slot next; some (replyTo r.1 m (.vals [r.2]) .wait)
  | _ => some s

/-- The core and slot of a target word (R349, R350). -/
def targetOf (x : Word) : M (Nat × Nat) := do
  let s ← get
  let sl ← mySlot
  let rank := x.toNat % 8192
  let slot := x.toNat / 8192
  raiseIf (decide (4 < slot) || decide (sl.rlen.toNat ≤ rank)) .illField
  return (s.cur - sl.rank.toNat + rank, slot)

/-- SWIN (R350). -/
def superWindow (d a : GReg) (wr : Bool) (sel : BitVec 12) : M Flow := do
  needSuper
  let x ← readG a
  let (c, i) ← targetOf x
  let v ← readG d
  let s ← get
  let out (v : Word) : M Flow := do
    if !wr then writeG d v
    return .next
  if c = s.cur then
    match swinAt s c i sel.toNat (if wr then some v else none) with
    | .done s v => do set s; out v
    | .fault code => raise code
    | .wait => waitOn .overlap
  else do
    let me := senderOf s s.cur (actOf s s.cur)
    let r ← awaitReply .replyCore 0 fun s => inject s c me (.swin i sel.toNat (if wr then some v else none))
    out (r.headD 0)

/-- HRESUME (R351). -/
def resumeSlot (d : GZ) (a : GReg) (next : Bool) : M Flow := do
  needSuper
  let x ← readG a
  let (c, i) ← targetOf x
  if (← mySlot).pend = .none then releaseTask
  let s ← get
  if c = s.cur then do
    let r := resumeAt s c i next
    set r.1
    writeGZ d r.2
  else do
    let me := senderOf s s.cur (actOf s s.cur)
    let r ← awaitReply .replyCore 0 fun s => inject s c me (.hresume i next)
    writeGZ d (r.headD 0)
  return .next

/-! ### TLBW and TLBI (R103 to R108) -/

/-- The logical device of a context's VF (R391). -/
def ldOf (ctx : Nat) : Nat := vfOf ctx / 24

/-- The retryable record of R108, R110 and R388, for the task that asked. -/
def postRetry (s : State) (ctx : Nat) (va ck : Word) (core slot : Nat) : State :=
  match nget s.ctxs ctx with
  | none => s
  | some x =>
    let us := s.ns / 1000
    let w0 := recWord0 Code.xlMiss.num 1 0 x.desc.vf.toNat x.desc.pasid.toNat 0
    if x.desc.prot then postRec s (ldOf ctx) [w0, word (Config.guestPage ctx va.toNat), ck, word (us / 1000 * 1000), 0, 0, 0, 0]
    else postRec s (ldOf ctx) [w0, va, ck, word us, word (core % 8192 + slot * 8192), 0, 0, 0]

/-- An answer delivered to one that asked (R105, R106); `key` is the page's, for a walk or for a CW request. -/
def deliverAns (s : State) (page : Nat) (cw : Bool) (ans : WalkAns) (w : Walker) : State :=
  let key := match ans with | .entry _ => page * 2 | _ => if cw then page * 2 + 1 else page * 2
  match w with
  | .slot c i =>
    let s := match ans with | .entry e => fillUtlb s c e | _ => s
    let s := match ans with
      | .stale => s
      | _ => modSlot s c i fun sl => { sl with walkAns := nset sl.walkAns key ans }
    match (slotAt s c i).st with
    | .blocked .xlate => wake s c i
    | .stalled .xlate => wake s c i
    | _ => s
  | .prefetch c => match ans with | .entry e => fillUtlb s c e | _ => s
  | .unit u => match ans with
    | .stale => s
    | _ => { s with unitAns := nset s.unitAns u (nset ((nget s.unitAns u).getD []) key ans) }

/-- The task on whose behalf a walk was asked for, as its core and slot (R110): a slot's own, the pusher of a command, the holder of a graph
walk, the sender of a count. -/
def Walker.task (s : State) : Walker → Option (Nat × Nat)
  | .slot c i => some (c, i)
  | .prefetch c => some (c, actOf s c)
  | .unit u =>
    ((s.chans.flatMap fun c => c.2.exec).find? fun x => 2000000 + x.cmd.id = u).map (fun x => (x.cmd.src.core, x.cmd.src.slot))
    |>.or ((s.gwalks.find? fun g => 3000000 + g.id = u).map fun g => (g.holder.1, g.holder.2.1))
    |>.or ((s.counts.find? fun r => 1000000 + r.id = u).map fun r => (r.src.core, r.src.slot))

/-- The retryable request recorded and its record posted, where the space is host-shared (R108; log entry 19). -/
def postMiss (s : State) (ctx : Nat) (ck : Nat) (w : Walk) : State :=
  let shared := match nget s.ctxs ctx with | some x => x.hostShared | none => false
  if !shared || ck = 0 || s.retryables.any (fun r => r.ld = ldOf ctx && r.cookie = ck) then s
  else
    let (c, i) : Nat × Nat := (w.who.findSome? (Walker.task s)).getD (0, 0)
    postRetry { s with retryables := s.retryables ++ [⟨ldOf ctx, ck, ctx⟩] } ctx ((BitVec.ofNat 57 w.va).signExtend 64) (word ck) c i

/-- TLBW (R103, R105, R106). A walk that a unit or a service core asked for has no quad below 384: the model takes the answer of whichever
QUAD the issuing core serves (log entry 18). Where it answers a stale walk it installs nothing, and everyone it wakes translates again. -/
def tlbWrite (a b c : GReg) : M Flow := do
  needSuper
  let va ← readG a
  let e ← readG b
  let t ← readG c
  let s ← get
  let me := s.cur
  let resp := e.toNat / 2 ^ 62
  let vf := t.toNat / 2 ^ 35 % 512
  let q := t.toNat / 2 ^ 26 % 512
  let size := t.toNat / 2 ^ 24 % 4
  let mt := e.toNat / 16 % 4
  let key := e.toNat / 64 % 64
  let served : Bool := decide (6144 ≤ me) && decide (q < 384) && svcOf s (dieOf me * 384 + q) = me - 6144
  raiseIf (resp = 3 || e.toNat / 2 ^ 52 % 1024 ≠ 0 || mt = 3 || t.toNat % 2 ^ 24 ≠ 0 || decide (384 ≤ vf) || !served) .illField
  raiseIf (resp = 0 && e.toNat / 4096 % 2 ^ (pageBits size - 12) ≠ 0) .illField
  raiseIf ((key ≠ 0 && mt ≠ 1) || !canonical va) .illField
  let space := vf * 1048576 + t.toNat / 2 ^ 44
  let page := va57 va / 2 ^ pageBits size * 2 ^ pageBits size
  let ent : TlbEntry := ⟨space, page, size, e.toNat / 4096 % 2 ^ 40, match mt with | 1 => .furled | 2 => .io | _ => .normal, key,
    e.getLsbD 3, e.getLsbD 2, e.getLsbD 1, e.getLsbD 0⟩
  let ck := e.toNat / 4096 % 2 ^ 40
  let quad := dieOf me * 384 + q
  let hit (w : Walk) : Bool := w.space = space && ent.hits space w.va &&
    (w.quad = quad || (decide (1536 ≤ w.quad) && svcOf s w.quad = me - 6144))
  let ws := s.walks.filter hit
  let s := { s with walks := s.walks.filter fun w => !hit w }
  let stale := ws.any (·.stale)
  let s := if resp = 0 && !stale then
      { modQuad s quad fun k => { k with tlb := tlbInsert 512 (Config.victim s.tick) k.tlb ent } with
        tick := s.tick + 1, furled := if ent.mt = .furled then ent :: s.furled.filter (· ≠ ent) else s.furled } else s
  let ans : WalkAns := if resp = 0 then .entry ent else if resp = 1 then .retry ck else .terminal
  set (ws.foldl (fun s w =>
    let s := if resp = 1 && !w.stale then postMiss s space ck w else s
    w.who.foldl (fun s x => deliverAns s (w.va / 4096) w.cwReq (if w.stale || (resp = 0 && stale) then .stale else ans) x) s) s)
  return .next

/-- What a TLBI matches (R103, R106). -/
def tlbiHits (kind space va : Nat) (e : TlbEntry) : Bool :=
  match kind with
  | 0 => e.hits space va
  | 1 => e.space = space
  | 2 => e.space / 1048576 = space / 1048576
  | _ => true

/-- Whether a walk in flight matches a TLBI. A request has no page size yet: the model takes KIND 0b00 to match those of the 4 KiB page that
holds the address (log entry 18). -/
def tlbiWalk (kind space va : Nat) (w : Walk) : Bool :=
  match kind with
  | 0 => w.space = space && w.va / 4096 = va / 4096
  | 1 => w.space = space
  | 2 => w.space / 1048576 = space / 1048576
  | _ => true

/-- The quads in the scope of a TLBI. -/
def tlbiQuads (scope die q : Nat) : List Nat :=
  match scope with
  | 0 => [die * 384 + q]
  | 1 => (List.range 384).map (die * 384 + ·)
  | _ => List.range 1536

/-- What a TLBI drops, in TLBs, delivered answers and walks (R106), and, but at SCOPE 0b00, among the furled pages that are known (log entry
18). The rule names no unit's TLB: the model drops there nothing at SCOPE 0b00,
and what matches in those of every die at any other (log entry 18). -/
def tlbiDrop (s : State) (kind space va scope : Nat) (inScope : Nat → Bool) : State :=
  let keep (l : List TlbEntry) : List TlbEntry := l.filter fun e => !tlbiHits kind space va e
  let keepAns (l : List (Nat × WalkAns)) : List (Nat × WalkAns) :=
    l.filter fun a => match a.2 with | .entry e => !tlbiHits kind space va e | _ => true
  { s with
    quads := s.quads.map fun q => if inScope q.1 then (q.1, { q.2 with tlb := keep q.2.tlb }) else q
    cores := s.cores.map fun k => if k.1 < 6144 && inScope (quadOf k.1) then
        (k.1, { k.2 with utlb := keep k.2.utlb, slots := k.2.slots.map fun (sl : Slot) => { sl with walkAns := keepAns sl.walkAns } }) else k
    furled := if scope = 0 then s.furled else keep s.furled
    unitTlb := if scope = 0 then s.unitTlb else s.unitTlb.map fun u => (u.1, keep u.2)
    unitAns := if scope = 0 then s.unitAns else s.unitAns.map fun u => (u.1, keepAns u.2)
    walks := s.walks.map fun w =>
      if tlbiWalk kind space va w && (inScope w.quad || (scope ≠ 0 && decide (1536 ≤ w.quad))) then { w with stale := true } else w }

/-- Messages that reach memory for a core in a scope, in flight or queued. -/
def accessesOf (s : State) (inScope : Nat → Bool) : List Msg :=
  let isAcc (m : Msg) : Bool := inScope (quadOf m.src.core) && m.body.hkind.isSome
  (s.mesh ++ (s.cores.map fun k => k.2.mq).flatten).filter isAcc

/-- Whether the accesses that a TLBI waits for have been executed, and the wide and matrix instructions and the engine commands that ran
then have completed (R106). -/
def tlbiDone (s : State) (t : TlbiWait) : Bool :=
  !(s.cores.any fun k => t.cores.contains k.1 && ((k.2.sb.any fun e => decide (e.id < t.id)) || k.2.dq.any fun r => decide (r.id ≤ t.id))) &&
    !(t.msgs.any fun m => s.mesh.contains m || s.cores.any fun k => k.2.mq.contains m) &&
    !(s.chans.any fun c => c.2.exec.any fun x => t.cmds.contains x.cmd.id)

/-- TLBI (R103, R106): it drops its matches at once and waits for the accesses made through them. -/
def tlbInval (a b : GReg) : M Flow := do
  needSuper
  let va ← readG a
  let x ← readG b
  let s ← get
  let sl ← mySlot
  let i ← myIdx
  let kind := x.toNat / 2 ^ 24 % 4
  let scope := x.toNat / 2 ^ 22 % 4
  let vf := x.toNat / 2 ^ 35 % 512
  let q := x.toNat / 2 ^ 26 % 512
  raiseIf (x.toNat % 2 ^ 22 ≠ 0 || scope = 3) .illField
  raiseIf (decide (384 ≤ vf) || decide (383 < q) || (kind = 0 && !canonical va)) .illField
  raiseIf (i = 4) .hBlock
  match sl.t0 with
  | some id =>
    match s.tlbis.find? fun t => t.id = id.toNat with
    | some t => do
      if !tlbiDone s t then waitOn (.tlbi t.id)
      set { s with tlbis := s.tlbis.filter fun u => u.id ≠ t.id }
      return .next
    | none => return .next
  | none =>
    let qs := tlbiQuads scope (dieOf s.cur) q
    let inScope (n : Nat) : Bool := qs.contains n
    let space := vf * 1048576 + x.toNat / 2 ^ 44
    let id := s.nextId
    waitWith (.tlbi id) fun s =>
      let cmds := if scope = 0 then [] else s.chans.flatMap fun c => c.2.exec.map fun x => x.cmd.id
      let t : TlbiWait := ⟨id, (s.cores.map (·.1)).filter fun c => inScope (quadOf c), accessesOf s inScope, cmds⟩
      let s := tlbiDrop s kind space (va57 va) scope inScope
      modSlot { s with tlbis := s.tlbis ++ [t], nextId := id + 1 } s.cur (actOf s s.cur) fun sl => { sl with t0 := some (word id) }

/-- WALK_REQUEST (R101, R102): the oldest waiting request is taken up, where fewer than 16 are in flight. -/
def walkTake (s : State) (svc : Nat) : State :=
  if 16 ≤ (s.walks.filter fun w => w.svc = svc && w.flying).length then s
  else
    match s.walks.findIdx? fun w => w.svc = svc && !w.flying with
    | none => s
    | some j => { s with walks := s.walks.modify j fun w => { w with flying := true } }

/-- The parked task of a core whose record holds a cookie of a logical device (R108). -/
def parkedFor (s : State) (c ld ck : Nat) : Option Nat := (cookieSlots s c (word ck)).find? fun i => ldOf (slotAt s c i).ctx = ld

/-- The notice placed with the preserved state of a descheduled context, on one core of it (R108, R361). -/
def savedNotice (ld ck x : Nat) (s : State) (c : Nat) : State :=
  match (nget s.ctxs x).bind fun y => y.saved.bind fun v => (nget v.cores c).map fun k => (y, v, k) with
  | none => s
  | some (y, v, k) =>
    let t := { setCore s c k with mem := v.mem }
    match parkedFor t c ld ck with
    | some i => { keepIn s c x y v (addRq s k 3 ⟨0, 0⟩ (slotOf k i).launch x 0 2 [word ck]) with nextId := s.nextId + 1 }
    | none => s

/-- FCOMP (R108): the notices of a cookie, for each core whose park record holds it, those of descheduled contexts among them. -/
def faultDone (s : State) (ld ck : Nat) : State :=
  if ck = 0 || !s.retryables.any (fun r => r.ld = ld && r.cookie = ck) then s
  else
    let s := { s with retryables := s.retryables.filter fun r => !(r.ld = ld && r.cookie = ck) }
    let s := (s.cores.map (·.1)).foldl (fun s c =>
      match parkedFor s c ld ck with
      | some i => enqueue s c 3 ⟨0, 0⟩ (slotAt s c i).launch (slotAt s c i).ctx 0 2 [word ck]
      | none => s) s
    s.ctxs.foldl (fun s x => match x.2.saved with
      | some v => v.cores.foldl (fun s k => savedNotice ld ck x.1 s k.1) s
      | none => s) s

/-! ### IDLE, DBG, WDOG (R363 to R365) -/

/-- IDLE (R363). -/
def idleTask (d : GZ) (lim : BitVec 32) : M Flow := do
  mayBlock
  let s ← get
  let sl ← mySlot
  let k := coreOf s s.cur
  let done (st : Word) : M Flow := do
    writeGZ d st
    modMy fun sl => { sl with idle0 := none }
    return .next
  let (start, tick) := sl.idle0.getD (s.cycles, s.tick)
  if sl.idle0.isSome && decide (tick < k.lastEvent) then done 0
  else if lim ≠ 0xFFFFFFFF && decide (start + lim.toNat ≤ s.cycles) then done 1
  else if draining s sl.ctx then done 2
  else waitWith (.idle (if lim = 0xFFFFFFFF then none else some (start + lim.toNat))) fun s =>
    modSlot s s.cur (actOf s s.cur) fun sl => { sl with idle0 := some (start, tick) }

/-- A word of debug state that may not be seen, or that is poisoned (R223, R364). -/
def dbgOut (tag : Option (Fin 64)) (poison : Bool) (v : Nat) : M Word := do
  raiseIf tag.isSome .furlDebug
  raiseIf poison .poison
  return word v

/-- A word of a latch (R364). -/
def dbgLatch (l : Latch) (isRecv : Bool) (n : Nat) : M Word := do
  raiseIf (decide ((if isRecv then 272 else 271) < n)) .illField
  if n = 272 then return word l.full.toNat
  else if n < 256 then dbgOut l.tag l.poison ((l.data.toNat >>> (64 * n)) % 2 ^ 64)
  else dbgOut l.tag l.poison ((l.scales.toNat >>> (64 * (n - 256))) % 2 ^ 64)

/-- DBG (R364): after every wide and matrix instruction that the core has accepted. -/
def debugRead (d a : GReg) (unit : BitVec 4) : M Flow := do
  let x ← readG a
  let n := x.toNat
  let s ← get
  let c := s.cur
  let k := coreOf s c
  let sl ← mySlot
  if k.dq ≠ [] then waitOn .retireCore
  let v ← match unit.toNat with
    | 0 => do
      raiseIf (decide (2048 ≤ n)) .illField
      let t := k.tiles.get (Fin.ofNat 4 (n / 512))
      dbgOut t.tag t.poison ((t.data.toNat >>> (64 * (n % 512))) % 2 ^ 64)
    | 1 => dbgLatch k.latch false n
    | 2 => dbgLatch k.recv true n
    | 3 => do
      raiseIf (decide (1024 ≤ n)) .illField
      let t := k.dt.get (Fin.ofNat 4 (n / 256))
      pure (word ((Num.tabEntry t (n % 256)).toNat + t.status.toNat * 2 ^ 32))
    | 4 => do
      raiseIf (decide (512 ≤ n)) .illField
      let w := wideOf s c (actOf s c) (Fin.ofNat 16 (n / 32))
      dbgOut w.tag w.poison (elem 64 w.data (n % 32))
    | 5 => do
      let off := sl.tplBase.toNat + n
      raiseIf (n % 8 ≠ 0 || decide (0x18000 < off + 8)) .illField
      raiseIf (rangeAt s (windowPa c off) 8).isSome .furlDebug
      raiseIf (isPoison s (windowPa c off)) .poison
      pure (word (rdNat s (windowPa c off) 8))
    | _ => raise .illField
  writeG d v
  return .next

/-- WDOG (R365). -/
def armWatchdog (lim : BitVec 32) : M Flow := do
  let s ← get
  modMy fun sl => { sl with watchdog := if lim = 0 then none else some (s.ns + 1000 * lim.toNat) }
  return .next

/-- WATCHDOG_EXPIRY (R365). It ends a halted task too: R365 names every task that has not ended or parked, R29 does not name it among the
ends of a halt; that the watchdog wins is the model's choice (log entry 47). -/
def expire (s : State) (c i : Nat) : State :=
  let sl := slotAt s c i
  match sl.watchdog with
  | some t => if decide (t ≤ s.ns) && sl.st ≠ .free && sl.st ≠ .parked then terminal s c i .wdog 0 0 sl.pc else s
  | none => s

/-- IDLE_TIMEOUT (R363): the limit of an idle task has passed. -/
def idleOver (s : State) (c i : Nat) : State :=
  match (slotAt s c i).st with
  | .blocked (.idle (some l)) => if l ≤ s.cycles then wake s c i else s
  | _ => s

/-! ### The reporting port (R111) -/

/-- The kind of a ring by its number: retryable, terminal, VF (R109). -/
def ringKind (n : Nat) : Nat := if n < 16 then 0 else if n < 32 then 1 else 2

/-- The rings of a kind that have a record and a place for it, from the one after the last served (R111). -/
def ringNext (s : State) (kind last : Nat) : Option Nat :=
  let l := (s.rings.filter fun r => r.1 < 1000 && ringKind r.1 = kind && r.2.pend ≠ [] && !ringFull s r.2.pa).map (·.1)
  match l.find? fun n => decide (last < n) with
  | some n => some n
  | none => l.head?

/-- The weight of a kind (R111, R344). -/
def rptWeight (s : State) (kind : Nat) : Nat := s.rptw.toNat / 16 ^ kind % 16

/-- The last ring served of a kind. -/
def Reporter.last (r : Reporter) (kind : Nat) : Nat := match kind with | 0 => r.last0 | 1 => r.last1 | _ => r.last2

/-- The ring that the reporting port serves next, at most three turns on. -/
def rptPick (s : State) : Nat → Nat → Nat → Option (Nat × Nat × Nat)
  | 0, _, _ => none
  | f + 1, kind, taken =>
    match (if taken < rptWeight s kind then ringNext s kind (s.rpt.last kind) else none) with
    | some n => some (kind, taken, n)
    | none => rptPick s f ((kind + 1) % 3) 0

/-- RING_REPORT (R110, R111): the next record written in full, then the tail advanced. -/
def report (s : State) : State :=
  match rptPick s 4 s.rpt.kind s.rpt.taken with
  | none => s
  | some (kind, taken, n) =>
    match nget s.rings n with
    | some r =>
      match r.pend with
      | ws :: rest =>
        let s := ringPut { s with rings := nset s.rings n { r with pend := rest } } r.pa ws
        { s with rpt := { s.rpt with
            kind := kind, taken := taken + 1
            last0 := if kind = 0 then n else s.rpt.last0
            last1 := if kind = 1 then n else s.rpt.last1
            last2 := if kind = 2 then n else s.rpt.last2 } }
      | [] => s
    | none => s

/-- ILLEGAL_WORD (R27). -/
def execIllegalWord (c : Ill) (w : Word) (s : State) : Host.Outcome State Fault Refusal :=
  issueW (w) (illegal c w) s

/-- TRAP (R357). -/
def execTrap (n : BitVec 8) (s : State) : Host.Outcome State Fault Refusal :=
  issueW (packL 0xD0 0 0 0 0 0 n.toNat) (raiseT { code := .trap, info := n.setWidth 64 }) s

/-- UPRET.resume (R354). -/
def execUpretResume (keep : BitVec 24) (s : State) : Host.Outcome State Fault Refusal :=
  issueW (packL 0xD2 0 0 0 0 0 (keep.toNat * 256)) (upResume keep) s

/-- UPRET.detach (R354, R355). -/
def execUpretDetach (s : State) : Host.Outcome State Fault Refusal :=
  issueW (packL 0xD2 0 0 0 0 0 1) (upDetach) s

/-- UPRET.abandon (R354). -/
def execUpretAbandon (s : State) : Host.Outcome State Fault Refusal :=
  issueW (packL 0xD2 0 0 0 0 0 2) (upAbandon) s

/-- SRD (R345). -/
def execSrd (d : GZ) (n : BitVec 12) (s : State) : Host.Outcome State Fault Refusal :=
  issueW (packL 0xD4 0 d.code 0 0 0 n.toNat) (readSys d n.toNat) s

/-- SWR (R345). -/
def execSwr (n : BitVec 12) (a : GZ) (s : State) : Host.Outcome State Fault Refusal :=
  issueW (packL 0xD6 0 0 a.code 0 0 n.toNat) (writeSys n.toNat a) s

/-- HRESUME (R351). -/
def execHresume (d : GZ) (a : GReg) (next : Bool) (s : State) : Host.Outcome State Fault Refusal :=
  issueW (packL 0xD8 0 d.code a.val 0 0 next.toNat) (resumeSlot d a next) s

/-- SWIN (R350). -/
def execSwin (d a : GReg) (wr : Bool) (sel : BitVec 12) (s : State) : Host.Outcome State Fault Refusal :=
  issueW (packL 0xDA 0 d.val a.val 0 0 (wr.toNat * 2 ^ 31 + sel.toNat)) (superWindow d a wr sel) s

/-- TLBW (R103, R105). -/
def execTlbw (a b c : GReg) (s : State) : Host.Outcome State Fault Refusal :=
  issueW (packR 0xDC 0 0 a.val b.val 0 c.val 0) (tlbWrite a b c) s

/-- TLBI (R103, R106). -/
def execTlbi (a b : GReg) (s : State) : Host.Outcome State Fault Refusal :=
  issueW (packR 0xDC 1 0 a.val b.val 0 0 0) (tlbInval a b) s

/-- IDLE (R363). -/
def execIdle (d : GZ) (lim : BitVec 32) (s : State) : Host.Outcome State Fault Refusal :=
  issueW (packL 0xDE 0 d.code 0 0 0 lim.toNat) (idleTask d lim) s

/-- IDLE_TIMEOUT (R363). -/
def execIdleTimeout (rank : Nat) (slot : Fin 5) (s : State) : Host.Outcome State Fault Refusal :=
  .next (idleOver s rank slot.val)

/-- DBG (R364). -/
def execDbg (d a : GReg) (unit : BitVec 4) (s : State) : Host.Outcome State Fault Refusal :=
  issueW (packL 0xDE 1 d.val a.val 0 0 unit.toNat) (debugRead d a unit) s

/-- WDOG (R365). -/
def execWdog (lim : BitVec 32) (s : State) : Host.Outcome State Fault Refusal :=
  issueW (packL 0xDE 2 0 0 0 0 lim.toNat) (armWatchdog lim) s

/-- WATCHDOG_EXPIRY (R365). -/
def execWatchdogExpiry (rank : Nat) (slot : Fin 5) (s : State) : Host.Outcome State Fault Refusal :=
  .next (expire s rank slot.val)

/-- WALK_REQUEST (R101, R102). -/
def execWalkRequest (svc : Nat) (s : State) : Host.Outcome State Fault Refusal :=
  .next (walkTake s svc)

/-- H_SLOT_TAKE (R321). -/
def execHSlotTake (rank : Nat) (s : State) : Host.Outcome State Fault Refusal :=
  .next (hTake sysOther rank s)

/-- FCOMP (R108). -/
def execFcomp (ld : Fin 16) (cookie : BitVec 40) (s : State) : Host.Outcome State Fault Refusal :=
  .next (faultDone s ld.val cookie.toNat)

/-- RING_REPORT (R111). -/
def execRingReport (s : State) : Host.Outcome State Fault Refusal :=
  .next (report s)

end Sys2Proof.Machine
end

