-- ==== Sys2Proof/Machine/Launch.lean ====
section
/-! DEFINITION. The dispatcher: launch queues and records, the start and the completion of a launch (R296 to R307). -/

namespace Sys2Proof.Machine

/-! ### Launch records (R300, R301) -/

/-- A word of a launch record. -/
def recW (ws : List Word) (j : Nat) : Nat := (ws.getD j 0).toNat

/-- The fields of a launch record. -/
def recEntry (ws : List Word) : Word := word (recW ws 0 / 8 * 8)
def recTpl (ws : List Word) : Bool := (ws.getD 0 0).getLsbD 0
def recBase (ws : List Word) : Nat := recW ws 1 / 2 ^ 48
def recLen (ws : List Word) : Nat := recW ws 1 / 2 ^ 32 % 65536
def recItems (ws : List Word) : Nat := recW ws 1 % 2 ^ 32
def recQbase (ws : List Word) : Nat := recW ws 2 / 2 ^ 46 % 2 ^ 17
def recCown (ws : List Word) : Nat := recW ws 2 / 2 ^ 39 % 128
def recSpilln (ws : List Word) : Nat := recW ws 2 / 2 ^ 34 % 32
def recSize (ws : List Word) : Nat := recW ws 2 / 2 ^ 17 % 2 ^ 17
def recTwin (ws : List Word) : Nat := recW ws 2 % 2 ^ 17
def recPred (ws : List Word) : Word := ws.getD 4 0
def recDep (ws : List Word) : Word := ws.getD 5 0
def recDepn (ws : List Word) : Nat := recW ws 6 / 2 ^ 32
def recSupv (ws : List Word) : Nat := recW ws 6 / 2 ^ 16 % 2 ^ 13
def recCompl (ws : List Word) : Word := ws.getD 7 0

/-- TPLBASE (R300). -/
def recTplBase (ws : List Word) : Nat := 0x18000 - recTwin ws

/-- The checks of R301 on the record at an address. -/
def recOk (vflen : Nat) (va : Word) (ws : List Word) : Bool :=
  va.toNat % 64 = 0 && recW ws 0 / 2 % 4 = 0 && recW ws 2 / 2 ^ 63 = 0 && recW ws 6 / 2 ^ 29 % 8 = 0 && recW ws 6 % 65536 = 0 &&
    decide (1 ≤ recLen ws) && decide (recBase ws + recLen ws ≤ vflen) && decide (recSupv ws < recLen ws) &&
    recQbase ws % 256 = 0 && recSize ws % 256 = 0 && recTwin ws % 256 = 0 && decide (recTwin ws ≤ 0x8000) &&
    recW ws 4 % 8 = 0 && recW ws 5 % 8 = 0 && recW ws 7 % 8 = 0 && decide (recCown ws ≤ 64) && decide (recSpilln ws ≤ 16) &&
    decide (recQbase ws + 5 * recSize ws ≤ recTplBase ws) &&
    decide (512 + 64 * recCown ws + 256 * recSpilln ws ≤ recSize ws) &&
    (recTpl ws || (recTwin ws = 0 && recItems ws = recLen ws))

/-! ### Launch queues (R303) -/

/-- The context whose launches a queue holds: for a VF's host queue the one that runs (log entry 21). -/
def queueCtx (s : State) : LaunchQ → Option Nat
  | .device x | .fabric x => some x
  | .host vf => (s.ctxs.find? fun p => vfOf p.1 = vf && p.2.st = .running).map (·.1)

/-- The interval of a context's VF: its first core and its length. -/
def intervalOf (s : State) (ctx : Nat) : Nat × Nat := (nget s.vfs (vfOf ctx)).getD (0, 0)

/-- The dispatcher as a unit that translates for a context (log entry 18). -/
def dispUid (s : State) (ctx n : Nat) : UnitId := ⟨300, 6000000 + n, (intervalOf s ctx).1 / 1536, ctx⟩

/-- A word that the dispatcher reads for a context. -/
def dispRead (u : UnitId) (va : Word) : U Word := do
  let g ← uSeg u accBulkRd (some .furlRead) va 8
  let s ← get
  uFaultIf (anyPoison s g.pa 8) .poison va
  return word (rdNat s g.pa 8)

/-- Some words read in order. -/
def dispReads (u : UnitId) (va : Word) : List Nat → U (List Word)
  | [] => pure []
  | j :: l => do
    let w ← dispRead u (va + word (8 * j))
    let r ← dispReads u va l
    return w :: r

/-- The record at the head of a queue with its address, or nothing where the queue is empty. -/
def queueHead (s : State) (u : UnitId) (q : LaunchQ) : U (Option (List Word × Word)) := do
  match q with
  | .fabric x => match (nget s.ctxs x).bind fun y => y.fabricQ.head? with
    | some ws => return some (ws, 0)
    | none => return none
  | .host vf => match nget s.launchRings vf with
    | none => return none
    | some pa =>
      if ringWord s pa 2 = ringWord s pa 3 then return none
      else
        let at0 := ringWord s pa 0 + 64 * (ringWord s pa 2 % max 1 (ringWord s pa 1))
        uFaultIf (!populated s at0 64) .xlAddr (word at0)
        uIdle at0 64
        let s ← get
        uFaultIf (anyPoison s at0 64) .poison (word at0)
        return some ((List.range 8).map fun j => word (rdNat s (at0 + 8 * j) 8), word at0)
  | .device x => match nget s.ctxs x with
    | none => return none
    | some y =>
      if y.desc.dlq = 0 then return none
      else do
        let g ← uSeg u ⟨true, true, true⟩ (some .furlRead) y.desc.dlq 64
        let f (j : Nat) := rdNat s (g.pa + 8 * j) 8
        let ok := queueValid (qbAt s g.pa) (f 0) (f 1) (f 2) (f 3) (f 4) (f 5 = 0 && f 6 = 0 && f 7 = 0) && f 3 = 8
        if !ok || f 0 = f 1 then return none
        else
          let off := f 4 + 64 * (f 0 % f 2)
          let at0 := winBase s g.pa + off
          let va := y.desc.dlq - word (g.pa - winBase s g.pa) + word off
          uFaultIf (rangeAt s at0 64).isSome .furlRead va
          uIdle at0 64
          let s ← get
          uFaultIf (anyPoison s at0 64) .poison va
          return some ((List.range 8).map fun j => word (rdNat s (at0 + 8 * j) 8), va)

/-- The head of a queue removed. -/
def queuePop (u : UnitId) (q : LaunchQ) : U Unit := do
  let s ← get
  let s := { s with heads := s.heads.filter fun h => h.q ≠ q }
  match q with
  | .fabric x => match nget s.ctxs x with
    | some y => set { s with ctxs := nset s.ctxs x { y with fabricQ := y.fabricQ.drop 1 } }
    | none => set s
  | .host vf => match nget s.launchRings vf with
    | some pa => set (wrNat s (pa + 16) 8 ((ringWord s pa 2 + 1) % 2 ^ 64))
    | none => set s
  | .device x => match nget s.ctxs x with
    | none => set s
    | some y => do
      let g ← uSeg u ⟨true, true, true⟩ (some .furlRead) y.desc.dlq 64
      let t ← get
      set { wrNat t g.pa 8 ((rdNat t g.pa 8 + 1) % 2 ^ 64) with heads := s.heads }

/-- The head of a queue removed where the queue can be reached: it has just been read. -/
def popped (s : State) (u : UnitId) (q : LaunchQ) : State :=
  match queuePop u q s with
  | .ok (_, s) => s
  | .error _ => { s with heads := s.heads.filter fun h => h.q ≠ q }

/-! ### LAUNCH_RECORD (R301, R305) -/

/-- A record on the terminal ring of a context for a launch (R301, R305, R307). -/
def launchFault (s : State) (ctx st : Nat) (va : Word) : State := postTerm s ctx st 2 va 0 0 0 0

/-- Whether the cookie that a read waits for is still outstanding (R305). -/
def cookieOut (s : State) (ctx : Nat) (ck : Option Nat) : Bool :=
  match ck with | some k => s.retryables.any fun r => r.ld = ldOf ctx && r.cookie = k | none => false

/-- An addition at COMPL tried (R307): the record of a failed one, or the cookie it waits for. -/
def tryCompl (s : State) (x : Compl) : State :=
  let u := dispUid s x.ctx (1000000 + x.id)
  let drop (s : State) : State := forgetAnswers { s with compls := s.compls.filter fun y => y.id ≠ x.id } u.wid
  let add : U Reply := do
    let g ← uSeg u ⟨true, true, true⟩ (some .furlWrite) x.va 8
    uRmw ⟨0, 0, x.ctx, 0⟩ g.pa 8 x.va (.rat 0 true false 1 0)
  if cookieOut s x.ctx x.cookie then s
  else
    match add s with
    | .ok (.poison, s) => launchFault (drop s) x.ctx Code.poison.num x.va
    | .ok (.fault t, s) => launchFault (drop s) x.ctx t.code.num x.va
    | .ok (_, s) => drop s
    | .error (.walk f) => f s
    | .error (.fault st w1 _) =>
      if st = Code.xlMiss.num then
        forgetAnswers { s with compls := s.compls.map fun y => if y.id = x.id then { y with cookie := some w1.toNat } else y } u.wid
      else launchFault (drop s) x.ctx st x.va

/-- The completion step: COMPL noted and tried (R305, R307). -/
def complete (s : State) (id ctx : Nat) (va : Word) : State :=
  if va = 0 then s
  else
    let x : Compl := ⟨id, ctx, va, none⟩
    tryCompl { s with compls := s.compls ++ [x] } x

/-- The step of R305 on a head whose record passed: DEP, and once it holds, PRED. The outcome is the head as far as it got, and whether
the launch is skipped. -/
def headStep (u : UnitId) (h : Head) : U (Head × Bool) := do
  if !h.dep && recDep h.ws ≠ 0 then
    let v ← dispRead u (recDep h.ws)
    return ({ h with dep := decide (recDepn h.ws ≤ v.toNat) }, false)
  else if h.pred.isSome || recPred h.ws = 0 then return ({ h with dep := true, pred := some true }, false)
  else do
    let v ← dispRead u (recPred h.ws)
    return ({ h with dep := true, pred := some (v ≠ 0) }, v = 0)

/-- Whether a context's launches may go on: it runs and no drain of it has begun (R299, R359). -/
def mayLaunch (s : State) (ctx : Nat) : Bool := ctxRuns s ctx

/-- LAUNCH_RECORD (R301, R305): the record at a queue's head is read and checked, DEP is waited for, PRED read once. -/
def launchRecord (s : State) (q : LaunchQ) : State :=
  match queueCtx s q with
  | none => s
  | some ctx =>
    let u := dispUid s ctx (match q with | .host v => v | .device x => 1000 + x | .fabric x => 500000000 + x)
    let refuse (s : State) (st : Nat) (va : Word) : State := launchFault (popped (forgetAnswers s u.wid) u q) ctx st va
    let old := s.heads.find? fun h => h.q = q
    if !mayLaunch s ctx || cookieOut s ctx (old.bind (·.cookie)) then s
    else
      let put (s : State) (h : Head) : State := { s with heads := s.heads.filter (fun g => g.q ≠ q) ++ [h] }
      let missed (s : State) (h : Head) (ck : Nat) : State := forgetAnswers (put s { h with cookie := some ck }) u.wid
      let go (s : State) (h : Head) : State :=
        match headStep u h s with
        | .ok ((h, true), s) => complete (popped (forgetAnswers { s with nextId := s.nextId + 1 } u.wid) u q) (s.nextId + 1) ctx (recCompl h.ws)
        | .ok ((h, false), s) => forgetAnswers (put s { h with cookie := none }) u.wid
        | .error (.walk f) => f (put s h)
        | .error (.fault st w1 _) => if st = Code.xlMiss.num then missed s h w1.toNat else refuse s st h.va
      match old with
      | some h => if h.ws ≠ [] then go s h else
        (match queueHead s u q s with
          | .ok (some (ws, va), s) =>
            if recOk (intervalOf s ctx).2 va ws then go s ⟨q, ws, va, false, none, none⟩ else refuse s Code.illField.num va
          | .ok (none, s) => s
          | .error (.walk f) => f s
          | .error (.fault st w1 va) => if st = Code.xlMiss.num then missed s h w1.toNat else refuse s st va)
      | none =>
        match queueHead s u q s with
        | .ok (some (ws, va), s) =>
          if recOk (intervalOf s ctx).2 va ws then go s ⟨q, ws, va, false, none, none⟩ else refuse s Code.illField.num va
        | .ok (none, s) => s
        | .error (.walk f) => f s
        | .error (.fault st w1 va) =>
          if st = Code.xlMiss.num then missed s ⟨q, [], va, false, none, none⟩ w1.toNat else refuse s st va

/-! ### LAUNCH_START (R299, R306) -/

/-- The cores of a record's region. -/
def recRegion (s : State) (ctx : Nat) (ws : List Word) : List Nat :=
  (List.range (recLen ws)).map ((intervalOf s ctx).1 + recBase ws + ·)

/-- Whether a core belongs to an active launch. -/
def coreBusy (s : State) (c : Nat) : Bool :=
  s.launches.any fun l => l.2.active && decide (l.2.base ≤ c) && decide (c < l.2.base + l.2.rlen)

/-- The layout of a launch put into the slots of a core (R112 to R114). -/
def setLayout (ws : List Word) (k : Core) : Core :=
  { k with slots := Vector.ofFn fun (i : Fin 5) =>
      { k.slots.get i with
        carveBase := BitVec.ofNat 17 (recTplBase ws - (5 - i.val) * recSize ws), carveSize := BitVec.ofNat 17 (recSize ws)
        spillN := BitVec.ofNat 5 (recSpilln ws), cowN := BitVec.ofNat 7 (recCown ws), qbase := BitVec.ofNat 17 (recQbase ws)
        tplBase := BitVec.ofNat 17 (recTplBase ws) } }

/-- A core of a region reset for a launch (R306 step 1). -/
def resetForLaunch (s : State) (id ctx : Nat) (ws : List Word) (c : Nat) : State :=
  let s := modCore s c fun k =>
    { setLayout ws (k.enter s ctx) with icache := [], ctr := Vector.replicate 64 0, wt := Vector.replicate 16 none, rr := 0, launch := some id }
  zeroRange s (windowPa c (recTplBase ws)) (windowPa c 0x18000)

/-- A launch started (R306, R331): the barrier instances of the quads, the dies and the region are new, since their keys name the launch. -/
def startLaunch (s : State) (ctx : Nat) (ws : List Word) : State :=
  let id := s.nextId + 1
  let region := recRegion s ctx ws
  let entry := recEntry ws
  let m := measAt s ctx entry
  let l : Launch := {
    ctx := ctx, entry := entry, tpl := recTpl ws, base := (intervalOf s ctx).1 + recBase ws, rlen := recLen ws, sup := recSupv ws
    qbase := BitVec.ofNat 17 (recQbase ws), cown := BitVec.ofNat 7 (recCown ws), spilln := BitVec.ofNat 5 (recSpilln ws)
    size := BitVec.ofNat 17 (recSize ws), tplBase := BitVec.ofNat 17 (recTplBase ws), args := ws.getD 3 0, nitems := recItems ws
    compl := recCompl ws, meas := m, active := true, complDue := false }
  let s := { s with
    nextId := id, launches := nset s.launches id l
    bars := s.bars.filter fun b => match b.1 with | .core c => decide (c < l.base) || decide (l.base + l.rlen ≤ c) | _ => true }
  let s := region.foldl (fun s c => resetForLaunch s id ctx ws c) s
  let start (s : State) (c : Nat) (t : Start) : State :=
    match freeL (coreOf s c) with | some i => startTask s c i t | none => s
  let base : Start := { pc := entry, g := [ws.getD 3 0], launch := some id, ctx := ctx, meas := m }
  if recTpl ws then
    match region with
    | c :: _ => start s c { base with nix := word (recItems ws), role := .prologue }
    | [] => s
  else region.foldl (fun s c => start s c { base with ix := word (c - l.base), nix := word (recLen ws) }) s

/-- LAUNCH_START (R299, R305, R306): the head's launch starts once its region is free and its first tasks have their slots. -/
def launchStart (s : State) (q : LaunchQ) : State :=
  match s.heads.find? fun h => h.q = q, queueCtx s q with
  | some h, some ctx =>
    let region := recRegion s ctx h.ws
    let starters := if recTpl h.ws then region.take 1 else region
    if !mayLaunch s ctx || !h.dep || h.pred ≠ some true || h.ws = [] || region.any (coreBusy s) ||
      starters.any (fun c => (freeL (coreOf s c)).isNone) then s
    else
      match queuePop (dispUid s ctx 999999) q s with
      | .ok (_, s) => startLaunch s ctx h.ws
      | .error (.walk f) => f s
      | .error (.fault _ _ _) => s
  | _, _ => s

/-! ### LAUNCH_COMPLETE (R307) -/

/-- Whether a message carries a store. -/
def MsgBody.isStore (b : MsgBody) : Bool :=
  match b.hkind with | some .load | some .other | none => false | _ => true

/-- Whether a message starts a task where it arrives. -/
def MsgBody.starts (b : MsgBody) : Bool :=
  match b with | .spawn _ _ | .hmsg _ _ _ | .lmsg _ _ _ | .count _ _ => true | _ => false

/-- Whether a core still holds something of a launch: a task, a descriptor or a message on its way to one, a count, an armed entry, or an
access of its tasks that has not been performed (log entry 21). -/
def coreHolds (s : State) (id c : Nat) : Bool :=
  let k := coreOf s c
  (k.slots.toList.any fun sl => sl.st ≠ .free && sl.launch = some id) || (k.rq.any fun e => e.launch = some id && e.kind ≠ 2) ||
    (k.wt.toList.any fun w => match w with | some e => e.launch = some id | none => false) ||
    (k.sb.any fun e => e.slot < 5) || k.dq ≠ [] || k.rots ≠ [] || k.orphans ≠ [] ||
    (s.mesh.any fun m => m.dst = c && m.body.starts) || (k.mq.any fun m => m.body.starts) || (s.counts.any fun r => r.src.core = c) ||
    (s.mesh.any fun m => m.src.core = c && m.body.isStore) || s.cores.any fun q => q.2.mq.any fun m => m.src.core = c && m.body.isStore

/-- Whether a launch completes (R307): while its context is not running, its cores lie in the preserved state and nothing of it ends. -/
def launchDone (s : State) (id : Nat) (l : Launch) : Bool :=
  l.active && (match nget s.ctxs l.ctx with | some x => decide (x.st = .running) | none => false) && !(s.tpls.any fun t => t.2.launch = some id) && !(regionOf l).any (coreHolds s id)

/-- LAUNCH_COMPLETE (R307): the launch is no longer active, and COMPL is counted up; an addition that waits is tried again. -/
def launchComplete (s : State) (id : Nat) : State :=
  match s.compls.find? fun x => x.id = id with
  | some x => tryCompl s x
  | none =>
    match nget s.launches id with
    | none => s
    | some l =>
      if !launchDone s id l then s
      else
        let s := { s with launches := nset s.launches id { l with active := false } }
        let s := (regionOf l).foldl (fun s c => modCore s c fun k => if k.launch = some id then { k with launch := none } else k) s
        complete s id l.ctx l.compl

/-- LAUNCH_RECORD (R301, R305). -/
def execLaunchRecord (q : LaunchQ) (s : State) : Host.Outcome State Fault Refusal := .next (launchRecord s q)

/-- LAUNCH_START (R306). -/
def execLaunchStart (q : LaunchQ) (s : State) : Host.Outcome State Fault Refusal := .next (launchStart s q)

/-- LAUNCH_COMPLETE (R307). -/
def execLaunchComplete (launch : Nat) (s : State) : Host.Outcome State Fault Refusal := .next (launchComplete s launch)

end Sys2Proof.Machine
end

