-- ==== Sys2Proof/Machine/Contexts.lean ====
section
/-! DEFINITION. Contexts, drains, scrubs, keys, handles, attestation, host attachment and the control complex (R29, R111, R213, R214,
R223, R229, R297, R358 to R362, R382 to R396). -/

namespace Sys2Proof.Machine

/-! ### The interval of a context -/

/-- Whether a core lies in an interval. -/
def inIv (iv : Nat × Nat) (c : Nat) : Bool := decide (iv.1 ≤ c) && decide (c < iv.1 + iv.2)

/-- Whether a physical address lies in a slice of an interval. -/
def paInIv (hdm : Windows) (iv : Nat × Nat) (pa : Nat) : Bool :=
  match ownerOf hdm pa with | .slice c _ => inIv iv c | _ => false

/-- The cores of an interval that hold any state. -/
def ivCores (s : State) (iv : Nat × Nat) : List Nat := (s.cores.map (·.1)).filter (inIv iv)

/-- A context changed. -/
def modCtx (s : State) (x : Nat) (f : Context → Context) : State :=
  match nget s.ctxs x with | some y => { s with ctxs := nset s.ctxs x (f y) } | none => s

/-- Whether any protected context is RUNNING or DESCHEDULED (R386). -/
def protLive (s : State) : Bool := s.ctxs.any fun x => x.2.desc.prot && (x.2.st = .running || x.2.st = .descheduled)

/-! ### The drain (R358 to R361) -/

/-- SLICE_END (R359): the drain of a running context begins; its pending walks are cancelled (R101). -/
def beginDrain (s : State) (x : Nat) : State :=
  match nget s.ctxs x with
  | none => s
  | some y =>
    if y.st ≠ .running || y.drain.isSome then s
    else
      let mine (w : Walker) : Bool := match w with | .slot c i => (slotAt s c i).ctx = x | .prefetch c => (coreOf s c).ctx = some x | .unit _ => false
      let walks := (s.walks.map fun w => if w.space = x then { w with who := w.who.filter fun q => !mine q } else w).filter fun w => w.who ≠ []
      { s with ctxs := nset s.ctxs x { y with drain := some s.ns }, walks := walks }

/-- Whether the slice of a protected context has lasted SQ µs (R386). -/
def sliceOver (s : State) (y : Context) : Bool :=
  match y.desc.prot, y.firstStart with
  | true, some t => decide (y.desc.sq.toNat ≤ (s.ns - t) / 1000 % max 1 y.desc.sper.toNat)
  | _, _ => true

/-- The control complex ends a slice (R358): that of a protected context lasts SQ µs (R386). -/
def sliceEnd (s : State) (x : Nat) : State :=
  match nget s.ctxs x with
  | some y => if sliceOver s y then beginDrain s x else s
  | none => s

/-- DRAIN_WATCHDOG (R359 step 4, R30): at t0 + WDLIM every task still in a slot other than Parked ends with WDOG. -/
def drainExpire (s : State) (x : Nat) : State :=
  match nget s.ctxs x with
  | none => s
  | some y =>
    match y.drain with
    | none => s
    | some t0 =>
      if s.ns < t0 + 1000 * y.desc.wdlim.toNat then s
      else
        (ivCores s (intervalOf s x)).foldl (fun s c => [0, 1, 2, 3, 4].foldl (fun s i =>
          let sl := slotAt s c i
          if sl.st ≠ .free && sl.st ≠ .parked && sl.ctx = x then terminal s c i .wdog 0 0 sl.pc else s) s) s

/-- Whether a core is drained (R359 steps 5 and 6). -/
def coreDrained (s : State) (c : Nat) : Bool :=
  let k := coreOf s c
  (k.slots.toList.all fun sl => sl.st = .free || sl.st = .parked) && k.sb = [] && k.dq = [] && k.rots = [] && k.orphans = [] && k.unmapDue = []

/-- Whether a context is drained: its cores, its engine commands and due pops, its built-in messages, continuations and counts in flight (R137,
R153, R328, R338, R359). -/
def ctxDrained (s : State) (x : Nat) : Bool :=
  let moving (m : Msg) : Bool := m.src.ctx = x && (m.body.hkind.isSome || (match m.body with | .spawn _ _ => true | _ => false))
  (ivCores s (intervalOf s x)).all (coreDrained s) && !(s.chans.any fun c => c.2.ctx = x && (c.2.exec ≠ [] || (c.2.pops ≠ [] && c.2.results ≠ []))) &&
    !(s.mesh.any moving) && !(s.cores.any fun k => k.2.mq.any moving) && !(s.counts.any fun r => r.src.ctx = x)

/-- A slot as preserved state keeps it (R361): a parked one its record, special registers, depth, binding set, OVFP and ENGMAP; what is lost
is zero (log entry 1). -/
def keptSlot (sl : Slot) : Slot :=
  { sl with
    g := Vector.replicate 24 0, e := Vector.replicate 8 EVal.empty, d := Vector.replicate 4 none, k := Vector.replicate 4 0
    w := Vector.replicate 16 .unmapped, fpst := 0, pend := .none, walkAns := [], t0 := none, noted := [], idle0 := none, watchdog := none }

/-- A core as preserved state keeps it (R361). -/
def keptCore (k : Core) : Core :=
  { k with
    slots := k.slots.map keptSlot, utlb := [], icache := [], watched := [], act := none, preempted := none
    tiles := Vector.replicate 4 ⟨0, none, false, none, false⟩ }

/-- A core that holds no context, scrubbed or put away (R361, R387): its `clk` goes on (R14), and it stays fenced (R420). -/
def Core.cleared (k : Core) : Core :=
  { Core.reset with fenced := k.fenced, clkProt := k.clkProt, clkBase := k.clkBase, clkFrom := k.clkFrom }

/-- A core of a resuming context as its preserved state has it, with what belongs to the core itself (R14, R420). -/
def Core.restored (k kept : Core) : Core :=
  { kept with fenced := k.fenced, clkProt := k.clkProt, clkBase := k.clkBase, clkFrom := k.clkFrom }

/-- Whether a barrier instance is that of a core of an interval. -/
def barInIv (iv : Nat × Nat) (b : BarKey × BarInst) : Bool := match b.1 with | .core c => inIv iv c | _ => false

/-- The templates of a context without physical registers: they are copied in again where they are needed (R318, R361). -/
def tplsOut (s : State) (x : Nat) : State :=
  s.tpls.foldl (fun s t =>
    if t.2.ctx ≠ x then s
    else
      let s := t.2.wide.foldl (fun s w => dropPreg s w.1 w.2.2) s
      modTpl s t.1 fun t => { t with wide := [], toCopy := if t.frozen = [] then [] else (t.cores.map quadOf).eraseDups }) s

/-- LOST set in the park record of every parked slot of a core, and their wide registers unmapped (R361). -/
def loseParked (s : State) (c : Nat) : State :=
  [0, 1, 2, 3].foldl (fun s i =>
    let sl := slotAt s c i
    if sl.st = .parked then
      let s := unmapAll s (quadOf c) sl.w
      wrNat s (parkPa c sl 30) 8 ((parkWord s c sl 30).toNat % 2 + 2)
    else s) s

/-- DRAIN_COMPLETE (R153, R359, R361, R382): a drained context becomes DESCHEDULED, and its cores and channels are put away as its preserved
state; of TLB entries its own are discarded. -/
def drainDone (s : State) (x : Nat) : State :=
  match nget s.ctxs x with
  | none => s
  | some y =>
    if y.st ≠ .running || y.drain.isNone || !ctxDrained s x then s
    else
      let iv := intervalOf s x
      let cs := ivCores s iv
      let s := (s.gwalks.filter fun g => g.ctx = x).foldl (fun s g => dropWalks s g.holder.1 g.holder.2.1 g.holder.2.2) s
      let s := tplsOut (cs.foldl loseParked s) x
      let sv : Saved := ⟨(s.cores.filter fun k => inIv iv k.1).map fun k => (k.1, keptCore k.2),
        s.mem.filter fun b => paInIv s.hdm iv b.1, s.poison.filter fun w => paInIv s.hdm iv (8 * w), s.bars.filter (barInIv iv),
        s.chans.filter fun c => c.2.ctx = x⟩
      let s := { s with
        bars := s.bars.filter fun b => !barInIv iv b
        chans := s.chans.map fun c => if c.2.ctx = x then (c.1, ⟨x, [], [], [], [], []⟩) else c
        cores := s.cores.map fun k => if inIv iv k.1 then (k.1, k.2.cleared) else k
        quads := s.quads.map fun q => if cs.any fun c => quadOf c = q.1 then (q.1, { q.2 with tlb := q.2.tlb.filter fun e => e.space ≠ x }) else q }
      modCtx s x fun y => { y with st := .descheduled, drain := none, saved := some sv }

/-! ### Slice start (R382, R386) -/

/-- Whether the last scrub record of an interval names a context as the arriving one (R387). -/
def scrubbedFor (s : State) (x : Nat) : Bool :=
  let iv := intervalOf s x
  match s.scrubs.reverse.find? fun r => decide (r.base < iv.1 + iv.2) && decide (iv.1 < r.base + r.len) with
  | some r => decide (r.base ≤ iv.1) && decide (iv.1 + iv.2 ≤ r.base + r.len) && r.arriving = some x
  | none => false

/-- The bound of a resume-latency class in µs (R362). -/
def rlcBound (r : BitVec 2) : Nat := match r.toNat with | 0 => 200 | 1 => 2000 | _ => 20000

/-- Whether a protected context's slice may start now (R386). -/
def sliceTime (s : State) (y : Context) : Bool :=
  match y.desc.prot, y.firstStart with
  | true, some t => (s.ns - t) / 1000 % max 1 y.desc.sper.toNat = 0
  | _, _ => true

/-- Whether the last slice of every protected context that left the interval has reached the instant at which a next tenant starts, however early its
drain completed (R386). -/
def tenantTime (s : State) (x : Nat) : Bool :=
  let iv := intervalOf s x
  s.ctxs.all fun z =>
    let jv := intervalOf s z.1
    match z.2.firstStart with
    | some t => decide (z.1 = x) || !z.2.desc.prot || z.2.st ≠ .descheduled || decide (iv.1 + iv.2 ≤ jv.1) || decide (jv.1 + jv.2 ≤ iv.1) ||
        decide (z.2.desc.sq.toNat + z.2.desc.wdlim.toNat + rlcBound z.2.desc.rlc ≤ (s.ns - t) / 1000 % max 1 z.2.desc.sper.toNat)
    | none => true

/-- SLICE_START (R382, R386, R387, R420): a context runs on its interval once the scrub record exists. -/
def beginSlice (s : State) (x : Nat) : State :=
  match nget s.ctxs x with
  | none => s
  | some y =>
    let iv := intervalOf s x
    let other := s.ctxs.any fun z => z.2.st = .running && vfOf z.1 = vfOf x
    let fencedIv := s.quads.any fun q => q.2.fenced && [0, 1, 2, 3].any fun j => inIv iv (4 * q.1 + j)
    if !(y.st = .created || y.st = .descheduled) || y.held || other || iv.2 = 0 || !scrubbedFor s x || !sliceTime s y || !tenantTime s x || fencedIv then s
    else
      let s := match y.saved with
        | some sv => { s with
            bars := s.bars ++ sv.bars
            chans := sv.chans.foldl (fun m c => nset m c.1 c.2) s.chans
            cores := sv.cores.foldl (fun m k => nset m k.1 ((coreOf s k.1).restored k.2)) s.cores
            mem := memSets (s.mem.filter fun b => !paInIv s.hdm iv b.1) sv.mem
            poison := sv.poison.foldl sinsert (s.poison.filter fun w => !paInIv s.hdm iv (8 * w)) }
        | none => s
      let s := (List.range iv.2).foldl (fun s j => modCore s (iv.1 + j) (Core.enter s x)) s
      let s := if y.desc.prot then { s with power := { s.power with mhz := 1000 } } else s
      modCtx s x fun y => { y with
        st := .running, drain := none, saved := none, firstStart := some (y.firstStart.getD s.ns) }

/-! ### Creation (R382, R383) -/

/-- The ranges of a context descriptor (R383, R386, and the rules it cites). -/
def descriptorOk (d : Descriptor) : Bool :=
  decide (d.vf.toNat < 384) && d.rlc ≠ 3 && decide (1 ≤ d.wdlim.toNat) && decide (d.wdlim.toNat ≤ 2000) && d.upc.toNat % 8 = 0 &&
    d.sve.toNat % 8 = 0 && d.ovseg.toNat % 4096 = 0 && d.eng.toNat / 4096 % 16 = 0 &&
    decide (d.eng.toNat / 65536 ≤ 64) && decide (d.eng.toNat % 4096 + d.eng.toNat / 65536 ≤ 4096) && decide (1 ≤ d.lcap.toNat) && decide (d.lcap.toNat ≤ 65536) && d.dlq.toNat % 64 = 0 &&
    (if d.prot then decide (100 ≤ d.sq.toNat) && decide (d.sq.toNat ≤ 100000) && decide (d.sq.toNat + d.wdlim.toNat + rlcBound d.rlc ≤ d.sper.toNat)
      else d.sq = 0 && d.sper = 0)

/-- The key of a descriptor's context. -/
def ctxKey (d : Descriptor) : Nat := d.vf.toNat * 1048576 + d.pasid.toNat

/-- CONTEXT_CREATE (R382 to R384): a context that does not exist, or has ended, is created from its descriptor. -/
def createCtx (s : State) (d : Descriptor) : State :=
  let x := ctxKey d
  let live := (s.ctxs.filter fun y => vfOf y.1 = d.vf.toNat && y.2.st ≠ .ended).length
  let there : Bool := match nget s.ctxs x with | some y => y.st ≠ .ended | none => false
  if !descriptorOk d || decide (64 ≤ live) || there then s
  else { s with ctxs := nset s.ctxs x {
    desc := d, st := .created, handles := [], layout := [], images := [], launchTab := [], fabricQ := [], drain := none, endDue := false
    regs := [], podGroup := [], podRoot := 0, peers := [], root := 0, flat := false, flatBase := 0, flatSize := 0, hostShared := false, firstStart := none
    held := false, saved := none } }

/-! ### ERROR and ENDED (R382, R394) -/

/-- A command ended with FLUSHED (R374, R394): its completion step is performed, or waits for a walk (R149). -/
def flushCmd (s : State) (key : Nat) (x : Exec) : State :=
  let x := { x with stop := some (0x88, 0, 0) }
  let s := modChan s key fun ch => { ch with exec := ch.exec.map fun y => if y.cmd.id = x.cmd.id then x else y }
  match complUnit (chanUnit s (key / 64) key x.cmd) x s with
  | .ok (r, s) => finish s key x r
  | .error (.walk f) => f s
  | .error (.fault st w1 va) => finish s key x (some (st, w1, va))

/-- The commands of a channel ended with FLUSHED, in order (R374, R394). -/
def flushChan (s : State) (key : Nat) : State :=
  let ch := chanAt s key
  let all := ch.exec ++ ch.cmds.map fun c => (⟨c, 0, 0, none, none, 0, [], false⟩ : Exec)
  all.foldl (fun s e => flushCmd s key e) (modChan s key fun c => { c with cmds := [], exec := all })

/-- A context enters ERROR: its tasks stop without a drain, its engine commands end FLUSHED, and event 0x005 is raised (R382, R394,
R395). -/
def ctxError (s : State) (x : Nat) : State :=
  match nget s.ctxs x with
  | none => s
  | some y =>
    if y.st = .ended || y.st = .error then s
    else
      let cs := (s.cores.filter fun k => k.2.ctx = some x || k.2.slots.toList.any fun sl => sl.st ≠ .free && sl.ctx = x).map (·.1)
      let s := cs.foldl (fun s c => [0, 1, 2, 3, 4].foldl (fun s i =>
        if (slotAt s c i).st ≠ .free && (slotAt s c i).ctx = x then endTask s c i false else s) s) s
      let s : State := match y.saved with | some v => { s with chans := v.chans.foldl (fun m c => nset m c.1 c.2) s.chans } | none => s
      let s := (s.chans.filter fun c => c.2.ctx = x).foldl (fun s c => flushChan s c.1) s
      let s := modCtx s x fun y => { y with st := .error, drain := some s.ns, endDue := false }
      raiseEvent s (vfOf x / 24) 5 x

/-- What is left of a context removed when it ends: launches, templates, barriers, queue pairs, streams, outstanding additions; its key
slots become ERASING (R213, R307, R382). -/
def endCtx (s : State) (x : Nat) : State :=
  let s := s.tpls.foldl (fun s t => if t.2.ctx = x then t.2.wide.foldl (fun s w => dropPreg s w.1 w.2.2) s else s) s
  let s := (s.streams.filter fun z => z.ctx = x).foldl (fun s z => tellSender (releaseZone s z.id) z 6 Code.handle.num) s
  let s := (s.streams.filter fun z => z.qp.isNone && z.src = x).foldl (fun s z => releaseZone s z.id) s
  let s := (s.qps.flatMap fun q => q.2.zones.filter fun z => z.2 = x).foldl (fun s z => giveUpStream s z.1) s
  let mine (q : LaunchQ) : Bool := q = .device x || q = .fabric x
  let s := { s with
    launches := s.launches.filter fun l => l.2.ctx ≠ x
    tpls := s.tpls.filter fun t => t.2.ctx ≠ x
    gwalks := s.gwalks.filter fun g => g.ctx ≠ x
    bars := s.bars.filter fun b => match b.1 with | .pod y => y ≠ x | _ => true
    qps := s.qps.filter fun q => q.2.ctx ≠ x
    rx := s.rx.filter fun r => match nget s.qps r.qpn with | some q => q.ctx ≠ x | none => false
    sessions := s.sessions.filter fun q => q.2.ctx ≠ x
    compls := s.compls.filter fun c => c.ctx ≠ x
    heads := s.heads.filter fun h => !mine h.q
    retryables := s.retryables.filter fun r => r.ctx ≠ x
    walks := s.walks.filter fun w => w.space ≠ x
    keys := s.keys.map fun (k : KeySlot) => if k.st = .loaded && k.ctx = x then { k with st := .erasing } else k }
  modCtx s x fun y => { y with st := .ended, handles := [], layout := [], images := [], launchTab := [], fabricQ := [], drain := none, regs := [], podGroup := [], saved := none }

/-! ### The scrub (R387) -/

/-- The channels of a departing context emptied and freed. -/
def scrubChans (s : State) (x : Nat) : State := { s with chans := s.chans.filter fun c => c.2.ctx ≠ x }

/-- Whether a message is one that the device makes for a task, and no message of the user's, which outlives its sender (R234, R238). -/
def MsgBody.device : MsgBody → Bool
  | .hmsg _ _ _ | .lmsg _ _ _ | .sendw _ _ _ _ _ _ => false
  | _ => true

/-- SCRUB (R71, R382, R387): every core, quad and unit of an interval set to its value, and the scrub record written. A context in ERROR
that departs ends, and what its cores had still to send is empty but for its users' messages; the state of one that is DESCHEDULED lies
elsewhere and stays. -/
def scrubIv (s : State) (base len : Nat) (dep arr : Option Nat) : State :=
  let iv := (base, len)
  if s.ctxs.any fun x => x.2.st = .running && decide ((intervalOf s x.1).1 < base + len) &&
      decide (base < (intervalOf s x.1).1 + (intervalOf s x.1).2) then s
  else
    let cs := ivCores s iv
    let qs := (cs.map quadOf).eraseDups
    let s := cs.foldl (fun s c => (coreOf s c).unmapDue.foldl (fun s m => unmapList s (quadOf c) m.2)
      ([0, 1, 2, 3, 4].foldl (fun s i => unmapAll s (quadOf c) (slotAt s c i).w) s)) s
    let gone (m : Msg) : Bool := (match dep.bind (nget s.ctxs) with | some y => y.st = .error | none => false) && dep = some m.src.ctx && m.body.device
    let s := { s with
      cores := s.cores.map fun k => if inIv iv k.1 then (k.1, k.2.cleared) else k
      quads := s.quads.map fun q => if qs.contains q.1 then (q.1, { q.2 with tlb := [] }) else q
      mem := s.mem.filter fun b => !paInIv s.hdm iv b.1
      poison := s.poison.filter fun w => !paInIv s.hdm iv (8 * w)
      ecc := s.ecc.filter fun e => !paInIv s.hdm iv (8 * e.1)
      mesh := s.mesh.filter fun m => !gone m
      walks := (s.walks.map fun w => { w with who := w.who.filter fun q => match q with | .slot c _ | .prefetch c => !inIv iv c | .unit _ => true }).filter fun w => w.who ≠ []
      bars := s.bars.filter fun b => match b.1 with
        | .core c => !inIv iv c
        | .quad l _ | .die l _ | .pkg l => match nget s.launches l with | some y => dep ≠ some y.ctx || (match nget s.ctxs y.ctx with | some z => z.st = .descheduled | none => false) | none => decide (l < 2 ^ 40)
        | .pod _ => true
      scrubs := s.scrubs ++ [⟨base, len, dep, arr, s.scrubs.length + 1⟩] }
    match dep with
    | none => s
    | some x =>
      let s := { s with unitTlb := s.unitTlb.map fun u => (u.1, u.2.filter fun e => e.space ≠ x) }
      match nget s.ctxs x with
      | some y => if y.st = .error then endCtx (scrubChans s x) x else s
      | none => s

/-! ### Key slots (R213, R214, R390) -/

/-- The rules of a policy record (R214). -/
def policyOk (p : List Word) : Bool :=
  let f (j : Nat) := (p.getD j 0).toNat
  let nm := f 0 % 32
  (List.range 32).all (fun c => !(f 0 / 2 ^ 32).testBit c || (Num.fmtOfCode c).isSome) && f 0 / 2 ^ 9 % 2 ^ 23 = 0 && f 0 / 32 % 8 = 0 &&
    decide (1 ≤ nm) && decide (nm ≤ 16) && canonical (p.getD 1 0) && f 1 % 2 ^ 21 = 0 && f 2 % 2 ^ 21 = 0 && decide (f 2 ≤ 2 ^ 40) &&
    p.length = 3 + 6 * nm

/-- A key slot replaced. -/
def setKey (s : State) (n : Fin 64) (k : KeySlot) : State := { s with keys := s.keys.set n.val k n.isLt }

/-- KEY_INSTALL (R213, R214, R390). -/
def installKey (s : State) (n : Fin 64) (b : KeyBlob) : State :=
  if (s.keys.get n).st ≠ .empty || !b.inSession || !policyOk b.policy then s
  else setKey s n ⟨.loaded, b.ctx, b.xts, b.tagKey, b.policy, b.tagBase⟩

/-- KEY_ERASE (R213). -/
def eraseKey (s : State) (n : Fin 64) : State :=
  let k := s.keys.get n
  if k.st = .loaded then setKey s n { k with st := .erasing } else s

/-- Whether something accepted under a key slot has not completed (R213): a wide or matrix instruction, a sealed store, a FURLMOVE. -/
def keyBusy (s : State) (n : Fin 64) : Bool :=
  let key := s.keys.get n
  let seals (e : StoreEnt) : Bool := e.bytes.any fun b => decide (key.tagBase ≤ b.1) && decide (b.1 < key.tagBase + key.pol 2 / 16)
  (s.chans.any fun c => c.2.exec.any fun x => x.keys.contains n.val) ||
    s.cores.any fun k => (k.2.dq.any fun r => r.keys.any fun m => m.1 = n.val) || k.2.sb.any seals

/-- A key slot taken out of a binding set. -/
def unbind (n : Fin 64) (b : BitVec 64) : BitVec 64 := b &&& ~~~(BitVec.twoPow 64 n.val)

/-- What a core holds of a key slot ended (R213, R218). -/
def Core.unkeyed (n : Fin 64) (k : Core) : Core :=
  { k with
    furl := k.furl.filter fun r => r.key ≠ n.val
    slots := k.slots.map fun (sl : Slot) => { sl with bind := unbind n sl.bind } }

/-- What a channel holds of a key slot ended. -/
def Chan.unkeyed (n : Fin 64) (c : Chan) : Chan :=
  { c with cmds := c.cmds.map fun (d : Cmd) => { d with bind := unbind n d.bind } }

/-- What a descheduled context holds of a key slot ended. -/
def Context.unkeyed (n : Fin 64) (y : Context) : Context :=
  { y with saved := y.saved.map fun (v : Saved) =>
      { v with cores := v.cores.map fun k => (k.1, k.2.unkeyed n), chans := v.chans.map fun c => (c.1, c.2.unkeyed n) } }

/-- KEY_ERASED (R213): once what was accepted under the slot has completed, the keys are zeroed; ranges and bindings of it end. -/
def keyGone (s : State) (n : Fin 64) : State :=
  if (s.keys.get n).st ≠ .erasing || keyBusy s n then s
  else
    let s := setKey s n ⟨.empty, 0, 0, 0, [], 0⟩
    { s with
      cores := s.cores.map fun k => (k.1, k.2.unkeyed n)
      ctxs := s.ctxs.map fun x => (x.1, x.2.unkeyed n)
      furled := s.furled.filter fun e => e.key ≠ n.val
      tpls := s.tpls.map fun t => (t.1, { t.2 with bind := unbind n t.2.bind })
      chans := s.chans.map fun c => (c.1, c.2.unkeyed n) }

/-! ### Handles (R229, R385) -/

/-- The context that a handle reaches, on this package. -/
def handleTarget (s : State) : Handle → Option Nat
  | .core pkg _ x _ _ _ | .landing pkg x _ _ => if pkg = s.pkg then some x else none
  | _ => none

/-- A ring's control block placed; what waits for the ring stays. -/
def setRing (s : State) (n pa : Nat) : State :=
  { s with rings := nset s.rings n { (nget s.rings n).getD ⟨0, []⟩ with pa := pa } }

/-- HANDLE_GRANT (R131, R228, R385): a handle to another VF needs the offer and the acceptance; a target that has ended or is in ERROR is
refused, and so is a channel that another context owns. A host queue's ring is the one that its driver names. -/
def grantHandle (s : State) (x idx : Nat) (h : Handle) (offered accepted : Bool) : State :=
  let ok := match handleTarget s h with
    | some t => (vfOf t = vfOf x || (offered && accepted)) && (match nget s.ctxs t with | some y => y.st ≠ .ended && y.st ≠ .error | none => false)
    | none => match h with
      | .core _ _ _ _ _ _ | .landing _ _ _ _ => offered && accepted
      | .engine eng ch => (match nget s.chans (chanKey eng ch) with | some c => c.ctx = x || ctxGone s c.ctx | none => true)
      | _ => true
  match nget s.ctxs x with
  | none => s
  | some _ =>
    if !ok then s
    else
      let s := { modCtx s x (fun y => { y with handles := nset y.handles idx h }) with grants := s.grants ++ [⟨x, idx, offered, accepted⟩] }
      match h with
      | .engine eng ch => modChan s (chanKey eng ch) fun c => { c with ctx := x }
      | .hostQueue ring pa => setRing s (1000 + ring) pa
      | _ => s

/-- HANDLE_REVOKE (R229). -/
def revokeHandle (s : State) (x idx : Nat) : State := modCtx s x fun y => { y with handles := ndel y.handles idx }

/-! ### Attestation and the interface of a VF (R389, R390, R394) -/

/-- The token of a context (R389). -/
def tokenOf (s : State) (x : Nat) (y : Context) (nonce : List Byte) : Token :=
  let iv := intervalOf s x
  let hash (k : KeySlot) : BitVec 384 := Crypto.sha384 ((k.policy.map fun w => Crypto.leBytes 8 w.toNat).flatten)
  ⟨x, nonce, y.images, (s.keys.toList.filter fun k => k.st = .loaded && k.ctx = x).map hash, y.desc,
    s.scrubs.reverse.find? fun r => decide (r.base ≤ iv.1) && decide (iv.1 + iv.2 ≤ r.base + r.len), Config.free s.tick⟩

/-- A token built and handed over. -/
def giveToken (s : State) (x : Nat) (nonce : List Byte) : State :=
  match nget s.ctxs x with
  | some y => if y.st = .ended then s else { s with tokens := s.tokens ++ [tokenOf s x y nonce], tick := s.tick + 1 }
  | none => s

/-- EVIDENCE_REQUEST (R389). -/
def evidence (s : State) (x : Nat) (nonce : List Byte) : State :=
  if decide (16 ≤ nonce.length) && decide (nonce.length ≤ 64) then giveToken s x nonce else s

/-- A VF's interface. -/
def ifAt (s : State) (vf : Nat) : VfIf := (nget s.ifs vf).getD ⟨false, .unlocked, none⟩

/-- A VF's interface leaves RUN or loses its session (R394): writes to host memory not yet performed are dropped, every context of the
VF enters ERROR, one record goes to the LD's terminal ring. -/
def leaveRun (s : State) (vf cause : Nat) : State :=
  let s := { s with ifs := nset s.ifs vf { ifAt s vf with session := if cause = 2 then false else (ifAt s vf).session, tdi := .unlocked, exitAt := some s.ns } }
  let host (e : StoreEnt) : Bool := vfOf e.src.ctx = vf &&
    (match ownerOf s.hdm (match e.req with | .rmw pa _ _ _ => pa | _ => e.pa) with | .host _ => true | _ => false)
  let s := { s with cores := s.cores.map fun (k : Nat × Core) => (k.1, { k.2 with sb := k.2.sb.filter fun (e : StoreEnt) => !host e }) }
  let s := (s.ctxs.filter fun (x : Nat × Context) => vfOf x.1 = vf).foldl (fun (s : State) (x : Nat × Context) => ctxError s x.1) s
  postRec s (16 + vf / 24) [recWord0 0 3 1 vf 0 0, 0, word cause, word (s.ns / 1000), 0, 0, 0, 0]

/-- SPDM_REQUEST (R394): measurements are those of R389; a session opens or is ended; TDISP requests lock, start and stop. -/
def spdm (s : State) (vf : Nat) (r : SpdmReq) : State :=
  let i := ifAt s vf
  let put (i : VfIf) : State := { s with ifs := nset s.ifs vf i }
  match r with
  | .measurements x => if vfOf x = vf then giveToken s x [] else s
  | .sessionOpen => put { i with session := true }
  | .sessionEnd => if i.session then leaveRun s vf 2 else s
  | .lock => if i.session && i.tdi = .unlocked then put { i with tdi := .locked } else s
  | .start => if i.session && i.tdi = .locked then put { i with tdi := .run } else s
  | .stop => match i.tdi with | .run => leaveRun s vf 1 | .locked => put { i with tdi := .unlocked } | .unlocked => s

/-- TDISP_EXIT (R394). -/
def tdispOut (s : State) (vf : Nat) : State := if (ifAt s vf).tdi = .run then leaveRun s vf 1 else s

/-- SPDM_EXPIRY and HEARTBEAT_LOSS (R394). -/
def spdmOut (s : State) (vf : Nat) : State := if (ifAt s vf).session then leaveRun s vf 2 else s

/-! ### Registers of the device and of the service (R111, R297, R303, R304, R373, R381, R391, R393, R395, R396) -/

/-- EVRT_WRITE (R395): it takes effect only on a free entry or for its owner. -/
def evrtPut (s : State) (ld e claimant owner dest : Nat) : State :=
  let cur := (nget s.evrt (ld * 4096 + e)).getD ⟨0, 0⟩
  if (cur.owner = 0 || cur.owner = claimant) && decide (owner ≤ 2) then { s with evrt := nset s.evrt (ld * 4096 + e) ⟨owner, dest⟩ } else s

/-- A core of an interval that moves from one base to another. -/
def movedCore (a b c : Nat) : Nat := b + (c - a)

/-- A slice address of an interval that moves. -/
def movedPa (hdm : Windows) (a b pa : Nat) : Nat := match ownerOf hdm pa with | .slice c off => windowPa (movedCore a b c) off | _ => pa

/-- What a descheduled context keeps, for an interval that moves (R420): each core's state stays with its place in the interval. -/
def Saved.moved (hdm : Windows) (a b : Nat) (v : Saved) : Saved :=
  { v with
    cores := v.cores.map fun k => (movedCore a b k.1, k.2)
    mem := memSets [] (v.mem.map fun x => (movedPa hdm a b x.1, x.2))
    poison := v.poison.foldl (fun l w => sinsert l (movedPa hdm a b (8 * w) / 8)) []
    bars := v.bars.map fun x => (match x.1 with | .core c => .core (movedCore a b c) | k => k, x.2) }

/-- The interval of a VF placed (R297), or re-placed with what its contexts keep of it while none of them runs (R420; log entry 50). -/
def placeInterval (s : State) (vf base len : Nat) : State :=
  let a := (nget s.vfs vf).getD (base, len)
  let mine (x : Nat) : Bool := vfOf x = vf
  let live := s.ctxs.any fun x => mine x.1 && x.2.st ≠ .ended
  let stuck := s.ctxs.any fun x => mine x.1 && (x.2.st = .running || x.2.st = .error)
  let hits := s.vfs.any fun v => v.1 ≠ vf && decide (v.2.1 < base + len) && decide (base < v.2.1 + v.2.2)
  let fenced := s.quads.any fun q => q.2.fenced && [0, 1, 2, 3].any fun j => inIv (base, len) (4 * q.1 + j)
  if stuck || (live && a.2 ≠ len) || hits || fenced || len = 0 || decide (6144 < base + len) then s
  else { s with
    vfs := nset s.vfs vf (base, len)
    ctxs := s.ctxs.map fun x => (x.1, if mine x.1 then { x.2 with saved := x.2.saved.map (Saved.moved s.hdm a.1 base) } else x.2)
    launches := s.launches.map fun l => (l.1, if mine l.2.ctx then { l.2 with base := movedCore a.1 base l.2.base } else l.2)
    tpls := s.tpls.map fun t => (t.1, if mine t.2.ctx then { t.2 with
      home := movedCore a.1 base t.2.home, cores := t.2.cores.map (movedCore a.1 base)
      ended := t.2.ended.map fun e => (movedCore a.1 base e.1, e.2) } else t.2) }

/-- A context's descriptor written again (R382): only while the context is not RUNNING, and never for another key. -/
def rewriteDesc (s : State) (d : Descriptor) : State :=
  if descriptorOk d then modCtx s (ctxKey d) fun y => if y.st = .running || y.st = .ended then y else { y with desc := d } else s

/-- The quads of a service core, and those that it had taken over, given to another, with the walks that wait there (R102, R420). -/
def reassignSvc (s : State) (a b : Nat) : State :=
  let b := (nget s.reassign b).getD b
  { s with
    reassign := nset (s.reassign.map fun r => if r.2 = a then (r.1, b) else r) a b
    walks := s.walks.map fun w => if w.svc = a then { w with svc := b, flying := false } else w }

/-- REGISTER_WRITE. -/
def regWrite (s : State) (r : SvcReg) : State :=
  match r with
  | .vfInterval vf base len => placeInterval s vf base len
  | .descriptor d => rewriteDesc s d
  | .rptw v => if [0, 1, 2].all fun j => v.toNat / 16 ^ j % 16 ≠ 0 then { s with rptw := v } else s
  | .retRing ld pa => setRing s ld.val pa
  | .termRing ld pa => setRing s (16 + ld.val) pa
  | .vfRing ld v pa => setRing s (32 + 24 * ld.val + v.val) pa
  | .hostLaunchRing vf pa => { s with launchRings := nset s.launchRings vf pa }
  | .space x root flat base size shared =>
    if (flat && shared) || base % 2 ^ pageBits size.val ≠ 0 then s
    else modCtx s x fun y => { y with root := root, flat := flat, flatBase := base, flatSize := size, hostShared := shared }
  | .launchTable x idx e qpn => modCtx s x fun y => { y with launchTab := nset y.launchTab idx.toNat (e, qpn) }
  | .podGroup x members root => modCtx s x fun y => { y with podGroup := members, podRoot := root }
  | .image x im => modCtx s x fun y => { y with images := y.images ++ [im] }
  | .registration x rkey g => modCtx s x fun y =>
      if decide (1024 ≤ y.regs.length) && (nget y.regs rkey.toNat).isNone then y else { y with regs := nset y.regs rkey.toNat g }
  | .threshold c n => { s with thr := s.thr.set c.val n c.isLt }
  | .hdm port page pages =>
    if 2 ^ 31 < page + pages then s else { s with hdm := { s.hdm with claims := s.hdm.claims ++ [(port, page, pages)] } }
  | .hostGrant port ld page pages =>
    if 2 ^ 32 < page + pages then s else { s with hdm := { s.hdm with grants := s.hdm.grants ++ [(port, ld.val, page, pages)] } }
  | .hubService hub die => { s with hubs := nset s.hubs hub.val die.val }
  | .reassign a b => if a / 8 = b / 8 && decide (a < 32) && a ≠ b then reassignSvc s a b else s
  | .peerPolicy x l => modCtx s x fun y => { y with peers := l }

/-- LD_BIND (R391): the fabric manager binds a logical device to a host. -/
def bindLd (s : State) (ld host : Nat) : State := { s with lds := nset s.lds ld host }

/-- CONTROL_COMPLEX_RESUME (R29): a halted slot whose record went to the terminal ring, because no supervisor takes it. -/
def ccResume (s : State) (c i : Nat) (next : Bool) : State :=
  let sl := slotAt s c i
  let sve : Word := match nget s.ctxs sl.ctx with | some x => x.desc.sve | none => 0
  let alone : Bool := match sl.launch.bind (nget s.launches) with | some l => sve = 0 || l.base + l.sup = c | none => true
  if alone then (resumeAt s c i next).1 else s

/-! ### Debug access (R223, R386) -/

/-- The record of a debug read of sealed or furled state, for the context that owns it (R223). -/
def furlDebugRec (s : State) (x : Nat) (c i : Nat) : State := errRec s x .furlDebug 0 c i

/-- The key slot whose furled page, furled range or tag region holds a word: pages are those that translations have shown (R210, R215,
R223; log entry 18). -/
def furledKey (s : State) (pa : Nat) : Option Nat :=
  let hit (e : TlbEntry) : Bool := decide (e.ppn * 4096 ≤ pa) && decide (pa < e.ppn * 4096 + 2 ^ pageBits e.size)
  let tags (n : Fin 64) : Bool :=
    let k := s.keys.get n
    k.st ≠ .empty && decide (k.tagBase < pa + 8) && decide (pa < k.tagBase + k.pol 2 / 16)
  (rangeAt s pa 8).map (·.key) |>.or ((s.furled.find? hit).map (·.key)) |>.or (((List.finRange 64).find? tags).map (·.val))

/-- Whether a core belongs to a protected context. -/
def protCore (s : State) (c : Nat) : Bool :=
  match (coreOf s c).ctx.bind (nget s.ctxs) with | some y => y.desc.prot | none => false

/-- What a debug access of a unit's bits returns: zeros where they are sealed, with the record, or where the context is protected. -/
def dbgUnit (s : State) (c i : Nat) (tag : Option (Fin 64)) (n : Nat) (v : Nat) : State :=
  let s := if tag.isSome then furlDebugRec s ((coreOf s c).ctx.getD (slotAt s c i).ctx) c i else s
  { s with dbgOut := if protCore s c || tag.isSome then List.replicate n (0 : Byte) else Alu.bytesOf v n }

/-- DEBUG_ACCESS (R223, R386): what the control complex reads. In a protected context slices and units read as zero and memory as
ciphertext, which is a free value. -/
def debugRd (s : State) (t : DbgTarget) : State :=
  match t with
  | .phys pa =>
    let pa := pa / 8 * 8
    match furledKey s pa with
    | some k => { furlDebugRec s (keyAt s k).ctx 0 0 with dbgOut := List.replicate 8 0 }
    | none =>
      (match ownerOf s.hdm pa with
        | .slice c _ => { s with dbgOut := if protCore s c then List.replicate 8 0 else rdBytes s pa 8 }
        | _ => if protLive s then { s with dbgOut := Alu.bytesOf (Config.free s.tick).toNat 8, tick := s.tick + 1 }
          else { s with dbgOut := rdBytes s pa 8 })
  | .wreg c i r => match (slotAt s c i.val).w.get r with
    | .unmapped => dbgUnit s c i.val none 256 0
    | .priv p | .shared p => let g := (quadAt s (quadOf c)).pregs.get p; dbgUnit s c i.val g.tag 256 g.data.toNat
  | .tile c n => let g := (coreOf s c).tiles.get n; dbgUnit s c ((g.owner.map (·.1)).getD 0) g.tag 4096 g.data.toNat
  | .latch c => let g := (coreOf s c).latch; dbgUnit s c 0 g.tag 2048 g.data.toNat
  | .recv c => let g := (coreOf s c).recv; dbgUnit s c 0 g.tag 2048 g.data.toNat

/-- HOST_MEMORY_WRITE (R283, R394): a host's write to memory that the device owns is executed at its owner. -/
def hostWrite (s : State) (pa : Nat) (bytes : List Byte) : State :=
  let l := bytes.zipIdx.map fun p => (pa + p.2, p.1)
  if l.all (fun b => populated s b.1 1) then (perform s l []).1 else s

/-- SLICE_END (R358, R359). -/
def execSliceEnd (ctx : Nat) (s : State) : Host.Outcome State Fault Refusal := .next (sliceEnd s ctx)

/-- DRAIN_WATCHDOG (R359). -/
def execDrainWatchdog (ctx : Nat) (s : State) : Host.Outcome State Fault Refusal := .next (drainExpire s ctx)

/-- DRAIN_COMPLETE (R359, R361). -/
def execDrainComplete (ctx : Nat) (s : State) : Host.Outcome State Fault Refusal := .next (drainDone s ctx)

/-- SLICE_START (R382). -/
def execSliceStart (ctx : Nat) (s : State) : Host.Outcome State Fault Refusal := .next (beginSlice s ctx)

/-- CONTEXT_CREATE (R382, R383). -/
def execContextCreate (desc : Descriptor) (s : State) : Host.Outcome State Fault Refusal := .next (createCtx s desc)

/-- SCRUB (R387). -/
def execScrub (base len : Nat) (departing arriving : Option Nat) (s : State) : Host.Outcome State Fault Refusal :=
  .next (scrubIv s base len departing arriving)

/-- KEY_INSTALL (R213). -/
def execKeyInstall (slot : Fin 64) (key : KeyBlob) (s : State) : Host.Outcome State Fault Refusal := .next (installKey s slot key)

/-- KEY_ERASE (R213). -/
def execKeyErase (slot : Fin 64) (s : State) : Host.Outcome State Fault Refusal := .next (eraseKey s slot)

/-- KEY_ERASED (R213). -/
def execKeyErased (slot : Fin 64) (s : State) : Host.Outcome State Fault Refusal := .next (keyGone s slot)

/-- HANDLE_GRANT (R385). -/
def execHandleGrant (ctx : Nat) (idx : BitVec 12) (h : Handle) (offered accepted : Bool) (s : State) :
    Host.Outcome State Fault Refusal := .next (grantHandle s ctx idx.toNat h offered accepted)

/-- HANDLE_REVOKE (R229). -/
def execHandleRevoke (ctx : Nat) (idx : BitVec 12) (s : State) : Host.Outcome State Fault Refusal := .next (revokeHandle s ctx idx.toNat)

/-- EVIDENCE_REQUEST (R389). -/
def execEvidenceRequest (ctx : Nat) (nonce : List Byte) (s : State) : Host.Outcome State Fault Refusal := .next (evidence s ctx nonce)

/-- SPDM_REQUEST (R394). -/
def execSpdmRequest (vf : Nat) (req : SpdmReq) (s : State) : Host.Outcome State Fault Refusal := .next (spdm s vf req)

/-- TDISP_EXIT (R394). -/
def execTdispExit (vf : Nat) (s : State) : Host.Outcome State Fault Refusal := .next (tdispOut s vf)

/-- SPDM_EXPIRY (R394). -/
def execSpdmExpiry (vf : Nat) (s : State) : Host.Outcome State Fault Refusal := .next (spdmOut s vf)

/-- HEARTBEAT_LOSS (R394). -/
def execHeartbeatLoss (vf : Nat) (s : State) : Host.Outcome State Fault Refusal := .next (spdmOut s vf)

/-- EVRT_WRITE (R395). -/
def execEvrtWrite (ld : Fin 16) (e : BitVec 12) (claimant owner : BitVec 4) (dest : BitVec 32) (s : State) :
    Host.Outcome State Fault Refusal := .next (evrtPut s ld.val e.toNat claimant.toNat owner.toNat dest.toNat)

/-- REGISTER_WRITE (R393, R396). -/
def execRegisterWrite (r : SvcReg) (s : State) : Host.Outcome State Fault Refusal := .next (regWrite s r)

/-- LD_BIND (R391). -/
def execLdBind (ld : Fin 16) (host : Nat) (s : State) : Host.Outcome State Fault Refusal := .next (bindLd s ld.val host)

/-- CONTROL_COMPLEX_RESUME (R29). -/
def execControlComplexResume (rank : Nat) (slot : Fin 5) (next : Bool) (s : State) : Host.Outcome State Fault Refusal :=
  .next (ccResume s rank slot.val next)

/-- CONTEXT_ERROR_REQUEST (R382). -/
def execContextErrorRequest (ctx : Nat) (s : State) : Host.Outcome State Fault Refusal := .next (ctxError s ctx)

/-- DEBUG_ACCESS (R223). -/
def execDebugAccess (t : DbgTarget) (s : State) : Host.Outcome State Fault Refusal := .next (debugRd s t)

/-- HOST_MEMORY_WRITE (R283). -/
def execHostMemoryWrite (pa : Nat) (bytes : List Byte) (s : State) : Host.Outcome State Fault Refusal := .next (hostWrite s pa bytes)

end Sys2Proof.Machine
end

