-- ==== Sys2Proof/Machine/Halyard.lean ====
section
/-! DEFINITION. Halyard: queue pairs, the commands of its engines, the packets of the network, sessions (R366 to R381; log entries 11
and 23). -/

namespace Sys2Proof.Machine

/-! ### Queue pairs and their commands (R368 to R371, R374, R377) -/

/-- The fields of a Halyard command (R370). -/
def Cmd.qph (c : Cmd) : Nat := c.word 3 % 4096
def Cmd.hlen (c : Cmd) : Nat := c.word 3 / 2 ^ 32
def Cmd.rkey (c : Cmd) : Nat := c.word 3 / 2 ^ 16 % 65536

/-- The queue pair that a context's command names. -/
def qpnOf (s : State) (ctx : Nat) (c : Cmd) : Option Nat :=
  match (nget s.ctxs ctx).bind fun y => nget y.handles c.qph with
  | some (.queuePair n) => if (nget s.qps n.toNat).isSome then some n.toNat else none
  | _ => none

/-- The zero fields of R370, and the rule on C, F and B. -/
def Cmd.hFieldsOk (c : Cmd) : Bool :=
  let op := c.oper
  let atom := op = 0x13 || op = 0x14
  decide (0x10 ≤ op) && decide (op ≤ 0x15) && !c.bit 54 && c.word 0 / 2 ^ 45 % 8 = 0 && c.word 0 / 2 ^ 37 % 8 = 0 &&
    c.word 0 / 2 ^ 28 % 16 = 0 && !c.bit 26 && c.dims = 0 &&
    (op = 0x15 || (c.sf = 0 && c.df = 0 && c.word 0 / 2 ^ 24 % 4 = 0)) &&
    (!atom || (c.word 1 = 0 && c.hlen = 0)) && (op ≠ 0x12 || (c.word 2 = 0 && c.rkey = 0)) && c.word 3 / 2 ^ 12 % 16 = 0 &&
    (atom || c.word 4 = 0) && (op = 0x14 || c.word 5 = 0) &&
    decide ((c.bit 52).toNat + (c.bit 51).toNat + (c.bit 50).toNat ≤ 1) && !(c.bit 50 && c.word 7 ≠ 0) &&
    !(c.bit 51 && c.word 7 / 2 ^ 62 ≠ 0)

/-- The formats and lengths that CWRITE takes (R371). -/
def Cmd.cwriteOk (c : Cmd) : Bool :=
  let mx := c.bit 27
  Num.fmtOfCode c.sf = some .fp32 &&
    (if mx then Num.fmtOfCode c.df = some .e2m1 else (Num.fmtOfCode c.df = some .e4m3 || Num.fmtOfCode c.df = some .e5m2)) &&
    c.hlen % 4 = 0 && (!mx || c.hlen % 128 = 0)

/-- The checks before any packet (R371), in the order of the table. -/
def hCheck (s : State) (ctx : Nat) (c : Cmd) : Option (Nat × Word × Word) :=
  if !c.hFieldsOk then some (Code.illField.num, 0, 0)
  else match (qpnOf s ctx c).bind (nget s.qps) with
    | none => some (Code.handle.num, word c.qph, 0)
    | some q =>
      match q.st with
      | .reset => some (Code.handle.num, word c.qph, 0)
      | .error => some (0x88, 0, 0)
      | .ready =>
        let w (j : Nat) : Word := c.w.getD j 0
        if (c.oper = 0x13 || c.oper = 0x14) && c.word 2 % 8 ≠ 0 then some (Code.align.num, w 2, w 2)
        else if c.oper = 0x15 && c.word 1 % 4 ≠ 0 then some (Code.align.num, w 1, w 1)
        else if c.anyCompl && c.word 6 % 8 ≠ 0 then some (Code.align.num, w 6, w 6)
        else if c.oper = 0x15 && !c.cwriteOk then some (Code.illField.num, 0, 0)
        else none

/-- The die whose service cores a Halyard port's hub uses (R369). -/
def hubDie (s : State) (port : Nat) : Nat := (nget s.hubs (port / 6)).getD 0

/-- How a Halyard command translates. -/
def hUnit (s : State) (key : Nat) (c : Cmd) : UnitId :=
  ⟨key / 64, 2000000 + c.id, hubDie s (key / 64 - 100), (chanAt s key).ctx⟩

/-- The commands that execute on a queue pair, with their channels; `keys` of one holds the pair's number. -/
def qpExecs (s : State) (n : Nat) : List (Nat × Exec) :=
  ((s.chans.filter fun c => decide (6400 ≤ c.1)).map fun c => (c.2.exec.filter fun x => x.keys = [n]).map fun x => (c.1, x)).flatten

/-- An executing command replaced. -/
def putExec (s : State) (key : Nat) (x : Exec) : State :=
  modChan s key fun ch => { ch with exec := ch.exec.map fun y => if y.cmd.id = x.cmd.id then x else y }

/-- The executing command of a number changed. -/
def modExec (s : State) (id : Nat) (f : Exec → Exec) : State :=
  { s with chans := s.chans.map fun (c : Nat × Chan) =>
      if 6400 ≤ c.1 then (c.1, { c.2 with exec := c.2.exec.map fun y => if y.cmd.id = id then f y else y }) else c }

/-- Whether a command whose packets are answered may complete now (R374, R377): those flushed in posting order after the one that met
the error, those of a STRICT pair and those with FIN after every earlier one. -/
def mayEnd (s : State) (x : Exec) : Bool :=
  match x.keys.head? with
  | none => x.posted
  | some n =>
    match nget s.qps n with
    | none => x.posted
    | some q =>
      let others := (qpExecs s n).filter fun y => y.2.cmd.id ≠ x.cmd.id
      let earlier := others.any fun y => decide (y.2.cmd.id < x.cmd.id)
      let flushed (y : Exec) : Bool := match y.stop with | some t => t.1 = 0x88 | none => false
      x.posted && !(q.out.any fun o => o.cmd = x.cmd.id) &&
        (if flushed x then !earlier && !others.any fun y => !flushed y.2
        else if q.st = .error then true
        else if q.rec0.strict || (x.cmd.bit 55 && (x.cmd.oper = 0x10 || x.cmd.oper = 0x15)) then !earlier else true)

/-- The completion step of a command (R149, R371). -/
def endCmd (s : State) (key : Nat) (x : Exec) : State :=
  match complUnit (hUnit s key x.cmd) x s with
  | .ok (r, s) => finish s key x r
  | .error (.walk f) => f s
  | .error (.fault st w1 va) => finish s key x (some (st, w1, va))

/-- The first command of a queue pair, in posting order, that may complete. -/
def endable (s : State) (n : Nat) : Option (Nat × Exec) :=
  (qpExecs s n).foldl (fun a p => if mayEnd s p.2 then (match a with
    | some b => if p.2.cmd.id < b.2.cmd.id then some p else a
    | none => some p) else a) none

/-- Commands of a queue pair completed, until none may or one waits for a walk. -/
def settleUpTo (n : Nat) : Nat → State → State
  | 0, s => s
  | f + 1, s => match endable s n with
    | none => s
    | some (key, x) =>
      let s := endCmd s key x
      if (qpExecs s n).any fun y => y.2.cmd.id = x.cmd.id then s else settleUpTo n f s

/-- Every command of a queue pair that may complete does. -/
def settle (s : State) (n : Nat) : State := settleUpTo n ((qpExecs s n).length) s

/-- A queue pair enters ERROR (R374): the command `own` keeps its own status, every other executing or waiting command of it ends
FLUSHED; graph streams over it end (R380). What it admitted before is still performed, from `rx`. -/
def qpError (s : State) (n : Nat) (own : Option (Nat × Nat × Word × Word)) : State :=
  let s := modQp s n fun q => { q with st := .error, out := [], zones := [] }
  let s := { s with
    gwalks := s.gwalks.map fun (g : GWalk) => if g.oper = 0x72 && g.phase ≠ 3 && g.answer = some [n] then { g with fix := 6 * 256 + 0x38 + 1 } else g }
  let s := (s.streams.filter fun z => z.qp = some n).foldl (fun s z => releaseZone s z.id) s
  let stopOf (x : Exec) : Exec :=
    let t := match own with | some (id, t) => if id = x.cmd.id then t else (0x88, 0, 0) | none => (0x88, 0, 0)
    if x.stop.isSome then { x with posted := true } else { x with posted := true, stop := some t }
  let s := (qpExecs s n).foldl (fun s p => putExec s p.1 (stopOf p.2)) s
  let s := (s.chans.filter fun c => decide (6400 ≤ c.1)).foldl (fun s c =>
    let mine (d : Cmd) : Bool := qpnOf s c.2.ctx d = some n
    let l := c.2.cmds.filter mine
    let l := l.filter (fun d => d.bit 48) ++ l.filter fun d => !d.bit 48
    let xs := l.zipIdx.map fun p => (⟨{ p.1 with id := s.nextId + 1 + p.2 }, 0, 0, none, some (0x88, 0, 0), 0, [n], true⟩ : Exec)
    let s := modChan s c.1 fun ch => { ch with cmds := ch.cmds.filter fun d => !mine d, exec := ch.exec ++ xs }
    { s with nextId := s.nextId + l.length + 1 }) s
  settle s n

/-- QUEUE_PAIR_CREATE (R368): a queue pair is created, or re-created out of ERROR; it is READY once its session is up. -/
def createQp (s : State) (x idx : Nat) (r : QpInit) : State :=
  let n := r.qpn.toNat
  let sid := r.sid.toNat
  let free : Bool := match nget s.qps n with | none => true | some q => q.ctx = x && q.st ≠ .ready
  let ses := (nget s.sessions sid).getD ⟨x, r.ppkg.toNat, false, false, 0, false, [], none⟩
  let port := (nget s.engines (100 + r.port.val)).getD ⟨1, 63, false⟩
  let live : Bool := match nget s.ctxs x with | some y => y.st ≠ .ended && y.st ≠ .error | none => false
  let ok := live && free && decide (1 ≤ r.tmo) && decide (r.tmo ≤ 12000000) && decide (1 ≤ r.rcnt) && decide (r.rcnt ≤ 15) && ses.ctx = x &&
    ses.pkg = r.ppkg.toNat && !port.fenced
  if !ok then s
  else
    let s := grantHandle s x idx (.queuePair r.qpn) false false
    let q : Qp := ⟨x, idx, r, if ses.up then .ready else .reset, 0, 0, [], [], false, []⟩
    { s with
      qps := nset s.qps n q
      rx := s.rx.filter fun r => r.qpn ≠ n
      sessions := nset s.sessions sid ses
      sent := if ses.up then s.sent else s.sent ++ [⟨0x0D, n, { Packet.blank with sid := r.sid }⟩] }

/-! ### The engine sends (R369 to R372) -/

/-- A list cut into pieces of at most 8,192 (R366). -/
def pieces {α : Type} : Nat → List α → List (List α)
  | 0, _ => []
  | f + 1, l => if l.isEmpty then [] else l.take 8192 :: pieces f (l.drop 8192)

/-- The pages at a command's local address (R371). -/
def localPages (u : UnitId) (c : Cmd) : U (List Seg) :=
  let f := c.hlen / 4096 + 2
  match c.oper with
  | 0x11 => uSegs u accBulkWr (some .furlCopy) f (c.w.getD 1 0) c.hlen
  | 0x10 | 0x12 | 0x15 => uSegs u accBulkRd (some .furlCopy) f (c.w.getD 1 0) c.hlen
  | _ => pure []

/-- Data written at the peer: one packet for each piece, the last with FIN where the command has it. -/
def postWrites (s : State) (n : Nat) (c : Cmd) (whole : Bool) (data : List Byte) : State :=
  let l := pieces (data.length / 8192 + 1) data
  l.zipIdx.foldl (fun s p =>
    let last := whole && p.2 + 1 = l.length
    qpPost s n 0x01 c.id { Packet.blank with
      addr := c.w.getD 2 0 + word (8192 * p.2), rkey := BitVec.ofNat 16 c.rkey, len := p.1.length, data := p.1
      fin := last && c.bit 55, ackreq := last }) s

/-- Read requests, one for each piece. -/
def postReads (s : State) (n : Nat) (c : Cmd) : State :=
  (List.range ((c.hlen + 8191) / 8192)).foldl (fun s j =>
    qpPost s n 0x03 c.id { Packet.blank with
      addr := c.w.getD 2 0 + word (8192 * j), rkey := BitVec.ofNat 16 c.rkey, len := min 8192 (c.hlen - 8192 * j) }) s

/-- Elements converted in order: their codes, the flags and the stochastic state (R372). -/
def cwriteElems (f : Num.Fmt) (rm : Rm) (sat : Bool) (vs : List Num.Val) (sr : Word) : List Nat × Num.Flags × Word :=
  let r := vs.foldl (fun (a : List Nat × Num.Flags × Word) v =>
    let st := srStep rm a.2.2
    let o := Num.encodeFmt Core.reset.dt f rm sat (Num.srTop st) v
    (o.1.toNat % 2 ^ Num.fmtWidth f :: a.1, a.2.1 ||| o.2, st)) ([], 0, sr)
  (r.1.reverse, r.2)

/-- The largest magnitude of a block, as mantissa and exponent. -/
def blockMax (vs : List Num.Val) : Nat × Int :=
  vs.foldl (fun a v => match v with
    | .fin _ m e => if m ≠ 0 && (a.1 = 0 || Num.magCmp a.1 a.2 m e = .lt) then (m, e) else a
    | _ => a) (0, 0)

/-- A block of 32 elements with its E8M0 scale (R372); the stochastic state advances per element in every case (R91). -/
def cwriteBlock (rm : Rm) (vs : List Num.Val) (sr : Word) : Nat × List Nat × Num.Flags × Word :=
  let special := vs.any fun v => match v with | .fin _ _ _ => false | _ => true
  let x := blockMax vs
  let skip : Nat × List Nat × Num.Flags × Word := (0, vs.map fun _ => 0, 0, vs.foldl (fun t _ => srStep rm t) sr)
  if special then (0xFF, skip.2)
  else if x.1 = 0 then skip
  else
    let e : Int := max (-127) (min 127 ((Nat.log2 x.1 : Int) + x.2 - 2))
    let sc (v : Num.Val) : Num.Val := match v with | .fin n m k => .fin n m (k - e) | w => w
    ((e + 127).toNat, cwriteElems .e2m1 rm true (vs.map sc) sr)

/-- The blocks of a command: element codes, scales, flags, stochastic state. -/
def cwriteBlocks (rm : Rm) : Nat → List Num.Val → Word → List Nat × List Nat × Num.Flags × Word
  | 0, _, sr => ([], [], 0, sr)
  | f + 1, vs, sr =>
    if vs.isEmpty then ([], [], 0, sr)
    else
      let (k, cs, fl, sr) := cwriteBlock rm (vs.take 32) sr
      let (cs', ks', fl', sr) := cwriteBlocks rm f (vs.drop 32) sr
      (cs ++ cs', k :: ks', fl ||| fl', sr)

/-- Four-bit codes packed two to a byte, the first in the low half (R76). -/
def packNibbles : List Nat → List Byte
  | a :: b :: r => BitVec.ofNat 8 (a % 16 + 16 * (b % 16)) :: packNibbles r
  | [a] => [BitVec.ofNat 8 (a % 16)]
  | [] => []

/-- FP32 elements of some bytes. -/
def fp32s : List Byte → List Num.Val
  | a :: b :: c :: d :: r => Num.decodeSpec ⟨8, 23, 127, .ieee⟩ (Alu.natOf [a, b, c, d]) :: fp32s r
  | _ => []

/-- The converted data of CWRITE with flags and stochastic state (R372). With MX, UF is not among the flags: the worked conversion of
R372 gives NX alone for a block with inexact results below the smallest normal value (log entry 23). -/
def cwriteData (c : Cmd) (data : List Byte) (sr : Word) : List Byte × Num.Flags × Word :=
  let vs := fp32s data
  if c.bit 27 then
    let (cs, ks, fl, sr) := cwriteBlocks c.rm (vs.length / 32 + 1) vs sr
    (packNibbles cs ++ ks.map (BitVec.ofNat 8), fl &&& ~~~Num.flUF, sr)
  else
    let (cs, fl, sr) := cwriteElems c.dstFmt c.rm (c.bit 53) vs sr
    (cs.map (BitVec.ofNat 8), fl, sr)

/-- A command's packets sent (R371): its local pages are translated first, and nothing is sent from the packet on that would hold a
poisoned word (R72). -/
def postUnit (eng n : Nat) (u : UnitId) (x : Exec) : U Exec := do
  let c := x.cmd
  let sg ← localPages u c
  let s ← get
  let pas := if c.oper = 0x11 then [] else segBytes sg
  let data := pas.map (rdByte s)
  let bad := pas.findIdx? (isPoison s)
  let x := { (match bad with | some j => x.note (c.w.getD 1 0 + word j) | none => x) with posted := true }
  match c.oper with
  | 0x10 => do
    modify fun s => match bad with
      | some j => postWrites s n c false (data.take (j / 8192 * 8192))
      | none => postWrites s n c true data
    return x
  | 0x11 => do modify (postReads · n c); return x
  | 0x12 => do
    if bad.isNone then modify fun s => qpPost s n 0x05 c.id { Packet.blank with len := c.hlen, data := data.take 8192, ackreq := true }
    return x
  | 0x15 =>
    if bad.isSome then return x
    else do
      let en := (nget s.engines eng).getD ⟨1, 63, false⟩
      let (out, fl, sr) := cwriteData c data en.sr
      set (postWrites { s with engines := nset s.engines eng { en with sr := sr } } n c true out)
      return { x with flags := fl }
  | op => do
    modify fun s => qpPost s n 0x06 c.id { Packet.blank with
      addr := c.w.getD 2 0, rkey := BitVec.ofNat 16 c.rkey, len := 8, vals := [if op = 0x13 then 0 else 1, c.w.getD 4 0, c.w.getD 5 0] }
    return x

/-- The read responses of a queue pair that have still to be written locally (R371), written as far as they translate. -/
def landReads (s : State) (n : Nat) : State :=
  (qpExecs s n).foldl (fun s p =>
    let x := p.2
    let outs : List Outst := match nget s.qps n with | some q => q.out.filter fun o => o.cmd = x.cmd.id && o.resp.isSome | none => []
    outs.foldl (fun (s : State) (o : Outst) =>
      let data := o.resp.getD []
      let va := x.cmd.w.getD 1 0 + (o.pkt.addr - x.cmd.w.getD 2 0)
      let u := hUnit s p.1 x.cmd
      let drop (q : Qp) : Qp := { q with out := q.out.filter fun y => y.psn ≠ o.psn }
      let write : U Bool := do
        let sg ← uSegs u accBulkWr (some .furlCopy) (data.length / 4096 + 2) va data.length
        let s ← get
        let r := perform s ((segBytes sg).zip data) []
        set r.1
        return r.2
      match write s with
      | .ok (b, s) => modExec (modQp s n drop) x.cmd.id fun y =>
          let y := if b then y.note va else y
          { y with done := y.done + data.length }
      | .error (.walk f) => f s
      | .error (.fault st w1 va) =>
        modExec (modQp s n fun q => { q with out := q.out.filter fun y => y.cmd ≠ x.cmd.id }) x.cmd.id fun y => { y with stop := some (st, w1, va) }) s) s

/-- An executing command taken as far as it goes. A command is posted after every one that started earlier on its queue pair. -/
def hAdvance (s : State) (key : Nat) (x : Exec) : State :=
  match x.keys.head? with
  | none => endCmd s key x
  | some n =>
    if x.posted then settle (landReads s n) n
    else if (qpExecs s n).any fun y => !y.2.posted && decide (y.2.cmd.id < x.cmd.id) then s
    else match postUnit (key / 64) n (hUnit s key x.cmd) x s with
      | .ok (x, s) => settle (putExec s key x) n
      | .error (.walk f) => f s
      | .error (.fault st w1 va) => settle (putExec s key { x with posted := true, stop := some (st, w1, va) }) n

/-- Whether an executing command of a Halyard engine has something to do. -/
def hReady (s : State) (x : Exec) : Bool :=
  !x.posted || mayEnd s x || (match x.keys.head?.bind (nget s.qps) with
    | some q => q.out.any fun o => o.cmd = x.cmd.id && o.resp.isSome
    | none => false)

/-- The turn of a Halyard engine for one operation (R131, R133, R369): a command of it goes on, or the next command starts if it is one.
A command takes a new number as it starts, so that numbers follow the posting order. -/
def halyardTurn (p : Nat → Bool) (s : State) (eng : Nat) : State :=
  if eng < 100 then s
  else
    let on := (List.range 64).findSome? fun j =>
      let key := chanKey eng j
      ((chanAt s key).exec.find? fun x => p x.cmd.oper && hReady s x).map fun x => (key, x)
    match on with
    | some (key, x) => hAdvance s key x
    | none =>
      match nextStart s eng with
      | none => s
      | some (j, c) =>
        if !p c.oper then s
        else
          let key := chanKey eng j
          let ctx := (chanAt s key).ctx
          let en := (nget s.engines eng).getD ⟨1, 63, false⟩
          let stop := hCheck s ctx c
          let keys := match stop with
            | some (0x02, _) | some (0x38, _) => if Cmd.hFieldsOk c then (qpnOf s ctx c).toList else []
            | _ => (qpnOf s ctx c).toList
          let x : Exec := ⟨{ c with id := s.nextId + 1 }, 0, 0, none, stop, 0, keys, stop.isSome⟩
          let s := { s with engines := nset s.engines eng { en with rr := j }, nextId := s.nextId + 2 }
          let s := modChan s key fun ch => { ch with cmds := ch.cmds.filter fun y => y.id ≠ c.id, exec := ch.exec ++ [x] }
          hAdvance s key x

/-- A reserved operation ends with ILL_FIELD whichever row runs it; the model lets the row of HALYARD_WRITE do it (R371). -/
def isWriteOper (n : Nat) : Bool := n = 0x10 || decide (n < 0x10) || decide (0x15 < n)

/-! ### Packets that arrive (R367, R373 to R377) -/

/-- The tag of the counter of a packet in the replay window: twice the counter, plus its epoch. -/
def ctrTag (p : Packet) : Nat := 2 * p.ctr + p.epoch.toNat

/-- Whether a session takes a packet (R367, R378): its epoch's key is held, and its counter lies above the bottom of the window of
1,024 and was not seen. -/
def sessionTakes (ns : Nat) (x : Session) (p : Packet) : Bool :=
  let top := ((x.seen.filter fun c => c % 2 = p.epoch.toNat).foldl max 0) / 2
  let old : Bool := match x.oldUntil with | some t => decide (ns ≤ t) | none => false
  x.up && (p.epoch = x.recvEpoch || old) && !x.seen.contains (ctrTag p) && decide (top < p.ctr + 1024)

/-- A packet authenticated (R367): the state with its counter noted, and its queue pair; or the discard counted. -/
def takeIn (s : State) (p : Packet) : State × Option (Nat × Qp) :=
  let bad : State × Option (Nat × Qp) := ({ s with discards := s.discards + 1 }, none)
  match nget s.sessions p.sid.toNat with
  | none => bad
  | some x =>
    if !(p.auth && sessionTakes s.ns x p) then bad
    else
      let seen := ctrTag p :: x.seen.filter fun c => c % 2 ≠ p.epoch.toNat || decide (p.ctr < c / 2 + 1024)
      let s := { s with sessions := nset s.sessions p.sid.toNat { x with seen := seen } }
      match nget s.qps p.dqpn.toNat with
      | some q => if q.rec0.sid = p.sid then (s, some (p.dqpn.toNat, q)) else (s, none)
      | none => (s, none)

/-- An answer to a packet: it carries the packet's number (log entry 23). -/
def answer (s : State) (n : Nat) (q : Qp) (psn : BitVec 24) (opc : Nat) (p : Packet) : State :=
  transmit s n opc { p with dqpn := q.rec0.dqpn, sid := q.rec0.sid, psn := psn }

/-- A NAK with a code; `pois` says that a poisoned word was met (R371). -/
def sendNak (s : State) (n : Nat) (q : Qp) (psn : BitVec 24) (code : Nat) (pois : Bool) : State :=
  answer s n q psn 0x09 { Packet.blank with ncode := BitVec.ofNat 8 code, vals := if pois then [1] else [] }

/-- The next number that a queue pair expects, past those performed (R377). -/
def rpsnNext (l : List Nat) : Nat → Nat → Nat
  | 0, n => n
  | f + 1, n => if l.contains n then rpsnNext l f ((n + 1) % 2 ^ 24) else n

/-- A packet performed: its answers are kept for a repetition of it (R375) and sent. -/
def performed (s : State) (r : Rx) (l : List (Nat × Packet)) : State :=
  match nget s.qps r.qpn with
  | none => s
  | some q =>
    let psn := r.pkt.psn
    let done := q.done ++ [(psn.toNat, l.map fun a => (⟨a.1, r.qpn, { a.2 with dqpn := q.rec0.dqpn, sid := q.rec0.sid, psn := psn }⟩ : Sent))]
    let rpsn : Nat := rpsnNext (done.map (·.1)) (done.length + 1) q.rpsn
    let far (a b : Nat) : Nat := (a + 2 ^ 24 - b) % 2 ^ 24
    let near (d : Nat × List Sent) : Bool := decide (far rpsn d.1 ≤ 4194304) || decide (far d.1 rpsn ≤ 4194304)
    let s := modQp s r.qpn fun q => { q with rpsn := rpsn, done := done.filter near }
    l.foldl (fun s a => answer s r.qpn q psn a.1 a.2) s

/-- What performing a packet comes to: a walk to wait for, CONTEXT-BUSY, the answers, or a NAK that puts the pair into ERROR. -/
inductive RxOut where
  | wait (s : State)
  | busy (s : State)
  | done (s : State) (l : List (Nat × Packet))
  | refuse (s : State) (code : Nat) (pois : Bool)

/-- The unit that translates for a received packet (R373). -/
def rxUid (s : State) (q : Qp) (r : Rx) : UnitId :=
  ⟨100 + q.rec0.port.val, 7000000 + (r.qpn + 1) * 2 ^ 24 + r.pkt.psn.toNat, hubDie s q.rec0.port.val, q.ctx⟩

/-- The outcome of an access by the NI: a fault or a furled page is ACCESS, a retryable miss is CONTEXT-BUSY, poison is INVALID (R371,
R373). -/
def rxRun (s : State) (m : U (List (Nat × Packet))) : RxOut :=
  match m s with
  | .ok (l, s) => .done s l
  | .error (.walk f) => .wait (f s)
  | .error (.fault st _ _) =>
    if st = Code.xlMiss.num then .busy s else if st = Code.poison.num then .refuse s 5 true
    else if st = 0x8C then .refuse s 5 false else .refuse s 2 false

/-- An ACK. -/
def ackOnly : List (Nat × Packet) := [(0x08, Packet.blank)]

/-- The data of a write performed (R371). -/
def rxWrite (u : UnitId) (p : Packet) : U (List (Nat × Packet)) := do
  let sg ← uSegs u accBulkWr (some .furlWrite) (p.data.length / 4096 + 2) p.addr p.data.length
  let s ← get
  let r := perform s ((segBytes sg).zip p.data) []
  set r.1
  uFaultIf r.2 .poison p.addr
  return ackOnly

/-- A read answered. -/
def rxRead (u : UnitId) (p : Packet) : U (List (Nat × Packet)) := do
  let sg ← uSegs u accBulkRd (some .furlRead) (p.len / 4096 + 2) p.addr p.len
  let s ← get
  let pas := segBytes sg
  uFaultIf (pas.any (isPoison s)) .poison p.addr
  return [(0x04, { Packet.blank with len := p.len, data := pas.map (rdByte s) })]

/-- The words of an element: its data, padded with zeros to `n` words. -/
def elemWords (data : List Byte) (n : Nat) : List Word :=
  (List.range n).map fun j => word (Alu.natOf ((data.drop (8 * j)).take 8))

/-- A SEND enqueued on the receive queue as one step (R371, R248). -/
def rxSend (u : UnitId) (rq : Word) (p : Packet) : U (List (Nat × Packet)) := do
  if rq = 0 || rq.toNat % 64 ≠ 0 then (uFault 0x8C rq : U Unit)
  let g ← uSeg u ⟨true, true, true⟩ (some .furlWrite) rq 64
  let s ← get
  let ew := rdNat s (g.pa + 24) 8
  uFaultIf (anyPoison s g.pa 64) .poison rq
  if 8 * ew < p.len || 8 < ew then (uFault 0x8C rq : U Unit)
  match (← uRmw ⟨0, 0, u.space, 0⟩ g.pa 64 rq (.enq ew (elemWords p.data ew))) with
  | .vals (v :: _) =>
    if v = 0 then return ackOnly
    else if v = 1 then return [(0x09, { Packet.blank with ncode := 4 })]
    else uFault 0x8C rq
  | .poison => uFault Code.poison.num rq
  | _ => uFault 0x8C rq

/-- An atomic executed at the owner as one step (R371, R244). -/
def rxAtomic (u : UnitId) (p : Packet) : U (List (Nat × Packet)) := do
  let w (j : Nat) : Word := p.vals.getD j 0
  uFaultIf (p.addr.toNat % 8 ≠ 0) .align p.addr
  let g ← uSeg u ⟨true, true, true⟩ (some .furlWrite) p.addr 8
  match (← uRmw ⟨0, 0, u.space, 0⟩ g.pa 8 p.addr (.rat (if w 0 = 0 then 0 else 6) true false (w 1) (w 2))) with
  | .vals v => return [(0x07, { Packet.blank with vals := v })]
  | _ => uFault Code.poison.num p.addr

/-- A launch packet validated against the launch table (R304). -/
def rxLaunch (s : State) (n : Nat) (q : Qp) (p : Packet) : RxOut :=
  let idx := (p.vals.getD 0 0).toNat
  let args := p.vals.getD 1 0
  let items := (p.vals.getD 2 0).toNat
  match nget s.ctxs q.ctx with
  | none => .refuse s 2 false
  | some y =>
    match nget y.launchTab idx with
    | some (e, qpn) =>
      let ok := qpn.toNat = n && decide (e.argLo.toNat ≤ args.toNat) && decide (args.toNat ≤ e.argHi.toNat) && decide (items ≤ e.nmax.toNat) &&
        (recTpl e.words || items = recLen e.words)
      if !ok then .refuse (postTerm s q.ctx Code.handle.num 2 0 0 0 0 0) 2 false
      else if 64 ≤ y.fabricQ.length then .busy s
      else
        let ws := (e.words.set 3 args).set 1 (word (recW e.words 1 / 2 ^ 32 * 2 ^ 32 + items))
        .done { s with ctxs := nset s.ctxs q.ctx { y with fabricQ := y.fabricQ ++ [ws] } } ackOnly
    | none => .refuse (postTerm s q.ctx Code.handle.num 2 0 0 0 0 0) 2 false

/-- A graph stream packet (R380, R294, R295): a zone asked for, an object, an end told, a zone given up, a completion, or the answer to the
first; a zone newly claimed for a walk that no longer waits is given back. -/
def rxStream (s : State) (n : Nat) (q : Qp) (p : Packet) : RxOut :=
  let w (j : Nat) : Word := p.vals.getD j 0
  let f (j : Nat) : Nat := (w j).toNat
  let mine (x : LStream) : Bool := x.id = f 1 && x.qp = some n
  match f 0 with
  | 0 =>
    let reply (s : State) (code stream : Nat) : RxOut :=
      .done (qpPost s n 0x0B 0 { Packet.blank with vals := [word 5, w 4, word code, word stream, w 5] }) ackOnly
    if f 1 ≠ q.ctx then reply s 0x38 0
    else match zoneOpen s (dieOf (intervalOf s q.ctx).1) q.ctx (w 2) (w 3) (f 5) (some n) (f 4) 0 with
      | .error s => .wait s
      | .ok (a, s) => reply s a.code a.stream
  | 1 => .done { s with streams := s.streams.map fun x => if mine x then { x with inbox := x.inbox ++ [p.vals.drop 2] } else x } ackOnly
  | 2 => .done { s with gwalks := s.gwalks.map fun (g : GWalk) => if g.id = f 1 then { g with fix := f 2 * 256 + f 3 + 1 } else g } ackOnly
  | 3 => .done ((s.streams.filter mine).foldl (fun s x => releaseZone s x.id) s) ackOnly
  | 4 => .done { s with streams := s.streams.map fun x => if mine x then { x with ended := some (f 2) } else x } ackOnly
  | _ =>
    if s.gwalks.any fun g => g.id = f 1 && g.answer = some [] then
      .done { s with gwalks := s.gwalks.map fun (g : GWalk) => if g.id = f 1 && g.answer = some [] then { g with answer := some [f 2, f 3] } else g } ackOnly
    else if f 2 = 0 && f 4 = 0 then .done (qpPost s n 0x0B 0 { Packet.blank with vals := [word 3, w 3] }) ackOnly
    else .done s ackOnly

/-- A pod barrier packet (R381): an arrival of a child's subtree, or the release. -/
def rxBarrier (s : State) (q : Qp) (p : Packet) : RxOut :=
  match nget s.ctxs q.ctx with
  | none => .done s ackOnly
  | some y =>
    if p.vals.getD 0 0 = 0 then .done (podArrive s q.ctx q.rec0.ppkg.toNat) ackOnly
    else .done (podRelease s q.ctx y) ackOnly

/-- A message for a core of this package from another (R235, R380): its fields as `messagePacket` laid them out. -/
def rxMessage (s : State) (q : Qp) (p : Packet) : RxOut :=
  let f (j : Nat) : Nat := (p.vals.getD j 0).toNat
  let src : Sender := ⟨0x1000000 + q.rec0.ppkg.toNat * 8192 + f 2 % 8192, f 3, farCtx + f 4, f 5⟩
  let data := p.vals.drop 11
  let body : MsgBody := match f 0 with
    | 1 => .lmsg (f 7) data (f 6)
    | 2 => .hmsg (f 7) data (f 6)
    | _ => .sendw (f 6) (f 7) (f 8) (f 9) data (if f 10 = 0 then none else some (f 10 - 1))
  .done (inject s (f 1) src body) ackOnly

/-- A received packet performed. -/
def performRx (s : State) (q : Qp) (r : Rx) : RxOut :=
  let u := rxUid s q r
  match r.opc with
  | 0x01 => if r.pkt.vals.isEmpty then rxRun s (rxWrite u r.pkt) else rxMessage s q r.pkt
  | 0x03 => rxRun s (rxRead u r.pkt)
  | 0x05 => if r.pkt.vals.isEmpty then rxRun s (rxSend u q.rec0.rq r.pkt) else rxMessage s q r.pkt
  | 0x06 => rxRun s (rxAtomic u r.pkt)
  | 0x0A => rxLaunch s r.qpn q r.pkt
  | 0x0B => rxStream s r.qpn q r.pkt
  | _ => rxBarrier s q r.pkt

/-- Whether a packet may be performed now (R377, R380): in order in a STRICT pair; after every earlier one with FIN and for graph streams;
otherwise at once. -/
def inTurn (q : Qp) (r : Rx) : Bool :=
  !(q.rec0.strict || r.pkt.fin || r.opc = 0x0B) || r.pkt.psn.toNat = q.rpsn

/-- One received packet tried. -/
def rxStep (s : State) (r : Rx) : State :=
  match nget s.qps r.qpn with
  | none => s
  | some q =>
    if !s.rx.contains r || !inTurn q r then s
    else
      let wid := (rxUid s q r).wid
      let gone (s : State) : State := { forgetAnswers s wid with rx := s.rx.erase r }
      match performRx s q r with
      | .wait s => s
      | .busy s => sendNak (gone s) r.qpn q r.pkt.psn 1 false
      | .done s l => performed (gone s) r l
      | .refuse s code pois => qpError (sendNak (gone s) r.qpn q r.pkt.psn code pois) r.qpn none

/-- The received packets that may be performed, tried in order until none goes on. -/
def rxAll (s : State) : State := (List.range s.rx.length).foldl (fun s _ => s.rx.foldl rxStep s) s

/-- Whether a packet is admitted (R373): its registration is live, permits the queue pair and the operation, and holds every byte. -/
def admitted (s : State) (n : Nat) (q : Qp) (opc : Nat) (p : Packet) : Bool :=
  let need := (opc = 0x01 && p.vals.isEmpty) || opc = 0x03 || opc = 0x06
  let len := if opc = 0x01 then p.data.length else if opc = 0x06 then 8 else p.len
  !need || match (nget s.ctxs q.ctx).bind fun y => nget y.regs p.rkey.toNat with
    | some g => g.qps.contains n && (if opc = 0x01 then g.wr else if opc = 0x03 then g.rd else g.atomics) &&
        decide (g.base.toNat ≤ p.addr.toNat) && decide (p.addr.toNat + len ≤ g.base.toNat + g.len)
    | none => false

/-- A packet that asks for something arrives (R367, R373 to R376): one already performed is answered again, one for an evicted queue pair
is turned away, one that is not admitted is refused. -/
def arrive (s : State) (opc : Nat) (p : Packet) : State :=
  match takeIn s p with
  | (s, none) => s
  | (s, some (n, q)) =>
    if q.evicted then sendNak s n q p.psn 1 false
    else match q.done.find? fun d => d.1 = p.psn.toNat with
      | some d => d.2.foldl (fun s a => transmit s n a.opc a.p) s
      | none =>
        if q.st ≠ .ready then sendNak s n q p.psn 5 false
        else if 2 ^ 23 ≤ (p.psn.toNat + 2 ^ 24 - q.rpsn) % 2 ^ 24 then answer s n q p.psn 0x08 Packet.blank
        else if s.rx.any fun r => r.qpn = n && r.pkt.psn = p.psn then s
        else if !admitted s n q opc p then qpError (sendNak s n q p.psn 2 false) n none
        else rxAll { s with rx := s.rx ++ [⟨opc, n, p⟩] }

/-- The packet that an answer answers. -/
def outAt (q : Qp) (psn : BitVec 24) : Option Outst := q.out.find? fun o => o.psn = psn.toNat

/-- An answered packet no longer waits. -/
def answered (s : State) (n psn : Nat) : State := modQp s n fun q => { q with out := q.out.filter fun o => o.psn ≠ psn }

/-- ACK (R371): the packet's bytes have been performed at their owners. -/
def ackIn (s : State) (p : Packet) : State :=
  match takeIn s p with
  | (s, some (n, q)) =>
    match outAt q p.psn with
    | some o =>
      if o.opc = 0x03 || o.opc = 0x06 then s
      else settle (modExec (answered s n o.psn) o.cmd fun x => { x with done := x.done + o.pkt.len }) n
    | none => s
  | (s, none) => s

/-- READ_RESP (R371). -/
def readIn (s : State) (p : Packet) : State :=
  match takeIn s p with
  | (s, some (n, q)) =>
    match outAt q p.psn with
    | some o =>
      if o.opc ≠ 0x03 then s
      else settle (landReads (modQp s n fun q => { q with out := q.out.map fun y => if y.psn = o.psn then { y with resp := some (p.data.take o.pkt.len) } else y }) n) n
    | none => s
  | (s, none) => s

/-- ATOMIC_RESP (R371). -/
def atomicIn (s : State) (p : Packet) : State :=
  match takeIn s p with
  | (s, some (n, q)) =>
    match outAt q p.psn with
    | some o => if o.opc ≠ 0x06 then s
      else settle (modExec (answered s n o.psn) o.cmd fun x => { x with fetch := p.vals.getD 0 0 }) n
    | none => s
  | (s, none) => s

/-- NAK (R374, R376, R379). The status of NAK SEQUENCE is a free value: R379 names none. -/
def nakIn (s : State) (p : Packet) : State :=
  match takeIn s p with
  | (s, some (n, q)) =>
    match outAt q p.psn with
    | none => s
    | some o =>
      let top := q.rec0.tmo * 10000
      match p.ncode.toNat with
      | 1 => modQp s n fun q => { q with out := q.out.map fun y =>
          if y.psn = o.psn then { y with busy := true, sentAt := s.ns, backoff := if y.backoff = 0 then 10000 else min (2 * y.backoff) top } else y }
      | 2 => qpError s n (some (o.cmd, 0x89, o.pkt.addr, o.pkt.addr))
      | 3 =>
        let v := Config.free s.tick
        qpError { s with tick := s.tick + 2 } n (some (o.cmd, v.toNat % 255 + 1, Config.free (s.tick + 1), 0))
      | 4 => settle (modExec (answered s n o.psn) o.cmd fun x => { x with stop := some (0x8B, 0, 0) }) n
      | _ =>
        let st := if p.vals.getD 0 0 = 1 then Code.poison.num else 0x8C
        qpError s n (some (o.cmd, st, o.pkt.addr, o.pkt.addr))
  | (s, none) => s

/-! ### Timers (R375, R376) -/

/-- A waiting packet sent again. -/
def resend (s : State) (n : Nat) (o : Outst) (f : Outst → Outst) : State :=
  transmit (modQp s n fun q => { q with out := q.out.map fun y => if y.psn = o.psn then f { y with sentAt := s.ns } else y }) n o.opc
    { o.pkt with retry := true }

/-- RETRANSMIT_TIMER (R375). -/
def retransmit (s : State) (n : Nat) : State :=
  match nget s.qps n with
  | none => s
  | some q =>
    match q.out.find? fun o => !o.busy && o.resp.isNone && decide (o.sentAt + 10000 * q.rec0.tmo ≤ s.ns) with
    | none => s
    | some o =>
      if o.tries < q.rec0.rcnt then resend s n o fun y => { y with tries := y.tries + 1 }
      else qpError s n (some (o.cmd, 0x8A, 0, 0))

/-- CONTEXT_BUSY_BACKOFF (R376). -/
def backoffOver (s : State) (n : Nat) : State :=
  match nget s.qps n with
  | none => s
  | some q =>
    match q.out.find? fun o => o.busy && decide (o.sentAt + o.backoff ≤ s.ns) with
    | none => s
    | some o => resend s n o fun y => { y with busy := false }

/-! ### Registrations, sessions and ports (R374, R378, R381, R395) -/

/-- REGISTRATION_REVOKE (R374): from now on nothing is admitted under it; what was admitted is performed from `rx`. -/
def revokeReg (s : State) (x rkey : Nat) : State := modCtx s x fun y => { y with regs := ndel y.regs rkey }

/-- HANDSHAKE (R378, R390): a peer's signed handshake sets the session up, or re-keys the direction from the peer; one that fails puts the
session's queue pairs into ERROR. -/
def handshakeIn (s : State) (p : Packet) : State :=
  let sid := p.sid.toNat
  match nget s.sessions sid with
  | none => s
  | some x =>
    let peers := match nget s.ctxs x.ctx with | some y => y.peers | none => []
    let mine (q : Nat × Qp) : Bool := q.2.rec0.sid = p.sid
    if !(p.auth && peers.contains (Alu.natOf p.data)) then
      let s := { s with sessions := nset s.sessions sid { x with up := false } }
      (s.qps.filter mine).foldl (fun s q =>
        let first := (qpExecs s q.1).foldl (fun (a : Option Nat) y => match a with | some b => some (min b y.2.cmd.id) | none => some y.2.cmd.id) none
        qpError s q.1 (first.map fun id => (id, 0x8A, 0, 0))) s
    else if !x.up then
      { s with
        sessions := nset s.sessions sid { x with up := true, epoch := false, sendCtr := 0, recvEpoch := false, seen := [], oldUntil := none }
        qps := s.qps.map fun (q : Nat × Qp) => if mine q && q.2.st = .reset then (q.1, { q.2 with st := .ready }) else q }
    else
      let e := !x.recvEpoch
      { s with sessions := nset s.sessions sid { x with recvEpoch := e, seen := x.seen.filter fun c => c % 2 ≠ e.toNat, oldUntil := some (s.ns + 1000000) } }

/-- REKEY (R378). -/
def rekeySession (s : State) (sid : BitVec 32) : State :=
  match nget s.sessions sid.toNat, s.qps.find? fun q => q.2.rec0.sid = sid with
  | some x, some q => if x.up then rekeyOut s sid q.1 else s
  | _, _ => s

/-- OLD_EPOCH_EXPIRY (R378). -/
def expireEpoch (s : State) (sid : Nat) : State :=
  match nget s.sessions sid with
  | none => s
  | some x =>
    match x.oldUntil with
    | some t => if t ≤ s.ns then { s with sessions := nset s.sessions sid { x with oldUntil := none, seen := x.seen.filter fun c => c % 2 = x.recvEpoch.toNat } } else s
    | none => s

/-- A message of a task to a core of another package as a packet's values (R380; log entry 23): kind, rank, sender, fields, payload. -/
def messagePacket (m : Msg) : Option (Nat × Packet) :=
  let rank := (m.dst - 0x1000000) % 8192
  let head (k ctx a b c d : Nat) : List Word := [k, rank, m.src.core, m.src.slot, m.src.ctx, m.src.task, ctx, a, b, c, d].map word
  match m.body with
  | .lmsg hn data ctx => some (0x05, { Packet.blank with vals := head 1 ctx hn 0 0 0 ++ data })
  | .hmsg hn data ctx => some (0x05, { Packet.blank with vals := head 2 ctx hn 0 0 0 ++ data })
  | .sendw ctx base wlen off data cn => some (0x01, { Packet.blank with vals := head 3 ctx base wlen off (match cn with | some j => j + 1 | none => 0) ++ data })
  | _ => none

/-- The oldest message for another package leaves the mesh on the STRICT queue pair bound to its handle (R235, R380); one whose queue pair is
in ERROR is lost with it. -/
def sendAway (s : State) : State :=
  let qp (m : Msg) : Option (Nat × Qp) := if m.dst < 0x1000000 then none else
    (strictQpTo s m.src.ctx ((m.dst - 0x1000000) / 8192)).bind fun n => (nget s.qps n).map fun q => (n, q)
  match s.mesh.find? fun m => match qp m with | some q => q.2.st ≠ .reset | none => false with
  | none => s
  | some m =>
    let s' := { s with mesh := s.mesh.erase m }
    match qp m, messagePacket m with
    | some (n, _), some (opc, p) => qpPost s' n opc 0 p
    | _, _ => s'

/-- What the network interface and the HSC do by themselves between the steps of cores: a message leaves, received packets go on, contexts
whose END mask was met enter ERROR (R356, R382). -/
def netRound (s : State) : State :=
  let s := rxAll (sendAway s)
  s.ctxs.foldl (fun s x => if x.2.endDue then ctxError s x.1 else s) s

/-- QUEUE_PAIR_CREATE (R368). -/
def execQueuePairCreate (ctx : Nat) (idx : BitVec 12) (qp : QpInit) (s : State) : Host.Outcome State Fault Refusal :=
  .next (createQp s ctx idx.toNat qp)

/-- REGISTRATION_REVOKE (R374). -/
def execRegistrationRevoke (ctx : Nat) (rkey : BitVec 16) (s : State) : Host.Outcome State Fault Refusal :=
  .next (revokeReg s ctx rkey.toNat)

/-- HALYARD_WRITE (R371). -/
def execHalyardWrite (eng : Nat) (s : State) : Host.Outcome State Fault Refusal := .next (halyardTurn isWriteOper s eng)

/-- HALYARD_READ (R371). -/
def execHalyardRead (eng : Nat) (s : State) : Host.Outcome State Fault Refusal := .next (halyardTurn (· == 0x11) s eng)

/-- HALYARD_SEND (R371). -/
def execHalyardSend (eng : Nat) (s : State) : Host.Outcome State Fault Refusal := .next (halyardTurn (· == 0x12) s eng)

/-- AADD (R371). -/
def execAadd (eng : Nat) (s : State) : Host.Outcome State Fault Refusal := .next (halyardTurn (· == 0x13) s eng)

/-- ACAS (R371). -/
def execAcas (eng : Nat) (s : State) : Host.Outcome State Fault Refusal := .next (halyardTurn (· == 0x14) s eng)

/-- CWRITE (R372). -/
def execCwrite (eng : Nat) (s : State) : Host.Outcome State Fault Refusal := .next (halyardTurn (· == 0x15) s eng)

/-- WRITE_PACKET (R373). -/
def execWritePacket (p : Packet) (s : State) : Host.Outcome State Fault Refusal := .next (arrive s 0x01 p)

/-- READ_REQ (R373). -/
def execReadReq (p : Packet) (s : State) : Host.Outcome State Fault Refusal := .next (arrive s 0x03 p)

/-- READ_RESP (R371). -/
def execReadResp (p : Packet) (s : State) : Host.Outcome State Fault Refusal := .next (readIn s p)

/-- SEND_PACKET (R371). -/
def execSendPacket (p : Packet) (s : State) : Host.Outcome State Fault Refusal := .next (arrive s 0x05 p)

/-- ATOMIC (R371). -/
def execAtomic (p : Packet) (s : State) : Host.Outcome State Fault Refusal := .next (arrive s 0x06 p)

/-- ATOMIC_RESP (R371). -/
def execAtomicResp (p : Packet) (s : State) : Host.Outcome State Fault Refusal := .next (atomicIn s p)

/-- ACK (R371). -/
def execAck (p : Packet) (s : State) : Host.Outcome State Fault Refusal := .next (ackIn s p)

/-- NAK (R374). -/
def execNak (p : Packet) (s : State) : Host.Outcome State Fault Refusal := .next (nakIn s p)

/-- LAUNCH_PACKET (R304). -/
def execLaunchPacket (p : Packet) (s : State) : Host.Outcome State Fault Refusal := .next (arrive s 0x0A p)

/-- GSTREAM (R380). -/
def execGstream (p : Packet) (s : State) : Host.Outcome State Fault Refusal := .next (arrive s 0x0B p)

/-- BARRIER_PACKET (R381). -/
def execBarrierPacket (p : Packet) (s : State) : Host.Outcome State Fault Refusal := .next (arrive s 0x0C p)

/-- HANDSHAKE (R378). -/
def execHandshake (p : Packet) (s : State) : Host.Outcome State Fault Refusal := .next (handshakeIn s p)

/-- RETRANSMIT_TIMER (R375). -/
def execRetransmitTimer (qpn : BitVec 24) (s : State) : Host.Outcome State Fault Refusal := .next (retransmit s qpn.toNat)

/-- CONTEXT_BUSY_BACKOFF (R376). -/
def execContextBusyBackoff (qpn : BitVec 24) (s : State) : Host.Outcome State Fault Refusal := .next (backoffOver s qpn.toNat)

/-- REKEY (R378). -/
def execRekey (sid : BitVec 32) (s : State) : Host.Outcome State Fault Refusal := .next (rekeySession s sid)

/-- OLD_EPOCH_EXPIRY (R378). -/
def execOldEpochExpiry (sid : BitVec 32) (s : State) : Host.Outcome State Fault Refusal := .next (expireEpoch s sid.toNat)

/-- PORT_DOWN (R395): the port's loss shows at its queue pairs only through their timers (R375). -/
def execPortDown (port : Fin 12) (s : State) : Host.Outcome State Fault Refusal := .next (raiseEvent s 0 3 port.val)

/-- QUEUE_PAIR_EVICT (R376). -/
def execQueuePairEvict (qpn : BitVec 24) (s : State) : Host.Outcome State Fault Refusal :=
  .next (modQp s qpn.toNat fun q => { q with evicted := true })

/-- STATE_FETCH (R376). -/
def execStateFetch (qpn : BitVec 24) (s : State) : Host.Outcome State Fault Refusal :=
  .next (modQp s qpn.toNat fun q => { q with evicted := false })

end Sys2Proof.Machine
end

