-- ==== Sys2Proof/Machine/Logic.lean ====
section
/-! DEFINITION. Logic, shifts, comparisons and bit operations (R36 to R41). -/

namespace Sys2Proof.Machine

/-- AND (R37). -/
def execAndReg (sz : Sz) (d : Dst) (a b : Src) (s : State) : Host.Outcome State Fault Refusal :=
  issueW (eR3 0x04 0 sz d a b) (binOp d a b (Alu.atW sz Alu.fAnd)) s

/-- AND with a zero-extended literal (R37, R22). -/
def execAndLit (sz : Sz) (d : Dst) (a : Src) (imm : BitVec 32) (s : State) : Host.Outcome State Fault Refusal :=
  issueW (eL2 0x05 0 sz d a imm) (unOp d a fun x => Alu.atW sz Alu.fAnd x (Alu.zx imm)) s

/-- OR (R37). -/
def execOrReg (sz : Sz) (d : Dst) (a b : Src) (s : State) : Host.Outcome State Fault Refusal :=
  issueW (eR3 0x04 1 sz d a b) (binOp d a b (Alu.atW sz Alu.fOr)) s

/-- OR with a zero-extended literal (R37, R22). -/
def execOrLit (sz : Sz) (d : Dst) (a : Src) (imm : BitVec 32) (s : State) : Host.Outcome State Fault Refusal :=
  issueW (eL2 0x05 1 sz d a imm) (unOp d a fun x => Alu.atW sz Alu.fOr x (Alu.zx imm)) s

/-- XOR (R37). -/
def execXorReg (sz : Sz) (d : Dst) (a b : Src) (s : State) : Host.Outcome State Fault Refusal :=
  issueW (eR3 0x04 2 sz d a b) (binOp d a b (Alu.atW sz Alu.fXor)) s

/-- XOR with a zero-extended literal (R37, R22). -/
def execXorLit (sz : Sz) (d : Dst) (a : Src) (imm : BitVec 32) (s : State) : Host.Outcome State Fault Refusal :=
  issueW (eL2 0x05 2 sz d a imm) (unOp d a fun x => Alu.atW sz Alu.fXor x (Alu.zx imm)) s

/-- ANDN (R37). -/
def execAndnReg (sz : Sz) (d : Dst) (a b : Src) (s : State) : Host.Outcome State Fault Refusal :=
  issueW (eR3 0x04 3 sz d a b) (binOp d a b (Alu.atW sz Alu.fAndn)) s

/-- ANDN with a zero-extended literal (R37, R22). -/
def execAndnLit (sz : Sz) (d : Dst) (a : Src) (imm : BitVec 32) (s : State) : Host.Outcome State Fault Refusal :=
  issueW (eL2 0x05 3 sz d a imm) (unOp d a fun x => Alu.atW sz Alu.fAndn x (Alu.zx imm)) s

/-- ORN (R37). -/
def execOrnReg (sz : Sz) (d : Dst) (a b : Src) (s : State) : Host.Outcome State Fault Refusal :=
  issueW (eR3 0x04 4 sz d a b) (binOp d a b (Alu.atW sz Alu.fOrn)) s

/-- ORN with a zero-extended literal (R37, R22). -/
def execOrnLit (sz : Sz) (d : Dst) (a : Src) (imm : BitVec 32) (s : State) : Host.Outcome State Fault Refusal :=
  issueW (eL2 0x05 4 sz d a imm) (unOp d a fun x => Alu.atW sz Alu.fOrn x (Alu.zx imm)) s

/-- SHL (R37). -/
def execShlReg (sz : Sz) (d : Dst) (a b : Src) (s : State) : Host.Outcome State Fault Refusal :=
  issueW (eR3 0x04 5 sz d a b) (binOp d a b (Alu.atW sz Alu.fShl)) s

/-- SHL with a zero-extended literal (R37, R22). -/
def execShlLit (sz : Sz) (d : Dst) (a : Src) (imm : BitVec 32) (s : State) : Host.Outcome State Fault Refusal :=
  issueW (eL2 0x05 5 sz d a imm) (unOp d a fun x => Alu.atW sz Alu.fShl x (Alu.zx imm)) s

/-- SHR (R37). -/
def execShrReg (sz : Sz) (d : Dst) (a b : Src) (s : State) : Host.Outcome State Fault Refusal :=
  issueW (eR3 0x04 6 sz d a b) (binOp d a b (Alu.atW sz Alu.fShr)) s

/-- SHR with a zero-extended literal (R37, R22). -/
def execShrLit (sz : Sz) (d : Dst) (a : Src) (imm : BitVec 32) (s : State) : Host.Outcome State Fault Refusal :=
  issueW (eL2 0x05 6 sz d a imm) (unOp d a fun x => Alu.atW sz Alu.fShr x (Alu.zx imm)) s

/-- SAR (R37). -/
def execSarReg (sz : Sz) (d : Dst) (a b : Src) (s : State) : Host.Outcome State Fault Refusal :=
  issueW (eR3 0x04 7 sz d a b) (binOp d a b (Alu.atW sz Alu.fSar)) s

/-- SAR with a zero-extended literal (R37, R22). -/
def execSarLit (sz : Sz) (d : Dst) (a : Src) (imm : BitVec 32) (s : State) : Host.Outcome State Fault Refusal :=
  issueW (eL2 0x05 7 sz d a imm) (unOp d a fun x => Alu.atW sz Alu.fSar x (Alu.zx imm)) s

/-- ROL (R37). -/
def execRolReg (sz : Sz) (d : Dst) (a b : Src) (s : State) : Host.Outcome State Fault Refusal :=
  issueW (eR3 0x04 8 sz d a b) (binOp d a b (Alu.atW sz Alu.fRol)) s

/-- ROL with a zero-extended literal (R37, R22). -/
def execRolLit (sz : Sz) (d : Dst) (a : Src) (imm : BitVec 32) (s : State) : Host.Outcome State Fault Refusal :=
  issueW (eL2 0x05 8 sz d a imm) (unOp d a fun x => Alu.atW sz Alu.fRol x (Alu.zx imm)) s

/-- ROR (R37). -/
def execRorReg (sz : Sz) (d : Dst) (a b : Src) (s : State) : Host.Outcome State Fault Refusal :=
  issueW (eR3 0x04 9 sz d a b) (binOp d a b (Alu.atW sz Alu.fRor)) s

/-- ROR with a zero-extended literal (R37, R22). -/
def execRorLit (sz : Sz) (d : Dst) (a : Src) (imm : BitVec 32) (s : State) : Host.Outcome State Fault Refusal :=
  issueW (eL2 0x05 9 sz d a imm) (unOp d a fun x => Alu.atW sz Alu.fRor x (Alu.zx imm)) s

/-- FSHL of the pair a:c (R37). -/
def execFshlReg (sz : Sz) (d : Dst) (a b c : Src) (s : State) : Host.Outcome State Fault Refusal :=
  issueW (packR 0x04 10 d.code a.code b.code sz.code c.code 0) (triOp d a b c (Alu.fshl sz)) s

/-- FSHL by a literal (R37). -/
def execFshlLit (sz : Sz) (d : Dst) (a : Src) (imm : BitVec 32) (c : Src) (s : State) : Host.Outcome State Fault Refusal :=
  issueW (packL 0x05 10 d.code a.code c.code sz.code imm.toNat) (binOp d a c fun x z => Alu.fshl sz x (Alu.zx imm) z) s

/-- FSHR of the pair a:c (R37). -/
def execFshrReg (sz : Sz) (d : Dst) (a b c : Src) (s : State) : Host.Outcome State Fault Refusal :=
  issueW (packR 0x04 11 d.code a.code b.code sz.code c.code 0) (triOp d a b c (Alu.fshr sz)) s

/-- FSHR by a literal (R37). -/
def execFshrLit (sz : Sz) (d : Dst) (a : Src) (imm : BitVec 32) (c : Src) (s : State) : Host.Outcome State Fault Refusal :=
  issueW (packL 0x05 11 d.code a.code c.code sz.code imm.toNat) (binOp d a c fun x z => Alu.fshr sz x (Alu.zx imm) z) s

/-- SEQ (R38). -/
def execSeqReg (sz : Sz) (d : Dst) (a b : Src) (s : State) : Host.Outcome State Fault Refusal :=
  issueW (eR3 0x06 0 sz d a b) (binOp d a b (Alu.seq sz)) s

/-- SEQ with a sign-extended literal (R38). -/
def execSeqLit (sz : Sz) (d : Dst) (a : Src) (imm : BitVec 32) (s : State) : Host.Outcome State Fault Refusal :=
  issueW (eL2 0x07 0 sz d a imm) (unOp d a fun x => Alu.seq sz x (Alu.sx imm)) s

/-- SNE (R38). -/
def execSneReg (sz : Sz) (d : Dst) (a b : Src) (s : State) : Host.Outcome State Fault Refusal :=
  issueW (eR3 0x06 1 sz d a b) (binOp d a b (Alu.sne sz)) s

/-- SNE with a sign-extended literal (R38). -/
def execSneLit (sz : Sz) (d : Dst) (a : Src) (imm : BitVec 32) (s : State) : Host.Outcome State Fault Refusal :=
  issueW (eL2 0x07 1 sz d a imm) (unOp d a fun x => Alu.sne sz x (Alu.sx imm)) s

/-- SLT (R38). -/
def execSltReg (sz : Sz) (d : Dst) (a b : Src) (s : State) : Host.Outcome State Fault Refusal :=
  issueW (eR3 0x06 2 sz d a b) (binOp d a b (Alu.slt sz)) s

/-- SLT with a sign-extended literal (R38). -/
def execSltLit (sz : Sz) (d : Dst) (a : Src) (imm : BitVec 32) (s : State) : Host.Outcome State Fault Refusal :=
  issueW (eL2 0x07 2 sz d a imm) (unOp d a fun x => Alu.slt sz x (Alu.sx imm)) s

/-- SLTU (R38). -/
def execSltuReg (sz : Sz) (d : Dst) (a b : Src) (s : State) : Host.Outcome State Fault Refusal :=
  issueW (eR3 0x06 3 sz d a b) (binOp d a b (Alu.sltu sz)) s

/-- SLTU with a sign-extended literal (R38). -/
def execSltuLit (sz : Sz) (d : Dst) (a : Src) (imm : BitVec 32) (s : State) : Host.Outcome State Fault Refusal :=
  issueW (eL2 0x07 3 sz d a imm) (unOp d a fun x => Alu.sltu sz x (Alu.sx imm)) s

/-- SLE (R38). -/
def execSleReg (sz : Sz) (d : Dst) (a b : Src) (s : State) : Host.Outcome State Fault Refusal :=
  issueW (eR3 0x06 4 sz d a b) (binOp d a b (Alu.sle sz)) s

/-- SLE with a sign-extended literal (R38). -/
def execSleLit (sz : Sz) (d : Dst) (a : Src) (imm : BitVec 32) (s : State) : Host.Outcome State Fault Refusal :=
  issueW (eL2 0x07 4 sz d a imm) (unOp d a fun x => Alu.sle sz x (Alu.sx imm)) s

/-- SLEU (R38). -/
def execSleuReg (sz : Sz) (d : Dst) (a b : Src) (s : State) : Host.Outcome State Fault Refusal :=
  issueW (eR3 0x06 5 sz d a b) (binOp d a b (Alu.sleu sz)) s

/-- SLEU with a sign-extended literal (R38). -/
def execSleuLit (sz : Sz) (d : Dst) (a : Src) (imm : BitVec 32) (s : State) : Host.Outcome State Fault Refusal :=
  issueW (eL2 0x07 5 sz d a imm) (unOp d a fun x => Alu.sleu sz x (Alu.sx imm)) s

/-- SEL (R38): `a` where all 64 bits of `c` are not zero, else `b`. -/
def execSelReg (sz : Sz) (d : Dst) (a b c : Src) (s : State) : Host.Outcome State Fault Refusal :=
  issueW (packR 0x06 6 d.code a.code b.code sz.code c.code 0) (triOp d a b c (Alu.sel sz)) s

/-- SEL with a literal (R38). -/
def execSelLit (sz : Sz) (d : Dst) (a : Src) (imm : BitVec 32) (c : Src) (s : State) : Host.Outcome State Fault Refusal :=
  issueW (packL 0x07 6 d.code a.code c.code sz.code imm.toNat) (binOp d a c fun x z => Alu.sel sz x (Alu.sx imm) z) s

/-- CLZ (R40). -/
def execClz (sz : Sz) (d : Dst) (a : Src) (s : State) : Host.Outcome State Fault Refusal :=
  issueW (eBit 0 sz d a.code 0 0) (unOp d a (Alu.clz sz)) s

/-- CTZ (R40). -/
def execCtz (sz : Sz) (d : Dst) (a : Src) (s : State) : Host.Outcome State Fault Refusal :=
  issueW (eBit 1 sz d a.code 0 0) (unOp d a (Alu.ctz sz)) s

/-- POPC (R40). -/
def execPopc (sz : Sz) (d : Dst) (a : Src) (s : State) : Host.Outcome State Fault Refusal :=
  issueW (eBit 2 sz d a.code 0 0) (unOp d a (Alu.popc sz)) s

/-- BREV (R40). -/
def execBrev (sz : Sz) (d : Dst) (a : Src) (s : State) : Host.Outcome State Fault Refusal :=
  issueW (eBit 3 sz d a.code 0 0) (unOp d a (Alu.brev sz)) s

/-- BSWAP (R40). -/
def execBswap (sz : Sz) (d : Dst) (a : Src) (s : State) : Host.Outcome State Fault Refusal :=
  issueW (eBit 4 sz d a.code 0 0) (unOp d a (Alu.bswap sz)) s

/-- SEXT (R40). -/
def execSext (sz : Sz) (d : Dst) (a : Src) (s : State) : Host.Outcome State Fault Refusal :=
  issueW (eBit 8 sz d a.code 0 0) (unOp d a (Alu.sext sz)) s

/-- EXTS (R40). -/
def execExts (sz : Sz) (d : Dst) (a : Src) (pos lenm1 : BitVec 6) (s : State) : Host.Outcome State Fault Refusal :=
  issueW (eBit 5 sz d a.code 0 (pos.toNat * 64 + lenm1.toNat)) (unOp d a (Alu.exts sz pos lenm1)) s

/-- EXTU (R40). -/
def execExtu (sz : Sz) (d : Dst) (a : Src) (pos lenm1 : BitVec 6) (s : State) : Host.Outcome State Fault Refusal :=
  issueW (eBit 6 sz d a.code 0 (pos.toNat * 64 + lenm1.toNat)) (unOp d a (Alu.extu sz pos lenm1)) s

/-- INS (R40). -/
def execIns (sz : Sz) (d : Dst) (a b : Src) (pos lenm1 : BitVec 6) (s : State) : Host.Outcome State Fault Refusal :=
  issueW (eBit 7 sz d a.code b.code (pos.toNat * 64 + lenm1.toNat)) (binOp d a b (Alu.ins sz pos lenm1)) s

/-- MOVH (R41): the literal over the low word. -/
def execMovh (d : Dst) (a : Src) (imm : BitVec 32) (s : State) : Host.Outcome State Fault Refusal :=
  issueW (packL 0x09 0 d.code a.code 0 0 imm.toNat) (unOp d a (Alu.movh imm)) s

end Sys2Proof.Machine
end

