-- ==== Sys2Proof/Machine/Matrix.lean ====
section
/-! DEFINITION. The matrix unit (R189 to R209, with R94 and R95). -/

namespace Sys2Proof.Machine

/-! ### The format context and the shapes of tiles (R189 to R195) -/

/-- The element width of the class of a format code as a matrix operand (R77). -/
def mCls (code : Nat) : Option Nat := (Num.fmtOfCode code).bind Num.fmtClass

/-- The fields of a context word (R194). -/
def ctxAf (w : BitVec 32) : Nat := w.toNat % 32
def ctxBf (w : BitVec 32) : Nat := w.toNat / 256 % 32
def ctxMx (w : BitVec 32) : Bool := w.getLsbD 16
def ctxRm (w : BitVec 32) : Rm := match w.toNat / 2 ^ 20 % 4 with | 0 => .rne | 1 => .rtz | 2 => .sr | _ => .rna
def ctxSat (w : BitVec 32) : Bool := w.getLsbD 22

/-- The class in force, and what it gives: the contraction length, the packed B row in bytes, the groups (R191). -/
def ctxCls (w : BitVec 32) : Nat := (mCls (ctxAf w)).getD 16
def mK (cls : Nat) : Nat := 512 / cls
def mRow (cls : Nat) : Nat := 4 * cls
def mGroups (cls : Nat) : Nat := mK cls / 32

/-- Whether a context word is one that MCTX accepts (R194, R195). -/
def ctxOk (w : Word) : Bool :=
  (w &&& 0xFFFFFFFFFF8EE0E0) == 0 &&
    match mCls (w.toNat % 32), mCls (w.toNat / 256 % 32) with
    | some a, some b => a == b && !(w.getLsbD 16 && a == 16)
    | _, _ => false

/-- A matrix instruction accepted. -/
def acceptX (flags : Num.Flags) (tile : Option (Fin 4)) : M Unit := accept true flags none none tile

/-- MCTX (R195). -/
def setContext (x : MctxSrc) : M Flow := do
  let w ← match x with | .lit x => pure (x.setWidth 64) | .reg a => readG a
  raiseIf (!ctxOk w) .illField
  queueRoom
  modMyCore fun k => { k with mctx := w.setWidth 32 }
  acceptX 0 none
  return .next

/-! ### Tiles and claims (R196, R207, R208) -/

/-- Element `n` of a tile in row order, as FP32 bits. -/
def tileElem (x : BitVec 32768) (n : Nat) : Nat := (x.toNat >>> (32 * n)) % 2 ^ 32

/-- A tile from its elements in row order. -/
def packTile (l : List Nat) : BitVec 32768 := BitVec.ofNat 32768 (l.foldr (fun v a => v % 2 ^ 32 + a * 2 ^ 32) 0)

/-- A tile replaced. -/
def setTile (c : Fin 4) (f : Tile → Tile) : M Unit :=
  modMyCore fun k => { k with tiles := k.tiles.set c.val (f (k.tiles.get c)) c.isLt }

/-- Whether the issuing task holds a tile (R196), in acceptance order: what it has released it no longer holds. -/
def holds (c : Fin 4) : M Bool := do
  let s ← get
  let t := (coreOf s s.cur).tiles.get c
  return t.owner = some (actOf s s.cur, (← mySlot).task) && !t.giving

/-- The claim that the tile instructions need (R196). -/
def needClaim (c : Fin 4) : M Unit := do raiseIf (!(← holds c)) .illField

/-- No matrix request executes behind an MROT that has not done both its parts (R200): a request that reads memory or writes a wide
register is accepted after that (log entry 49). -/
def rotsDone : M Unit := do
  let s ← get
  if (coreOf s s.cur).rots ≠ [] then waitOn .dqFull

/-- MZERO (R208). -/
def zeroTile (c : Fin 4) : M Flow := do
  needClaim c
  queueRoom
  setTile c fun t => { t with data := 0, tag := none, poison := false }
  acceptX 0 (some c)
  return .next

/-- MCLAIM (R196): the claim is taken before the wait for a queue entry, and the fresh tile is +0. -/
def claim (c : Fin 4) : M Flow := do
  let s ← get
  let k := coreOf s s.cur
  let me := (actOf s s.cur, (← mySlot).task)
  let take (s : State) : State := modCore s s.cur fun k => { k with tiles := k.tiles.set c.val ⟨0, none, false, some me, false⟩ c.isLt }
  if !(← holds c) then
    if tileClaimed k c && (k.tiles.get c).owner ≠ some me then waitOn (.tile c)
    if 16 ≤ k.dq.length then waitWith .dqFull take
    modify take
  queueRoom
  acceptX 0 (some c)
  return .next

/-- MRELEASE (R196, R208): the claim is given up; another task finds the tile free once what was accepted for it has completed. -/
def release (c : Fin 4) : M Flow := do
  queueRoom
  if ← holds c then setTile c fun t => { t with giving := true }
  acceptX 0 (some c)
  return .next

/-- A base and a row stride checked (R198, R202, R207): the stride in force, and whether it was 0. -/
def strideOf (base : Word) (b : GZ) (packed align : Nat) : M (Nat × Bool) := do
  let st ← readGZ b
  raiseIf (decide (2 ^ 32 ≤ st.toNat) || (st ≠ 0 && decide (st.toNat < packed))) .illField
  raiseIf (base.toNat % align ≠ 0 || st.toNat % align ≠ 0) .align base
  return (if st = 0 then packed else st.toNat, st = 0)

/-- The first bytes and lengths of rows relative to a base. -/
def rowsOf (n stride len : Nat) : List (Nat × Nat) := (List.range n).map fun i => (i * stride, len)

/-- The pieces of each of some rows. -/
def rowSegs (f : Word → Nat → M (List Seg)) (base : Word) : List (Nat × Nat) → M (List (List Seg))
  | [] => pure []
  | (o, n) :: r => do
    let gs ← f (base + word o) n
    let rest ← rowSegs f base r
    return gs :: rest

/-- The bytes of each of some rows, with the poison of their words. -/
def readRows : List (List Seg) → M (List (List (Byte × Bool)))
  | [] => pure []
  | gs :: r => do
    let b ← readBulk gs
    let rest ← readRows r
    return b :: rest

/-- The elements of a row of bytes, each at `w` bits (R76). -/
def rowElems (w n : Nat) (row : List Nat) : List Nat :=
  let x := row.foldr (fun v a => v + a * 256) 0
  (List.range n).map fun k => (x >>> (w * k)) % 2 ^ w

/-- MLOAD (R207, R208). -/
def loadTile (c : Fin 4) (a : GReg) (b : GZ) (spc : Bool) : M Flow := do
  let base ← readG a
  let (st, _) ← strideOf base b 128 8
  let gs ← rowSegs (fun ea n => resolve spc ea n accBulkRd) base (rowsOf 32 st 128)
  needClaim c
  rotsDone
  queueRoom
  let rows ← readRows gs
  let data := packTile ((rows.map fun r => rowElems 32 32 (r.map (·.1.toNat))).flatten)
  setTile c fun t => { t with data := data, tag := none, poison := rows.any fun r => r.any (·.2) }
  acceptX 0 (some c)
  return .next

/-- The rows of a tile converted, in row order (R91, R208). -/
def convertTile (dt : Num.Tables) (f : Num.Fmt) (rm : Rm) (sat : Bool) (x : BitVec 32768) (sr : Word) :
    List Nat × Num.Flags × Word :=
  let r := (List.range 1024).foldl (fun (a : List Nat × Num.Flags × Word) n =>
    let st := srStep rm a.2.2
    let o := Num.encodeFmt dt f rm sat (Num.srTop st) (Num.decodeFmt dt .fp32 (tileElem x n))
    (o.1.toNat % 2 ^ Num.fmtWidth f :: a.1, a.2.1 ||| o.2, st)) ([], 0, sr)
  (r.1.reverse, r.2)

/-- The bytes of a row of elements at `w` bits. -/
def rowBytes (w : Nat) (l : List Nat) : List Byte := Alu.bytesOf (l.foldr (fun v a => v + a * 2 ^ w) 0) (l.length * w / 8)

/-- Rows put into the store buffer. -/
def storeRows (pois : Bool) (c : Fin 4) : List (List Seg) → List (List Byte) → M Unit
  | gs :: r, b :: bs => do
    storeBulk (b.map some) pois false (some c) gs
    storeRows pois c r bs
  | _, _ => pure ()

/-- MSTORE (R207, R208). -/
def storeTile (c : Fin 4) (a : GReg) (b : GZ) (spc : Bool) (df : BitVec 5) : M Flow := do
  let core := coreOf (← get) (← myCore)
  let f : Num.Fmt := (Num.fmtOfCode df.toNat).getD .fp32
  match f with
  | .dt t => raiseIf ((core.dt.get t).status ≠ 0) .illField
  | _ => pure ()
  let w := Num.fmtPlace f
  let base ← readG a
  let t := core.tiles.get c
  raiseIf t.tag.isSome .furlLeak
  let (st, _) ← strideOf base b (4 * w) 8
  let gs ← rowSegs (fun ea n => resolve spc ea n accBulkWr) base (rowsOf 32 st (4 * w))
  needClaim c
  queueRoom
  bulkRoom
  let r := convertTile core.dt f (ctxRm core.mctx) (ctxSat core.mctx) t.data core.srst
  modMyCore fun k => { k with srst := r.2.2 }
  storeRows t.poison c gs ((List.range 32).map fun i => rowBytes w ((r.1.drop (32 * i)).take 32))
  acceptX r.2.1 (some c)
  return .next

/-- MTOWIDE (R208). -/
def tileToWide (c : Fin 4) (wd : WReg) (p : Fin 16) : M Flow := do
  let t := (coreOf (← get) (← myCore)).tiles.get c
  needClaim c
  rotsDone
  queueRoom
  wwrite wd ⟨BitVec.ofNat 2048 (t.data.toNat >>> (2048 * p.val)), t.tag, t.poison⟩
  acceptX 0 (some c)
  return .next

/-! ### Seals (R197, R219, R220) -/

/-- A sealed operand must be bound (R197). -/
def needBound (t : Option (Fin 64)) : M Unit := do
  let s ← get
  match t with
  | some k => raiseIf (!bound s (← mySlot) k.val) .furlKey
  | none => pure ()

/-- An MROT accepted earlier has yet to receive its latch (R197). -/
def waitRot : M Unit := do
  let s ← get
  if (coreOf s s.cur).rots ≠ [] then waitOn .mrotRecv

/-- What a decrypting path reads of some granules: their plaintext, poison, and the address of the first whose tag fails (R220). -/
structure Plain where
  bytes : List Nat
  poison : Bool
  bad : Option Nat
deriving DecidableEq, Repr

/-- Granules of 256 bytes read and decrypted, in ascending order. -/
def readSealed (f : Word → M (List Seg)) : List Word → M Plain
  | [] => pure ⟨[], false, none⟩
  | ea :: r => do
    let gs ← f ea
    let s ← get
    match gs with
    | [g] =>
      match furlOf s g with
      | none => raiseAt .furlRead ea
      | some (ky, v) => do
        let x ← readGranule g ky v
        let rest ← readSealed f r
        return match x with
          | .clear pt => { rest with bytes := pt ++ rest.bytes }
          | .poisoned pt => { rest with bytes := pt ++ rest.bytes, poison := true }
          | .badTag => { rest with bytes := List.replicate 256 0 ++ rest.bytes, bad := some v }
    | _ => raiseAt .furlRead ea

/-- The granules from a base that cover `n` bytes. -/
def granules (base : Word) (n : Nat) : List Word := (List.range ((n + 255) / 256)).map fun j => base + word (256 * j)

/-- The key of furled pieces that must all be under one (R198). -/
def oneKey (s : State) (ea : Word) (gs : List Seg) : M Nat := do
  raiseIf (!gs.all fun g => g.allFurled s) .furlRead ea
  match gs.filterMap fun g => (furlOf s g).map (·.1) with
  | [] => raiseAt .furlRead ea
  | k :: r => do
    raiseIf (r.any (· ≠ k)) .furlMix ea
    return k

/-! ### MLDB (R198) -/

/-- The operand latch replaced (R198). -/
def setLatch (x : Latch) : M Unit := modMyCore fun k => { k with latch := x }

/-- Block scales of the operand latch: those read, and 0x7F above them. -/
def scalesOf (l : List Nat) : BitVec 1024 :=
  BitVec.ofNat 1024 ((l ++ List.replicate (128 - l.length) 0x7F).foldr (fun v a => v + a * 256) 0)

/-- A latch from the bytes of a tile and of its scales. -/
def latchOf (bytes scales : List Nat) (tag : Option (Fin 64)) (poison : Bool) : Latch :=
  ⟨BitVec.ofNat 16384 (bytes.foldr (fun v a => v + a * 256) 0), scalesOf scales, tag, poison, false⟩

/-- MLDB (R198, R219, R220). -/
def loadLatch (a b : GZ) (spc : Bool) : M Flow := do
  let ctx := (coreOf (← get) (← myCore)).mctx
  let cls := ctxCls ctx
  let row := mRow cls
  let base ← readGZ a
  let (st, packed) ← strideOf base b row 16
  let ns := if ctxMx ctx then 32 * mGroups cls else 0
  let rows := rowsOf (mK cls) st row ++ (if ctxMx ctx then [(mK cls * st, ns)] else [])
  let gs ← rowSegs (fun ea n => resolveAny spc ea n accBulkRd) base rows
  let s ← get
  if !gs.flatten.any (fun g => g.furled s) then do
    rotsDone
    queueRoom
    let r ← readRows gs
    let l := r.map fun x => x.map (·.1.toNat)
    setLatch (latchOf (l.take (mK cls)).flatten (l.drop (mK cls)).flatten none (r.any fun x => x.any (·.2)))
    acceptX 0 none
    return .next
  else do
    let ky ← oneKey s base gs.flatten
    raiseIf (!packed || base.toNat % 256 ≠ 0) .align base
    let ks := gs.flatten.map fun g => (furlKeys s g, g.n)
    let sl ← mySlot
    raiseIf (ks.any fun x => x.1.any fun y => !bound s sl y.1) .furlKey base
    raiseIf (ks.any fun x => x.1.any fun y => !(keyAt s y.1).fmtOk (ctxBf ctx)) .furlPolicy base
    raiseIf (ks.any fun x => x.1.any fun y => !(keyAt s y.1).inWindow y.2 x.2) .furlPolicy base
    rotsDone
    queueRoom
    let p ← readSealed (fun ea => resolveAny spc ea 256 accBulkRd) (granules base (2048 + ns))
    let tag : Option (Fin 64) := some (Fin.ofNat 64 ky)
    match p.bad with
    | some v => do
      setLatch (latchOf [] [] tag true)
      accept true 0 none (some ({ code := .furlTag, info := word v }, (← mySlot).pc)) none
    | none => do
      setLatch (latchOf (p.bytes.take 2048) ((p.bytes.drop 2048).take ns) tag p.poison)
      acceptX 0 none
    keyed [(ky, gs.flatten.any fun g => g.mt ≠ .furled)]
    return .next

/-! ### The ring (R199 to R201) -/

/-- The sub-ring of a core for LIT<2:0>: its members, and the next core of it (R199). -/
def subRing (c n : Nat) : List Nat × Nat :=
  let size := 32 / 2 ^ n
  let die := c / 1536 * 1536
  let r := c % 1536
  let m := r / 32 * 32
  let first := m + size * ((r - m) / size)
  ((List.range size).map fun i => die + first + i, die + first + (r - first + 1) % size)

/-- MROT (R199, R200). -/
def rotate (n : BitVec 3) : M Flow := do
  let s ← get
  let c := s.cur
  let sl ← mySlot
  let (ring, nxt) := subRing c n.toNat
  let inside := match sl.launch.bind (nget s.launches) with
    | some l => decide (c < 6144) && ring.all fun x => decide (l.base ≤ x) && decide (x < l.base + l.rlen)
    | none => false
  raiseIf (!inside) .illField
  waitRot
  needBound (coreOf s c).latch.tag
  queueRoom
  let i ← myIdx
  modMyCore fun k => { k with
    rots := k.rots ++ [⟨i, sl.task, nxt, true, s.nextId⟩]
    dq := k.dq ++ [⟨true, i, sl.task, 0, none, none, none, true, [], s.nextId⟩] }
  return .next

/-- MROT_SEND (R200): the Send of a core's MROT, where the next core's receive buffer is empty. -/
def rotSend (s : State) (c : Nat) : State :=
  match (coreOf s c).rots with
  | r :: rest =>
    if r.sendDue && !(coreOf s r.next).recv.full then
      let l := (coreOf s c).latch
      let s := modCore s r.next fun k => { k with recv := { l with full := true } }
      modCore s c fun k => { k with rots := { r with sendDue := false } :: rest }
    else s
  | [] => s

/-- MROT_RECEIVE (R200): the Receive of a core's MROT, where its own receive buffer is full. -/
def rotReceive (s : State) (c : Nat) : State :=
  let k := coreOf s c
  match k.rots with
  | r :: rest =>
    if !r.sendDue && k.recv.full then
      modCore s c fun k => { k with
        latch := { k.recv with full := false }, recv := { k.recv with full := false }, rots := rest }
    else s
  | [] => s

/-! ### MMA (R202, R203, R94, R95) -/

/-- FP32. -/
abbrev spF32 : Num.Spec := ⟨8, 23, 127, .ieee⟩

/-- Whether FP32 bits are a NaN. -/
def nan32 (x : Nat) : Bool := decide (0x7F800000 < x % 2 ^ 31)

/-- The exact sum of a group, scaled; with NV (R94, R95). A block scale of 0xFF makes it a NaN. -/
def groupSum (mx : Bool) (sa sb : Nat) (terms : List (Num.Val × Num.Val)) : Num.Val × Bool :=
  let ps := terms.map fun t => Num.vMul t.1 t.2
  let inf (b : Bool) : Bool := ps.any fun p => p.1 = .inf b
  let nv := ps.any (·.2) || (inf true && inf false)
  let s := ps.foldl (fun a p => (Num.vAdd a p.1).1) (.fin true 0 0)
  if mx then
    if sa = 255 || sb = 255 then (.nan false, nv)
    else (match s with | .fin n m e => .fin n m (e + sa + sb - 254) | v => v, nv)
  else (s, nv)

/-- A group added into an element (R94, R95). -/
def addGroup (c : Nat) (s : Num.Val × Bool) : Nat × Num.Flags :=
  let r := Num.roundSpec spF32 .rne false 0 s.1
  let nv : Num.Flags := if s.2 then Num.flNV else 0
  if nan32 c then (0x7FC00000, nv ||| (r.2 &&& Num.flOF))
  else
    let o := Num.fpAdd spF32 .rne 0 c r.1
    (o.1, nv ||| (r.2 &&& Num.flOF) ||| (o.2 &&& (Num.flNV ||| Num.flOF)))

/-- A list cut into groups of 32. -/
def groupsOf {α : Type} (n : Nat) (l : List α) : List (List α) := (List.range n).map fun g => (l.drop (32 * g)).take 32

/-- The elements of an operand tile that has been read: values by row of A or column of B, and scales by row or column and group. -/
structure OpTile where
  vals : List (List Num.Val)
  scale : Nat → Nat → Nat

/-- An element of the product of a row and a column, added to its accumulator (R94). -/
def mmaElem (mx : Bool) (g : Nat) (ra rb : List Num.Val) (sa sb : Nat → Nat) (c : Nat) : Nat × Num.Flags :=
  ((groupsOf g (ra.zip rb)).zipIdx).foldl (fun a t =>
    let r := addGroup a.1 (groupSum mx (sa t.2) (sb t.2) t.1)
    (r.1, a.2 ||| r.2)) (c, 0)

/-- Every element of a tile computed from its row and column. -/
def overTile (f : Nat → Nat → Nat → Nat × Num.Flags) (x : BitVec 32768) : BitVec 32768 × Num.Flags :=
  let r := (List.range 1024).map fun n => f (n / 32) (n % 32) (tileElem x n)
  (packTile (r.map (·.1)), r.foldl (fun a v => a ||| v.2) 0)

/-- MatrixSum (R94). -/
def matrixSum (mx : Bool) (g : Nat) (a b : OpTile) (x : BitVec 32768) : BitVec 32768 × Num.Flags :=
  overTile (fun i j c => mmaElem mx g (a.vals.getD i []) (b.vals.getD j []) (a.scale i) (b.scale j) c) x

/-! ### MREC (R204 to R206) -/

/-- One operation of a program is valid (R204). -/
def opOk (x : Nat) : Bool :=
  let opc := x / 4096 % 16
  if opc = 0 then x % 65536 = 0
  else decide (opc ≤ 7) && decide (x / 256 % 16 ≤ 2) && decide (x / 16 % 16 ≤ 7) && decide (x % 16 ≤ 7) && (opc ≠ 6 || x % 16 = 0)

/-- A program is valid (R204, R205). -/
def progOk (w : Word) : Bool := (List.range 4).all fun n => opOk (w.toNat / 2 ^ (16 * n) % 65536)

/-- A NaN made quiet: a signalling NaN of an accumulator records no flag (R95). -/
def quiet32 (x : Nat) : Nat := if nan32 x then 0x7FC00000 else x

/-- An operation on two FP32 values, with its flags; SEL looks at `t0` (R206). -/
def recOp (opc t0 x y : Nat) : Nat × Num.Flags :=
  let p := quiet32 x
  let q := quiet32 y
  match opc with
  | 1 => Num.fpAdd spF32 .rne 0 p q
  | 2 => Num.fpSub spF32 .rne 0 p q
  | 3 => Num.fpMul spF32 .rne 0 p q
  | 4 => Num.fpMinMax spF32 true p q
  | 5 => Num.fpMinMax spF32 false p q
  | 6 => (x ^^^ 2 ^ 31, 0)
  | _ => (if t0 % 2 ^ 31 ≠ 0 && !nan32 t0 then x else y, 0)

/-- One step of the recurrence: the four operations (R206). -/
def recStep (prog : Word) (s a b : Nat) : Nat × Num.Flags :=
  let r := (List.range 4).foldl (fun (v : Nat × Nat × Nat × Num.Flags) n =>
    let w := prog.toNat / 2 ^ (16 * n) % 65536
    let opc := w / 4096
    let src (k : Nat) : Nat := match k with
      | 0 => s | 1 => a | 2 => b | 3 => v.1 | 4 => v.2.1 | 5 => 0 | 6 => 0x3F800000 | _ => 0x7F800000
    if opc = 0 then v
    else
      let o := recOp opc v.1 (src (w / 16 % 16)) (src (w % 16))
      let fl := v.2.2.2 ||| o.2
      match w / 256 % 16 with
      | 0 => (o.1, v.2.1, v.2.2.1, fl)
      | 1 => (v.1, o.1, v.2.2.1, fl)
      | _ => (v.1, v.2.1, o.1, fl)) (0, 0, s, 0)
  (r.2.2.1, r.2.2.2)

/-- An operand of MREC as FP32 bits: exact, or scaled and rounded once (R206). -/
def recOpnd (mx : Bool) (sc : Nat) (v : Num.Val) : Nat × Num.Flags :=
  let x : Num.Val := if mx then
      (if sc = 255 then .nan false else match v with | .fin n m e => .fin n m (e + sc - 127) | u => u)
    else v
  let sig : Num.Flags := match v with | .nan true => Num.flNV | _ => 0
  let r := Num.roundSpec spF32 .rne false 0 x
  (r.1, sig ||| r.2)

/-- An element of MREC (R206). -/
def recElem (prog : Word) (mx : Bool) (ra rb : List Num.Val) (sa sb : Nat → Nat) (c : Nat) : Nat × Num.Flags :=
  let r := ((ra.zip rb).zipIdx).foldl (fun (v : Nat × Num.Flags) t =>
    let a := recOpnd mx (sa (t.2 / 32)) t.1.1
    let b := recOpnd mx (sb (t.2 / 32)) t.1.2
    let o := recStep prog v.1 a.1 b.1
    (o.1, v.2 ||| a.2 ||| b.2 ||| o.2)) (c, 0)
  (r.1, r.2 &&& (Num.flNV ||| Num.flOF))

/-- MPROG (R205). -/
def setProgram (a : GReg) : M Flow := do
  let w ← readG a
  raiseIf (!progOk w) .illField
  queueRoom
  modMyCore fun k => { k with mprog := w }
  acceptX 0 none
  return .next

/-! ### The A path (R192, R202, R219) -/

/-- The furled range that holds the whole A footprint, if any (R219). -/
def aRange (k : Core) (base : Word) (packed : Bool) (rows : List (Nat × Nat)) : M (Option FurlRange) := do
  let at0 (o n : Nat) : Option FurlRange := k.furl.find? fun r =>
    decide (base.toNat + o < r.lb + r.len) && decide (r.lb < base.toNat + o + n)
  let rs := rows.map fun x => at0 x.1 x.2
  let whole := rows.all fun x => match at0 x.1 x.2 with
    | some r => decide (r.lb ≤ base.toNat + x.1) && decide (base.toNat + x.1 + x.2 ≤ r.lb + r.len)
    | none => true
  match rs.filterMap id with
  | [] => return none
  | r :: rest => do
    raiseIf (!whole || rs.any (·.isNone)) .furlRead base
    raiseIf (!packed || base.toNat % 256 ≠ 0 || rest.any (· ≠ r)) .align base
    return some r

/-- What the A path delivers: the bytes of the tile by row, its scales, poison, its key, and a failed granule (R192, R220). -/
structure APath where
  rows : List (List Nat)
  scales : List Nat
  poison : Bool
  tag : Option (Fin 64)
  bad : Option Nat
deriving DecidableEq, Repr

/-- Steps 4 and 5 of an MMA or MREC, and its reads (R155, R196, R197, R202, R219). -/
def aPath (c : Fin 4) (a : GReg) (b : GZ) (z : Bool) : M APath := do
  let base ← readG a
  let (st, _) ← strideOf base b 64 64
  let s0 ← get
  let sl ← mySlot
  let k := coreOf s0 s0.cur
  let cls := ctxCls k.mctx
  let ns := if ctxMx k.mctx then 32 * mGroups cls else 0
  let rows := rowsOf 32 st 64 ++ (if ctxMx k.mctx then [(32 * st, ns)] else [])
  raiseIf (rows.any fun x => decide (sl.tplBase.toNat < base.toNat + x.1 + x.2)) .localBound base
  let range ← aRange k base (st = 64) rows
  let gs ← rowSegs (localSegs accBulkRd) base rows
  match range with
  | some r => do
    raiseIf (!bound s0 sl r.key) .furlKey base
    raiseIf (!(keyAt s0 r.key).fmtOk (ctxAf k.mctx)) .furlPolicy base
  | none => pure ()
  needClaim c
  waitRot
  let t := k.tiles.get c
  needBound k.latch.tag
  if !z then needBound t.tag
  let ka : Option (Fin 64) := range.map fun r => Fin.ofNat 64 r.key
  let _ ← joinTags ([ka, k.latch.tag] ++ if z then [] else [t.tag])
  queueRoom
  match range with
  | none => do
    let r ← readRows gs
    let l := r.map fun x => x.map (·.1.toNat)
    return ⟨l.take 32, (l.drop 32).flatten, r.any fun x => x.any (·.2), none, none⟩
  | some _ => do
    let p ← readSealed (fun ea => localSegs accBulkRd ea 256) (granules base (2048 + ns))
    return ⟨(List.range 32).map fun i => (p.bytes.drop (64 * i)).take 64, (p.bytes.drop 2048).take ns, p.poison, ka, p.bad⟩

/-- The seal of a product (R197): `dbc` where an MMA may declassify. -/
def productTag (s : State) (dbc : Bool) (a l : Option (Fin 64)) : Option (Fin 64) :=
  match a, l with
  | some k, some _ => some k
  | some k, none => if dbc && (keyAt s k.val).dbc then none else some k
  | none, some k => if dbc && (keyAt s k.val).dbc then none else some k
  | none, none => none

/-- The rows of an A tile decoded (R203). -/
def aTile (k : Core) (p : APath) : OpTile :=
  let cls := ctxCls k.mctx
  let f := (Num.fmtOfCode (ctxAf k.mctx)).getD .bf16
  ⟨p.rows.map fun r => (rowElems cls (mK cls) r).map (Num.decodeFmt k.dt f), fun i g => p.scales.getD (i * mGroups cls + g) 0⟩

/-- The columns of the latch decoded (R203). -/
def bTile (k : Core) : OpTile :=
  let cls := ctxCls k.mctx
  let f := (Num.fmtOfCode (ctxBf k.mctx)).getD .bf16
  let x := k.latch.data.toNat
  let sc := k.latch.scales.toNat
  ⟨(List.range 32).map fun j => (List.range (mK cls)).map fun r =>
      Num.decodeFmt k.dt f ((x >>> (cls * (32 * r + j))) % 2 ^ cls), fun j g => (sc >>> (8 * (32 * g + j))) % 256⟩

/-- MMA and MREC from their reads on (R203, R206). -/
def contract (c : Fin 4) (z isMma : Bool) (p : APath) : M Flow := do
  let s ← get
  let k := coreOf s s.cur
  let t := k.tiles.get c
  let tag := if z || t.tag.isNone then productTag s isMma p.tag k.latch.tag else t.tag
  match p.bad with
  | some v => do
    setTile c fun t => { t with data := 0, tag := tag, poison := true }
    accept true 0 none (some ({ code := .furlTag, info := word v }, (← mySlot).pc)) (some c)
  | none => do
    let a := aTile k p
    let b := bTile k
    let mx := ctxMx k.mctx
    let x : BitVec 32768 := if z then 0 else t.data
    let r := if isMma then matrixSum mx (mGroups (ctxCls k.mctx)) a b x
      else overTile (fun i j c => recElem k.mprog mx (a.vals.getD i []) (b.vals.getD j []) (a.scale i) (b.scale j) c) x
    setTile c fun t => { t with data := r.1, tag := tag, poison := (!z && t.poison) || p.poison || k.latch.poison }
    acceptX r.2 (some c)
  return .next

/-- MMA or MREC. -/
def multiply (c : Fin 4) (a : GReg) (b : GZ) (z isMma : Bool) : M Flow := do
  let p ← aPath c a b z
  let s ← get
  let f ← contract c z isMma p
  keyed ((p.tag.toList.map fun t => (t.val, true)) ++ (coreOf s s.cur).latch.tag.toList.map fun t => (t.val, false))
  return f

/-! ### MWAIT (R209) and the unit's turn (R190) -/

/-- MWAIT: the instructions accepted have completed, and the stores of an MSTORE have been performed. -/
def matrixWait (c : Option (Fin 4)) : M Flow := do
  let s ← get
  if matrixDue (coreOf s s.cur) (← mySlot).task c then waitOn (.matrixSlot c)
  return .next

/-- MATRIX_REQUEST (R190): one request of the next core, in turn, that has one ready. -/
def matrixTurn (s : State) (quad : Nat) : State :=
  let rr := (quadAt s quad).rrMat
  let order := [0, 1, 2, 3].map fun j => (rr + j) % 4
  match order.findSome? fun j => (retireHead s (quad * 4 + j) true).map fun t => (j, t) with
  | none => s
  | some (j, t) => modQuad t quad fun q => { q with rrMat := (j + 1) % 4 }

/-- MCTX (R195). -/
def execMctx (w : MctxSrc) (s : State) : Host.Outcome State Fault Refusal :=
  issueW (match w with | .lit x => packX 0xB0 0 0 0 0 0 x.toNat | .reg a => packX 0xB0 0 0 a.val 0 0 0) (setContext w) s

/-- MLDB (R198). -/
def execMldb (a b : GZ) (spc : Bool) (s : State) : Host.Outcome State Fault Refusal :=
  issueW (packX 0xB2 0 0 a.code b.code spc.toNat 0) (loadLatch a b spc) s

/-- MROT (R199, R200). -/
def execMrot (n : BitVec 3) (s : State) : Host.Outcome State Fault Refusal :=
  issueW (packX 0xB4 0 0 0 0 0 n.toNat) (rotate n) s

/-- MROT_SEND (R200). -/
def execMrotSend (rank : Nat) (s : State) : Host.Outcome State Fault Refusal :=
  .next (rotSend s rank)

/-- MROT_RECEIVE (R200). -/
def execMrotReceive (rank : Nat) (s : State) : Host.Outcome State Fault Refusal :=
  .next (rotReceive s rank)

/-- MMA (R202, R203). -/
def execMma (c : Fin 4) (a : GReg) (b : GZ) (z : Bool) (s : State) : Host.Outcome State Fault Refusal :=
  issueW (packX 0xB6 0 c.val a.val b.code 0 z.toNat) (multiply c a b z true) s

/-- MREC (R204 to R206). -/
def execMrec (c : Fin 4) (a : GReg) (b : GZ) (z : Bool) (s : State) : Host.Outcome State Fault Refusal :=
  issueW (packX 0xB8 0 c.val a.val b.code 0 z.toNat) (multiply c a b z false) s

/-- MPROG (R205). -/
def execMprog (a : GReg) (s : State) : Host.Outcome State Fault Refusal :=
  issueW (packX 0xBA 0 0 a.val 0 0 0) (setProgram a) s

/-- MZERO (R208). -/
def execMzero (c : Fin 4) (s : State) : Host.Outcome State Fault Refusal :=
  issueW (packX 0xBC 0 c.val 0 0 0 0) (zeroTile c) s

/-- MLOAD (R208). -/
def execMload (c : Fin 4) (a : GReg) (b : GZ) (spc : Bool) (s : State) : Host.Outcome State Fault Refusal :=
  issueW (packX 0xBC 1 c.val a.val b.code spc.toNat 0) (loadTile c a b spc) s

/-- MSTORE (R208). -/
def execMstore (c : Fin 4) (a : GReg) (b : GZ) (spc : Bool) (df : BitVec 5) (s : State) : Host.Outcome State Fault Refusal :=
  issueW (packX 0xBC 2 c.val a.val b.code spc.toNat df.toNat) (storeTile c a b spc df) s

/-- MTOWIDE (R208). -/
def execMtowide (c : Fin 4) (wd : WReg) (p : Fin 16) (s : State) : Host.Outcome State Fault Refusal :=
  issueW (packX 0xBC 3 c.val 0 0 0 (p.val * 16 + wd.val)) (tileToWide c wd p) s

/-- MCLAIM (R196). -/
def execMclaim (c : Fin 4) (s : State) : Host.Outcome State Fault Refusal :=
  issueW (packX 0xBC 4 c.val 0 0 0 0) (claim c) s

/-- MRELEASE (R196, R208). -/
def execMrelease (c : Fin 4) (s : State) : Host.Outcome State Fault Refusal :=
  issueW (packX 0xBC 5 c.val 0 0 0 0) (release c) s

/-- MWAIT (R209). -/
def execMwait (c : Option (Fin 4)) (s : State) : Host.Outcome State Fault Refusal :=
  issueW (match c with | none => packX 0xBE 0 0 0 0 0 0 | some c => packX 0xBE 0 c.val 0 0 0 1) (matrixWait c) s

/-- MATRIX_REQUEST (R190). -/
def execMatrixRequest (quad : Nat) (s : State) : Host.Outcome State Fault Refusal :=
  .next (matrixTurn s quad)

end Sys2Proof.Machine
end

