-- ==== Sys2Proof/Machine/Power.lean ====
section
/-! DEFINITION. Power, clock, temperature, reset and boot, sparing and fencing (R415 to R421; log entry 24). -/

namespace Sys2Proof.Machine

/-! ### Rails, boot and reset (R415, R419) -/

/-- Whether every rail is up. -/
def railsOk (l : List Rail) : Bool := allRails.all l.contains

/-- POWER_UP (R415): the rails of the lowest order number that is not wholly up have risen. -/
def railsUp (s : State) : State :=
  match [1, 2, 3, 4].find? fun n => allRails.any fun r => r.order = n && !s.power.rails.contains r with
  | some n => { s with power := { s.power with rails := allRails.filter fun r => s.power.rails.contains r || r.order = n } }
  | none => s

/-- POWER_DOWN (R415): the rails of the highest order number fall; nothing runs without them. -/
def railsDown (s : State) : State :=
  let top := s.power.rails.foldl (fun n r => max n r.order) 0
  { s with power := { s.power with rails := s.power.rails.filter fun r => r.order ≠ top, boot := .off } }

/-- Whether a cell of memory lies outside the package, in the host or behind the CXL expander ports, and so outlives a reset. -/
def outside (pa : Nat) : Bool := decide (0x2000000000000 ≤ pa) && decide (pa < 0x2080000000000) || decide (0x9000000000000 ≤ pa)

/-- The package after a reset: every register at its reset value, slices and LPDDR-6 zero (R419); `clk` starts again (R14). -/
def resetTo (s : State) (b : Boot) : State :=
  { State.reset with
    pkg := s.pkg, tick := s.tick, nextId := s.nextId, agenda := s.agenda
    mem := s.mem.filter fun c => outside c.1
    poison := s.poison.filter fun w => outside (8 * w)
    power := { State.reset.power with rails := s.power.rails, boot := b, hot := s.power.hot, trip := s.power.boot = .off && s.power.trip } }

/-- PACKAGE_RESET (R419): with its rails up the package boots, or stays in recovery where the HSC's image does not verify. -/
def resetPackage (s : State) (imageOk : Bool) : State :=
  if !railsOk s.power.rails then s else resetTo s (if imageOk then .up else .recovery)

/-- RECOVERY_IMAGE (R419): in recovery the HSC accepts only a signed image. -/
def recoverImage (s : State) (signed : Bool) : State :=
  if s.power.boot = .recovery && signed then resetTo s .up else s

/-! ### Clock and temperature (R386, R416 to R418) -/

/-- CLOCK_CHANGE (R416, R417): a clock on the 25 MHz grid from 0.6 to 1.1 GHz; the clock is held while a protected context lives. -/
def changeClock (s : State) (mhz : Nat) : State :=
  if protLive s || mhz < 600 || 1100 < mhz || mhz % 25 ≠ 0 then s else { s with power := { s.power with mhz := mhz } }

/-- THERMAL_105 (R418): the clock is lowered by one point of its grid toward 0.6 GHz, or event 0x006 is raised for each protected context,
which does not start again until it is cooler. -/
def at105 (s : State) (die : Nat) : State :=
  let s := { s with power := { s.power with hot := sinsert s.power.hot die } }
  if protLive s then
    s.ctxs.foldl (fun s x =>
      if x.2.desc.prot && (x.2.st = .running || x.2.st = .descheduled) && !x.2.held then
        raiseEvent (modCtx s x.1 fun y => { y with held := true }) (vfOf x.1 / 24) 6 x.1
      else s) s
  else { s with power := { s.power with mhz := max 600 (s.power.mhz - 25) } }

/-- THERMAL_110 (R418): every context is drained. -/
def at110 (s : State) (die : Nat) : State :=
  s.ctxs.foldl (fun s x => beginDrain s x.1) { s with power := { s.power with hot := sinsert s.power.hot die } }

/-- THERMAL_115 (R418): VCORE, VSRAM, VDDQ and VSER are removed at once; contents are lost, and the reset cause records the trip. -/
def at115 (s : State) (die : Nat) : State :=
  let t := resetTo s .off
  { t with power := { t.power with rails := s.power.rails.filter fun r => r = .vaon || r = .vhub, hot := sinsert s.power.hot die, trip := true } }

/-- THERMAL_CLEAR (R418): every die is below 100 °C. -/
def coolAgain (s : State) : State :=
  { s with power := { s.power with hot := [] }, ctxs := s.ctxs.map fun (x : Nat × Context) => (x.1, { x.2 with held := false }) }

/-! ### Sparing and fencing (R420, R421) -/

/-- The handles of every context that name a channel moved to another, and what a descheduled context keeps of the channel. -/
def moveHandles (s : State) (e c e' c' : Nat) : State :=
  { s with ctxs := s.ctxs.map fun (x : Nat × Context) => (x.1, { x.2 with
      saved := x.2.saved.map fun (v : Saved) =>
        { v with chans := v.chans.map fun p => if p.1 = chanKey e c then (chanKey e' c', p.2) else p }
      handles := x.2.handles.map fun (h : Nat × Handle) => if h.2 = .engine e c then (h.1, .engine e' c') else h }) }

/-- A channel that holds nothing. -/
def chanFree (s : State) (e c : Nat) : Bool :=
  (nget s.chans (chanKey e c)).isNone && !s.ctxs.any fun x => x.2.handles.any fun h => h.2 = .engine e c

/-- The channels of an engine moved to others, the first with a free channel each. -/
def moveChans (s : State) (e : Nat) (others : List Nat) : State :=
  (List.range 64).foldl (fun s c =>
    match nget s.chans (chanKey e c) with
    | none => s
    | some ch =>
      match others.findSome? fun e' => ((List.range 64).find? fun c' => chanFree s e' c').map fun c' => (e', c') with
      | none => s
      | some (e', c') => moveHandles { s with chans := nset (ndel s.chans (chanKey e c)) (chanKey e' c') ch } e c e' c') s

/-- An engine fenced (R420): it starts nothing more, and once nothing of it executes its channels move. The Bool says that it is
fenced. -/
def fenceEngine (s : State) (e : Nat) (others : List Nat) : State × Bool :=
  let en := (nget s.engines e).getD ⟨1, 63, false⟩
  let busy := (List.range 64).any fun c => (chanAt s (chanKey e c)).exec ≠ []
  let s := { s with engines := nset s.engines e { en with fenced := true } }
  let live (e' : Nat) : Bool := !((nget s.engines e').getD ⟨1, 63, false⟩).fenced && e' ≠ e
  if busy then (s, false) else (moveChans s e (others.filter live), true)

/-- Event 0x002: a fence is complete (R420). -/
def fenced (s : State) (unit : Nat) : State := raiseEvent s 0 2 unit

/-- Whether a running context's interval holds a core of a quad. -/
def quadRuns (s : State) (q : Nat) : Bool :=
  s.ctxs.any fun x => x.2.st = .running && [0, 1, 2, 3].any fun j => inIv (intervalOf s x.1) (4 * q + j)

/-- UNIT_FENCE (R102, R420, R421): a failing unit is fenced at its boundary, once; before the boundary nothing happens yet. -/
def fenceUnit (s : State) (u : SpareUnit) : State :=
  match u with
  | .quad n =>
    if (quadAt s n).fenced || quadRuns s n then s
    else fenced ([0, 1, 2, 3].foldl (fun s j => modCore s (4 * n + j) fun k => { k with fenced := true }) (modQuad s n fun q => { q with fenced := true })) n
  | .subChannel n =>
    if s.subFenced.contains n then s else fenced { s with subFenced := sinsert s.subFenced n } n
  | .service n dst =>
    if (nget s.reassign n).isSome || n = dst || n / 8 ≠ dst / 8 || 32 ≤ n || (nget s.reassign dst).isSome then s
    else fenced (reassignSvc s n dst) n
  | .copyEngine n =>
    let was := ((nget s.engines n).getD ⟨1, 63, false⟩).fenced
    let r := fenceEngine s n ((List.range 16).map (n / 16 * 16 + ·))
    if 64 ≤ n || (was && (List.range 64).all fun c => (nget s.chans (chanKey n c)).isNone) then s else if r.2 then fenced r.1 n else r.1
  | .bunting n =>
    let other := if n % 2 = 0 then n + 1 else n - 1
    let s' := { s with buntFenced := sinsert s.buntFenced n }
    if s.gwalks.any fun g => g.running && g.unit = some n then s'
    else if s.buntFenced.contains n && !(s.gwalks.any fun g => g.unit = some n) then s
    else fenced { s' with gwalks := s'.gwalks.map fun (g : GWalk) => if g.unit = some n then { g with unit := some other } else g } n
  | .port p =>
    let e := 100 + p.val
    let was := ((nget s.engines e).getD ⟨1, 63, false⟩).fenced
    let r := fenceEngine s e ((List.range 6).map (100 + p.val / 6 * 6 + ·))
    if was && (List.range 64).all fun c => (nget s.chans (chanKey e c)).isNone then s
    else if !r.2 then r.1
    else
      let s := (r.1.qps.filter fun q => q.2.rec0.port = p).foldl (fun s q => qpError s q.1 none) r.1
      fenced s (100 + p.val)

/-- POWER_UP (R415). -/
def execPowerUp (s : State) : Host.Outcome State Fault Refusal := .next (railsUp s)

/-- POWER_DOWN (R415). -/
def execPowerDown (s : State) : Host.Outcome State Fault Refusal := .next (railsDown s)

/-- PACKAGE_RESET (R419). -/
def execPackageReset (imageOk : Bool) (s : State) : Host.Outcome State Fault Refusal := .next (resetPackage s imageOk)

/-- RECOVERY_IMAGE (R419). -/
def execRecoveryImage (signed : Bool) (s : State) : Host.Outcome State Fault Refusal := .next (recoverImage s signed)

/-- CLOCK_CHANGE (R416). -/
def execClockChange (mhz : Nat) (s : State) : Host.Outcome State Fault Refusal := .next (changeClock s mhz)

/-- THERMAL_105 (R418). -/
def execThermal105 (die : Fin 6) (s : State) : Host.Outcome State Fault Refusal := .next (at105 s die.val)

/-- THERMAL_110 (R418). -/
def execThermal110 (die : Fin 6) (s : State) : Host.Outcome State Fault Refusal := .next (at110 s die.val)

/-- THERMAL_115 (R418). -/
def execThermal115 (die : Fin 6) (s : State) : Host.Outcome State Fault Refusal := .next (at115 s die.val)

/-- THERMAL_CLEAR (R418). -/
def execThermalClear (s : State) : Host.Outcome State Fault Refusal := .next (coolAgain s)

/-- CXL_PORT_ERROR (R395). -/
def execCxlPortError (port : Fin 4) (s : State) : Host.Outcome State Fault Refusal := .next (raiseEvent s 0 4 port.val)

/-- UNIT_FENCE (R420). -/
def execUnitFence (u : SpareUnit) (s : State) : Host.Outcome State Fault Refusal := .next (fenceUnit s u)

end Sys2Proof.Machine
end

