-- ==== Sys2Proof/Machine/ScalarFp.lean ====
section
/-! DEFINITION. Scalar floating point and FCVT (R42 to R49). -/

namespace Sys2Proof.Machine

/-- An FP operand: the low bits of a register (R42). -/
def fpIn (f : FSz) (x : Word) : Nat := x.toNat % 2 ^ Num.fszW f

/-- An FP literal (R22, R44). -/
def fpLit (f : FSz) (imm : BitVec 32) : Nat := fpIn f (Alu.sx imm)

/-- A rounded result written, its flags ORed into FPST (R43, R45). -/
def fpOut (d : Dst) (r : Nat × Num.Flags) : M Flow := do
  writeDst d (word r.1)
  orFlags r.2
  return .next

/-- An FP operation of two sources. -/
def fpBin (f : FSz) (d : Dst) (a b : Src) (op : Nat → Nat → Nat × Num.Flags) : M Flow := do
  let (x, y) ← read2 a b
  fpOut d (op (fpIn f x) (fpIn f y))

/-- An FP operation of one source, or of one source and a literal. -/
def fpUn (f : FSz) (d : Dst) (a : Src) (op : Nat → Nat × Num.Flags) : M Flow := do
  let x ← read1 a
  fpOut d (op (fpIn f x))

/-- An ordered comparison as a value (R46). -/
def fpCmpOut (f : FSz) (op a b : Nat) : Nat × Num.Flags :=
  let r := Num.fpCmp (Num.fszSpec f) op a b
  (if r.1 then 1 else 0, r.2)

/-- A conversion (R48): the value written, sign-extended for a signed integer, with its flags. A stochastic rounding advances SRST
once. -/
def convert (d : Dst) (a : Src) (di si : BitVec 2) (sat : Bool) (rm : Rm) (sf df : BitVec 5) : M Flow := do
  let srcFmt : Num.Fmt := if si = 1 then .i64 else if si = 2 then .u64 else (Num.fmtOfCode sf.toNat).getD .fp32
  let dstFmt : Num.Fmt := if di = 1 then .i64 else if di = 2 then .u64 else (Num.fmtOfCode df.toNat).getD .fp32
  let k := coreOf (← get) (← myCore)
  match dstFmt with
  | .dt t => raiseIf ((k.dt.get t).status ≠ 0) .illField
  | _ => pure ()
  let x ← read1 a
  let sr := Num.srAdvance k.srst
  if rm = .sr then modMyCore fun k => { k with srst := sr }
  let r := Num.encodeFmt k.dt dstFmt rm sat (Num.srTop sr) (Num.decodeFmt k.dt srcFmt x.toNat)
  writeDst d r.1
  orFlags r.2
  return .next

/-- FADD (R45). -/
def execFaddReg (f : FSz) (d : Dst) (a b : Src) (rm : Rm) (s : State) : Host.Outcome State Fault Refusal :=
  issueW (eFp 0 f d a.code b.code 0 rm.code) (fpBin f d a b (Num.fpAdd (Num.fszSpec f) rm 0)) s

/-- FADD with a literal, rounded to nearest even (R45). -/
def execFaddLit (f : FSz) (d : Dst) (a : Src) (imm : BitVec 32) (s : State) : Host.Outcome State Fault Refusal :=
  issueW (eFpL 0 f d a 0 imm) (fpUn f d a fun x => Num.fpAdd (Num.fszSpec f) .rne 0 x (fpLit f imm)) s

/-- FSUB (R45). -/
def execFsubReg (f : FSz) (d : Dst) (a b : Src) (rm : Rm) (s : State) : Host.Outcome State Fault Refusal :=
  issueW (eFp 1 f d a.code b.code 0 rm.code) (fpBin f d a b (Num.fpSub (Num.fszSpec f) rm 0)) s

/-- FSUB with a literal, rounded to nearest even (R45). -/
def execFsubLit (f : FSz) (d : Dst) (a : Src) (imm : BitVec 32) (s : State) : Host.Outcome State Fault Refusal :=
  issueW (eFpL 1 f d a 0 imm) (fpUn f d a fun x => Num.fpSub (Num.fszSpec f) .rne 0 x (fpLit f imm)) s

/-- FMUL (R45). -/
def execFmulReg (f : FSz) (d : Dst) (a b : Src) (rm : Rm) (s : State) : Host.Outcome State Fault Refusal :=
  issueW (eFp 2 f d a.code b.code 0 rm.code) (fpBin f d a b (Num.fpMul (Num.fszSpec f) rm 0)) s

/-- FMUL with a literal, rounded to nearest even (R45). -/
def execFmulLit (f : FSz) (d : Dst) (a : Src) (imm : BitVec 32) (s : State) : Host.Outcome State Fault Refusal :=
  issueW (eFpL 2 f d a 0 imm) (fpUn f d a fun x => Num.fpMul (Num.fszSpec f) .rne 0 x (fpLit f imm)) s

/-- FDIV (R45). -/
def execFdivReg (f : FSz) (d : Dst) (a b : Src) (rm : Rm) (s : State) : Host.Outcome State Fault Refusal :=
  issueW (eFp 3 f d a.code b.code 0 rm.code) (fpBin f d a b (Num.fpDiv (Num.fszSpec f) rm)) s

/-- FDIV with a literal (R45). -/
def execFdivLit (f : FSz) (d : Dst) (a : Src) (imm : BitVec 32) (s : State) : Host.Outcome State Fault Refusal :=
  issueW (eFpL 3 f d a 0 imm) (fpUn f d a fun x => Num.fpDiv (Num.fszSpec f) .rne x (fpLit f imm)) s

/-- FSQRT (R45). -/
def execFsqrt (f : FSz) (d : Dst) (a : Src) (rm : Rm) (s : State) : Host.Outcome State Fault Refusal :=
  issueW (eFp 4 f d a.code 0 0 rm.code) (fpUn f d a (Num.fpSqrt (Num.fszSpec f) rm)) s

/-- FMA, rounded once (R45). -/
def execFmaReg (f : FSz) (d : Dst) (a b c : Src) (rm : Rm) (s : State) : Host.Outcome State Fault Refusal :=
  issueW (eFp 5 f d a.code b.code c.code rm.code) (do
    let (x, y, z) ← read3 a b c
    fpOut d (Num.fpFma (Num.fszSpec f) rm 0 (fpIn f x) (fpIn f y) (fpIn f z))) s

/-- FMA with a literal factor (R45). -/
def execFmaLit (f : FSz) (d : Dst) (a : Src) (imm : BitVec 32) (c : Src) (s : State) : Host.Outcome State Fault Refusal :=
  issueW (eFpL 5 f d a c.code imm) (fpBin f d a c fun x z => Num.fpFma (Num.fszSpec f) .rne 0 x (fpLit f imm) z) s

/-- FMIN (R46). -/
def execFminReg (f : FSz) (d : Dst) (a b : Src) (s : State) : Host.Outcome State Fault Refusal :=
  issueW (eFp 6 f d a.code b.code 0 0) (fpBin f d a b (Num.fpMinMax (Num.fszSpec f) false)) s

/-- FMIN with a literal (R46). -/
def execFminLit (f : FSz) (d : Dst) (a : Src) (imm : BitVec 32) (s : State) : Host.Outcome State Fault Refusal :=
  issueW (eFpL 6 f d a 0 imm) (fpUn f d a fun x => Num.fpMinMax (Num.fszSpec f) false x (fpLit f imm)) s

/-- FMAX (R46). -/
def execFmaxReg (f : FSz) (d : Dst) (a b : Src) (s : State) : Host.Outcome State Fault Refusal :=
  issueW (eFp 7 f d a.code b.code 0 0) (fpBin f d a b (Num.fpMinMax (Num.fszSpec f) true)) s

/-- FMAX with a literal (R46). -/
def execFmaxLit (f : FSz) (d : Dst) (a : Src) (imm : BitVec 32) (s : State) : Host.Outcome State Fault Refusal :=
  issueW (eFpL 7 f d a 0 imm) (fpUn f d a fun x => Num.fpMinMax (Num.fszSpec f) true x (fpLit f imm)) s

/-- FSGNJ (R46): no flags. -/
def execFsgnjReg (f : FSz) (d : Dst) (a b : Src) (sgn : BitVec 2) (s : State) : Host.Outcome State Fault Refusal :=
  issueW (eFp 8 f d a.code b.code 0 (sgn.toNat * 4)) (fpBin f d a b fun x y => (Num.fpSgnj (Num.fszSpec f) sgn.toNat x y, 0)) s

/-- FSGNJ with a literal (R46). -/
def execFsgnjLit (f : FSz) (d : Dst) (a : Src) (imm : BitVec 32) (sgn : BitVec 2) (s : State) : Host.Outcome State Fault Refusal :=
  issueW (eFpL 8 f d a sgn.toNat imm) (fpUn f d a fun x => (Num.fpSgnj (Num.fszSpec f) sgn.toNat x (fpLit f imm), 0)) s

/-- FEQ (R46). -/
def execFeqReg (f : FSz) (d : Dst) (a b : Src) (s : State) : Host.Outcome State Fault Refusal :=
  issueW (eFp 9 f d a.code b.code 0 0) (fpBin f d a b (fpCmpOut f 0)) s

/-- FEQ with a literal (R46). -/
def execFeqLit (f : FSz) (d : Dst) (a : Src) (imm : BitVec 32) (s : State) : Host.Outcome State Fault Refusal :=
  issueW (eFpL 9 f d a 0 imm) (fpUn f d a fun x => fpCmpOut f 0 x (fpLit f imm)) s

/-- FLT (R46). -/
def execFltReg (f : FSz) (d : Dst) (a b : Src) (s : State) : Host.Outcome State Fault Refusal :=
  issueW (eFp 10 f d a.code b.code 0 0) (fpBin f d a b (fpCmpOut f 1)) s

/-- FLT with a literal (R46). -/
def execFltLit (f : FSz) (d : Dst) (a : Src) (imm : BitVec 32) (s : State) : Host.Outcome State Fault Refusal :=
  issueW (eFpL 10 f d a 0 imm) (fpUn f d a fun x => fpCmpOut f 1 x (fpLit f imm)) s

/-- FLE (R46). -/
def execFleReg (f : FSz) (d : Dst) (a b : Src) (s : State) : Host.Outcome State Fault Refusal :=
  issueW (eFp 11 f d a.code b.code 0 0) (fpBin f d a b (fpCmpOut f 2)) s

/-- FLE with a literal (R46). -/
def execFleLit (f : FSz) (d : Dst) (a : Src) (imm : BitVec 32) (s : State) : Host.Outcome State Fault Refusal :=
  issueW (eFpL 11 f d a 0 imm) (fpUn f d a fun x => fpCmpOut f 2 x (fpLit f imm)) s

/-- FCLASS (R46). -/
def execFclass (f : FSz) (d : Dst) (a : Src) (s : State) : Host.Outcome State Fault Refusal :=
  issueW (eFp 12 f d a.code 0 0 0) (fpUn f d a fun x => (Num.fpClass (Num.fszSpec f) x, 0)) s

/-- FCVT (R47, R48, R49). -/
def execFcvt (d : Dst) (a : Src) (di si : BitVec 2) (sat : Bool) (rm : Rm) (sf df : BitVec 5) (s : State) : Host.Outcome State Fault Refusal :=
  issueW (packR 0x12 0 d.code a.code 0 0 0 (di.toNat * 2 ^ 18 + si.toNat * 2 ^ 16 + sat.toNat * 2 ^ 15 + rm.code * 2 ^ 13 + sf.toNat * 2 ^ 5 + df.toNat)) (convert d a di si sat rm sf df) s

end Sys2Proof.Machine
end

