-- ==== Sys2Proof/Machine/Streams.lean ====
section
/-! DEFINITION. Stream bindings and the units that fill and drain them (R160 to R165). -/

namespace Sys2Proof.Machine

/-- A binding set up (R161): one with no elements has ended at once. -/
def bindStream (drain : Bool) (sz : Sz) (spc sx : Bool) (base : Word) (n0 n1 n2 : Nat) (s0 s1 s2 : Int) (born : Nat) : Option Stream :=
  let n1 := max n1 1
  let n2 := max n2 1
  let t := n0 * n1 * n2
  if t = 0 then none else some ⟨drain, sz, spc, sx, base, n0, n1, n2, s0, s1, s2, 0, t, [], none, born⟩

/-- A binding ended as by SCTL END (R165): what a drain was given is still written; the elements of one that a fault has stopped are
discarded with a record, as at the end of the task (R163). -/
def endStream (r : Fin 4) : M Unit := do
  let c ← myCore
  let sl ← mySlot
  let i ← myIdx
  match sl.d.get r with
  | some st =>
    if st.drain && st.q ≠ [] then
      match st.fault with
      | none => modMyCore fun k => { k with orphans := k.orphans ++ [(i, sl, r.val, st)] }
      | some t => modify fun s => errRec s sl.ctx t.code t.info c i
    modMy fun sl => sl.setD r none
  | none => pure ()

/-- SCFG (R161). -/
def configStream (drain : Bool) (sz : Sz) (spc sx : Bool) (r : Fin 4) (base : Word) (n0 n1 n2 : Nat) (s0 s1 s2 : Int) : M Flow := do
  let e : Int := Alu.szB sz
  raiseIf (base.toNat % e ≠ 0 || s0 % e ≠ 0 || s1 % e ≠ 0 || s2 % e ≠ 0) .align base
  endStream r
  if !drain then inOrder
  let s ← get
  modMy fun sl => sl.setD r (bindStream drain sz spc sx base n0 n1 n2 s0 s1 s2 s.nextId)
  return .next

/-- The register form: the pattern from four registers (R161). -/
def configReg (drain : Bool) (sz : Sz) (spc sx : Bool) (r : Fin 4) (a : GReg) : M Flow := do
  let p ← readRun a.val 4
  let w (j : Nat) : Word := p.getD j 0
  let half (x : Word) (k : Nat) : Int := (BitVec.ofNat 32 (x.toNat / 2 ^ k)).toInt
  raiseIf (decide (2 ^ 32 ≤ (w 3).toNat)) .illField
  configStream drain sz spc sx r (w 0) ((w 1).toNat % 2 ^ 32) ((w 1).toNat / 2 ^ 32 % 65536) ((w 1).toNat / 2 ^ 48)
    (half (w 2) 0) (half (w 2) 32) (half (w 3) 0)

/-- The literal form: one dimension, packed (R161). -/
def configLit (drain : Bool) (sz : Sz) (spc sx : Bool) (r : Fin 4) (a : GReg) (n0 : BitVec 32) : M Flow := do
  let base ← readG a
  configStream drain sz spc sx r base n0.toNat 1 1 (Alu.szB sz) 0 0

/-- SCTL FLUSH (R163, R165). -/
def flushStream (r : Fin 4) : M Flow := do
  let c ← myCore
  let i ← myIdx
  match (← mySlot).d.get r with
  | some st =>
    if !st.drain then return .next
    else match st.fault with
      | some t => fun _ => .error (.trap t fun s => modSlot s c i fun sl => sl.setD r (some { st with fault := none }))
      | none => if st.q ≠ [] then waitOn (.dFlush r) else return .next
  | none => return .next

/-- The word of SSTAT (R165). -/
def streamStatus : Option Stream → Word
  | none => 0
  | some st =>
    let flt : Bool := st.fault.isSome || st.q.any fun x => x.fault.isSome
    word (2 ^ 63 + (if st.drain then 2 ^ 62 else 0) + (if flt then 2 ^ 61 else 0) + min st.left (2 ^ 32 - 1) * 65536 + st.q.length)

/-! ### What the transfer units do -/

/-- What came of an access that a unit makes on behalf of a slot. -/
inductive Att (α : Type) where
  | done (a : α) (s : State)
  | trap (t : Trap) (s : State)
  | wait (s : State)

/-- A computation made as if a slot of a core issued it, the machine's own turn kept. -/
def attempt {α : Type} (s : State) (c i : Nat) (m : M α) : Att α :=
  let act := (coreOf s c).act
  let s0 : State := { modCore s c fun k => { k with act := some i } with cur := c }
  let back (t : State) : State := { modCore t c fun k => { k with act := act } with cur := s.cur }
  match m s0 with
  | .ok (a, t) => .done a (back t)
  | .error (.trap t upd) => .trap t (back (upd s0))
  | .error (.wait _ upd) => .wait (back (upd s0))

/-- A fill element read at its owner (R69, R162, R164): after every access of the task that came before the SCFG, and not forwarded from
the store buffer after it. -/
def readElement (st : Stream) : M Word := do
  let s ← get
  let c := s.cur
  let i := actOf s c
  let n := Alu.szB st.sz
  if (coreOf s c).sb.any (fun e => e.slot = i && decide (e.id < st.born)) then waitOn .fence
  let gs ← resolve st.spc (st.addr st.moved) n accLoad
  match gs with
  | [] => return 0
  | g :: _ => do
    let s ← get
    if (coreOf s c).sb.any (fun e => e.touches g.pa n && decide (e.id < st.born)) then waitOn .fence
    match ownerOf s.hdm g.pa with
    | .counter o j =>
      if g.mt ≠ .io || n ≠ 4 then raiseAt .xlPerm g.va
      else return extend n st.sx (counterAt s o j).toNat
    | .slice o _ => do
      if o ≠ c && !sliceIdle s g.pa n then waitOn .fence
      readNow s g n
    | _ => readNow s g n
where
  readNow (s : State) (g : Seg) (n : Nat) : M Word := do
    let s' := eccTouch s g.pa n
    if anyPoison s' g.pa n then poisonAt g.va g.pa n
    set s'
    return extend n st.sx (rdNat s' g.pa n)

/-- FILL_READ (R162, R163): a fill unit reads the next element, at most eight ahead; a fault is held with its element. -/
def execFillRead (rank : Nat) (slot : Fin 5) (strm : Fin 4) (s : State) : Host.Outcome State Fault Refusal :=
  match (slotAt s rank slot.val).d.get strm with
  | none => .next s
  | some st =>
    if st.drain || st.total ≤ st.moved || 8 ≤ st.q.length || st.q.any (fun x => x.fault.isSome) then .next s
    else
      let put (s : State) (x : SElem) : State := modSlot s rank slot.val fun sl =>
        sl.setD strm (some { st with q := st.q ++ [x], moved := st.moved + 1 })
      match attempt s rank slot.val (readElement st) with
      | .done v s' => .next (put s' ⟨v, none, 0⟩)
      | .trap t s' => .next (put s' ⟨0, some t, 0⟩)
      | .wait s' => .next s'

/-- A drained element stored (R162): it enters the store buffer in its task's push order (R164). -/
def writeElement (st : Stream) (v : Word) : M Unit := do
  let gs ← resolve st.spc (st.addr (st.total - st.left)) (Alu.szB st.sz) accStore
  match gs with
  | [] => pure ()
  | g :: _ => storeSeg g v false

/-- The tick at which the oldest element that a drain still holds was pushed. -/
def Stream.oldest (st : Stream) : Option Nat :=
  if st.drain && st.fault.isNone then st.q.head?.map (·.seq) else none

/-- Whether a drained element pushed at a tick is the oldest of its task: no stream of the slot and no ended binding of the task holds an
older one (R164). -/
def drainTurn (k : Core) (i task seq : Nat) : Bool :=
  !((slotOf k i).task = task && (slotOf k i).d.toList.any fun o => match o.bind Stream.oldest with | some q => decide (q < seq) | none => false) &&
    !k.orphans.any fun o => o.1 = i && o.2.1.task = task && (match o.2.2.2.oldest with | some q => decide (q < seq) | none => false)

/-- A drain binding with its first element written. -/
def Stream.written (st : Stream) (rest : List SElem) : Option Stream :=
  if st.left ≤ 1 then none else some { st with q := rest, left := st.left - 1 }

/-- The oldest drain that an ended task or an ended binding left behind, for a slot and stream (R55, R165). -/
def execOrphan (s : State) (c i r : Nat) : State :=
  match (coreOf s c).orphans.find? fun o => o.1 = i && o.2.2.1 = r with
  | none => s
  | some (_, sl, _, st) =>
    let rest (n : Option Stream) (s : State) : State := modCore s c fun k =>
      { k with orphans := k.orphans.flatMap fun o => if o.1 = i && o.2.2.1 = r && o.2.2.2 == st then
          (match n with | some x => if x.q = [] then [] else [(i, sl, r, x)] | none => []) else [o] }
    match st.q with
    | [] => rest none s
    | x :: q =>
      if !drainTurn (coreOf s c) i sl.task x.seq then s
      else
        let now := slotAt s c i
        let back (t : State) : State := modSlot t c i fun _ => now
        match attempt (modSlot s c i fun _ => sl) c i (writeElement st x.val) with
        | .done _ s' => rest (st.written q) (back s')
        | .trap t s' => errRec (rest none (back s')) sl.ctx t.code t.info c i
        | .wait s' => back s'

/-- DRAIN_WRITE (R162, R163): a drain unit writes the oldest element pushed; a fault stops it. -/
def execDrainWrite (rank : Nat) (slot : Fin 5) (strm : Fin 4) (s : State) : Host.Outcome State Fault Refusal :=
  if (coreOf s rank).orphans.any fun o => o.1 = slot.val && o.2.2.1 = strm.val then .next (execOrphan s rank slot.val strm.val)
  else
    match (slotAt s rank slot.val).d.get strm with
    | none => .next s
    | some st =>
      match st.drain, st.fault, st.q with
      | true, none, x :: rest =>
        let put (s : State) (n : Option Stream) : State := modSlot s rank slot.val fun sl => sl.setD strm n
        if !drainTurn (coreOf s rank) slot.val (slotAt s rank slot.val).task x.seq then .next s
        else (match attempt s rank slot.val (writeElement st x.val) with
          | .done _ s' => .next (put s' (st.written rest))
          | .trap t s' => .next (put s' (some { st with fault := some t }))
          | .wait s' => .next s')
      | _, _, _ => .next s

/-- SCFG, fill, from four registers (R160, R161). -/
def execScfgFillReg (sz : Sz) (a : GReg) (spc sx : Bool) (strm : Fin 4) (s : State) : Host.Outcome State Fault Refusal :=
  issueW (packR 0x40 0 0 a.val 0 sz.code 0 (spc.toNat * 2 ^ 25 + sx.toNat * 2 ^ 19 + strm.val)) (configReg false sz spc sx strm a) s

/-- SCFG, fill, one dimension (R160, R161). -/
def execScfgFillLit (sz : Sz) (a : GReg) (spc sx : Bool) (strm : Fin 4) (n0 : BitVec 32) (s : State) : Host.Outcome State Fault Refusal :=
  issueW (packL 0x41 0 0 a.val (spc.toNat * 32 + sx.toNat * 4 + strm.val) sz.code n0.toNat) (configLit false sz spc sx strm a n0) s

/-- SCFG, drain, from four registers (R160, R161). -/
def execScfgDrainReg (sz : Sz) (a : GReg) (spc : Bool) (strm : Fin 4) (s : State) : Host.Outcome State Fault Refusal :=
  issueW (packR 0x40 1 0 a.val 0 sz.code 0 (spc.toNat * 2 ^ 25 + strm.val)) (configReg true sz spc false strm a) s

/-- SCFG, drain, one dimension (R160, R161). -/
def execScfgDrainLit (sz : Sz) (a : GReg) (spc : Bool) (strm : Fin 4) (n0 : BitVec 32) (s : State) : Host.Outcome State Fault Refusal :=
  issueW (packL 0x41 1 0 a.val (spc.toNat * 32 + strm.val) sz.code n0.toNat) (configLit true sz spc false strm a n0) s

/-- SCTL END (R165). -/
def execSctlEnd (strm : Fin 4) (s : State) : Host.Outcome State Fault Refusal :=
  issueW (packR 0x42 0 0 0 0 0 0 strm.val) (do
    endStream strm
    return .next) s

/-- SCTL FLUSH (R165). -/
def execSctlFlush (strm : Fin 4) (s : State) : Host.Outcome State Fault Refusal :=
  issueW (packR 0x42 1 0 0 0 0 0 strm.val) (flushStream strm) s

/-- SSTAT (R165). -/
def execSstat (d : GZ) (strm : Fin 4) (s : State) : Host.Outcome State Fault Refusal :=
  issueW (packR 0x44 0 d.code 0 0 0 0 strm.val) (do
    writeGZ d (streamStatus ((← mySlot).d.get strm))
    return .next) s

end Sys2Proof.Machine
end

