-- ==== Sys2Proof/Machine/WideFp.lean ====
section
/-! DEFINITION. Wide floating point, comparisons, conversions, reductions, permutes and masks (R171 to R182). -/

namespace Sys2Proof.Machine

/-- WFADD (R171). -/
def execWfaddReg (et : Et) (wd wa : WReg) (b : WOpnd) (k : KReg) (kz : Bool) (rm : Rm) (s : State) : Host.Outcome State Fault Refusal :=
  issueW (eW 0x82 0 et wd wa b k kz rm.code) (wideFpReg 0 et wd wa b k kz rm) s

/-- WFADD with a literal (R171). -/
def execWfaddLit (et : Et) (wd wa : WReg) (imm : BitVec 32) (k : KReg) (kz : Bool) (s : State) : Host.Outcome State Fault Refusal :=
  issueW (eWL 0x83 0 et wd wa imm k kz) (wideFpLit 0 et wd wa imm k kz) s

/-- WFSUB (R171). -/
def execWfsubReg (et : Et) (wd wa : WReg) (b : WOpnd) (k : KReg) (kz : Bool) (rm : Rm) (s : State) : Host.Outcome State Fault Refusal :=
  issueW (eW 0x82 1 et wd wa b k kz rm.code) (wideFpReg 1 et wd wa b k kz rm) s

/-- WFSUB with a literal (R171). -/
def execWfsubLit (et : Et) (wd wa : WReg) (imm : BitVec 32) (k : KReg) (kz : Bool) (s : State) : Host.Outcome State Fault Refusal :=
  issueW (eWL 0x83 1 et wd wa imm k kz) (wideFpLit 1 et wd wa imm k kz) s

/-- WFMUL (R171). -/
def execWfmulReg (et : Et) (wd wa : WReg) (b : WOpnd) (k : KReg) (kz : Bool) (rm : Rm) (s : State) : Host.Outcome State Fault Refusal :=
  issueW (eW 0x82 2 et wd wa b k kz rm.code) (wideFpReg 2 et wd wa b k kz rm) s

/-- WFMUL with a literal (R171). -/
def execWfmulLit (et : Et) (wd wa : WReg) (imm : BitVec 32) (k : KReg) (kz : Bool) (s : State) : Host.Outcome State Fault Refusal :=
  issueW (eWL 0x83 2 et wd wa imm k kz) (wideFpLit 2 et wd wa imm k kz) s

/-- WFMA (R171). -/
def execWfmaReg (et : Et) (wd wa : WReg) (b : WOpnd) (k : KReg) (kz : Bool) (rm : Rm) (s : State) : Host.Outcome State Fault Refusal :=
  issueW (eW 0x82 3 et wd wa b k kz rm.code) (wideFpReg 3 et wd wa b k kz rm) s

/-- WFMA with a literal (R171). -/
def execWfmaLit (et : Et) (wd wa : WReg) (imm : BitVec 32) (k : KReg) (kz : Bool) (s : State) : Host.Outcome State Fault Refusal :=
  issueW (eWL 0x83 3 et wd wa imm k kz) (wideFpLit 3 et wd wa imm k kz) s

/-- WFMIN (R171). -/
def execWfminReg (et : Et) (wd wa : WReg) (b : WOpnd) (k : KReg) (kz : Bool) (rm : Rm) (s : State) : Host.Outcome State Fault Refusal :=
  issueW (eW 0x82 4 et wd wa b k kz rm.code) (wideFpReg 4 et wd wa b k kz rm) s

/-- WFMIN with a literal (R171). -/
def execWfminLit (et : Et) (wd wa : WReg) (imm : BitVec 32) (k : KReg) (kz : Bool) (s : State) : Host.Outcome State Fault Refusal :=
  issueW (eWL 0x83 4 et wd wa imm k kz) (wideFpLit 4 et wd wa imm k kz) s

/-- WFMAX (R171). -/
def execWfmaxReg (et : Et) (wd wa : WReg) (b : WOpnd) (k : KReg) (kz : Bool) (rm : Rm) (s : State) : Host.Outcome State Fault Refusal :=
  issueW (eW 0x82 5 et wd wa b k kz rm.code) (wideFpReg 5 et wd wa b k kz rm) s

/-- WFMAX with a literal (R171). -/
def execWfmaxLit (et : Et) (wd wa : WReg) (imm : BitVec 32) (k : KReg) (kz : Bool) (s : State) : Host.Outcome State Fault Refusal :=
  issueW (eWL 0x83 5 et wd wa imm k kz) (wideFpLit 5 et wd wa imm k kz) s

/-- WFABS (R171). -/
def execWfabs (et : Et) (wd wa : WReg) (k : KReg) (kz : Bool) (rm : Rm) (s : State) : Host.Outcome State Fault Refusal :=
  issueW (packW 0x82 6 wd.val wa.val 0 k.val kz et.code 0 0 rm.code) (wideFpUn 6 et wd wa k kz rm) s

/-- WEXP2 (R171). -/
def execWexp2 (et : Et) (wd wa : WReg) (k : KReg) (kz : Bool) (rm : Rm) (s : State) : Host.Outcome State Fault Refusal :=
  issueW (packW 0x82 7 wd.val wa.val 0 k.val kz et.code 0 0 rm.code) (wideFpUn 7 et wd wa k kz rm) s

/-- WRCP (R171). -/
def execWrcp (et : Et) (wd wa : WReg) (k : KReg) (kz : Bool) (rm : Rm) (s : State) : Host.Outcome State Fault Refusal :=
  issueW (packW 0x82 8 wd.val wa.val 0 k.val kz et.code 0 0 rm.code) (wideFpUn 8 et wd wa k kz rm) s

/-- WRSQ (R171). -/
def execWrsq (et : Et) (wd wa : WReg) (k : KReg) (kz : Bool) (rm : Rm) (s : State) : Host.Outcome State Fault Refusal :=
  issueW (packW 0x82 9 wd.val wa.val 0 k.val kz et.code 0 0 rm.code) (wideFpUn 9 et wd wa k kz rm) s

/-- WLOG2 (R171). -/
def execWlog2 (et : Et) (wd wa : WReg) (k : KReg) (kz : Bool) (rm : Rm) (s : State) : Host.Outcome State Fault Refusal :=
  issueW (packW 0x82 10 wd.val wa.val 0 k.val kz et.code 0 0 rm.code) (wideFpUn 10 et wd wa k kz rm) s

/-- WCMP (R172). -/
def execWcmp (et : Et) (kd : KReg) (wa : WReg) (b : WOpnd) (k : KReg) (kz : Bool) (cond : BitVec 4) (any : Bool) (s : State) : Host.Outcome State Fault Refusal :=
  issueW (packW 0x84 0 kd.val wa.val b.wb k.val kz et.code b.s b.gf (any.toNat * 16 + cond.toNat)) (wideCmp et kd wa b k kz cond any) s

/-- WSEL (R173). -/
def execWsel (et : Et) (wd wa : WReg) (b : WOpnd) (k : KReg) (s : State) : Host.Outcome State Fault Refusal :=
  issueW (eW 0x86 0 et wd wa b k false 0) (wideSel et wd wa b k) s

/-- WCVT (R174, R175). -/
def execWcvt (wd wa : WReg) (dt : Option (Fin 4)) (sf : BitVec 5) (part : BitVec 3) (sat : Bool) (rm : Rm) (df : BitVec 5) (s : State) : Host.Outcome State Fault Refusal :=
  issueW (packW 0x88 0 wd.val wa.val 0 0 false (if dt.isSome then 6 else 0) 0 0 ((match dt with | some t => t.val | none => 0) * 2 ^ 24 + sf.toNat * 2 ^ 16 + part.toNat * 2 ^ 10 + sat.toNat * 2 ^ 8 + rm.code * 2 ^ 6 + df.toNat)) (wideCvt wd wa dt sf part sat rm df) s

/-- WRED (R176, R177). -/
def execWred (et : Et) (ed : EReg) (wa : WReg) (k : KReg) (op : BitVec 3) (u : Bool) (s : State) : Host.Outcome State Fault Refusal :=
  issueW (packW 0x8A 0 0 wa.val 0 k.val false et.code 0 (24 + ed.val) (u.toNat * 8 + op.toNat)) (wideRed et ed wa k op u) s

/-- WSCAN (R176, R178). -/
def execWscan (et : Et) (wd wa : WReg) (k : KReg) (kz : Bool) (op : BitVec 3) (excl : Bool) (s : State) : Host.Outcome State Fault Refusal :=
  issueW (packW 0x8C 0 wd.val wa.val 0 k.val kz et.code 0 0 (excl.toNat * 16 + op.toNat)) (wideScan et wd wa k kz op excl) s

/-- WPERM (R179). -/
def execWperm (et : Et) (wd wa wb : WReg) (k : KReg) (kz : Bool) (s : State) : Host.Outcome State Fault Refusal :=
  issueW (packW 0x8E 0 wd.val wa.val wb.val k.val kz et.code 0 0 0) (widePerm et wd wa wb k kz) s

/-- WSLIDE (R179). -/
def execWslide (et : Et) (wd wa wb : WReg) (g : Src) (k : KReg) (kz : Bool) (s : State) : Host.Outcome State Fault Refusal :=
  issueW (packW 0x8E 1 wd.val wa.val wb.val k.val kz et.code 1 g.code 0) (wideSlide et wd wa wb g k kz) s

/-- WBCAST (R179). -/
def execWbcast (et : Et) (wd wa : WReg) (g : Src) (k : KReg) (kz : Bool) (s : State) : Host.Outcome State Fault Refusal :=
  issueW (packW 0x8E 2 wd.val wa.val 0 k.val kz et.code 1 g.code 0) (wideBcast et wd wa g k kz) s

/-- WZIP (R179). -/
def execWzip (et : Et) (wd wa wb : WReg) (k : KReg) (kz : Bool) (hi : Bool) (s : State) : Host.Outcome State Fault Refusal :=
  issueW (packW 0x8E 3 wd.val wa.val wb.val k.val kz et.code 0 0 hi.toNat) (wideZip et wd wa wb k kz hi) s

/-- WMOVS, insert (R180). -/
def execWmovsInsert (et : Et) (wd : WReg) (g : Src) (k : KReg) (kz : Bool) (s : State) : Host.Outcome State Fault Refusal :=
  issueW (packW 0x90 0 wd.val 0 0 k.val kz et.code 1 g.code 0) (wideInsert et wd g k kz) s

/-- WMOVS, extract (R180). -/
def execWmovsExtract (et : Et) (ed : EReg) (wa : WReg) (lane : BitVec 8) (sx : Bool) (s : State) : Host.Outcome State Fault Refusal :=
  issueW (packW 0x90 0 0 wa.val 0 0 false et.code 0 (24 + ed.val) (sx.toNat * 2 ^ 16 + lane.toNat * 2 ^ 8 + 1)) (wideExtract et ed wa lane sx) s

/-- WIDX (R181). -/
def execWidx (et : Et) (wd : WReg) (g : Option Src) (k : KReg) (kz : Bool) (step : BitVec 16) (s : State) : Host.Outcome State Fault Refusal :=
  issueW (packW 0x92 0 wd.val 0 0 k.val kz et.code g.isSome.toNat (match g with | some x => x.code | none => 0) step.toNat) (wideIdx et wd g k kz step) s

/-- KOP (R182). -/
def execKop (op : KOp) (s : State) : Host.Outcome State Fault Refusal :=
  issueW (kopWord op) (maskOp op) s

end Sys2Proof.Machine
end

