-- ==== Sys2Proof/Machine/Dispatch.lean ====
section
/-! DEFINITION. The instruction set's meanings, one arm per row of the opcode table. -/

namespace Sys2Proof.Machine

/-- What an instruction does: each row of the opcode table by its own meaning. -/
def exec (i : Instr) (s : State) : Host.Outcome State Fault Refusal :=
  match i with
  | .illegalWord c w => Sys2Proof.Machine.execIllegalWord c w s
  | .addReg sz d a b => Sys2Proof.Machine.execAddReg sz d a b s
  | .addLit sz d a imm => Sys2Proof.Machine.execAddLit sz d a imm s
  | .subReg sz d a b => Sys2Proof.Machine.execSubReg sz d a b s
  | .subLit sz d a imm => Sys2Proof.Machine.execSubLit sz d a imm s
  | .mulReg sz d a b => Sys2Proof.Machine.execMulReg sz d a b s
  | .mulLit sz d a imm => Sys2Proof.Machine.execMulLit sz d a imm s
  | .mulhReg sz d a b => Sys2Proof.Machine.execMulhReg sz d a b s
  | .mulhLit sz d a imm => Sys2Proof.Machine.execMulhLit sz d a imm s
  | .mulhuReg sz d a b => Sys2Proof.Machine.execMulhuReg sz d a b s
  | .mulhuLit sz d a imm => Sys2Proof.Machine.execMulhuLit sz d a imm s
  | .divReg sz d a b => Sys2Proof.Machine.execDivReg sz d a b s
  | .divLit sz d a imm => Sys2Proof.Machine.execDivLit sz d a imm s
  | .divuReg sz d a b => Sys2Proof.Machine.execDivuReg sz d a b s
  | .divuLit sz d a imm => Sys2Proof.Machine.execDivuLit sz d a imm s
  | .remReg sz d a b => Sys2Proof.Machine.execRemReg sz d a b s
  | .remLit sz d a imm => Sys2Proof.Machine.execRemLit sz d a imm s
  | .remuReg sz d a b => Sys2Proof.Machine.execRemuReg sz d a b s
  | .remuLit sz d a imm => Sys2Proof.Machine.execRemuLit sz d a imm s
  | .minReg sz d a b => Sys2Proof.Machine.execMinReg sz d a b s
  | .minLit sz d a imm => Sys2Proof.Machine.execMinLit sz d a imm s
  | .maxReg sz d a b => Sys2Proof.Machine.execMaxReg sz d a b s
  | .maxLit sz d a imm => Sys2Proof.Machine.execMaxLit sz d a imm s
  | .minuReg sz d a b => Sys2Proof.Machine.execMinuReg sz d a b s
  | .minuLit sz d a imm => Sys2Proof.Machine.execMinuLit sz d a imm s
  | .maxuReg sz d a b => Sys2Proof.Machine.execMaxuReg sz d a b s
  | .maxuLit sz d a imm => Sys2Proof.Machine.execMaxuLit sz d a imm s
  | .leaReg sz d a b c => Sys2Proof.Machine.execLeaReg sz d a b c s
  | .leaLit sz d a c imm => Sys2Proof.Machine.execLeaLit sz d a c imm s
  | .andReg sz d a b => Sys2Proof.Machine.execAndReg sz d a b s
  | .andLit sz d a imm => Sys2Proof.Machine.execAndLit sz d a imm s
  | .orReg sz d a b => Sys2Proof.Machine.execOrReg sz d a b s
  | .orLit sz d a imm => Sys2Proof.Machine.execOrLit sz d a imm s
  | .xorReg sz d a b => Sys2Proof.Machine.execXorReg sz d a b s
  | .xorLit sz d a imm => Sys2Proof.Machine.execXorLit sz d a imm s
  | .andnReg sz d a b => Sys2Proof.Machine.execAndnReg sz d a b s
  | .andnLit sz d a imm => Sys2Proof.Machine.execAndnLit sz d a imm s
  | .ornReg sz d a b => Sys2Proof.Machine.execOrnReg sz d a b s
  | .ornLit sz d a imm => Sys2Proof.Machine.execOrnLit sz d a imm s
  | .shlReg sz d a b => Sys2Proof.Machine.execShlReg sz d a b s
  | .shlLit sz d a imm => Sys2Proof.Machine.execShlLit sz d a imm s
  | .shrReg sz d a b => Sys2Proof.Machine.execShrReg sz d a b s
  | .shrLit sz d a imm => Sys2Proof.Machine.execShrLit sz d a imm s
  | .sarReg sz d a b => Sys2Proof.Machine.execSarReg sz d a b s
  | .sarLit sz d a imm => Sys2Proof.Machine.execSarLit sz d a imm s
  | .rolReg sz d a b => Sys2Proof.Machine.execRolReg sz d a b s
  | .rolLit sz d a imm => Sys2Proof.Machine.execRolLit sz d a imm s
  | .rorReg sz d a b => Sys2Proof.Machine.execRorReg sz d a b s
  | .rorLit sz d a imm => Sys2Proof.Machine.execRorLit sz d a imm s
  | .fshlReg sz d a b c => Sys2Proof.Machine.execFshlReg sz d a b c s
  | .fshlLit sz d a imm c => Sys2Proof.Machine.execFshlLit sz d a imm c s
  | .fshrReg sz d a b c => Sys2Proof.Machine.execFshrReg sz d a b c s
  | .fshrLit sz d a imm c => Sys2Proof.Machine.execFshrLit sz d a imm c s
  | .seqReg sz d a b => Sys2Proof.Machine.execSeqReg sz d a b s
  | .seqLit sz d a imm => Sys2Proof.Machine.execSeqLit sz d a imm s
  | .sneReg sz d a b => Sys2Proof.Machine.execSneReg sz d a b s
  | .sneLit sz d a imm => Sys2Proof.Machine.execSneLit sz d a imm s
  | .sltReg sz d a b => Sys2Proof.Machine.execSltReg sz d a b s
  | .sltLit sz d a imm => Sys2Proof.Machine.execSltLit sz d a imm s
  | .sltuReg sz d a b => Sys2Proof.Machine.execSltuReg sz d a b s
  | .sltuLit sz d a imm => Sys2Proof.Machine.execSltuLit sz d a imm s
  | .sleReg sz d a b => Sys2Proof.Machine.execSleReg sz d a b s
  | .sleLit sz d a imm => Sys2Proof.Machine.execSleLit sz d a imm s
  | .sleuReg sz d a b => Sys2Proof.Machine.execSleuReg sz d a b s
  | .sleuLit sz d a imm => Sys2Proof.Machine.execSleuLit sz d a imm s
  | .selReg sz d a b c => Sys2Proof.Machine.execSelReg sz d a b c s
  | .selLit sz d a imm c => Sys2Proof.Machine.execSelLit sz d a imm c s
  | .clz sz d a => Sys2Proof.Machine.execClz sz d a s
  | .ctz sz d a => Sys2Proof.Machine.execCtz sz d a s
  | .popc sz d a => Sys2Proof.Machine.execPopc sz d a s
  | .brev sz d a => Sys2Proof.Machine.execBrev sz d a s
  | .bswap sz d a => Sys2Proof.Machine.execBswap sz d a s
  | .exts sz d a pos lenm1 => Sys2Proof.Machine.execExts sz d a pos lenm1 s
  | .extu sz d a pos lenm1 => Sys2Proof.Machine.execExtu sz d a pos lenm1 s
  | .ins sz d a b pos lenm1 => Sys2Proof.Machine.execIns sz d a b pos lenm1 s
  | .sext sz d a => Sys2Proof.Machine.execSext sz d a s
  | .movh d a imm => Sys2Proof.Machine.execMovh d a imm s
  | .faddReg f d a b rm => Sys2Proof.Machine.execFaddReg f d a b rm s
  | .faddLit f d a imm => Sys2Proof.Machine.execFaddLit f d a imm s
  | .fsubReg f d a b rm => Sys2Proof.Machine.execFsubReg f d a b rm s
  | .fsubLit f d a imm => Sys2Proof.Machine.execFsubLit f d a imm s
  | .fmulReg f d a b rm => Sys2Proof.Machine.execFmulReg f d a b rm s
  | .fmulLit f d a imm => Sys2Proof.Machine.execFmulLit f d a imm s
  | .fdivReg f d a b rm => Sys2Proof.Machine.execFdivReg f d a b rm s
  | .fdivLit f d a imm => Sys2Proof.Machine.execFdivLit f d a imm s
  | .fsqrt f d a rm => Sys2Proof.Machine.execFsqrt f d a rm s
  | .fmaReg f d a b c rm => Sys2Proof.Machine.execFmaReg f d a b c rm s
  | .fmaLit f d a imm c => Sys2Proof.Machine.execFmaLit f d a imm c s
  | .fminReg f d a b => Sys2Proof.Machine.execFminReg f d a b s
  | .fminLit f d a imm => Sys2Proof.Machine.execFminLit f d a imm s
  | .fmaxReg f d a b => Sys2Proof.Machine.execFmaxReg f d a b s
  | .fmaxLit f d a imm => Sys2Proof.Machine.execFmaxLit f d a imm s
  | .fsgnjReg f d a b sgn => Sys2Proof.Machine.execFsgnjReg f d a b sgn s
  | .fsgnjLit f d a imm sgn => Sys2Proof.Machine.execFsgnjLit f d a imm sgn s
  | .feqReg f d a b => Sys2Proof.Machine.execFeqReg f d a b s
  | .feqLit f d a imm => Sys2Proof.Machine.execFeqLit f d a imm s
  | .fltReg f d a b => Sys2Proof.Machine.execFltReg f d a b s
  | .fltLit f d a imm => Sys2Proof.Machine.execFltLit f d a imm s
  | .fleReg f d a b => Sys2Proof.Machine.execFleReg f d a b s
  | .fleLit f d a imm => Sys2Proof.Machine.execFleLit f d a imm s
  | .fclass f d a => Sys2Proof.Machine.execFclass f d a s
  | .fcvt d a di si sat rm sf df => Sys2Proof.Machine.execFcvt d a di si sat rm sf df s
  | .beq sz a c off => Sys2Proof.Machine.execBeq sz a c off s
  | .bne sz a c off => Sys2Proof.Machine.execBne sz a c off s
  | .blt sz a c off => Sys2Proof.Machine.execBlt sz a c off s
  | .bge sz a c off => Sys2Proof.Machine.execBge sz a c off s
  | .bltu sz a c off => Sys2Proof.Machine.execBltu sz a c off s
  | .bgeu sz a c off => Sys2Proof.Machine.execBgeu sz a c off s
  | .b off => Sys2Proof.Machine.execB off s
  | .call off => Sys2Proof.Machine.execCall off s
  | .jmp a link => Sys2Proof.Machine.execJmp a link s
  | .loop d off => Sys2Proof.Machine.execLoop d off s
  | .tend => Sys2Proof.Machine.execTend s
  | .tyield => Sys2Proof.Machine.execTyield s
  | .ldReg sz d a b m scl sx => Sys2Proof.Machine.execLdReg sz d a b m scl sx s
  | .ldLit sz d a m sx off => Sys2Proof.Machine.execLdLit sz d a m sx off s
  | .stReg sz v a b m scl => Sys2Proof.Machine.execStReg sz v a b m scl s
  | .stLit sz v a m off => Sys2Proof.Machine.execStLit sz v a m off s
  | .ldnReg d a b m sx => Sys2Proof.Machine.execLdnReg d a b m sx s
  | .ldnLit d a m sx idx => Sys2Proof.Machine.execLdnLit d a m sx idx s
  | .stnReg v a b m => Sys2Proof.Machine.execStnReg v a b m s
  | .stnLit v a m idx => Sys2Proof.Machine.execStnLit v a m idx s
  | .pfReg a b spc scl => Sys2Proof.Machine.execPfReg a b spc scl s
  | .pfLit a spc off => Sys2Proof.Machine.execPfLit a spc off s
  | .fence kind scope => Sys2Proof.Machine.execFence kind scope s
  | .waita sz d a b c m => Sys2Proof.Machine.execWaita sz d a b c m s
  | .waitaTimeout rank slot => Sys2Proof.Machine.execWaitaTimeout rank slot s
  | .waitaReread rank slot => Sys2Proof.Machine.execWaitaReread rank slot s
  | .scfgFillReg sz a spc sx strm => Sys2Proof.Machine.execScfgFillReg sz a spc sx strm s
  | .scfgFillLit sz a spc sx strm n0 => Sys2Proof.Machine.execScfgFillLit sz a spc sx strm n0 s
  | .scfgDrainReg sz a spc strm => Sys2Proof.Machine.execScfgDrainReg sz a spc strm s
  | .scfgDrainLit sz a spc strm n0 => Sys2Proof.Machine.execScfgDrainLit sz a spc strm n0 s
  | .sctlEnd strm => Sys2Proof.Machine.execSctlEnd strm s
  | .sctlFlush strm => Sys2Proof.Machine.execSctlFlush strm s
  | .sstat d strm => Sys2Proof.Machine.execSstat d strm s
  | .fillRead rank slot strm => Sys2Proof.Machine.execFillRead rank slot strm s
  | .drainWrite rank slot strm => Sys2Proof.Machine.execDrainWrite rank slot strm s
  | .send a b rel hc nw hn => Sys2Proof.Machine.execSend a b rel hc nw hn s
  | .sendw a b c nw ce cn => Sys2Proof.Machine.execSendw a b c nw ce cn s
  | .rataddReg w d a b m => Sys2Proof.Machine.execRataddReg w d a b m s
  | .rataddLit w d a imm m => Sys2Proof.Machine.execRataddLit w d a imm m s
  | .ratfaddReg w d a b m => Sys2Proof.Machine.execRatfaddReg w d a b m s
  | .ratfaddLit w d a imm m => Sys2Proof.Machine.execRatfaddLit w d a imm m s
  | .ratfaddsReg w d a b m => Sys2Proof.Machine.execRatfaddsReg w d a b m s
  | .ratfaddsLit w d a imm m => Sys2Proof.Machine.execRatfaddsLit w d a imm m s
  | .ratmaxReg w d a b m => Sys2Proof.Machine.execRatmaxReg w d a b m s
  | .ratmaxLit w d a imm m => Sys2Proof.Machine.execRatmaxLit w d a imm m s
  | .ratminReg w d a b m => Sys2Proof.Machine.execRatminReg w d a b m s
  | .ratminLit w d a imm m => Sys2Proof.Machine.execRatminLit w d a imm m s
  | .ratswpReg w d a b m => Sys2Proof.Machine.execRatswpReg w d a b m s
  | .ratswpLit w d a imm m => Sys2Proof.Machine.execRatswpLit w d a imm m s
  | .ratcas w d a b c m => Sys2Proof.Machine.execRatcas w d a b c m s
  | .ratandReg w d a b m => Sys2Proof.Machine.execRatandReg w d a b m s
  | .ratandLit w d a imm m => Sys2Proof.Machine.execRatandLit w d a imm m s
  | .ratorReg w d a b m => Sys2Proof.Machine.execRatorReg w d a b m s
  | .ratorLit w d a imm m => Sys2Proof.Machine.execRatorLit w d a imm m s
  | .ratxorReg w d a b m => Sys2Proof.Machine.execRatxorReg w d a b m s
  | .ratxorLit w d a imm m => Sys2Proof.Machine.execRatxorLit w d a imm m s
  | .qenq d a b m nw => Sys2Proof.Machine.execQenq d a b m nw s
  | .qdeq d a m nw => Sys2Proof.Machine.execQdeq d a m nw s
  | .ctrset a b cn => Sys2Proof.Machine.execCtrset a b cn s
  | .ctradd d a b cn => Sys2Proof.Machine.execCtradd d a b cn s
  | .ctrrd d b cn => Sys2Proof.Machine.execCtrrd d b cn s
  | .wtset d a b c ge cn => Sys2Proof.Machine.execWtset d a b c ge cn s
  | .wtclr d a => Sys2Proof.Machine.execWtclr d a s
  | .tspawn a b rel => Sys2Proof.Machine.execTspawn a b rel s
  | .tcont a b rel => Sys2Proof.Machine.execTcont a b rel s
  | .maskw n => Sys2Proof.Machine.execMaskw n s
  | .bararrive d b scope => Sys2Proof.Machine.execBararrive d b scope s
  | .barwait d b scope => Sys2Proof.Machine.execBarwait d b scope s
  | .barsync d b scope => Sys2Proof.Machine.execBarsync d b scope s
  | .bararriveMem d a spc scope => Sys2Proof.Machine.execBararriveMem d a spc scope s
  | .barwaitMem d a b spc scope => Sys2Proof.Machine.execBarwaitMem d a b spc scope s
  | .barsyncMem d a spc scope => Sys2Proof.Machine.execBarsyncMem d a spc scope s
  | .frz a b => Sys2Proof.Machine.execFrz a b s
  | .futreg d a b spc => Sys2Proof.Machine.execFutreg d a b spc s
  | .futset a b spc psn => Sys2Proof.Machine.execFutset a b spc psn s
  | .futget d a spc => Sys2Proof.Machine.execFutget d a spc s
  | .futreset d a spc => Sys2Proof.Machine.execFutreset d a spc s
  | .gcopy d a => Sys2Proof.Machine.execGcopy d a s
  | .gsend d a b => Sys2Proof.Machine.execGsend d a b s
  | .gcmp d a => Sys2Proof.Machine.execGcmp d a s
  | .ghash d a => Sys2Proof.Machine.execGhash d a s
  | .gfree d a => Sys2Proof.Machine.execGfree d a s
  | .lmap d a b => Sys2Proof.Machine.execLmap d a b s
  | .oalloc d a b c => Sys2Proof.Machine.execOalloc d a b c s
  | .objldw d a b acq idx => Sys2Proof.Machine.execObjldw d a b acq idx s
  | .objstw v a b rel idx => Sys2Proof.Machine.execObjstw v a b rel idx s
  | .objtype d a => Sys2Proof.Machine.execObjtype d a s
  | .objlen d a => Sys2Proof.Machine.execObjlen d a s
  | .waddReg et wd wa b k kz => Sys2Proof.Machine.execWaddReg et wd wa b k kz s
  | .waddLit et wd wa imm k kz => Sys2Proof.Machine.execWaddLit et wd wa imm k kz s
  | .wsubReg et wd wa b k kz => Sys2Proof.Machine.execWsubReg et wd wa b k kz s
  | .wsubLit et wd wa imm k kz => Sys2Proof.Machine.execWsubLit et wd wa imm k kz s
  | .wmulReg et wd wa b k kz => Sys2Proof.Machine.execWmulReg et wd wa b k kz s
  | .wmulLit et wd wa imm k kz => Sys2Proof.Machine.execWmulLit et wd wa imm k kz s
  | .wminReg et wd wa b k kz => Sys2Proof.Machine.execWminReg et wd wa b k kz s
  | .wminLit et wd wa imm k kz => Sys2Proof.Machine.execWminLit et wd wa imm k kz s
  | .wmaxReg et wd wa b k kz => Sys2Proof.Machine.execWmaxReg et wd wa b k kz s
  | .wmaxLit et wd wa imm k kz => Sys2Proof.Machine.execWmaxLit et wd wa imm k kz s
  | .wminuReg et wd wa b k kz => Sys2Proof.Machine.execWminuReg et wd wa b k kz s
  | .wminuLit et wd wa imm k kz => Sys2Proof.Machine.execWminuLit et wd wa imm k kz s
  | .wmaxuReg et wd wa b k kz => Sys2Proof.Machine.execWmaxuReg et wd wa b k kz s
  | .wmaxuLit et wd wa imm k kz => Sys2Proof.Machine.execWmaxuLit et wd wa imm k kz s
  | .wandReg et wd wa b k kz => Sys2Proof.Machine.execWandReg et wd wa b k kz s
  | .wandLit et wd wa imm k kz => Sys2Proof.Machine.execWandLit et wd wa imm k kz s
  | .worReg et wd wa b k kz => Sys2Proof.Machine.execWorReg et wd wa b k kz s
  | .worLit et wd wa imm k kz => Sys2Proof.Machine.execWorLit et wd wa imm k kz s
  | .wxorReg et wd wa b k kz => Sys2Proof.Machine.execWxorReg et wd wa b k kz s
  | .wxorLit et wd wa imm k kz => Sys2Proof.Machine.execWxorLit et wd wa imm k kz s
  | .wshlReg et wd wa b k kz => Sys2Proof.Machine.execWshlReg et wd wa b k kz s
  | .wshlLit et wd wa imm k kz => Sys2Proof.Machine.execWshlLit et wd wa imm k kz s
  | .wshrReg et wd wa b k kz => Sys2Proof.Machine.execWshrReg et wd wa b k kz s
  | .wshrLit et wd wa imm k kz => Sys2Proof.Machine.execWshrLit et wd wa imm k kz s
  | .wsarReg et wd wa b k kz => Sys2Proof.Machine.execWsarReg et wd wa b k kz s
  | .wsarLit et wd wa imm k kz => Sys2Proof.Machine.execWsarLit et wd wa imm k kz s
  | .wfshlReg et wd wa b k kz => Sys2Proof.Machine.execWfshlReg et wd wa b k kz s
  | .wfshlLit et wd wa imm k kz => Sys2Proof.Machine.execWfshlLit et wd wa imm k kz s
  | .wfshrReg et wd wa b k kz => Sys2Proof.Machine.execWfshrReg et wd wa b k kz s
  | .wfshrLit et wd wa imm k kz => Sys2Proof.Machine.execWfshrLit et wd wa imm k kz s
  | .wfaddReg et wd wa b k kz rm => Sys2Proof.Machine.execWfaddReg et wd wa b k kz rm s
  | .wfaddLit et wd wa imm k kz => Sys2Proof.Machine.execWfaddLit et wd wa imm k kz s
  | .wfsubReg et wd wa b k kz rm => Sys2Proof.Machine.execWfsubReg et wd wa b k kz rm s
  | .wfsubLit et wd wa imm k kz => Sys2Proof.Machine.execWfsubLit et wd wa imm k kz s
  | .wfmulReg et wd wa b k kz rm => Sys2Proof.Machine.execWfmulReg et wd wa b k kz rm s
  | .wfmulLit et wd wa imm k kz => Sys2Proof.Machine.execWfmulLit et wd wa imm k kz s
  | .wfmaReg et wd wa b k kz rm => Sys2Proof.Machine.execWfmaReg et wd wa b k kz rm s
  | .wfmaLit et wd wa imm k kz => Sys2Proof.Machine.execWfmaLit et wd wa imm k kz s
  | .wfminReg et wd wa b k kz rm => Sys2Proof.Machine.execWfminReg et wd wa b k kz rm s
  | .wfminLit et wd wa imm k kz => Sys2Proof.Machine.execWfminLit et wd wa imm k kz s
  | .wfmaxReg et wd wa b k kz rm => Sys2Proof.Machine.execWfmaxReg et wd wa b k kz rm s
  | .wfmaxLit et wd wa imm k kz => Sys2Proof.Machine.execWfmaxLit et wd wa imm k kz s
  | .wfabs et wd wa k kz rm => Sys2Proof.Machine.execWfabs et wd wa k kz rm s
  | .wexp2 et wd wa k kz rm => Sys2Proof.Machine.execWexp2 et wd wa k kz rm s
  | .wrcp et wd wa k kz rm => Sys2Proof.Machine.execWrcp et wd wa k kz rm s
  | .wrsq et wd wa k kz rm => Sys2Proof.Machine.execWrsq et wd wa k kz rm s
  | .wlog2 et wd wa k kz rm => Sys2Proof.Machine.execWlog2 et wd wa k kz rm s
  | .wcmp et kd wa b k kz cond any => Sys2Proof.Machine.execWcmp et kd wa b k kz cond any s
  | .wsel et wd wa b k => Sys2Proof.Machine.execWsel et wd wa b k s
  | .wcvt wd wa dt sf part sat rm df => Sys2Proof.Machine.execWcvt wd wa dt sf part sat rm df s
  | .wred et ed wa k op u => Sys2Proof.Machine.execWred et ed wa k op u s
  | .wscan et wd wa k kz op excl => Sys2Proof.Machine.execWscan et wd wa k kz op excl s
  | .wperm et wd wa wb k kz => Sys2Proof.Machine.execWperm et wd wa wb k kz s
  | .wslide et wd wa wb g k kz => Sys2Proof.Machine.execWslide et wd wa wb g k kz s
  | .wbcast et wd wa g k kz => Sys2Proof.Machine.execWbcast et wd wa g k kz s
  | .wzip et wd wa wb k kz hi => Sys2Proof.Machine.execWzip et wd wa wb k kz hi s
  | .wmovsInsert et wd g k kz => Sys2Proof.Machine.execWmovsInsert et wd g k kz s
  | .wmovsExtract et ed wa lane sx => Sys2Proof.Machine.execWmovsExtract et ed wa lane sx s
  | .widx et wd g k kz step => Sys2Proof.Machine.execWidx et wd g k kz step s
  | .kop op => Sys2Proof.Machine.execKop op s
  | .wldReg wd g k kz m ofs => Sys2Proof.Machine.execWldReg wd g k kz m ofs s
  | .wldLit wd k kz imm => Sys2Proof.Machine.execWldLit wd k kz imm s
  | .wstReg wa bm g k m ofs => Sys2Proof.Machine.execWstReg wa bm g k m ofs s
  | .wstLit wa k imm => Sys2Proof.Machine.execWstLit wa k imm s
  | .wgath et wd wa g k kz m scale => Sys2Proof.Machine.execWgath et wd wa g k kz m scale s
  | .wscat et wa wb g k m scale => Sys2Proof.Machine.execWscat et wa wb g k m scale s
  | .wldf et wd g k kz m ofs => Sys2Proof.Machine.execWldf et wd g k kz m ofs s
  | .sealst wa g m ofs => Sys2Proof.Machine.execSealst wa g m ofs s
  | .wspill wa slot => Sys2Proof.Machine.execWspill wa slot s
  | .wfill wd slot => Sys2Proof.Machine.execWfill wd slot s
  | .dtld t g spc rpt => Sys2Proof.Machine.execDtld t g spc rpt s
  | .wideUnitRetire quad => Sys2Proof.Machine.execWideUnitRetire quad s
  | .mctx w => Sys2Proof.Machine.execMctx w s
  | .mldb a b spc => Sys2Proof.Machine.execMldb a b spc s
  | .mrot n => Sys2Proof.Machine.execMrot n s
  | .mrotSend rank => Sys2Proof.Machine.execMrotSend rank s
  | .mrotReceive rank => Sys2Proof.Machine.execMrotReceive rank s
  | .mma c a b z => Sys2Proof.Machine.execMma c a b z s
  | .mrec c a b z => Sys2Proof.Machine.execMrec c a b z s
  | .mprog a => Sys2Proof.Machine.execMprog a s
  | .mzero c => Sys2Proof.Machine.execMzero c s
  | .mload c a b spc => Sys2Proof.Machine.execMload c a b spc s
  | .mstore c a b spc df => Sys2Proof.Machine.execMstore c a b spc df s
  | .mtowide c wd p => Sys2Proof.Machine.execMtowide c wd p s
  | .mclaim c => Sys2Proof.Machine.execMclaim c s
  | .mrelease c => Sys2Proof.Machine.execMrelease c s
  | .mwait c => Sys2Proof.Machine.execMwait c s
  | .matrixRequest quad => Sys2Proof.Machine.execMatrixRequest quad s
  | .epush a idx => Sys2Proof.Machine.execEpush a idx s
  | .epop d idx => Sys2Proof.Machine.execEpop d idx s
  | .estat d idx => Sys2Proof.Machine.execEstat d idx s
  | .fbind a => Sys2Proof.Machine.execFbind a s
  | .fbindRange a b c => Sys2Proof.Machine.execFbindRange a b c s
  | .fbindDrop a => Sys2Proof.Machine.execFbindDrop a s
  | .trap n => Sys2Proof.Machine.execTrap n s
  | .upretResume keep => Sys2Proof.Machine.execUpretResume keep s
  | .upretDetach => Sys2Proof.Machine.execUpretDetach s
  | .upretAbandon => Sys2Proof.Machine.execUpretAbandon s
  | .srd d n => Sys2Proof.Machine.execSrd d n s
  | .swr n a => Sys2Proof.Machine.execSwr n a s
  | .hresume d a next => Sys2Proof.Machine.execHresume d a next s
  | .swin d a wr sel => Sys2Proof.Machine.execSwin d a wr sel s
  | .tlbw a b c => Sys2Proof.Machine.execTlbw a b c s
  | .tlbi a b => Sys2Proof.Machine.execTlbi a b s
  | .idle d lim => Sys2Proof.Machine.execIdle d lim s
  | .idleTimeout rank slot => Sys2Proof.Machine.execIdleTimeout rank slot s
  | .dbg d a unit => Sys2Proof.Machine.execDbg d a unit s
  | .wdog lim => Sys2Proof.Machine.execWdog lim s
  | .watchdogExpiry rank slot => Sys2Proof.Machine.execWatchdogExpiry rank slot s
  | .walkRequest svc => Sys2Proof.Machine.execWalkRequest svc s
  | .storeBufferSend rank => Sys2Proof.Machine.execStoreBufferSend rank s
  | .reply rank => Sys2Proof.Machine.execReply rank s
  | .messageQueueEntry rank => Sys2Proof.Machine.execMessageQueueEntry rank s
  | .lMessage rank => Sys2Proof.Machine.execLMessage rank s
  | .remoteLoad rank => Sys2Proof.Machine.execRemoteLoad rank s
  | .remoteStore rank => Sys2Proof.Machine.execRemoteStore rank s
  | .remoteStn rank => Sys2Proof.Machine.execRemoteStn rank s
  | .remoteRat rank => Sys2Proof.Machine.execRemoteRat rank s
  | .remoteQenq rank => Sys2Proof.Machine.execRemoteQenq rank s
  | .remoteQdeq rank => Sys2Proof.Machine.execRemoteQdeq rank s
  | .remoteFut rank => Sys2Proof.Machine.execRemoteFut rank s
  | .sendwHandler rank => Sys2Proof.Machine.execSendwHandler rank s
  | .barrierObjectArrival rank => Sys2Proof.Machine.execBarrierObjectArrival rank s
  | .count rank => Sys2Proof.Machine.execCount rank s
  | .spawnMessage rank => Sys2Proof.Machine.execSpawnMessage rank s
  | .hostQueueRecord => Sys2Proof.Machine.execHostQueueRecord s
  | .hSlotTake rank => Sys2Proof.Machine.execHSlotTake rank s
  | .takeL rank => Sys2Proof.Machine.execTakeL rank s
  | .faultMessage rank => Sys2Proof.Machine.execFaultMessage rank s
  | .upcallCompletionNotice rank => Sys2Proof.Machine.execUpcallCompletionNotice rank s
  | .fcomp ld cookie => Sys2Proof.Machine.execFcomp ld cookie s
  | .ringReport => Sys2Proof.Machine.execRingReport s
  | .copy eng => Sys2Proof.Machine.execCopy eng s
  | .copy2d eng => Sys2Proof.Machine.execCopy2d eng s
  | .copy3d eng => Sys2Proof.Machine.execCopy3d eng s
  | .fill eng => Sys2Proof.Machine.execFill eng s
  | .convert eng => Sys2Proof.Machine.execConvert eng s
  | .furlmove eng => Sys2Proof.Machine.execFurlmove eng s
  | .engineResult eng ch => Sys2Proof.Machine.execEngineResult eng ch s
  | .asyncPop eng ch => Sys2Proof.Machine.execAsyncPop eng ch s
  | .landingObject => Sys2Proof.Machine.execLandingObject s
  | .landingComplete => Sys2Proof.Machine.execLandingComplete s
  | .launchRecord q => Sys2Proof.Machine.execLaunchRecord q s
  | .launchStart q => Sys2Proof.Machine.execLaunchStart q s
  | .launchComplete launch => Sys2Proof.Machine.execLaunchComplete launch s
  | .sliceEnd ctx => Sys2Proof.Machine.execSliceEnd ctx s
  | .drainWatchdog ctx => Sys2Proof.Machine.execDrainWatchdog ctx s
  | .drainComplete ctx => Sys2Proof.Machine.execDrainComplete ctx s
  | .sliceStart ctx => Sys2Proof.Machine.execSliceStart ctx s
  | .contextCreate desc => Sys2Proof.Machine.execContextCreate desc s
  | .scrub base len departing arriving => Sys2Proof.Machine.execScrub base len departing arriving s
  | .keyInstall slot key => Sys2Proof.Machine.execKeyInstall slot key s
  | .keyErase slot => Sys2Proof.Machine.execKeyErase slot s
  | .keyErased slot => Sys2Proof.Machine.execKeyErased slot s
  | .handleGrant ctx idx h offered accepted => Sys2Proof.Machine.execHandleGrant ctx idx h offered accepted s
  | .handleRevoke ctx idx => Sys2Proof.Machine.execHandleRevoke ctx idx s
  | .evidenceRequest ctx nonce => Sys2Proof.Machine.execEvidenceRequest ctx nonce s
  | .spdmRequest vf req => Sys2Proof.Machine.execSpdmRequest vf req s
  | .tdispExit vf => Sys2Proof.Machine.execTdispExit vf s
  | .spdmExpiry vf => Sys2Proof.Machine.execSpdmExpiry vf s
  | .evrtWrite ld e claimant owner dest => Sys2Proof.Machine.execEvrtWrite ld e claimant owner dest s
  | .registerWrite r => Sys2Proof.Machine.execRegisterWrite r s
  | .queuePairCreate ctx idx qp => Sys2Proof.Machine.execQueuePairCreate ctx idx qp s
  | .registrationRevoke ctx rkey => Sys2Proof.Machine.execRegistrationRevoke ctx rkey s
  | .halyardWrite eng => Sys2Proof.Machine.execHalyardWrite eng s
  | .halyardRead eng => Sys2Proof.Machine.execHalyardRead eng s
  | .halyardSend eng => Sys2Proof.Machine.execHalyardSend eng s
  | .aadd eng => Sys2Proof.Machine.execAadd eng s
  | .acas eng => Sys2Proof.Machine.execAcas eng s
  | .cwrite eng => Sys2Proof.Machine.execCwrite eng s
  | .writePacket p => Sys2Proof.Machine.execWritePacket p s
  | .readReq p => Sys2Proof.Machine.execReadReq p s
  | .readResp p => Sys2Proof.Machine.execReadResp p s
  | .sendPacket p => Sys2Proof.Machine.execSendPacket p s
  | .atomic p => Sys2Proof.Machine.execAtomic p s
  | .atomicResp p => Sys2Proof.Machine.execAtomicResp p s
  | .ack p => Sys2Proof.Machine.execAck p s
  | .nak p => Sys2Proof.Machine.execNak p s
  | .launchPacket p => Sys2Proof.Machine.execLaunchPacket p s
  | .gstream p => Sys2Proof.Machine.execGstream p s
  | .barrierPacket p => Sys2Proof.Machine.execBarrierPacket p s
  | .handshake p => Sys2Proof.Machine.execHandshake p s
  | .retransmitTimer qpn => Sys2Proof.Machine.execRetransmitTimer qpn s
  | .contextBusyBackoff qpn => Sys2Proof.Machine.execContextBusyBackoff qpn s
  | .rekey sid => Sys2Proof.Machine.execRekey sid s
  | .oldEpochExpiry sid => Sys2Proof.Machine.execOldEpochExpiry sid s
  | .portDown port => Sys2Proof.Machine.execPortDown port s
  | .cxlPortError port => Sys2Proof.Machine.execCxlPortError port s
  | .unitFence u => Sys2Proof.Machine.execUnitFence u s
  | .powerUp => Sys2Proof.Machine.execPowerUp s
  | .powerDown => Sys2Proof.Machine.execPowerDown s
  | .packageReset imageOk => Sys2Proof.Machine.execPackageReset imageOk s
  | .recoveryImage signed => Sys2Proof.Machine.execRecoveryImage signed s
  | .clockChange mhz => Sys2Proof.Machine.execClockChange mhz s
  | .thermal105 die => Sys2Proof.Machine.execThermal105 die s
  | .thermal110 die => Sys2Proof.Machine.execThermal110 die s
  | .thermal115 die => Sys2Proof.Machine.execThermal115 die s
  | .thermalClear => Sys2Proof.Machine.execThermalClear s
  | .controlComplexResume rank slot next => Sys2Proof.Machine.execControlComplexResume rank slot next s
  | .contextErrorRequest ctx => Sys2Proof.Machine.execContextErrorRequest ctx s
  | .debugAccess t => Sys2Proof.Machine.execDebugAccess t s
  | .hostMemoryWrite pa bytes => Sys2Proof.Machine.execHostMemoryWrite pa bytes s
  | .queuePairEvict qpn => Sys2Proof.Machine.execQueuePairEvict qpn s
  | .stateFetch qpn => Sys2Proof.Machine.execStateFetch qpn s
  | .ldBind ld host => Sys2Proof.Machine.execLdBind ld host s
  | .heartbeatLoss vf => Sys2Proof.Machine.execHeartbeatLoss vf s

end Sys2Proof.Machine
end

