-- ==== Sys2Proof/Machine/Turn.lean ====
section
/-! DEFINITION. Whose turn it is: fetching a word, waking tasks, and what a core does in one step (R16, R31, R63, R100, R252, R319 to
R325). -/

namespace Sys2Proof.Machine

/-! ### Fetch -/

/-- The 2,048 words of an instruction cache (R63), with one more. -/
def icacheAdd (l : List (Nat × Word)) (pa : Nat) (w : Word) : List (Nat × Word) := (((pa, w) :: l).eraseDups).take 2048

/-- The word at the slot's PC (R16, R63, R100, R219): through the instruction cache, which no store updates. -/
def fetchM : M Word := do
  let va := (← mySlot).pc
  let e ← lookup va
  raiseIf (!e.x) .xlPerm va
  let s ← get
  let pa := e.pa va
  let g : Seg := ⟨va, pa, 8, e.mt, e.key, true⟩
  raiseIf (inTagRegion s pa 8 || g.pastQ s) .xlPerm va
  raiseIf (!populated s pa 8) .xlAddr va
  raiseIf (g.furled s) .furlRead va
  match ownerOf s.hdm pa with
  | .counter _ _ => raiseAt .xlPerm va
  | _ => pure ()
  let fromMemory : M Word := do
    set (eccTouch s pa 8)
    let s ← get
    raiseIf (anyPoison s pa 8) .poison va
    let w := word (rdNat s pa 8)
    modMyCore fun k => { k with icache := icacheAdd k.icache pa w }
    return w
  match nget (coreOf s s.cur).icache pa with
  | none => fromMemory
  | some w => do
    set { s with tick := s.tick + 1 }
    if Config.icacheHit s.tick then return w else fromMemory

/-- The slot's next instruction fetched and executed by `run`; a fault of the fetch has no word (R28). -/
noncomputable def fetchRun (run : Instr → State → Host.Outcome State Fault Refusal) (s : State) : Host.Outcome State Fault Refusal :=
  match fetchM s with
  | .ok (w, s') => run (fetchDecode w) s'
  | .error (.trap t upd) => .next (deliver (upd s) s.cur (actOf s s.cur) t 0)
  | .error (.wait wt upd) => .next (waitAt s s.cur (actOf s s.cur) wt upd 0)

/-- One of the eight loads of an ARGS descriptor, made at the entry PC (R252). -/
def loadArg (n : Nat) (a : Word) : M Flow := do
  let ea := a + word (8 * n)
  raiseIf (ea.toNat % 8 ≠ 0) .align ea
  let v ← loadScalar true ea 8
  writeGN n (word v)
  modMy fun sl => { sl with argsDue := if n = 7 then none else some (n + 1, a) }
  return .goto (← mySlot).pc

/-! ### Waits -/

/-- Whether a wait is for what only trying again finds out. -/
def retries : Wait → Bool
  | .cmdFull _ _ | .resEmpty _ _ | .asyncPop _ _ | .walkTurn | .lmap | .tlbi _ | .replyMem | .overlap | .order | .fenceAcq | .retireCore | .dqFull => true
  | _ => false

/-- Whether the condition that a slot waits for has come about, so that it tries its instruction again (R325). A slot may try again
too early: it then waits again. -/
def waitOver (s : State) (c i : Nat) (w : Wait) : Bool :=
  let k := coreOf s c
  let sl := slotOf k i
  match w with
  | .eEmpty r => (sl.e.get r).full
  | .dEmpty r => match sl.d.get r with | none => true | some st => st.q ≠ [] || st.drain
  | .dFull r => match sl.d.get r with | none => true | some st => st.fault.isSome || (st.q.length < 8 && st.moved < st.total)
  | .dFlush r => match sl.d.get r with | none => true | some st => st.fault.isSome || st.q = []
  | .outbound | .outboundRat => !outboundFull s c
  | .readyFull d => !rqFull s d 3 || !rqFull s d 1
  | .waita pa n x till => draining s sl.ctx || (till ≠ BitVec.allOnes 64 && decide (till.toNat ≤ (clkOf s c).toNat)) ||
      word (match ownerOf s.hdm pa with | .counter o j => (counterAt s o j).toNat | _ => rdNat s pa n) ≠ x
  | .barWait b t => draining s sl.ctx || (barAt s b).phase ≠ t
  | .objBar pa t => (objStatus (rdNat s pa 8) t (draining s sl.ctx)).isSome
  | .tile t => !tileClaimed k t
  | .replyCore | .replyMem => sl.pend ≠ .waiting
  | .xlate => !(s.walks.any fun x => x.who.contains (.slot c i)) || sl.walkAns ≠ []
  | .fence => !releaseDue k i
  | .retireSlot => !(k.dq.any fun r => r.slot = i) && !(k.rots.any fun r => r.slot = i)
  | .matrixSlot t => !matrixDue k sl.task t
  | .idle lim => decide ((match sl.idle0 with | some x => x.2 | none => 0) < k.lastEvent) || draining s sl.ctx ||
      (match lim with | some l => decide (l ≤ s.cycles) | none => false)
  | .storeFull => decide (k.sb.length ≤ Config.storeBuffer)
  | .cmdFull _ _ | .resEmpty _ _ | .asyncPop _ _ | .walkTurn | .lmap | .tlbi _ | .overlap | .order | .fenceAcq | .retireCore | .dqFull => true
  | .mrotRecv => k.rots = []

/-- A slot whose wait is over made ready (R320: it does not pre-empt); `all` takes in the waits for what only trying again finds out. -/
def wakeSlot (all : Bool) (s : State) (c i : Nat) : State :=
  match (slotAt s c i).st with
  | .blocked w => if (all || !retries w) && waitOver s c i w then wake s c i else s
  | .stalled w => if (all || !retries w) && waitOver s c i w then wake s c i else s
  | _ => s

/-- Every slot of a core whose wait is over made ready. -/
def wakeAll (all : Bool) (s : State) (c : Nat) : State := [0, 1, 2, 3, 4].foldl (fun s i => wakeSlot all s c i) s

/-! ### The turn of a core -/

/-- Time passes: by how many cycles is open, and by as many nanoseconds as they take at the clock's frequency (R5, R14, R416; log entry 3). One
more turn is taken. -/
def elapse (s : State) : State :=
  let n := (Config.free s.tick).toNat
  let f := s.nsFrac + 1000 * n
  { s with
    cycles := s.cycles + n, ns := s.ns + f / max 1 s.power.mhz, nsFrac := f % max 1 s.power.mhz, tick := s.tick + 1, turns := s.turns + 1 }

/-- How many turns a core has before the units and the next core move (log entry 4). -/
def turnLimit : Nat := 8

/-- Whether an H task or a message waits and may start now (R29, R30, R321). -/
def hWork (s : State) (c : Nat) : Bool :=
  (nextMsg s c).isSome || (hMayRun (coreOf s c) && !coreDraining s c && (oldestH (coreOf s c)).isSome)

/-- Whether a free L slot has something to take (R323). -/
def lWork (s : State) (c : Nat) : Bool :=
  !coreDraining s c && (freeL (coreOf s c)).isSome && (takeChoice s c).isSome

/-- What remains of a step of a unit, whatever its outcome. -/
def stateOf (s : State) (o : Host.Outcome State Fault Refusal) : State := match o with | .next t => t | _ => s

/-- The core after one, of those that hold any state. -/
def nextCore (s : State) (c : Nat) : Nat :=
  match s.cores.find? fun p => decide (c < p.1) with
  | some p => p.1
  | none => match s.cores.head? with | some p => p.1 | none => c

/-- The steps of the units near a core, and its timers. -/
noncomputable def nearOf (c : Nat) : List Instr :=
  [.storeBufferSend c, .reply c, .messageQueueEntry c, .lMessage c, .spawnMessage c, .faultMessage c, .count c,
    .upcallCompletionNotice c, .wideUnitRetire (quadOf c), .matrixRequest (quadOf c), .mrotSend c, .mrotReceive c] ++
  ((List.finRange 5).map fun i => [Instr.waitaTimeout c i, .waitaReread c i, .idleTimeout c i, .watchdogExpiry c i] ++
    ((List.finRange 4).map fun j => [Instr.fillRead c i j, .drainWrite c i j]).flatten).flatten

/-- The steps of an engine. -/
noncomputable def engineOf (e : Nat) : List Instr :=
  if e < 100 then [.copy e, .copy2d e, .copy3d e, .fill e, .convert e, .furlmove e]
  else [.halyardWrite e, .halyardRead e, .halyardSend e, .aadd e, .acas e, .cwrite e]

/-- The steps of the units of the package that have something to do: service cores, engines and their channels, the dispatcher, landing
zones, drains, key slots, timers of the network, the reporting port. -/
noncomputable def packageOf (s : State) : List Instr :=
  (((s.mesh.map (·.dst)).eraseDups.filter fun c => decide (c < 6176) && (nget s.cores c).isNone).map Instr.messageQueueEntry) ++
  ((s.walks.map (·.svc)).eraseDups.map Instr.walkRequest) ++ ((s.chans.map (·.1 / 64)).eraseDups.map engineOf).flatten ++
  (s.chans.map fun c => [Instr.engineResult (c.1 / 64) (c.1 % 64), .asyncPop (c.1 / 64) (c.1 % 64)]).flatten ++
  [.landingObject, .landingComplete] ++
  ((s.launchRings.map fun r => LaunchQ.host r.1) ++ (s.ctxs.map fun x => [LaunchQ.device x.1, .fabric x.1]).flatten).flatMap
    (fun q => [Instr.launchRecord q, .launchStart q]) ++
  (s.launches.map fun l => Instr.launchComplete l.1) ++ (s.compls.map fun l => Instr.launchComplete l.id) ++
  (s.ctxs.map fun x => [Instr.drainWatchdog x.1, .drainComplete x.1]).flatten ++
  (((List.finRange 64).filter fun n => (keyAt s n.val).st = .erasing).map Instr.keyErased) ++
  (s.qps.map fun q => [Instr.retransmitTimer (BitVec.ofNat 24 q.1), .contextBusyBackoff (BitVec.ofNat 24 q.1)]).flatten ++
  (s.sessions.map fun x => Instr.oldEpochExpiry (BitVec.ofNat 32 x.1)) ++ [.hostQueueRecord, .ringReport]

/-- A core without an instruction to issue, or after its turns: the units move, its waits are tried again, and the next core has the
next turn (log entry 4). -/
noncomputable def idleTurn (run : Instr → State → Host.Outcome State Fault Refusal) (s : State) : State :=
  let s' := (nearOf s.cur ++ packageOf s).foldl (fun s i => stateOf s (run i s)) s
  let s' := wakeAll true s' s.cur
  { netRound s' with cur := nextCore s' s.cur, turns := 0 }

/-- Whether an accepted instruction of a slot is bound to end its task, which then issues no other (R72, R220). -/
def doomed (k : Core) (i : Nat) : Bool := k.dq.any fun r => r.slot = i && r.task = (slotOf k i).task && r.doom.isSome

/-- The turn of the current core: a waiting H task pre-empts, a free L slot is filled, and the running slot issues one instruction;
where it cannot, the core switches to the next ready L slot (R31, R319 to R325). The loads of ARGS that an upcall interrupts go on after it
(R252, R352). -/
noncomputable def coreTurn (run : Instr → State → Host.Outcome State Fault Refusal) (s : State) : Host.Outcome State Fault Refusal :=
  let c := s.cur
  let s := wakeAll false s c
  let k := coreOf s c
  if turnLimit < s.turns || doomed k (k.act.getD 3) then .next (idleTurn run s)
  else if (slotOf k 4).st = .ready && hMayResume k then
    .next (modCore s c fun k => { k with preempted := k.act, act := some 4 })
  else if hWork s c then .next (hTake sysOther c s)
  else if lWork s c then .next (takeL c s)
  else
    let i := k.act.getD 3
    let sl := slotOf k i
    match sl.st with
    | .stalled _ => .next (idleTurn run s)
    | .ready =>
      if k.act.isNone then .next (switchL s c 3)
      else
        (match sl.argsDue with
          | some (n, a) => if sl.up then fetchRun run s else issueW 0 (loadArg n a) s
          | none => fetchRun run s)
    | _ => match nextReady k i with
      | some _ => .next (switchL s c i)
      | none => .next (idleTurn run s)

/-- An instruction of the table that is a step of a unit and no word. -/
def isUnit : Instr → Bool
  | .illegalWord _ _ => false
  | i => encode i == 0

/-- The steps that can be taken while the package is not up (R415, R419). -/
def isBoot : Instr → Bool
  | .powerUp | .powerDown | .packageReset _ | .recoveryImage _ => true
  | _ => false

/-- A step of a package that is not up: no core runs, and without any rail nothing does (R415, R419). -/
noncomputable def offStep (run : Instr → State → Host.Outcome State Fault Refusal) (s : State) : Host.Outcome State Fault Refusal :=
  match s.agenda with
  | .act i :: r => if isBoot i then run i { s with agenda := r } else .next { s with agenda := r }
  | _ :: r => .next { s with agenda := r }
  | [] => if s.power.rails = [] then .fault .poweredOff else .next (elapse s)

/-- One step: the next entry of the schedule, or the turn of the current core (log entry 4). -/
noncomputable def stepWith (run : Instr → State → Host.Outcome State Fault Refusal) (s0 : State) : Host.Outcome State Fault Refusal :=
  if s0.power.boot ≠ .up then offStep run s0
  else
    let s := elapse s0
    match s.agenda with
    | [] => coreTurn run s
    | .core c :: r => coreTurn run { s with agenda := r, cur := c }
    | .act i :: r => if isUnit i then run i { s with agenda := r } else .next { s with agenda := r }
    | e :: r => .next (worldTurn { s with agenda := r } e)

/-! ### Placing an instruction -/

/-- Where `withFetchWord` places its instruction: an address, and the page that holds it. -/
def placePc : Word := 0x1000
def placeEntry (ctx : Nat) : TlbEntry := ⟨ctx, 0x1000, 0, 0x10, .normal, 0, false, true, true, true⟩

/-- A state whose next step fetches and runs the instruction of a word: slot 0 of core 0 runs a task at it, and nothing else waits to
move (log entry 16: programs are loaded from outside the machine). -/
def placeWord (s : State) (w : Nat) : State :=
  let k := coreOf s 0
  let sl := { slotOf k 0 with st := .ready, pc := placePc, argsDue := none, walkAns := [], pend := .none, noted := [], t0 := none, idle0 := none }
  let k := { k with
    act := some 0, slots := (k.slots.setIfInBounds 0 sl).setIfInBounds 4 { slotOf k 4 with st := .free }, rq := [], mq := [], dq := [], cursors := [], icache := [],
    utlb := [placeEntry sl.ctx] }
  let s := { s with
    agenda := [], cur := 0, turns := 0, power := { s.power with boot := .up }, cores := nset s.cores 0 k, tpls := s.tpls.filter fun t => t.2.home ≠ 0 }
  { s with mem := memSets s.mem ((List.range 8).map fun j => (0x10000 + j, BitVec.ofNat 8 (w / 256 ^ j)))
           poison := s.poison.filter fun p => p ≠ 0x2000
           ecc := s.ecc.filter fun e => e.1 ≠ 0x2000
           subFenced := s.subFenced.filter fun n => n ≠ subChannel 0x10000 }

end Sys2Proof.Machine
end

