-- ==== Sys2Proof/Machine/Step.lean ====
section
/-! DEFINITION. The step of the machine, and a state whose next step runs a given instruction. -/

namespace Sys2Proof.Machine

/-- One step of the machine: whose turn it is, and what it does (log entry 4). -/
noncomputable def step (s : State) : Host.Outcome State Fault Refusal := stepWith exec s

/-- The state with an instruction placed where the next step fetches it (log entry 16). -/
def State.withFetchWord (s : State) (_nbits w : Nat) : State := placeWord s w

end Sys2Proof.Machine
end

