-- ==== Sys2Proof/Safety.lean ====
section
/-! DEFINITION. What a safe run is, in the terms that claims use: the invariants of the state, and steps that answer a next state. -/

namespace Sys2Proof.Machine

/-- Memory holds its canonical form. -/
def State.MemOk (s : State) : Prop := s.mem.wf = true

/-- The current slot of the current core. -/
def State.curSlot (s : State) : Slot := slotAt s s.cur (actOf s s.cur)

/-- A run of `n` steps that never stops. -/
def SafeFor : Nat → State → Prop
  | 0, _ => True
  | n + 1, s => ∃ t, step s = .next t ∧ SafeFor n t

end Sys2Proof.Machine
end

