-- ==== Sys2Proof/Claims/Base.lean ====
section
/-! DEFINITION. Words of the claims: the state after an instruction of the running slot, and what an instruction leaves alone. -/

namespace Sys2Proof

/-- The registers that reading a source changes: a full/empty register is emptied, a stream popped (R12, R13). -/
def Src.es : Src → List EReg
  | .e r => [r] | _ => []
def Src.ds : Src → List (Fin 4)
  | .d r => [r] | _ => []
/-- The registers that writing a destination changes (R11). -/
def Dst.gs : Dst → List GReg
  | .g r => [r] | _ => []
def Dst.ds : Dst → List (Fin 4)
  | .d r => [r] | _ => []

end Sys2Proof

namespace Sys2Proof.Machine

/-- The instruction of the running slot completed in `t`, begun in `s`: the PC goes past it (R16, R31, R330). -/
def State.past (s t : State) : State :=
  modSlot t s.cur (actOf s s.cur) fun sl => { sl.completed with pc := sl.pc + 8 }

/-- The instruction completed, the PC at a target (R16). -/
def State.goTo (s t : State) (pc : Word) : State :=
  modSlot t s.cur (actOf s s.cur) fun sl => { sl.completed with pc := pc }

/-- The running slot of the current core changed. -/
def State.onSlot (s : State) (f : Slot → Slot) : State := modSlot s s.cur (actOf s s.cur) f

/-- A destination can take a value: a general register and `zr` always, a stream register where it holds a drain that no fault has
stopped and that has room (R11, R13, R162). -/
def DstReady (d : Dst) (s : State) : Prop := ∀ r ∈ d.ds, ∃ st, s.curSlot.d.get r = some st ∧ st.drain = true ∧ st.fault = none ∧
  st.q.length < 8 ∧ st.moved < st.total

/-- A destination has taken a value (R11, R13). -/
def given (d : Dst) (v : Word) (s : State) : State :=
  match d with
  | .g r => s.onSlot fun x => x.setG r v
  | .d r => s.onSlot fun x => x.setD r ((x.d.get r).map fun st => { st with q := st.q ++ [⟨v, none, s.tick⟩], moved := st.moved + 1 })
  | .zr => s

/-- The running slot waits, and its core goes to the next ready L slot, if there is one (R320, R325). -/
def State.blockedOn (s : State) (w : Wait) : State :=
  modCore (s.onSlot fun sl => { sl with st := .blocked w }) s.cur fun k => k.giveUp (actOf s s.cur)

/-- A trap of the instruction at hand, delivered (R347). `w` is its word. -/
def State.trapped (s : State) (t : Trap) (w : Word) : State := deliver s s.cur (actOf s s.cur) t w

/-- Two states that agree but for one slot of one core: memory, poison, every other core, quad, engine, counter, message, ring and
context is the same, and so is all that the core's slots share. -/
structure OnlySlot (s t : State) (c i : Nat) : Prop where
  rest : t = { s with cores := t.cores }
  others : ∀ k, k ≠ c → coreOf t k = coreOf s k
  shared : coreOf t c = { coreOf s c with slots := (coreOf t c).slots }
  slots : ∀ j, j ≠ i → slotAt t c j = slotAt s c j

/-- What an instruction leaves of its slot: everything but its state and PC, the masked window, the progress of blocking forms and the
registers named: `g`, `e` and `d` registers, and the flags only where `fl` allows. -/
structure SlotKeeps (sl sl' : Slot) (gs : List GReg) (es : List EReg) (ds : List (Fin 4)) (fl : Bool) : Prop where
  rest : sl' = { sl with st := sl'.st, pc := sl'.pc, g := sl'.g, e := sl'.e, d := sl'.d, fpst := sl'.fpst, mw := sl'.mw, pend := sl'.pend,
                         walkAns := sl'.walkAns, t0 := sl'.t0, noted := sl'.noted, idle0 := sl'.idle0 }
  g : ∀ r, r ∉ gs → sl'.g.get r = sl.g.get r
  e : ∀ r, r ∉ es → sl'.e.get r = sl.e.get r
  d : ∀ r, r ∉ ds → sl'.d.get r = sl.d.get r
  fpst : fl = false → sl'.fpst = sl.fpst

/-- No instruction of a slot is left hanging, and the slot runs: the state in which its next instruction starts. -/
def Slot.Fresh (sl : Slot) : Prop := sl.st = .ready ∧ sl.pend = .none ∧ sl.walkAns = [] ∧ sl.t0 = none ∧ sl.noted = [] ∧ sl.idle0 = none

/-- The running task has no pushed drain elements that are still to become stores, and no read-modify-write under way at another owner: its next
access waits for neither (R154, R164, R245, R259). -/
def Ordered (s : State) : Prop :=
  drainsDue (coreOf s s.cur) (actOf s s.cur) = false ∧ ∀ e ∈ (coreOf s s.cur).sb, e.slot = actOf s s.cur → e.req = .none

/-- The words of a range hold no bit error that has not been read yet (R71). -/
def NoErrors (s : State) (pa n : Nat) : Prop := ∀ x ∈ s.ecc, ∀ j, j < n → physOf s (pa + j) / 8 ≠ x.1

/-- A range of the program data of the current core's own slice, in space L: below `QBASE`, no furled range in the slice (R112, R116,
R215). -/
def LocalData (s : State) (ea : Word) (n : Nat) : Prop :=
  s.cur < 6144 ∧ 0 < n ∧ ea.toNat + n ≤ s.curSlot.qbase.toNat ∧ s.curSlot.qbase.toNat ≤ 0x18000 ∧ (coreOf s s.cur).furl = []

end Sys2Proof.Machine
end

