-- ==== Sys2Proof/Claims/Scalar.lean ====
section
/-! DEFINITION. The results of the scalar instructions as chapter 02 writes them, in exact arithmetic on the values of the operands (R35,
R37, R38, R40, R41, R50), and tables that pair each instruction with its result. -/

namespace Sys2Proof.Machine.Claims

/-- The value of the low `w` bits of an operand (R15). -/
def low (sz : Sz) (x : Word) : Nat := x.toNat % 2 ^ Alu.szW sz

/-- `Signed(x, W)` (R35). -/
def signed (w x : Nat) : Int := if x < 2 ^ (w - 1) then x else (x : Int) - 2 ^ w

/-- `ZeroExtend(v<W-1:0>, 64)` of an exact result. -/
def result (w : Nat) (v : Int) : Word := BitVec.ofInt 64 (v % 2 ^ w)

/-- A comparison's result. -/
def truth (b : Bool) : Int := if b then 1 else 0

/-- The quotient rounded toward zero, from the magnitudes. -/
def truncDiv (a b : Int) : Int := (if (0 ≤ a) = (0 ≤ b) then 1 else -1) * ((a.natAbs / b.natAbs : Nat) : Int)

/-- A two-source instruction: its register form, its literal form, and its result by width and operand values. -/
abbrev IntRow := (Sz → Dst → Src → Src → Instr) × (Sz → Dst → Src → BitVec 32 → Instr) × (Nat → Nat → Nat → Int)

/-- The arithmetic of R35. -/
def arithTable : List IntRow :=
  [(.addReg, .addLit, fun _ a b => a + b), (.subReg, .subLit, fun _ a b => (a : Int) - b), (.mulReg, .mulLit, fun _ a b => a * b),
   (.mulhReg, .mulhLit, fun w a b => (signed w a * signed w b) / 2 ^ w),
   (.mulhuReg, .mulhuLit, fun w a b => ((a * b / 2 ^ w : Nat) : Int)),
   (.divReg, .divLit, fun w a b => if b = 0 then -1 else if signed w a = -2 ^ (w - 1) ∧ signed w b = -1 then signed w a
     else truncDiv (signed w a) (signed w b)),
   (.divuReg, .divuLit, fun w a b => if b = 0 then 2 ^ w - 1 else ((a / b : Nat) : Int)),
   (.remReg, .remLit, fun w a b => if b = 0 then signed w a else if signed w a = -2 ^ (w - 1) ∧ signed w b = -1 then 0
     else signed w a - signed w b * truncDiv (signed w a) (signed w b)),
   (.remuReg, .remuLit, fun _ a b => if b = 0 then a else (a : Int) - b * (a / b : Nat)),
   (.minReg, .minLit, fun w a b => if signed w a ≤ signed w b then a else b),
   (.maxReg, .maxLit, fun w a b => if signed w b ≤ signed w a then a else b),
   (.minuReg, .minuLit, fun _ a b => if a ≤ b then a else b), (.maxuReg, .maxuLit, fun _ a b => if b ≤ a then a else b)]

/-- Complement at a width. -/
def compl (w x : Nat) : Nat := 2 ^ w - 1 - x

/-- The logic and shifts of R37; the count is the low log2(W) bits of the second operand. -/
def logicTable : List IntRow :=
  [(.andReg, .andLit, fun _ a b => (a &&& b : Nat)), (.orReg, .orLit, fun _ a b => (a ||| b : Nat)),
   (.xorReg, .xorLit, fun _ a b => (a ^^^ b : Nat)), (.andnReg, .andnLit, fun w a b => (a &&& compl w b : Nat)),
   (.ornReg, .ornLit, fun w a b => (a ||| compl w b : Nat)),
   (.shlReg, .shlLit, fun w a b => (a * 2 ^ (b % w) : Nat)), (.shrReg, .shrLit, fun w a b => (a / 2 ^ (b % w) : Nat)),
   (.sarReg, .sarLit, fun w a b => signed w a / 2 ^ (b % w)),
   (.rolReg, .rolLit, fun w a b => (a * 2 ^ (b % w) ||| a / 2 ^ (w - b % w) : Nat)),
   (.rorReg, .rorLit, fun w a b => (a / 2 ^ (b % w) ||| a * 2 ^ (w - b % w) : Nat))]

/-- The comparisons of R38. -/
def cmpTable : List IntRow :=
  [(.seqReg, .seqLit, fun _ a b => truth (a = b)), (.sneReg, .sneLit, fun _ a b => truth (a ≠ b)),
   (.sltReg, .sltLit, fun w a b => truth (signed w a < signed w b)), (.sltuReg, .sltuLit, fun _ a b => truth (a < b)),
   (.sleReg, .sleLit, fun w a b => truth (signed w a ≤ signed w b)), (.sleuReg, .sleuLit, fun _ a b => truth (a ≤ b))]

/-- The rows whose literal is sign-extended, and those whose literal is zero-extended (R22). -/
def signTable : List IntRow := arithTable ++ cmpTable

/-- The literal as its word, sign-extended and zero-extended (R22). -/
def litS (imm : BitVec 32) : Word := imm.signExtend 64
def litZ (imm : BitVec 32) : Word := imm.setWidth 64

/-- The funnels of R37 with their count. -/
def funnelTable : List ((Sz → Dst → Src → Src → Src → Instr) × (Sz → Dst → Src → BitVec 32 → Src → Instr) × (Nat → Nat → Nat → Nat → Int)) :=
  [(.fshlReg, .fshlLit, fun w a b c => ((a * 2 ^ w + c) * 2 ^ (b % w) / 2 ^ w : Nat)),
   (.fshrReg, .fshrLit, fun w a b c => ((a * 2 ^ w + c) / 2 ^ (b % w) : Nat))]

/-- How many of the bits below `w`, from the top or from the bottom, come before the first one. -/
def leading (w x : Nat) : Nat := if x = 0 then w else w - 1 - Nat.log2 x
def trailing (w x : Nat) : Nat := ((List.range w).takeWhile fun j => !x.testBit j).length
/-- How many bits below `w` are one. -/
def ones (w x : Nat) : Nat := ((List.range w).filter fun j => x.testBit j).length
/-- The number whose bit `j` is bit `f j` of `x`. -/
def permuted (w x : Nat) (f : Nat → Nat) : Nat := ((List.range w).filter fun j => x.testBit (f j)).foldl (fun a j => a + 2 ^ j) 0

/-- The one-source bit operations of R40 with a width (SEXT apart). -/
def bitTable : List ((Sz → Dst → Src → Instr) × (Nat → Nat → Int)) :=
  [(.clz, fun w a => leading w a), (.ctz, fun w a => trailing w a), (.popc, fun w a => ones w a),
   (.brev, fun w a => permuted w a fun j => w - 1 - j), (.bswap, fun w a => permuted w a fun j => w - 8 - j / 8 * 8 + j % 8)]

/-- The field operations of R40: the field at `pos` of `len` bits, of the first operand. -/
def fieldTable : List ((Sz → Dst → Src → BitVec 6 → BitVec 6 → Instr) × (Nat → Nat → Int)) :=
  [(.exts, fun len x => signed len x), (.extu, fun _ x => x)]

/-- The branches of R50. -/
def branchTable : List ((Sz → Src → Src → BitVec 32 → Instr) × (Nat → Nat → Nat → Bool)) :=
  [(.beq, fun _ a c => a = c), (.bne, fun _ a c => a ≠ c), (.blt, fun w a c => signed w a < signed w c),
   (.bge, fun w a c => signed w c ≤ signed w a), (.bltu, fun _ a c => a < c), (.bgeu, fun _ a c => c ≤ a)]

/-- `PC + SignExtend(LIT, 64) * 8` (R50). -/
def branchTo (pc : Word) (off : BitVec 32) : Word := BitVec.ofInt 64 (pc.toNat + 8 * off.toInt)

end Sys2Proof.Machine.Claims
end

