-- ==== Sys2Proof/Claims/Fp.lean ====
section
/-! DEFINITION. The values of the binary64 and binary32 codes as rationals, and what the scalar FP rules say of a result (R42 to R49). -/

namespace Sys2Proof.Machine.Claims

/-- Exponent bits, fraction bits and bias (R42). -/
def fpEb : FSz → Nat
  | .f64 => 11 | .f32 => 8
def fpMb : FSz → Nat
  | .f64 => 52 | .f32 => 23
def fpBias : FSz → Int
  | .f64 => 1023 | .f32 => 127
def fpWidth : FSz → Nat
  | .f64 => 64 | .f32 => 32

/-- An operand or a literal of an FP instruction (R42, R44). -/
def fpLow (f : FSz) (x : Word) : Nat := x.toNat % 2 ^ fpWidth f

/-- The parts of a code. -/
def fpExp (f : FSz) (c : Nat) : Nat := c / 2 ^ fpMb f % 2 ^ fpEb f
def fpFrac (f : FSz) (c : Nat) : Nat := c % 2 ^ fpMb f
def fpNeg (f : FSz) (c : Nat) : Bool := c.testBit (fpWidth f - 1)

/-- The classes of a code. -/
def fpFinite (f : FSz) (c : Nat) : Prop := c < 2 ^ fpWidth f ∧ fpExp f c ≠ 2 ^ fpEb f - 1
def fpIsNaN (f : FSz) (c : Nat) : Prop := fpExp f c = 2 ^ fpEb f - 1 ∧ fpFrac f c ≠ 0
def fpIsInf (f : FSz) (c : Nat) : Prop := fpExp f c = 2 ^ fpEb f - 1 ∧ fpFrac f c = 0
/-- A signalling NaN: its leading fraction bit is zero. -/
def fpSignals (f : FSz) (c : Nat) : Prop := fpIsNaN f c ∧ fpFrac f c < 2 ^ (fpMb f - 1)

/-- The canonical quiet NaNs (R42). -/
def fpQuiet : FSz → Nat
  | .f64 => 0x7FF8000000000000 | .f32 => 0x7FC00000

/-- The value of a finite code. -/
def fpVal (f : FSz) (c : Nat) : ℚ :=
  (if fpNeg f c then -1 else 1) * ((if fpExp f c = 0 then fpFrac f c else 2 ^ fpMb f + fpFrac f c : Nat) : ℚ) *
    (2 : ℚ) ^ ((max (fpExp f c) 1 : Int) - fpBias f - fpMb f)

/-- `c` is `RoundTo(F, x, rm)` where that is finite (R45, R89): toward zero it is the greatest magnitude not above that of `x`;
otherwise no other finite code lies nearer. -/
def Rounded (f : FSz) (rm : Rm) (x : ℚ) (c : Nat) : Prop :=
  fpFinite f c ∧
  (rm = .rtz → |fpVal f c| ≤ |x| ∧ 0 ≤ fpVal f c * x ∧ ∀ v, fpFinite f v → |fpVal f v| ≤ |x| → |fpVal f v| ≤ |fpVal f c|) ∧
  (rm ≠ .rtz → ∀ v, fpFinite f v → |fpVal f c - x| ≤ |fpVal f v - x|)

/-- An FP instruction of two sources with a rounding code, its literal form, its function. -/
def fpArithTable : List ((FSz → Dst → Src → Src → Rm → Instr) × (FSz → Dst → Src → BitVec 32 → Instr) ×
    (FSz → Rm → Nat → Nat → Nat × Num.Flags)) :=
  [(.faddReg, .faddLit, fun f rm => Num.fpAdd (Num.fszSpec f) rm 0), (.fsubReg, .fsubLit, fun f rm => Num.fpSub (Num.fszSpec f) rm 0),
   (.fmulReg, .fmulLit, fun f rm => Num.fpMul (Num.fszSpec f) rm 0), (.fdivReg, .fdivLit, fun f rm => Num.fpDiv (Num.fszSpec f) rm)]

/-- Codes that are no NaN in the order of their values, infinities included (R46): the magnitude is the code without its sign. -/
def fpKey (f : FSz) (c : Nat) : Int :=
  if fpNeg f c then -((c % 2 ^ (fpWidth f - 1) : Nat) : Int) else ((c % 2 ^ (fpWidth f - 1) : Nat) : Int)

/-- The same order, with −0 below +0 (R46). -/
def fpKeyZ (f : FSz) (c : Nat) : Int := if fpNeg f c then fpKey f c - 1 else fpKey f c

/-- The lesser or greater of two codes by R46: one that is a NaN gives way to the other. -/
def MinMaxOf (f : FSz) (max : Bool) (a b v : Nat) : Prop :=
  (fpIsNaN f a → fpIsNaN f b → v = fpQuiet f) ∧ (fpIsNaN f a → ¬ fpIsNaN f b → v = b) ∧ (¬ fpIsNaN f a → fpIsNaN f b → v = a) ∧
  (¬ fpIsNaN f a → ¬ fpIsNaN f b → (v = a ∨ v = b) ∧
    if max then fpKeyZ f a ≤ fpKeyZ f v ∧ fpKeyZ f b ≤ fpKeyZ f v else fpKeyZ f v ≤ fpKeyZ f a ∧ fpKeyZ f v ≤ fpKeyZ f b)

/-- The result of an ordered comparison by R46: 0 when unordered. -/
def CompareOf (f : FSz) (rel : Int → Int → Bool) (a b v : Nat) : Prop :=
  (fpIsNaN f a ∨ fpIsNaN f b → v = 0) ∧ (¬ fpIsNaN f a → ¬ fpIsNaN f b → v = if rel (fpKey f a) (fpKey f b) then 1 else 0)

/-- The mask of FCLASS (R46). -/
def ClassOf (f : FSz) (a v : Nat) : Prop :=
  (fpIsInf f a → v = if fpNeg f a then 1 else 2 ^ 7) ∧
  (fpIsNaN f a → v = if fpFrac f a < 2 ^ (fpMb f - 1) then 2 ^ 8 else 2 ^ 9) ∧
  (fpFinite f a → v = if fpExp f a ≠ 0 then (if fpNeg f a then 2 else 2 ^ 6) else if fpFrac f a ≠ 0 then (if fpNeg f a then 4 else 2 ^ 5)
    else (if fpNeg f a then 8 else 2 ^ 4))

end Sys2Proof.Machine.Claims
end

