-- ==== Sys2Proof/Claims/Words.lean ====
section
/-! DEFINITION. Words of the claims about instruction words: the opcodes and function codes of R25, and the worked words of the spec. -/

namespace Sys2Proof.Machine.Claims

/-- The major opcodes of R25, each with how many function codes it has, counted from 0. -/
def opcodeTable : List (Nat × Nat) :=
  [(0x02, 14), (0x03, 14), (0x04, 12), (0x05, 12), (0x06, 7), (0x07, 7), (0x08, 9), (0x09, 1), (0x10, 13), (0x12, 1), (0x20, 7), (0x22, 1),
   (0x24, 1), (0x26, 1), (0x28, 2), (0x30, 1), (0x31, 1), (0x32, 1), (0x33, 1), (0x34, 2), (0x35, 2), (0x36, 1), (0x37, 1), (0x3A, 1),
   (0x3C, 1), (0x40, 2), (0x41, 2), (0x42, 2), (0x44, 1), (0x50, 1), (0x52, 1), (0x54, 10), (0x56, 1), (0x58, 1), (0x5A, 3), (0x5C, 1)] ++
  [(0x60, 1), (0x66, 1), (0x68, 3), (0x6A, 1), (0x6C, 4), (0x6E, 1), (0x70, 1), (0x72, 1), (0x74, 1), (0x76, 1), (0x78, 1), (0x7A, 1),
   (0x7C, 1), (0x7E, 4), (0x80, 15), (0x81, 15), (0x82, 11), (0x84, 1), (0x86, 1), (0x88, 1), (0x8A, 1), (0x8C, 1), (0x8E, 4), (0x90, 1),
   (0x92, 1), (0x94, 1), (0xA0, 1), (0xA1, 1), (0xA2, 1), (0xA3, 1), (0xA4, 1), (0xA6, 1), (0xA8, 1), (0xAA, 1), (0xAC, 2), (0xAE, 1)] ++
  [(0xB0, 1), (0xB2, 1), (0xB4, 1), (0xB6, 1), (0xB8, 1), (0xBA, 1), (0xBC, 6), (0xBE, 1), (0xC0, 1), (0xC2, 1), (0xC4, 1), (0xC6, 1),
   (0xD0, 1), (0xD2, 1), (0xD4, 1), (0xD6, 1), (0xD8, 1), (0xDA, 1), (0xDC, 2), (0xDE, 3)]

/-- Whether R25 assigns a pair of opcode and function code. Three literal opcodes leave out members of their group that have no literal
form (FSQRT and FCLASS; CAS; the one-operand wide FP members). -/
def assigned (op fn : Nat) : Bool :=
  (opcodeTable.any fun p => p.1 = op && decide (fn < p.2)) || (op = 0x11 && decide (fn ≤ 11) && fn ≠ 4) ||
    (op = 0x55 && decide (fn ≤ 9) && fn ≠ 6) || (op = 0x83 && decide (fn ≤ 5))

/-- The worked words of the spec with the instructions they stand for (R25, R27, R45, R48, R53, R105, R121, R126, R134). -/
noncomputable def workedWords : List (Word × Instr) :=
  [(0x0301040000000001, .addLit .d (.g 4) (.g 4) 1), (0x0210420D00000000, .subReg .w (.g 1) (.g 2) (.g 3)),
   (0x0210420E00000000, .subReg .h (.g 1) (.g 2) (.g 3)), (0x0900410001234567, .movh (.g 1) (.g 1) 0x01234567),
   (0x1200810000008005, .fcvt (.g 2) (.g 1) 0 0 true .rne 0 5), (0x26008000FFFFFFFD, .loop 2 0xFFFFFFFD),
   (0x3101050000000040, .ldLit .d (.g 4) (.g 5) ⟨false, false⟩ false 0x40),
   (0x330106A000000000, .stLit .d (.g 4) (.g 6) ⟨true, true⟩ 0),
   (0x3000420D02A80000, .ldReg .w (.g 1) (.g 2) (.g 3) ⟨true, true⟩ 2 true), (0x3A00000000000013, .fence .rel .pkg),
   (0xC000080000000000, .epush 8 0), (0xDC00041418000000, .tlbw 4 5 6)]

/-- The worked illegal words (R27). -/
def workedIllegal : List (Word × Ill) :=
  [(0, .op), (0x2100000000000000, .op), (0x02E0420D00000000, .op), (0x021042AD00000000, .reg), (0x0210420D00000040, .field),
   (0x1100000200000000, .field)]

end Sys2Proof.Machine.Claims
end

