-- ==== Sys2Proof/Claims/Sync.lean ====
section
/-! DEFINITION. Words of the claims about atomics, queues, counters, barriers and futures. -/

namespace Sys2Proof.Machine.Claims

/-- The little-endian bytes of a value at an address, lowest address lowest (R8). -/
def leBytes (pa n v : Nat) : List (Nat × Byte) := (List.range n).map fun j => (pa + j, BitVec.ofNat 8 (v / 256 ^ j))

/-- A store of the running slot put last into the store buffer of its core, and nothing else changed (R260). -/
def Pushed (s t : State) (bytes : List (Nat × Byte)) : Prop := ∃ e : StoreEnt,
  t = { s with cores := t.cores, nextId := s.nextId + 1 } ∧ (∀ k, k ≠ s.cur → coreOf t k = coreOf s k) ∧
    coreOf t s.cur = { coreOf s s.cur with sb := (coreOf s s.cur).sb ++ [e] } ∧
    e.bytes = bytes ∧ e.slot = actOf s s.cur ∧ e.poison = [] ∧ e.nib = none ∧ e.tile = none ∧ e.rel = false ∧ e.sent = false ∧ e.req = .none ∧ e.acq = false

/-- The slot's earlier stores and read-modify-writes are performed, and its drain elements are stores: what a release waits for (R154, R263). -/
def Drained (s : State) : Prop :=
  (∀ e ∈ (coreOf s s.cur).sb, e.slot ≠ actOf s s.cur) ∧ drainsDue (coreOf s s.cur) (actOf s s.cur) = false

/-- A result delivered to a destination of R245. -/
def deliverTo (d : RDst) (v : Word) (s : State) : State :=
  match d with
  | .g r => s.onSlot fun x => x.setG r v
  | .e r => s.onSlot fun x => x.setE r ⟨v, true, false⟩
  | .zr => s

/-- A value written to a destination of the class `g` or `zr`. -/
def giveGZ (d : GZ) (v : Word) (s : State) : State :=
  match d with
  | .g r => s.onSlot fun x => x.setG r v
  | .zr => s

/-- A range of the core's own program data that no buffered store touches, for a task that waits for no access of its own; no bit error lies
in it. -/
def Settled (s : State) (pa n : Nat) : Prop :=
  (∀ e ∈ (coreOf s s.cur).sb, e.touches pa n = false) ∧ Ordered s ∧ NoErrors s pa n

/-- Such a range without poison. -/
def Clean (s : State) (pa n : Nat) : Prop := Settled s pa n ∧ ∀ j, j < n → fwdPoison s (coreOf s s.cur) (pa + j) = false

/-- The read-modify-writes of R244: constructors and the new value, from the width, the old value and the operand. -/
def ratTable : List ((FSz → RDst → GReg → Src → Mode → Instr) × (FSz → RDst → GReg → BitVec 32 → Mode → Instr) ×
    (FSz → Nat → Nat → Nat)) :=
  [(.rataddReg, .rataddLit, fun w a b => (a + b) % 2 ^ fpWidth w), (.ratfaddReg, .ratfaddLit, fun w a b => (Num.fpAdd (Num.fszSpec w) .rne 0 a b).1),
   (.ratfaddsReg, .ratfaddsLit, fun w a b => (Num.roundSpec (Num.fszSpec w) .rne true 0
     (Num.vAdd (Num.decodeSpec (Num.fszSpec w) a) (Num.decodeSpec (Num.fszSpec w) b)).1).1),
   (.ratmaxReg, .ratmaxLit, fun w a b => if signed (fpWidth w) a ≥ signed (fpWidth w) b then a else b),
   (.ratminReg, .ratminLit, fun w a b => if signed (fpWidth w) a ≤ signed (fpWidth w) b then a else b),
   (.ratswpReg, .ratswpLit, fun _ _ b => b), (.ratandReg, .ratandLit, fun _ a b => a &&& b), (.ratorReg, .ratorLit, fun _ a b => a ||| b),
   (.ratxorReg, .ratxorLit, fun _ a b => a ^^^ b)]

/-- Saturating addition gives the largest finite value of the sign where addition overflows (R244). -/
def maxFinite (w : FSz) (neg : Bool) : Nat := (if neg then 2 ^ (fpWidth w - 1) else 0) + ((2 ^ fpEb w - 1) * 2 ^ fpMb w - 1)

/-- A queue's control block, as the owner's core reads it from its slice (R246). -/
structure Queue where
  head : Nat
  tail : Nat
  cap : Nat
  ew : Nat
  base : Nat

/-- The block at an address is a valid queue of the core's own slice (R246). -/
def Queue.at (q : Queue) (s : State) (pa : Nat) : Prop :=
  let f (j : Nat) := rdNat s (pa + 8 * j) 8
  f 0 = q.head ∧ f 1 = q.tail ∧ f 2 = q.cap ∧ f 3 = q.ew ∧ f 4 = q.base ∧ f 5 = 0 ∧ f 6 = 0 ∧ f 7 = 0 ∧
    1 ≤ q.cap ∧ q.cap ≤ 65536 ∧ 1 ≤ q.ew ∧ q.ew ≤ 8 ∧ q.base < 2 ^ 17 ∧ q.base % 8 = 0 ∧
    q.base + 8 * q.ew * q.cap ≤ qbaseOf s s.cur ∧ (q.tail + 2 ^ 64 - q.head) % 2 ^ 64 ≤ q.cap

/-- The physical address of element `n` of a queue of the core. -/
def Queue.elem (q : Queue) (s : State) (n : Nat) : Nat := windowPa s.cur q.base + 8 * q.ew * (n % q.cap)

end Sys2Proof.Machine.Claims
end

