-- ==== Sys2Proof/Claims/Wide.lean ====
section
/-! DEFINITION. Words of the claims about wide instructions: written elements, seals, acceptance, and the tables of the wide groups. -/

namespace Sys2Proof.Machine.Claims

/-- A wide register of the running slot (R158). -/
def wideAt (s : State) (r : WReg) : WVal := wideOf s s.cur (actOf s s.cur) r

/-- The elements of a result (R168): where the mask enables the lane, `F`; elsewhere the old element, or zero with KZ. -/
def Written (et : Et) (mask : Word) (kz : Bool) (old : WideBits) (F : Nat → Nat) (v : WideBits) : Prop :=
  ∀ i, i < etN et → elem (etW et) v i = if lane (etW et) mask i then F i else if kz then 0 else elem (etW et) old i

/-- The seal of a result (R159): the one seal that its sources carry, if any does. -/
def Joined (l : List WVal) (t : Option (Fin 64)) : Prop := (∀ x ∈ l, x.tag = none ∨ x.tag = t) ∧ (t = none ∨ ∃ x ∈ l, x.tag = t)

/-- The sources of a result: the old contents are one where elements of them stay, or where the operation reads them (R159). -/
def sources (k : KReg) (kz keep : Bool) (old : WVal) (l : List WVal) : List WVal := if keep ∨ (kz = false ∧ k ≠ 0) then old :: l else l

/-- What a result is written as: its elements, seal and poison (R72, R159). -/
def resultOf (l : List WVal) (t : Option (Fin 64)) (v : WideBits) : WVal := ⟨v, t, l.any (·.poison)⟩

/-- An instruction of the wide unit accepted: what its retirement will do and the keys it uses, last in the dispatch queue (R155, R213, R217). -/
def acceptedUnder (s : State) (fl : Num.Flags) (res : Option (EReg × Word × Bool)) (keys : List (Nat × Bool)) : State :=
  modCore s s.cur fun x => { x with dq := x.dq ++ [⟨false, actOf s s.cur, s.curSlot.task, fl, res, none, none, false, keys, s.nextId⟩] }

/-- One that uses no key. -/
def accepted (s : State) (fl : Num.Flags) (res : Option (EReg × Word × Bool)) : State := acceptedUnder s fl res []

/-- A wide register can be written: it is private, or the quad has a free physical register (R158). -/
def WideReady (s : State) (r : WReg) : Prop :=
  (∃ p, s.curSlot.w.get r = .priv p) ∨ ∃ p : Fin 192, ((quadAt s (quadOf s.cur)).pregs.get p).used = false

/-- An instruction of the wide unit gives a register a value and is accepted (R155, R158). -/
def Gives (s t : State) (i : Instr) (wd : WReg) (x : WVal) (fl : Num.Flags) (post : State → State) : Prop :=
  ∃ u, wwrite wd x t = .ok ((), u) ∧ exec i s = .next (s.past (accepted (post u) fl none))

/-- There is a free entry of the dispatch queue. -/
def Room (s : State) : Prop := (coreOf s s.cur).dq.length < 16

/-- A number of the wide integer group (R170): the constructors, and the element from its width and its operands. -/
def wideIntTable : List ((Et → WReg → WReg → WOpnd → KReg → Bool → Instr) × (Et → WReg → WReg → BitVec 32 → KReg → Bool → Instr) ×
    (Nat → Nat → Nat → Int)) :=
  [(.waddReg, .waddLit, fun _ a b => (a : Int) + b), (.wsubReg, .wsubLit, fun _ a b => (a : Int) - b), (.wmulReg, .wmulLit, fun _ a b => (a : Int) * b),
   (.wminReg, .wminLit, fun w a b => min (signed w a) (signed w b)), (.wmaxReg, .wmaxLit, fun w a b => max (signed w a) (signed w b)),
   (.wminuReg, .wminuLit, fun _ a b => (min a b : Nat)), (.wmaxuReg, .wmaxuLit, fun _ a b => (max a b : Nat)),
   (.wandReg, .wandLit, fun _ a b => (a &&& b : Nat)), (.worReg, .worLit, fun _ a b => (a ||| b : Nat)), (.wxorReg, .wxorLit, fun _ a b => (a ^^^ b : Nat)),
   (.wshlReg, .wshlLit, fun w a b => (a : Int) * 2 ^ (b % w)), (.wshrReg, .wshrLit, fun w a b => (a / 2 ^ (b % w) : Nat)),
   (.wsarReg, .wsarLit, fun w a b => signed w a / 2 ^ (b % w))]

/-- The funnel shifts (R170): the element from the width, the high and the low word and the count. -/
def wideFunnelTable : List ((Et → WReg → WReg → WOpnd → KReg → Bool → Instr) × (Et → WReg → WReg → BitVec 32 → KReg → Bool → Instr) ×
    (Nat → Nat → Nat → Nat → Nat)) :=
  [(.wfshlReg, .wfshlLit, fun w hi lo t => (hi * 2 ^ w + lo) * 2 ^ (t % w) / 2 ^ w % 2 ^ w), (.wfshrReg, .wfshrLit, fun w hi lo t => (hi * 2 ^ w + lo) / 2 ^ (t % w) % 2 ^ w)]

/-- An integer cut to an element. -/
def toElem (w : Nat) (x : Int) : Nat := (x % 2 ^ w).toNat

/-- The two-operand wide FP group (R171). -/
def wideFpTable : List ((Et → WReg → WReg → WOpnd → KReg → Bool → Rm → Instr) × (Et → WReg → WReg → BitVec 32 → KReg → Bool → Instr) ×
    (Num.Spec → Rm → Nat → Nat → Nat → Nat × Num.Flags)) :=
  [(.wfaddReg, .wfaddLit, Num.fpAdd), (.wfsubReg, .wfsubLit, Num.fpSub), (.wfmulReg, .wfmulLit, Num.fpMul),
   (.wfminReg, .wfminLit, fun sp _ _ a b => Num.fpMinMax sp false a b), (.wfmaxReg, .wfmaxLit, fun sp _ _ a b => Num.fpMinMax sp true a b)]

/-- The one-operand group (R171). -/
def wideUnaryTable : List ((Et → WReg → WReg → KReg → Bool → Rm → Instr) × (Num.Spec → Rm → Nat → Nat → Nat × Num.Flags)) :=
  [(.wfabs, fun sp _ _ a => (a % 2 ^ (sp.eb + sp.mb), 0)), (.wexp2, Num.fpUnary Num.vExp2), (.wrcp, Num.fpUnary Num.vRcp),
   (.wrsq, Num.fpUnary Num.vRsq), (.wlog2, Num.fpUnary Num.vLog2)]

/-- How many of the elements up to `i`, itself among them, are written. -/
def writtenUpTo (et : Et) (mask : Word) (i : Nat) : Nat := ((List.range (i + 1)).filter fun j => lane (etW et) mask j).length

/-- The stochastic state that decides element `i`: advanced once for every written element up to it where the rounding is SR (R90, R91). -/
def srAt (rm : Rm) (st : Word) (n : Nat) : Word := if rm = .sr then Num.srAdvance^[n] st else st

/-- The flags of the written elements, ORed. -/
def flagsOf (et : Et) (mask : Word) (fl : Nat → Num.Flags) : Num.Flags :=
  (List.range (etN et)).foldl (fun a i => if lane (etW et) mask i then a ||| fl i else a) 0

/-- The integer comparisons of WCMP (R172), by the condition code. -/
def intCond (w cond a b : Nat) : Bool :=
  match cond with
  | 0 => decide (a = b) | 1 => decide (a ≠ b) | 2 => decide (signed w a < signed w b) | 3 => decide (signed w a ≤ signed w b)
  | 4 => decide (a < b) | _ => decide (a ≤ b)

/-- Stores of the running slot put last into the store buffer of its core, together of some bytes in order; the words of a poisoned value
are written poisoned (R72, R155). -/
def PushedAll (s t : State) (bytes : List (Nat × Byte)) (pois rel : Bool) : Prop := ∃ es : List StoreEnt,
  t = { s with cores := t.cores, nextId := s.nextId + es.length } ∧ (∀ k, k ≠ s.cur → coreOf t k = coreOf s k) ∧
    coreOf t s.cur = { coreOf s s.cur with sb := (coreOf s s.cur).sb ++ es } ∧ (es.map (·.bytes)).flatten = bytes ∧
    ∀ e ∈ es, e.slot = actOf s s.cur ∧ e.nib = none ∧ e.rel = rel ∧ e.sent = false ∧ e.req = .none ∧
      e.poison = if pois then (e.bytes.map fun b => b.1 / 8).eraseDups else []

/-- The bytes of a wide load (R184): those covered come from memory, the others stay or are zeroed. -/
def Loaded (s : State) (pa : Nat → Nat) (cov : Nat → Bool) (kz : Bool) (old v : WideBits) : Prop :=
  ∀ j, j < 256 → elem 8 v j = if cov j then (rdByte s (pa j)).toNat else if kz then 0 else elem 8 old j

/-- Whether a word of the covered bytes is poisoned. -/
def anyBad (s : State) (pa : Nat → Nat) (cov : Nat → Bool) : Bool :=
  (List.range 256).any fun j => cov j && fwdPoison s (coreOf s s.cur) (pa j)

end Sys2Proof.Machine.Claims
end

