-- ==== Sys2Proof/Claims/Units.lean ====
section
/-! DEFINITION. Words of the claims about the matrix unit: tiles, contexts, products and recurrences, and ranges read from the own slice. -/

namespace Sys2Proof.Machine.Claims

/-- The value of an operand of the class `g` or `zr` (R10). -/
def valGZ (s : State) : GZ → Word
  | .g r => s.curSlot.g.get r
  | .zr => 0

/-- A tile of the current core. -/
def tileAt (s : State) (c : Fin 4) : Tile := (coreOf s s.cur).tiles.get c

/-- A tile of the current core replaced. -/
def putTile (s : State) (c : Fin 4) (x : Tile) : State := modCore s s.cur fun k => { k with tiles := k.tiles.set c.val x c.isLt }

/-- A matrix instruction accepted: last in the dispatch queue (R155, R190). -/
def acceptedX (s : State) (fl : Num.Flags) (tile : Option (Fin 4)) : State :=
  modCore s s.cur fun x => { x with dq := x.dq ++ [⟨true, actOf s s.cur, s.curSlot.task, fl, none, none, tile, false, [], s.nextId⟩] }

/-- The width class of a format code as a matrix operand, from the tables of R75 and R77. -/
def operandClass (code : Nat) : Option Nat :=
  if code ∈ [0x01, 0x02] then some 16
  else if code ∈ [0x05, 0x06, 0x07, 0x08, 0x0B, 0x0C, 0x10, 0x11, 0x18, 0x19, 0x1A, 0x1B] then some 8
  else if code ∈ [0x09, 0x0D, 0x12] then some 4 else none

/-- A context word that MCTX takes (R194, R195). -/
def GoodContext (w : Word) : Prop :=
  let x := w.toNat
  x / 32 % 8 = 0 ∧ x / 8192 % 8 = 0 ∧ x / 131072 % 8 = 0 ∧ x / 8388608 = 0 ∧
    ∃ c, operandClass (x % 32) = some c ∧ operandClass (x / 256 % 32) = some c ∧ (x / 65536 % 2 = 1 → c ≠ 16)

/-- An operation of a recurrence program is a valid one (R204). -/
def GoodOp (x : Nat) : Prop :=
  let opc := x / 4096
  let dst := x / 256 % 16
  let a := x / 16 % 16
  let b := x % 16
  (opc = 0 ∧ dst = 0 ∧ a = 0 ∧ b = 0) ∨ (1 ≤ opc ∧ opc ≤ 7 ∧ dst ≤ 2 ∧ a ≤ 7 ∧ b ≤ 7 ∧ (opc = 6 → b = 0))

/-- Whether a word of some rows of the own slice is poisoned: `n` rows of `len` bytes with a stride. -/
def rowsBad (s : State) (pa n st len : Nat) : Bool :=
  (List.range n).any fun i => (List.range len).any fun j => fwdPoison s (coreOf s s.cur) (pa + i * st + j)

/-- A stride of rows (R192, R193, R207): zero names the packed one, and any other is of 32 bits and at least that. -/
def Stride (v : Word) (packed align st : Nat) : Prop :=
  st = (if v = 0 then packed else v.toNat) ∧ packed ≤ st ∧ st < 2 ^ 32 ∧ v.toNat % align = 0

/-- What a context gives of a tile (R191): the width of an element, the length of the contraction, a packed row of B, the groups, and the scale bytes. -/
structure Shape where
  w : Nat
  K : Nat
  row : Nat
  G : Nat
  ns : Nat

/-- The shape under a context word. -/
def shapeOf (ctx : BitVec 32) : Shape :=
  let w := (operandClass (ctx.toNat % 32)).getD 16
  ⟨w, 512 / w, 4 * w, 16 / w, if ctx.toNat / 65536 % 2 = 1 then 512 / w else 0⟩

/-- Element (i, k) of A and (k, j) of B, decoded, and their block scales (R192, R193, R203): A lies in the slice at `pa`, B in the latch. -/
structure Operands where
  a : Nat → Nat → Num.Val
  b : Nat → Nat → Num.Val
  sa : Nat → Nat → Nat
  sb : Nat → Nat → Nat

/-- The operands of an MMA or MREC of the current core. -/
def operandsAt (s : State) (pa st : Nat) : Operands :=
  let k := coreOf s s.cur
  let sh := shapeOf k.mctx
  let fmt (c : Nat) : Num.Fmt := (Num.fmtOfCode c).getD .bf16
  ⟨fun i n => Num.decodeFmt k.dt (fmt (k.mctx.toNat % 32)) (rdNat s (pa + i * st) 64 / 2 ^ (sh.w * n) % 2 ^ sh.w),
   fun n j => Num.decodeFmt k.dt (fmt (k.mctx.toNat / 256 % 32)) (k.latch.data.toNat / 2 ^ (sh.w * (32 * n + j)) % 2 ^ sh.w),
   fun i g => (rdByte s (pa + 32 * st + i * sh.G + g)).toNat, fun g j => k.latch.scales.toNat / 2 ^ (8 * (32 * g + j)) % 256⟩

/-- A value times a power of two; a block scale of 0xFF makes it a NaN (R93, R95). -/
def scaled (mx : Bool) (x : Num.Val) (scs : List Nat) : Num.Val :=
  if mx = false then x else if 255 ∈ scs then .nan false
  else match x with
    | .fin n m e => .fin n m (e + (scs.map fun c => (c : Int) - 127).sum)
    | v => v

/-- The product of tiles in one element (R94, R95): group by group, the exact sum of the products rounded once and added. -/
def product (mx : Bool) (G : Nat) (o : Operands) (i j c : Nat) : Nat :=
  (List.range G).foldl (fun c g =>
    let sum := ((List.range 32).map fun n => (Num.vMul (o.a i (32 * g + n)) (o.b (32 * g + n) j)).1).foldl (fun x p => (Num.vAdd x p).1) (.fin true 0 0)
    let r := (Num.roundSpec spF32 .rne false 0 (scaled mx sum [o.sa i g, o.sb g j])).1
    if nan32 c then 0x7FC00000 else (Num.fpAdd spF32 .rne 0 c r).1) c

/-- The recurrence in one element (R206): a step of the program for each element of the contraction. -/
def recurrence (mx : Bool) (K : Nat) (prog : Word) (o : Operands) (i j c : Nat) : Nat :=
  (List.range K).foldl (fun c n =>
    let op (v : Num.Val) (sc : Nat) : Nat := (Num.roundSpec spF32 .rne false 0 (scaled mx v [sc])).1
    (recStep prog c (op (o.a i n) (o.sa i (n / 32))) (op (o.b n j) (o.sb (n / 32) j))).1) c

end Sys2Proof.Machine.Claims
end

