-- ==== Sys2Proof/Claims/Engines.lean ====
section
/-! DEFINITION. Words of the claims about copy engines: handles, channels, a command with one unit left, and how bytes and elements are written. -/

namespace Sys2Proof.Machine.Claims

/-- The engine and channel that an engine index names through ENGMAP and the handle table (R132, R135). -/
def Granted (s : State) (idx eng ch : Nat) : Prop :=
  idx < s.curSlot.engMap.toNat / 2 ^ 16 % 128 ∧ ∃ x, nget s.ctxs s.curSlot.ctx = some x ∧
    nget x.handles (s.curSlot.engMap.toNat % 4096 + idx) = some (.engine eng ch)

/-- The rows of the operations of a command word (R139). -/
noncomputable def operRows : List (Nat × (Nat → Instr)) := [(1, .copy), (2, .copy2d), (3, .copy3d), (4, .fill), (5, .convert), (6, .furlmove)]

/-- The row that runs an operation: that of COPY runs the reserved ones too (R141). -/
def rowOf (o : Nat) : Nat := if 2 ≤ o ∧ o ≤ 6 then o else 1

/-- A command executes on channel `ch` of an engine, alone of its operation, and none of that operation starts; others may execute beside it
(R131, R133). -/
def Executing (s : State) (eng ch : Nat) (x : Exec) : Prop :=
  (∀ q, nextStart s eng = some q → rowOf q.2.oper ≠ rowOf x.cmd.oper) ∧
    (executing s eng).filter (fun e => rowOf e.2.cmd.oper = rowOf x.cmd.oper) = [(chanKey eng ch, x)]

/-- A turn of a unit takes a new number for what it leaves open. -/
def turned (s : State) : State := { s with tick := s.tick + 1 }

/-- The result FIFO of a channel takes a result at once: it has room, nothing is held for it, and no pop waits (R133, R137). -/
def ResultRoom (s : State) (key : Nat) : Prop := (chanAt s key).results.length < 32 ∧ (chanAt s key).held = [] ∧ (chanAt s key).pops = []

/-- A pending pop takes a result: that of a task that has ended drops it (R137). -/
def popped (s : State) (p : APop) (x y : Word) : State :=
  if (slotAt s p.core p.slot).task = p.task then modSlot s p.core p.slot fun u => { u with
    e := (u.e.setIfInBounds (2 * p.pair.val) ⟨x, true, false⟩).setIfInBounds (2 * p.pair.val + 1) ⟨y, true, false⟩ } else s

/-- No word of some bytes is poisoned. -/
def NoPoison (s : State) (pas : List Nat) : Prop := ∀ q ∈ pas, isPoison s q = false

/-- Bytes put into memory in order (R69). -/
def putBytes (s : State) (m : Memory) (bytes : List (Nat × Byte)) : Memory := bytes.foldl (fun m b => memSet m (physOf s b.1) b.2) m

/-- A source and a destination that share no byte. -/
def Apart (s : State) (src dst : List Nat) : Prop := ∀ a ∈ src, ∀ b ∈ dst, physOf s a ≠ physOf s b

/-- A command that asks for a result and no other completion, with no error so far (R149, R150). -/
def Exec.Plain (x : Exec) : Prop := x.stop = none ∧ x.pois = none ∧ x.cmd.bit 49 = true ∧ x.cmd.bit 50 = false ∧ x.cmd.bit 51 = false ∧ x.cmd.bit 52 = false

/-- The state once a command has completed: its result, if it asks for one, last in the result FIFO of its channel (R133, R150). -/
def completed (s : State) (key : Nat) (x : Exec) (w1 : Word) : State :=
  { modChan s key fun c => { c with exec := c.exec.filter fun y => y.cmd.id ≠ x.cmd.id, results := c.results ++ [(word (x.cmd.word 0 % 2 ^ 16 * 2 ^ 48 + x.cmd.word 0 / 2 ^ 56 * 2 ^ 32 + x.done % 2 ^ 32), w1)] } with
    unitAns := ndel s.unitAns (2000000 + x.cmd.id) }

/-- A code written at a place: a 4-bit one changes its nibble only (R76, R142). -/
def putCode (s : State) (f : Num.Fmt) (m : Memory) (pa col code : Nat) : Memory :=
  if Num.fmtWidth f = 4 then
    let old := (memGet m (physOf s pa)).toNat
    memSet m (physOf s pa) (BitVec.ofNat 8 (if col % 2 = 0 then old / 16 * 16 + code else old % 16 + 16 * code))
  else putBytes s m (leBytes pa (max 1 (Num.fmtWidth f / 8)) code)

/-- The code at a source element (R76, R142). -/
def codeAt (s : State) (f : Num.Fmt) (pa col : Nat) : Nat :=
  if Num.fmtWidth f = 4 then (rdByte s pa).toNat / (if col % 2 = 0 then 1 else 16) % 16
  else rdNat s pa (max 1 (Num.fmtWidth f / 8)) % 2 ^ Num.fmtWidth f

end Sys2Proof.Machine.Claims
end

