-- ==== Sys2Proof/Claims/Traps.lean ====
section
/-! DEFINITION. Words of the claims about exceptions, system registers and supervision. -/

namespace Sys2Proof.Machine.Claims

/-- SLOTST (R342): SV is set in supervisor mode, which a translation service core is always in (R343). -/
def slotWord (c i : Nat) (sl : Slot) : Word :=
  word (sl.pc.toNat / 8 % 2 ^ 54 * 2 ^ 10 + (if sl.sv = true ∨ 6144 ≤ c then 2 ^ 9 else 0) + sl.up.toNat * 2 ^ 8 + sl.depth.toNat * 2 ^ 6 + (if i = 4 then 2 ^ 5 else 0) + sl.mw)

/-- The bytes of some words laid out from an address (R8). -/
def wordBytes (pa : Nat) (ws : List Word) : List (Nat × Byte) := ws.zipIdx.flatMap fun p => leBytes (pa + 8 * p.2) 8 p.1.toNat

/-- A record of a context's terminal ring (R110, R356): the plain form, or the restricted one of a protected context (R388). -/
def terminalRecord (x : Context) (ctx code cause : Nat) (info w2 : Word) (us core slot : Nat) : List Word :=
  let w0 (cs : Nat) : Word := word (code + 2 * 2 ^ 8 + (if x.desc.trm then 1 else 2) * 2 ^ 10 + x.desc.vf.toNat * 2 ^ 12 + cs * 2 ^ 24 + x.desc.pasid.toNat * 2 ^ 40)
  if x.desc.prot then [w0 0, if 0x10 ≤ code ∧ code ≤ 0x12 then word (Config.guestPage ctx info.toNat) else 0, if code = 0x10 then w2 else 0,
    word (us / 1000 * 1000), 0, 0, 0, 0]
  else [w0 cause, info, w2, word us, word (core % 8192 + slot * 8192), 0, 0, 0]

/-- The terminal ring of a context (R109): its logical device's, or its VF's. -/
def terminalRing (x : Context) : Nat := if x.desc.trm then 16 + x.desc.vf.toNat / 24 else 32 + x.desc.vf.toNat

/-- The system registers of a slot that its own core reads in user mode, with their values (R344). -/
def userRegs (c : Nat) (k : Core) (i : Nat) (sl : Slot) : List (Nat × Word) :=
  [(0x000, slotWord c i sl), (0x001, sl.fpst.setWidth 64), (0x002, k.srst), (0x003, sl.upc), (0x004, word (sl.carveBase.toNat + sl.carveSize.toNat - 256)),
   (0x005, sl.finfo0), (0x006, sl.finfo1), (0x007, sl.finfo2), (0x008, word (sl.carveBase.toNat + sl.carveSize.toNat * 2 ^ 17 + sl.spillN.toNat * 2 ^ 34 +
     sl.cowN.toNat * 2 ^ 39 + sl.qbase.toNat * 2 ^ 46)), (0x009, sl.ovfp), (0x00A, sl.tplBase.setWidth 64), (0x020, sl.engMap), (0x030, sl.wdLim.setWidth 64)] ++
  k.rgn.toList.zipIdx.map fun p => (0x010 + p.2, p.1)

/-- The slot whose registers a target word names, as seen from the current slot (R349, R350): region rank and slot number. -/
def Target (s : State) (x : Word) (c i : Nat) : Prop :=
  ∃ r, x.toNat = r + i * 8192 ∧ r < 8192 ∧ i ≤ 4 ∧ r < s.curSlot.rlen.toNat ∧ c = s.cur - s.curSlot.rank.toNat + r

end Sys2Proof.Machine.Claims
end

