-- ==== Sys2Proof/Claims/Messages.lean ====
section
/-! DEFINITION. Words of the claims about messages, their handlers and the start of tasks. -/

namespace Sys2Proof.Machine.Claims

/-- The H slot of a core is free and may pre-empt (R233, R321). -/
def HFree (s : State) (c : Nat) : Prop := (slotAt s c 4).st = .free ∧
  ∀ i, (coreOf s c).act = some i → i ≠ 4 ∧ ((slotAt s c i).st = .ready → (slotAt s c i).mw = 0) ∧ ∀ w, (slotAt s c i).st ≠ .stalled w

/-- What comes for a context is given to the core itself: the context is not one that was descheduled from that core (R234, R359). -/
def Here (s : State) (c x : Nat) : Prop :=
  (coreOf s c).ctx = some x ∨ ∀ y v, nget s.ctxs x = some y → y.saved = some v → nget v.cores c = none

/-- What comes for a context is kept with its preserved state, where its core is `k` (R234, R359). -/
def Kept (s : State) (c x : Nat) (y : Context) (v : Saved) (k : Core) : Prop :=
  (coreOf s c).ctx ≠ some x ∧ nget s.ctxs x = some y ∧ y.saved = some v ∧ nget v.cores c = some k

/-- The one message on the mesh for a core, among others for elsewhere. -/
def OneFor (s : State) (c : Nat) (m : Msg) (rest : List Msg) : Prop :=
  ∃ l r, s.mesh = l ++ m :: r ∧ rest = l ++ r ∧ m.dst = c ∧ ∀ o ∈ rest, o.dst ≠ c

/-- The state once that message has been taken off the mesh. -/
def takenOff (s : State) (rest : List Msg) : State := { s with mesh := rest, tick := s.tick + 1 }

/-- A reply put on the mesh for the slot that waits (R122, R231). -/
def withReply (s : State) (m : Msg) (r : Reply) (d : RTo) : State :=
  { s with mesh := s.mesh ++ [⟨m.src.core, m.src, .reply r m.src.slot m.src.task d⟩] }

/-- A store that arrived put last into the owner's store buffer (R242): its bytes or its nibble, the words written poisoned, what it read, and
whose place its performance frees. -/
def arrived (s : State) (c : Nat) (src : Sender) (va : Word) (bytes : List (Nat × Byte)) (pois : List Nat) (nib : Option (Nat × Nat × BitVec 4)) (ack : Ack)
    (rd : List (Nat × Nat)) : State :=
  { modCore s c fun k => { k with sb := k.sb ++ [{ StoreEnt.plain s.nextId 5 src va bytes with poison := pois, nib := nib, ack := ack, rd := rd }] }
    with nextId := s.nextId + 1 }

/-- The place of a store in its sender's buffer given up. -/
def placeFreed (s : State) (c id : Nat) : State := modCore s c fun k => { k with sb := k.sb.filter fun x => x.id ≠ id }

/-- Whether the owner's buffered stores touch a range. -/
def Untouched (s : State) (c pa n : Nat) : Prop := ∀ e ∈ (coreOf s c).sb, e.touches pa n = false

/-- The row that executes a read-modify-write at its owner (R241). -/
noncomputable def rmwRow : Rmw → Nat → Instr
  | .rat _ _ _ _ _ => .remoteRat | .enq _ _ => .remoteQenq | .deq _ => .remoteQdeq | .fut _ _ _ => .remoteFut
  | .barrier => .barrierObjectArrival | .bump _ _ => .remoteRat

/-- The functions of RAT by their code (R25, R244), from the width, the old value and the operand. -/
def ratCodes : List (Nat × (Nat → Nat → Nat → Nat)) :=
  let sp (w : Nat) : Num.Spec := Num.fszSpec (if w = 64 then .f64 else .f32)
  [(0, fun w a b => (a + b) % 2 ^ w), (1, fun w a b => (Num.fpAdd (sp w) .rne 0 a b).1), (3, fun w a b => if signed w b ≤ signed w a then a else b),
   (4, fun w a b => if signed w a ≤ signed w b then a else b), (5, fun _ _ b => b), (7, fun _ a b => a &&& b), (8, fun _ a b => a ||| b), (9, fun _ a b => a ^^^ b)]

/-- A slot in which a task has just started (R14, R54, R233, R252): its registers, identity and privileges; `id` is the model's number of it. -/
def startedSlot (s : State) (c : Nat) (sl : Slot) (pc : Word) (g : List Word) (src : Word) (launch : Option Nat) (ctx id : Nat) (args : Option Word) : Slot :=
  let d := (nget s.ctxs ctx).map (·.desc)
  let l := (coreOf s c).launch.bind (nget s.launches)
  { sl.freed with
    st := .ready, pc := pc, g := Vector.ofFn fun j => g.getD j.val 0, ix := 0, nix := 1, src := src, launch := launch, ctx := ctx, task := id
    rank := (match l with | some x => word (c - x.base) | none => 0), rlen := (match l with | some x => word x.rlen | none => 1)
    upc := (match d with | some y => y.upc | none => sl.upc), wdLim := (match d with | some y => y.wdlim | none => sl.wdLim)
    engMap := (match d with | some y => y.eng.setWidth 64 | none => sl.engMap), bind := 0, depth := 0, sv := false, role := .none, tpl := none
    meas := measAt s ctx pc, argsDue := args.map fun a => (0, a) }

end Sys2Proof.Machine.Claims
end

