-- ==== Sys2Proof/Claims/Packages.lean ====
section
/-! DEFINITION. Words of the claims about launches, contexts, Halyard and the package: the rules of a launch record and of a descriptor, records on
rings, keys, queue pairs and packets. -/

namespace Sys2Proof.Machine.Claims

/-- A context replaced. -/
def withCtx (s : State) (x : Nat) (y : Context) : State := { s with ctxs := nset s.ctxs x y }

/-- A record joined to what waits for a ring (R111). -/
def recorded (s : State) (ring : Nat) (ws : List Word) : State :=
  { s with rings := nset s.rings ring { (nget s.rings ring).getD ⟨0, []⟩ with pend := ((nget s.rings ring).getD ⟨0, []⟩).pend ++ [ws] } }

/-- The rules of R301 for the eight words of a launch record, in a VF interval of `vflen` cores. -/
def GoodRecord (vflen : Nat) (ws : List Word) : Prop :=
  let f (j : Nat) : Nat := (ws.getD j 0).toNat
  let rlen := f 1 / 2 ^ 32 % 2 ^ 16
  let qbase := f 2 / 2 ^ 46 % 2 ^ 17
  let size := f 2 / 2 ^ 17 % 2 ^ 17
  let twin := f 2 % 2 ^ 17
  f 0 / 2 % 4 = 0 ∧ f 2 / 2 ^ 63 = 0 ∧ f 6 / 2 ^ 29 % 8 = 0 ∧ f 6 % 2 ^ 16 = 0 ∧ 1 ≤ rlen ∧ f 1 / 2 ^ 48 + rlen ≤ vflen ∧ f 6 / 2 ^ 16 % 2 ^ 13 < rlen ∧
    256 ∣ qbase ∧ 256 ∣ size ∧ 256 ∣ twin ∧ twin ≤ 0x8000 ∧ 8 ∣ f 4 ∧ 8 ∣ f 5 ∧ 8 ∣ f 7 ∧ f 2 / 2 ^ 39 % 2 ^ 7 ≤ 64 ∧ f 2 / 2 ^ 34 % 2 ^ 5 ≤ 16 ∧
    qbase + 5 * size ≤ 0x18000 - twin ∧ 256 + 64 * (f 2 / 2 ^ 39 % 2 ^ 7) + 256 * (f 2 / 2 ^ 34 % 2 ^ 5) + 256 ≤ size ∧
    (f 0 % 2 = 0 → twin = 0 ∧ f 1 % 2 ^ 32 = rlen)

/-- The launch that a record starts, for a VF interval that begins at a core (R300, R302). -/
def launchOf (s : State) (x first : Nat) (ws : List Word) : Launch :=
  let f (j : Nat) : Nat := (ws.getD j 0).toNat
  { ctx := x, entry := word (f 0 / 8 * 8), tpl := decide (f 0 % 2 = 1), base := first + f 1 / 2 ^ 48, rlen := f 1 / 2 ^ 32 % 2 ^ 16, sup := f 6 / 2 ^ 16 % 2 ^ 13
    qbase := BitVec.ofNat 17 (f 2 / 2 ^ 46), cown := BitVec.ofNat 7 (f 2 / 2 ^ 39), spilln := BitVec.ofNat 5 (f 2 / 2 ^ 34), size := BitVec.ofNat 17 (f 2 / 2 ^ 17)
    tplBase := BitVec.ofNat 17 (0x18000 - f 2 % 2 ^ 17), args := ws.getD 3 0, nitems := f 1 % 2 ^ 32, compl := ws.getD 7 0
    meas := measAt s x (word (f 0 / 8 * 8)), active := true, complDue := false }

/-- A slot that an entry task or a prologue has just taken (R112 to R114, R306). -/
def Begun (sl : Slot) (id i : Nat) (l : Launch) (rank ix nix : Nat) : Prop :=
  sl.st = .ready ∧ sl.pc = l.entry ∧ sl.g = Vector.ofFn (fun j => if j.val = 0 then l.args else 0) ∧ sl.ix = word ix ∧ sl.nix = word nix ∧ sl.rank = word rank ∧
    sl.rlen = word l.rlen ∧ sl.launch = some id ∧ sl.ctx = l.ctx ∧ sl.depth = 0 ∧ sl.bind = 0 ∧ sl.meas = l.meas ∧ sl.sv = false ∧ sl.up = false ∧ sl.mw = 0 ∧
    sl.qbase = l.qbase ∧ sl.carveSize = l.size ∧ sl.cowN = l.cown ∧ sl.spillN = l.spilln ∧ sl.tplBase = l.tplBase ∧
    sl.carveBase.toNat = l.tplBase.toNat - (5 - i) * l.size.toNat

/-- An event raised to the owner of its entry in the event routing table; to the control complex where none is (R395). -/
def raised (s : State) (ld evt arg : Nat) : State :=
  let e := (nget s.evrt (ld * 4096 + evt)).getD ⟨0, 0⟩
  { s with events := s.events ++ [⟨evt, if e.owner = 0 then 1 else e.owner, e.dest, arg⟩] }

/-- The rules of R383 and R386 for a descriptor. -/
def GoodDescriptor (d : Descriptor) : Prop :=
  let bound := if d.rlc = 0 then 200 else if d.rlc = 1 then 2000 else 20000
  d.vf.toNat < 384 ∧ d.rlc ≠ 3 ∧ 1 ≤ d.wdlim.toNat ∧ d.wdlim.toNat ≤ 2000 ∧ 8 ∣ d.upc.toNat ∧ 8 ∣ d.sve.toNat ∧ 4096 ∣ d.ovseg.toNat ∧
    d.eng.toNat / 4096 % 16 = 0 ∧ d.eng.toNat / 65536 ≤ 64 ∧ d.eng.toNat % 4096 + d.eng.toNat / 65536 ≤ 4096 ∧ 1 ≤ d.lcap.toNat ∧
    d.lcap.toNat ≤ 65536 ∧ 64 ∣ d.dlq.toNat ∧ (d.prot = false → d.sq = 0 ∧ d.sper = 0) ∧
    (d.prot = true → 100 ≤ d.sq.toNat ∧ d.sq.toNat ≤ 100000 ∧ d.sq.toNat + d.wdlim.toNat + bound ≤ d.sper.toNat)

/-- A context as it is created (R382). -/
def freshContext (d : Descriptor) : Context where
  desc := d
  st := .created
  handles := []
  layout := []
  images := []
  launchTab := []
  fabricQ := []
  drain := none
  endDue := false
  regs := []
  podGroup := []
  podRoot := 0
  peers := []
  root := 0
  flat := false
  flatBase := 0
  flatSize := 0
  hostShared := false
  firstStart := none
  held := false
  saved := none

/-- A core of an interval of `len` cores from `first`. -/
def Within (first len c : Nat) : Prop := first ≤ c ∧ c < first + len

/-- The rules of R214 for a policy record. -/
def GoodPolicy (p : List Word) : Prop :=
  let f (j : Nat) : Nat := (p.getD j 0).toNat
  (∀ c, c < 32 → (f 0 / 2 ^ 32).testBit c = true → c ∉ [0x04, 0x0F, 0x13, 0x14, 0x15, 0x16, 0x17, 0x1C, 0x1D, 0x1E, 0x1F]) ∧ f 0 / 2 ^ 9 % 2 ^ 23 = 0 ∧
    f 0 / 2 ^ 5 % 2 ^ 3 = 0 ∧ 1 ≤ f 0 % 2 ^ 5 ∧ f 0 % 2 ^ 5 ≤ 16 ∧ (f 1 / 2 ^ 56 = 0 ∨ f 1 / 2 ^ 56 = 0xFF) ∧ 2 ^ 21 ∣ f 1 ∧ 2 ^ 21 ∣ f 2 ∧ f 2 ≤ 2 ^ 40 ∧
    p.length = 3 + 6 * (f 0 % 2 ^ 5)

/-- The slot of a key, as it stands. -/
def keySlot (s : State) (n : Fin 64) : KeySlot := s.keys.get n

/-- One register or table of the device set as it was written (R393, R396). -/
def noted (s : State) (r : SvcReg) : State :=
  let ctx (x : Nat) (f : Context → Context) : State := match nget s.ctxs x with | some y => withCtx s x (f y) | none => s
  let ring (n pa : Nat) : State := { s with rings := nset s.rings n { (nget s.rings n).getD ⟨0, []⟩ with pa := pa } }
  match r with
  | .rptw v => { s with rptw := v }
  | .retRing ld pa => ring ld.val pa
  | .termRing ld pa => ring (16 + ld.val) pa
  | .vfRing ld v pa => ring (32 + 24 * ld.val + v.val) pa
  | .hostLaunchRing vf pa => { s with launchRings := nset s.launchRings vf pa }
  | .space x root flat base size shared => ctx x fun y => { y with root := root, flat := flat, flatBase := base, flatSize := size, hostShared := shared }
  | .descriptor d => ctx (d.vf.toNat * 2 ^ 20 + d.pasid.toNat) fun y => { y with desc := d }
  | .launchTable x i e n => ctx x fun y => { y with launchTab := nset y.launchTab i.toNat (e, n) }
  | .podGroup x l root => ctx x fun y => { y with podGroup := l, podRoot := root }
  | .image x im => ctx x fun y => { y with images := y.images ++ [im] }
  | .registration x k g => ctx x fun y => { y with regs := nset y.regs k.toNat g }
  | .threshold c n => { s with thr := s.thr.setIfInBounds c.val n }
  | .hdm port page pages => { s with hdm := { s.hdm with claims := s.hdm.claims ++ [(port, page, pages)] } }
  | .hostGrant port ld page pages => { s with hdm := { s.hdm with grants := s.hdm.grants ++ [(port, ld.val, page, pages)] } }
  | .hubService hub die => { s with hubs := nset s.hubs hub.val die.val }
  | .reassign a b =>
    let b := (nget s.reassign b).getD b
    { s with
      reassign := nset (s.reassign.map fun r => (r.1, if r.2 = a then b else r.2)) a b
      walks := s.walks.map fun w => if w.svc = a then { w with svc := b, flying := false } else w }
  | .peerPolicy x l => ctx x fun y => { y with peers := l }
  | .vfInterval vf base len => { s with vfs := nset s.vfs vf (base, len) }

/-- Whether a register or table takes a value as it stands: VF intervals have rules of their own; a weight is not zero (R111); a flat space is not
host-shared, and its base is aligned to its pages (R98); HDM decoders and grants stay in their windows (R66); quads go to another service core of
their die (R102); a context holds at most 1,024 registrations (R373); a descriptor keeps its rules, and its context does not run (R382). -/
def Writable (s : State) : SvcReg → Prop
  | .vfInterval _ _ _ => False
  | .rptw v => ∀ j, j < 3 → v.toNat / 16 ^ j % 16 ≠ 0
  | .space _ _ flat base size shared => ¬ (flat = true ∧ shared = true) ∧ 2 ^ pageBits size.val ∣ base
  | .descriptor d => GoodDescriptor d ∧ ∀ y, nget s.ctxs (d.vf.toNat * 2 ^ 20 + d.pasid.toNat) = some y → y.st ≠ .running ∧ y.st ≠ .ended
  | .hdm _ page pages => page + pages ≤ 2 ^ 31
  | .hostGrant _ _ page pages => page + pages ≤ 2 ^ 32
  | .reassign a b => a / 8 = b / 8 ∧ a < 32 ∧ a ≠ b
  | .registration x k _ => ∀ y, nget s.ctxs x = some y → y.regs.length < 1024 ∨ nget y.regs k.toNat ≠ none
  | _ => True

/-! ### Halyard -/

/-- A packet that its session takes (R367, R378): it passed authentication, under the epoch in use, and its counter is new and not below the window. -/
def Taken (s : State) (p : Packet) (x : Session) : Prop :=
  nget s.sessions p.sid.toNat = some x ∧ p.auth = true ∧ x.up = true ∧ p.epoch = x.recvEpoch ∧ 2 * p.ctr + p.epoch.toNat ∉ x.seen ∧
    ∀ c ∈ x.seen, c % 2 = p.epoch.toNat → c / 2 < p.ctr + 1024

/-- The session once it has taken the packet: its counter is noted, and those below the window are forgotten. -/
def noting (p : Packet) (x : Session) : Session :=
  { x with seen := (2 * p.ctr + p.epoch.toNat) :: x.seen.filter fun c => decide (c % 2 ≠ p.epoch.toNat) || decide (p.ctr < c / 2 + 1024) }

/-- The state once a session has taken a packet. -/
def tookIn (s : State) (p : Packet) (x : Session) : State := { s with sessions := nset s.sessions p.sid.toNat (noting p x) }

/-- A packet as it leaves on queue pair `n` under a session: it has the next counter and the epoch of that direction (R367). -/
def leaving (n opc : Nat) (x : Session) (p : Packet) : Sent := ⟨opc, n, { p with ctr := x.sendCtr, epoch := x.epoch }⟩

/-- The state once a packet has left under session `x`. -/
def sentOn (s : State) (n opc : Nat) (x : Session) (p : Packet) : State :=
  { s with sessions := nset s.sessions p.sid.toNat { x with sendCtr := x.sendCtr + 1 }, sent := s.sent ++ [leaving n opc x p] }

/-- A packet as it is posted on a queue pair: with the pair's next number, the peer's number and the session (R367). -/
def numbered (q : Qp) (p : Packet) : Packet := { p with psn := BitVec.ofNat 24 q.psn, dqpn := q.rec0.dqpn, sid := q.rec0.sid }

/-- The state once a packet of a command has been posted on queue pair `n`: it has left, and waits for its answer (R375). -/
def postedOn (s : State) (n opc cmd : Nat) (q : Qp) (x : Session) (p : Packet) : State :=
  sentOn { s with qps := nset s.qps n { q with
    psn := (q.psn + 1) % 2 ^ 24, out := q.out ++ [⟨q.psn, opc, numbered q p, cmd, 0, s.ns, false, 0, none⟩] } } n opc x (numbered q p)

/-- An answer to a packet as it leaves: it has the number of the packet that it answers. -/
def answering (n opc : Nat) (q : Qp) (x : Session) (psn : BitVec 24) (p : Packet) : Sent :=
  leaving n opc x { p with dqpn := q.rec0.dqpn, sid := q.rec0.sid, psn := psn }

/-- One command executes on a Halyard engine, on channel `ch`, and no other (R131). -/
def OnlyCommand (s : State) (eng ch : Nat) (x : Exec) : Prop :=
  ch < 64 ∧ (chanAt s (chanKey eng ch)).exec = [x] ∧ ∀ k, k < 64 → k ≠ ch → (chanAt s (chanKey eng k)).exec = []

/-- The queue pair that a command of a context's channel uses: the one its handle names (R371). -/
def HandleOf (s : State) (ctx : Nat) (c : Cmd) (n : Nat) : Prop :=
  ∃ y h, nget s.ctxs ctx = some y ∧ nget y.handles (c.word 3 % 2 ^ 12) = some (.queuePair h) ∧ h.toNat = n ∧ (nget s.qps n).isSome = true

/-- Whether a registration of the context admits an operation of a queue pair on a range (R373): `kind` is 1 for a write, 3 for a read, 6 for an atomic. -/
def Admits (y : Context) (n kind : Nat) (p : Packet) (len : Nat) : Prop :=
  ∃ g, nget y.regs p.rkey.toNat = some g ∧ n ∈ g.qps ∧ (if kind = 1 then g.wr else if kind = 3 then g.rd else g.atomics) = true ∧
    g.base.toNat ≤ p.addr.toNat ∧ p.addr.toNat + len ≤ g.base.toNat + g.len

/-- The rows of Halyard's commands with their operations (R370). -/
noncomputable def netRows : List (Nat × (Nat → Instr)) :=
  [(0x10, .halyardWrite), (0x11, .halyardRead), (0x12, .halyardSend), (0x13, .aadd), (0x14, .acas), (0x15, .cwrite)]

/-- The rows of the packets that a session must take first. -/
noncomputable def packetRows : List (Packet → Instr) :=
  [.writePacket, .readReq, .readResp, .sendPacket, .atomic, .atomicResp, .ack, .nak, .launchPacket, .gstream, .barrierPacket]

/-- The block at an address is a valid queue of a core's slice (R246). -/
def QueueIn (s : State) (o pa : Nat) (q : Queue) : Prop :=
  let f (j : Nat) := rdNat s (pa + 8 * j) 8
  (∃ off, ownerOf s.hdm pa = .slice o off) ∧ pa % 64 = 0 ∧ f 0 = q.head ∧ f 1 = q.tail ∧ f 2 = q.cap ∧ f 3 = q.ew ∧ f 4 = q.base ∧ f 5 = 0 ∧ f 6 = 0 ∧ f 7 = 0 ∧
    1 ≤ q.cap ∧ q.cap ≤ 65536 ∧ 1 ≤ q.ew ∧ q.ew ≤ 8 ∧ q.base < 2 ^ 17 ∧ q.base % 8 = 0 ∧ q.base + 8 * q.ew * q.cap ≤ qbaseOf s o ∧
    (q.tail + 2 ^ 64 - q.head) % 2 ^ 64 ≤ q.cap

/-- The exponent of a value's leading bit, for a value that is finite and not zero. -/
def leadOf : Num.Val → Option Int
  | .fin _ m e => if m = 0 then none else some (Nat.log2 m + e)
  | _ => none

end Sys2Proof.Machine.Claims
end

