-- ==== Sys2Proof/Certificates/Slice0/Obligations.lean ====
section
/-! DEFINITION. The statements for the provers. Each docstring says which rules of the spec a statement formalises. -/

open Sys2Proof Sys2Proof.Machine Sys2Proof.Machine.Claims

/-! ### Instruction words (chapter 01) -/

/-- Decoding and encoding agree: every well-formed instruction that has a word, with every operand at every value its encoding admits, is what the decoder
reads from its word (R17 to R24). The steps of units have no word and encode to 0. -/
def Obligations.EncodingRoundTrip : Prop := ∀ i : Instr, i.wf = true → encode i ≠ 0 → decodeTableWord 64 (encode i).toNat = some i

/-- The words that the spec works out decode to the instructions it gives them, and those it calls illegal to the refusal it names. -/
def Obligations.WorkedWordsDecode : Prop :=
  (∀ p ∈ workedWords, fetchDecode p.1 = p.2 ∧ encode p.2 = p.1) ∧ ∀ p ∈ workedIllegal, fetchDecode p.1 = .illegalWord p.2 p.1

/-- A word whose opcode or function code R25 does not assign is refused as ILL_OP, and no other word is (R25 to R27). An illegal word halts its slot (R27,
R28): FINFO holds code, word and PC, the registers, streams, mappings, tiles and the masked window stay, as do memory and the other slots, and the
core goes on with the task that an H slot pre-empted or with the next ready L slot; a fault message goes to the supervisor core of the region, or,
with no current launch, with SVE 0 or on that core itself, a record to the terminal ring. A privileged word in user mode raises PRIV first. -/
def Obligations.IllegalWords : Prop :=
  (∀ w : Word,
  fetchDecode w = .illegalWord .op w ↔ assigned (w.toNat / 2 ^ 56) (w.toNat / 2 ^ 52 % 16) = false) ∧
  (∀ (s : State) (x : Ill) (w : Word),
  let c := s.cur
  let i := actOf s c
  let sl := s.curSlot
  let code : Nat := match x with | .op => 1 | .reg => 3 | .field => 2
  let cd := if x ≠ .op ∧ privWord w = true ∧ isSuper c sl = false then 4 else code
  let l := sl.launch.bind (nget s.launches)
  let sve : Word := match nget s.ctxs sl.ctx with | some y => y.desc.sve | none => 0
  i < 5 → ∃ t, exec (.illegalWord x w) s = .next t ∧
    slotAt t c i = { sl with st := .halted, finfo0 := word cd, finfo1 := w, finfo2 := sl.pc, pend := .none, walkAns := [] } ∧
    (∀ j, j ≠ i → slotAt t c j = slotAt s c j) ∧ (∀ k, k ≠ c → coreOf t k = coreOf s k) ∧
    ((coreOf s c).act = some i → coreOf t c = { coreOf s c with
      slots := (coreOf t c).slots, preempted := if i = 4 then none else (coreOf s c).preempted
      act := if i = 4 then (coreOf s c).preempted else match nextReady (coreOf t c) i with | some j => some j | none => some i }) ∧
    t = { s with cores := t.cores, mesh := t.mesh, rings := t.rings } ∧
    (match l with
      | some y => if sve ≠ 0 ∧ y.base + y.sup ≠ c then
          t.rings = s.rings ∧ t.mesh = s.mesh ++ [⟨y.base + y.sup, ⟨c, i, sl.ctx, sl.task⟩,
            .fault (word ((c - y.base) % 8192 + i * 8192)) (word cd) w sl.pc⟩]
        else t.mesh = s.mesh ∧ t.rings = (postTerm s sl.ctx cd 0 w sl.pc c i 0).rings
      | none => t.mesh = s.mesh ∧ t.rings = (postTerm s sl.ctx cd 0 w sl.pc c i 0).rings))

/-! ### The step -/

/-- A step runs the decoded instruction: with an empty schedule, a package that is up, no H task and no free slot to fill, and the running slot ready, the
word fetched at its PC decodes to an instruction that is executed on the state the fetch leaves; a word that does not decode runs the row of illegal
words. The fetch of a word whose page the micro-TLB holds and the instruction cache does not gives the eight bytes at the PC, lowest address lowest,
and changes nothing but the instruction cache (R16, R31, R63). -/
def Obligations.StepRunsDecoded : Prop := ∀ (s s1 : State) (i : Nat) (w : Word),
  let e := wakeAll false (elapse s) s.cur
  let k := coreOf e s.cur
  (s.power.boot = .up → s.agenda = [] → e.turns ≤ turnLimit → k.act = some i → doomed k i = false →
    ¬ ((slotOf k 4).st = .ready ∧ hMayResume k = true) → hWork e s.cur = false → lWork e s.cur = false → (slotOf k i).st = .ready →
    ((slotOf k i).argsDue = none ∨ (slotOf k i).up = true) → fetchM e = .ok (w, s1) →
    (∀ j, decodeWord w = .ok j → step s = exec j s1) ∧ (∀ x, decodeWord w = .error x → step s = exec (.illegalWord x w) s1)) ∧
  (∀ en : TlbEntry, let c := s.cur
    let sl := s.curSlot
    let pa := en.pa sl.pc
    canonical sl.pc = true → sl.walkAns = [] → ((coreOf s c).utlb.find? fun x => x.hits sl.ctx (va57 sl.pc)) = some en →
    en.x = true → en.mt = .normal → inTagRegion s pa 8 = false → rangeAt s pa 8 = none → (∀ n j, ownerOf s.hdm pa ≠ .counter n j) →
    (∀ n off, ownerOf s.hdm pa = .slice n off → off + 8 ≤ qbaseOf s n) → populated s pa 8 = true → NoErrors s pa 8 →
    anyPoison s pa 8 = false → nget (coreOf s c).icache pa = none →
    fetchM s = .ok (word (((List.range 8).map fun j => (rdByte s (pa + j)).toNat * 256 ^ j).sum),
      modCore s c fun y => { y with icache := icacheAdd y.icache pa (word (((List.range 8).map fun j => (rdByte s (pa + j)).toNat * 256 ^ j).sum)) }))

/-- Memory keeps its canonical form under every step: addresses strictly rising, no entry equal to what an unlisted address reads as. -/
def Obligations.StepKeepsMemory : Prop := ∀ s t : State, s.MemOk → step s = .next t → t.MemOk

/-- Reset: memory lists nothing and has its form, no core runs, every slot is free (R419 with R387), the SR state of a core is 1 (R90), a slice has
program data to 0x18000 (R233), the reporting port weighs its rings 4, 2 and 2 (R111), every rail is up, and the thresholds of errors are 16, 8 and
256 (R74). That the package is up at reset is the model's choice (log entry 1). -/
def Obligations.ResetState : Prop :=
  State.reset.MemOk ∧ (∀ pa, rdByte State.reset pa = 0) ∧ State.reset.poison = [] ∧ (∀ c, (coreOf State.reset c).act = none ∧
    (coreOf State.reset c).srst = 1 ∧ ∀ i, (slotAt State.reset c i).st = .free ∧ (slotAt State.reset c i).qbase = 0x18000 ∧
      (slotAt State.reset c i).fpst = 0) ∧
  State.reset.rptw = 0x224 ∧ State.reset.power.rails = allRails ∧ State.reset.power.boot = .up ∧
  State.reset.thr.toList = [16, 8, 256] ∧ State.reset.ctxs = [] ∧ State.reset.mesh = []

/-! ### Operands (R11 to R15) -/

/-- Reading a source: what each class gives, what it leaves behind, and when it waits (R11 to R14). Several sources: a full/empty register named twice is
emptied once and gives its value both times, a stream named twice is popped twice in field order, and a general register is not changed (R12, R13).
Writing a destination: a general register takes the value, `zr` discards it and leaves the whole state as it was, a drain stream takes it as its
newest element, and a register that holds no drain raises STREAM_DIR (R11, R13). -/
def Obligations.SourcesAndDestinations : Prop :=
  (∀ (s : State),
  let sl := s.curSlot
  (∀ r, read1 (.g r) s = .ok (sl.g.get r, s)) ∧ read1 .zr s = .ok (0, s) ∧ read1 .ix s = .ok (sl.ix, s) ∧
  read1 .nix s = .ok (sl.nix, s) ∧ read1 .rank s = .ok (sl.rank, s) ∧ read1 .rlen s = .ok (sl.rlen, s) ∧
  read1 .src s = .ok (sl.src, s) ∧ read1 .clk s = .ok (clkOf s s.cur, s) ∧
  (∀ r, (sl.e.get r).full = true → (sl.e.get r).poison = false →
    read1 (.e r) s = .ok ((sl.e.get r).val, s.onSlot fun x => x.setE r { x.e.get r with full := false })) ∧
  (∀ r, (sl.e.get r).full = false → ∃ u, read1 (.e r) s = .error (.wait (.eEmpty r) u)) ∧
  (∀ r, (sl.e.get r).full = true → (sl.e.get r).poison = true → ∃ u, read1 (.e r) s = .error (.trap { code := .poison } u)) ∧
  (∀ r st el q, sl.d.get r = some st → st.drain = false → st.q = el :: q → el.fault = none →
    read1 (.d r) s = .ok (el.val, s.onSlot fun x =>
      x.setD r (if st.left ≤ 1 then none else some { st with q := q, left := st.left - 1 }))) ∧
  (∀ r, sl.d.get r = none → ∃ u, read1 (.d r) s = .error (.trap { code := .streamDir } u)) ∧
  (∀ r st, sl.d.get r = some st → st.drain = false → st.q = [] → ∃ u, read1 (.d r) s = .error (.wait (.dEmpty r) u))) ∧
  (∀ (s : State),
  let sl := s.curSlot
  (∀ a b, read2 (.g a) (.g b) s = .ok ((sl.g.get a, sl.g.get b), s)) ∧
  (∀ a b c, read3 (.g a) (.g b) (.g c) s = .ok ((sl.g.get a, sl.g.get b, sl.g.get c), s)) ∧
  (∀ r, actOf s s.cur < 5 → (sl.e.get r).full = true → (sl.e.get r).poison = false → ∃ t,
    read2 (.e r) (.e r) s = .ok (((sl.e.get r).val, (sl.e.get r).val), t) ∧ OnlySlot s t s.cur (actOf s s.cur) ∧
      SlotKeeps sl (slotAt t s.cur (actOf s s.cur)) [] [r] [] false ∧ ((slotAt t s.cur (actOf s s.cur)).e.get r).full = false) ∧
  (∀ r st x y q, actOf s s.cur < 5 → sl.d.get r = some st → st.drain = false → st.q = x :: y :: q → x.fault = none → y.fault = none →
    2 < st.left → ∃ t, read2 (.d r) (.d r) s = .ok ((x.val, y.val), t) ∧ OnlySlot s t s.cur (actOf s s.cur) ∧
      SlotKeeps sl (slotAt t s.cur (actOf s s.cur)) [] [] [r] false ∧
      (slotAt t s.cur (actOf s s.cur)).d.get r = some { st with q := q, left := st.left - 2 })) ∧
  (∀ (s : State) (v : Word),
  let sl := s.curSlot
  (∀ r, writeDst (.g r) v s = .ok ((), s.onSlot fun x => x.setG r v)) ∧
  writeDst .zr v s = .ok ((), s) ∧ (∀ d, DstReady d s → writeDst d v s = .ok ((), given d v s)) ∧
  (∀ r st, sl.d.get r = some st → st.drain = true → st.fault = none → st.q.length < 8 → st.moved < st.total →
    writeDst (.d r) v s = .ok ((), s.onSlot fun x => x.setD r (some { st with q := st.q ++ [⟨v, none, s.tick⟩], moved := st.moved + 1 }))) ∧
  (∀ r st, sl.d.get r = some st → st.drain = true → st.fault = none → 8 ≤ st.q.length → ∃ u,
    writeDst (.d r) v s = .error (.wait (.dFull r) u)) ∧
  (∀ r, sl.d.get r = none → ∃ u, writeDst (.d r) v s = .error (.trap { code := .streamDir } u)) ∧
  (∀ r st, sl.d.get r = some st → st.drain = false → ∃ u, writeDst (.d r) v s = .error (.trap { code := .streamDir } u)))

/-! ### Integer instructions (chapter 02) -/

/-- The two-source arithmetic, logic and comparisons of R35, R37 and R38, and LEA and INS: with their sources readable and their destination writable they
complete, the destination takes the rule's result, computed in exact arithmetic and cut to the width. The literal forms, and the one-source bit
operations of R40, SEXT and MOVH (R41): as the two-source forms, with the literal sign-extended for arithmetic and comparisons and zero-extended for
logic and shifts (R22). The funnel shifts of R37 and SEL of R38, in both forms. -/
def Obligations.IntegerOperations : Prop :=
  (∀ (s s1 s2 : State) (sz : Sz) (d : Dst) (a b : Src) (x y : Word),
  read2 a b s = .ok ((x, y), s1) →
  (∀ p ∈ arithTable ++ logicTable ++ cmpTable,
    writeDst d (result (Alu.szW sz) (p.2.2 (Alu.szW sz) (low sz x) (low sz y))) s1 = .ok ((), s2) →
      exec (p.1 sz d a b) s = .next (s.past s2)) ∧
  (∀ c : BitVec 6, writeDst d (result (Alu.szW sz) (low sz x + low sz y * 2 ^ c.toNat)) s1 = .ok ((), s2) →
    exec (.leaReg sz d a b c) s = .next (s.past s2)) ∧
  (∀ pos len : BitVec 6, pos.toNat + len.toNat + 1 ≤ Alu.szW sz → (∀ v : Word, (∀ j : Nat, v.getLsbD j =
      (decide (j < Alu.szW sz) && if pos.toNat ≤ j ∧ j ≤ pos.toNat + len.toNat then y.getLsbD (j - pos.toNat) else x.getLsbD j)) →
    writeDst d v s1 = .ok ((), s2) → exec (.ins sz d a b pos len) s = .next (s.past s2)) ∧
    (DstReady d s1 → ∃ v, exec (.ins sz d a b pos len) s = .next (s.past (given d v s1)) ∧ ∀ j : Nat,
      v.getLsbD j = (decide (j < Alu.szW sz) && if pos.toNat ≤ j ∧ j ≤ pos.toNat + len.toNat then y.getLsbD (j - pos.toNat) else x.getLsbD j)))) ∧
  (∀ (s s1 s2 : State) (sz : Sz) (d : Dst) (a : Src) (x : Word) (imm : BitVec 32),
  read1 a s = .ok (x, s1) →
  (∀ p ∈ signTable, writeDst d (result (Alu.szW sz) (p.2.2 (Alu.szW sz) (low sz x) (low sz (litS imm)))) s1 = .ok ((), s2) →
    exec (p.2.1 sz d a imm) s = .next (s.past s2)) ∧
  (∀ p ∈ logicTable, writeDst d (result (Alu.szW sz) (p.2.2 (Alu.szW sz) (low sz x) (low sz (litZ imm)))) s1 = .ok ((), s2) →
    exec (p.2.1 sz d a imm) s = .next (s.past s2)) ∧
  (∀ c : BitVec 6, writeDst d (result (Alu.szW sz) (low sz x + low sz (litS imm) * 2 ^ c.toNat)) s1 = .ok ((), s2) →
    exec (.leaLit sz d a c imm) s = .next (s.past s2)) ∧
  (∀ p ∈ bitTable, writeDst d (result (Alu.szW sz) (p.2 (Alu.szW sz) (low sz x))) s1 = .ok ((), s2) →
    exec (p.1 sz d a) s = .next (s.past s2)) ∧
  (∀ p ∈ fieldTable, ∀ pos len : BitVec 6, pos.toNat + len.toNat + 1 ≤ Alu.szW sz →
    writeDst d (result (Alu.szW sz) (p.2 (len.toNat + 1) (low sz x / 2 ^ pos.toNat % 2 ^ (len.toNat + 1)))) s1 = .ok ((), s2) →
      exec (p.1 sz d a pos len) s = .next (s.past s2)) ∧
  (sz ≠ .d → writeDst d (BitVec.ofInt 64 (signed (Alu.szW sz) (low sz x))) s1 = .ok ((), s2) →
    exec (.sext sz d a) s = .next (s.past s2)) ∧
  (writeDst d (BitVec.ofNat 64 (imm.toNat * 2 ^ 32 + x.toNat % 2 ^ 32)) s1 = .ok ((), s2) →
    exec (.movh d a imm) s = .next (s.past s2))) ∧
  (∀ (s s1 s2 : State) (sz : Sz) (d : Dst) (a b c : Src) (x y z : Word) (imm : BitVec 32),
  (read3 a b c s = .ok ((x, y, z), s1) →
    (∀ p ∈ funnelTable, writeDst d (result (Alu.szW sz) (p.2.2 (Alu.szW sz) (low sz x) (low sz y) (low sz z))) s1 = .ok ((), s2) →
      exec (p.1 sz d a b c) s = .next (s.past s2)) ∧
    (writeDst d (result (Alu.szW sz) (if z ≠ 0 then low sz x else low sz y)) s1 = .ok ((), s2) →
      exec (.selReg sz d a b c) s = .next (s.past s2))) ∧
  (read2 a c s = .ok ((x, z), s1) →
    (∀ p ∈ funnelTable,
      writeDst d (result (Alu.szW sz) (p.2.2 (Alu.szW sz) (low sz x) (low sz (litZ imm)) (low sz z))) s1 = .ok ((), s2) →
        exec (p.2.1 sz d a imm c) s = .next (s.past s2)) ∧
    (writeDst d (result (Alu.szW sz) (if z ≠ 0 then low sz x else low sz (litS imm))) s1 = .ok ((), s2) →
      exec (.selLit sz d a imm c) s = .next (s.past s2))))

/-- The frame of the integer instructions and of the branches: whatever sources are read and whatever destination is written, no byte of memory, no flag,
no mask, no wide register, no other slot and nothing outside the slot changes, and of the slot's registers only the destination, the full/empty
registers read, and the streams read or pushed to. -/
def Obligations.ScalarFrame : Prop := ∀ (s s1 s2 : State) (d : Dst) (a b c : Src) (xs : Word × Word × Word) (v pc : Word),
  actOf s s.cur < 5 → read3 a b c s = .ok (xs, s1) → writeDst d v s1 = .ok ((), s2) →
  ∀ t, (t = s.past s2 ∨ t = s.goTo s2 pc) →
    OnlySlot s t s.cur (actOf s s.cur) ∧
    SlotKeeps s.curSlot (slotAt t s.cur (actOf s s.cur)) d.gs (a.es ++ b.es ++ c.es) (a.ds ++ b.ds ++ c.ds ++ d.ds) false ∧
    (∀ pa, rdByte t pa = rdByte s pa)

/-! ### Branches, calls, jumps (R50 to R53) -/

/-- The branches compare at the width; a taken one goes to the PC plus eight times the signed offset, another past itself. B, CALL, JMP and LOOP: targets,
the link register, the count; a misaligned JMP target raises PC_ALIGN with nothing written. CALL is the word of OP 0x22 with FN, D, A, C and SZ zero
(R51). -/
def Obligations.ControlTransfers : Prop :=
  (∀ (s s1 : State) (sz : Sz) (a c : Src) (off : BitVec 32) (x y : Word),
  read2 a c s = .ok ((x, y), s1) → ∀ p ∈ branchTable,
    exec (p.1 sz a c off) s = .next (if p.2 (Alu.szW sz) (low sz x) (low sz y) = true then s.goTo s1 (branchTo s.curSlot.pc off)
      else s.past s1)) ∧
  (∀ (s s1 : State) (off : BitVec 32) (a : Src) (t : Word) (d : GReg) (w : Word),
  let sl := s.curSlot
  let f (hi lo : Nat) : Nat := w.toNat / 2 ^ lo % 2 ^ (hi + 1 - lo)
  (f 63 56 = 0x22 → fetchDecode w = if f 55 52 ≠ 0 then .illegalWord .op w else if f 51 32 ≠ 0 then .illegalWord .field w else .call (w.setWidth 32)) ∧
  exec (.b off) s = .next (s.goTo s (branchTo sl.pc off)) ∧
  exec (.call off) s = .next (s.goTo (s.onSlot fun x => x.setG 22 (sl.pc + 8)) (branchTo sl.pc off)) ∧
  (sl.g.get d ≠ 1 → exec (.loop d off) s = .next (s.goTo (s.onSlot fun x => x.setG d (sl.g.get d - 1)) (branchTo sl.pc off))) ∧
  (sl.g.get d = 1 → exec (.loop d off) s = .next (s.past (s.onSlot fun x => x.setG d 0))) ∧
  (read1 a s = .ok (t, s1) → t.toNat % 8 = 0 → s1.curSlot.pc = sl.pc →
    exec (.jmp a false) s = .next (s.goTo s1 t) ∧
    exec (.jmp a true) s = .next (s.goTo (s1.onSlot fun x => x.setG 22 (sl.pc + 8)) t)) ∧
  (read1 a s = .ok (t, s1) → t.toNat % 8 ≠ 0 → ∀ link, ∃ w, exec (.jmp a link) s = .next (s.trapped { code := .pcAlign, info := t } w)))

/-! ### Scalar floating point (R42 to R49) -/

/-- The members of R45 complete: the destination takes the rounded result zero-extended, the flags are ORed into FPST. Every NaN that an arithmetic
instruction produces is the canonical quiet NaN, and a NaN operand produces one (R42, R45). -/
def Obligations.FloatArithmetic : Prop :=
  (∀ (s s1 s2 : State) (f : FSz) (d : Dst) (a b c : Src) (x y z : Word) (rm : Rm) (imm : BitVec 32),
  let done (fl : Num.Flags) : State := s.past (s2.onSlot fun sl => { sl with fpst := sl.fpst ||| fl })
  (read2 a b s = .ok ((x, y), s1) → ∀ p ∈ fpArithTable, writeDst d (word (p.2.2 f rm (fpLow f x) (fpLow f y)).1) s1 = .ok ((), s2) →
    exec (p.1 f d a b rm) s = .next (done (p.2.2 f rm (fpLow f x) (fpLow f y)).2)) ∧
  (read1 a s = .ok (x, s1) → ∀ p ∈ fpArithTable, writeDst d (word (p.2.2 f .rne (fpLow f x) (fpLow f (litS imm))).1) s1 = .ok ((), s2) →
    exec (p.2.1 f d a imm) s = .next (done (p.2.2 f .rne (fpLow f x) (fpLow f (litS imm))).2)) ∧
  (read1 a s = .ok (x, s1) → writeDst d (word (Num.fpSqrt (Num.fszSpec f) rm (fpLow f x)).1) s1 = .ok ((), s2) →
    exec (.fsqrt f d a rm) s = .next (done (Num.fpSqrt (Num.fszSpec f) rm (fpLow f x)).2)) ∧
  (read3 a b c s = .ok ((x, y, z), s1) →
    writeDst d (word (Num.fpFma (Num.fszSpec f) rm 0 (fpLow f x) (fpLow f y) (fpLow f z)).1) s1 = .ok ((), s2) →
      exec (.fmaReg f d a b c rm) s = .next (done (Num.fpFma (Num.fszSpec f) rm 0 (fpLow f x) (fpLow f y) (fpLow f z)).2)) ∧
  (read2 a c s = .ok ((x, z), s1) →
    writeDst d (word (Num.fpFma (Num.fszSpec f) .rne 0 (fpLow f x) (fpLow f (litS imm)) (fpLow f z)).1) s1 = .ok ((), s2) →
      exec (.fmaLit f d a imm c) s = .next (done (Num.fpFma (Num.fszSpec f) .rne 0 (fpLow f x) (fpLow f (litS imm)) (fpLow f z)).2))) ∧
  (∀ (f : FSz) (rm : Rm) (a b c : Nat), a < 2 ^ fpWidth f → b < 2 ^ fpWidth f → c < 2 ^ fpWidth f →
  (∀ p ∈ fpArithTable, (fpIsNaN f (p.2.2 f rm a b).1 → (p.2.2 f rm a b).1 = fpQuiet f) ∧
    (fpIsNaN f a ∨ fpIsNaN f b → (p.2.2 f rm a b).1 = fpQuiet f) ∧
    (fpSignals f a ∨ fpSignals f b → (p.2.2 f rm a b).2 &&& 0x10 = 0x10)) ∧
  (fpIsNaN f (Num.fpSqrt (Num.fszSpec f) rm a).1 → (Num.fpSqrt (Num.fszSpec f) rm a).1 = fpQuiet f) ∧
  (fpIsNaN f (Num.fpFma (Num.fszSpec f) rm 0 a b c).1 → (Num.fpFma (Num.fszSpec f) rm 0 a b c).1 = fpQuiet f))

/-- What rounding is (R45, R89): of finite operands, the sum, the difference and the product that are finite are the exact result rounded by the mode, and
NX is set exactly when the result differs from it. -/
def Obligations.FloatRounding : Prop := ∀ (f : FSz) (rm : Rm) (a b : Nat), rm ≠ .sr → fpFinite f a → fpFinite f b →
  ∀ p ∈ [(Num.fpAdd (Num.fszSpec f) rm 0 a b, fpVal f a + fpVal f b), (Num.fpSub (Num.fszSpec f) rm 0 a b, fpVal f a - fpVal f b),
      (Num.fpMul (Num.fszSpec f) rm 0 a b, fpVal f a * fpVal f b)],
    fpFinite f p.1.1 → Rounded f rm p.2 p.1.1 ∧ (p.1.2 &&& 0x1 = 0x1 ↔ fpVal f p.1.1 ≠ p.2)

/-- FMIN, FMAX, FSGNJ, the comparisons and FCLASS (R46): their results, NV by the rule's table, no other flag. FCVT (R48): the source decoded by its
format, the result by the destination's, SRST advanced once under SR and not otherwise, a decode-only table refused. To a 64-bit signed integer, a NaN
gives 0 with NV, a value out of range the nearer bound with NV. -/
def Obligations.FloatCompareConvert : Prop :=
  (∀ (s s1 : State) (f : FSz) (d : Dst) (a b : Src) (x y : Word) (imm : BitVec 32),
  let done (i : Instr) (v : Nat) (nv : Prop) : Prop := ∃ fl : Num.Flags, (fl = 0x10 ∧ nv ∨ fl = 0 ∧ ¬ nv) ∧
    exec i s = .next (s.past ((given d (word v) s1).onSlot fun sl => { sl with fpst := sl.fpst ||| fl }))
  let X := fpLow f x
  let Y := fpLow f y
  let L := fpLow f (litS imm)
  let sgnj (m : BitVec 2) (a b v : Nat) : Prop := v % 2 ^ (fpWidth f - 1) = a % 2 ^ (fpWidth f - 1) ∧ v < 2 ^ fpWidth f ∧
    fpNeg f v = (if m = 0 then fpNeg f b else if m = 1 then !fpNeg f b else fpNeg f a ^^ fpNeg f b)
  DstReady d s1 →
  (read2 a b s = .ok ((x, y), s1) →
    (∀ p ∈ [(Instr.fminReg f d a b, false), (.fmaxReg f d a b, true)],
      ∃ v, MinMaxOf f p.2 X Y v ∧ done p.1 v (fpSignals f X ∨ fpSignals f Y)) ∧
    (∀ m : BitVec 2, m ≠ 3 → ∃ v, sgnj m X Y v ∧ done (.fsgnjReg f d a b m) v False) ∧
    (∃ v, CompareOf f (fun u w : Int => decide (u = w)) X Y v ∧ done (.feqReg f d a b) v (fpSignals f X ∨ fpSignals f Y)) ∧
    (∀ p ∈ [(Instr.fltReg f d a b, fun u w : Int => decide (u < w)), (.fleReg f d a b, fun u w => decide (u ≤ w))],
      ∃ v, CompareOf f p.2 X Y v ∧ done p.1 v (fpIsNaN f X ∨ fpIsNaN f Y))) ∧
  (read1 a s = .ok (x, s1) →
    (∀ p ∈ [(Instr.fminLit f d a imm, false), (.fmaxLit f d a imm, true)],
      ∃ v, MinMaxOf f p.2 X L v ∧ done p.1 v (fpSignals f X ∨ fpSignals f L)) ∧
    (∀ m : BitVec 2, m ≠ 3 → ∃ v, sgnj m X L v ∧ done (.fsgnjLit f d a imm m) v False) ∧
    (∃ v, CompareOf f (fun u w : Int => decide (u = w)) X L v ∧ done (.feqLit f d a imm) v (fpSignals f X ∨ fpSignals f L)) ∧
    (∀ p ∈ [(Instr.fltLit f d a imm, fun u w : Int => decide (u < w)), (.fleLit f d a imm, fun u w => decide (u ≤ w))],
      ∃ v, CompareOf f p.2 X L v ∧ done p.1 v (fpIsNaN f X ∨ fpIsNaN f L)) ∧
    (∃ v, ClassOf f X v ∧ done (.fclass f d a) v False))) ∧
  (∀ (s s1 s2 : State) (d : Dst) (a : Src) (di si : BitVec 2) (sat : Bool) (rm : Rm) (sf df : BitVec 5)
    (x : Word),
  let k := coreOf s s.cur
  let src : Num.Fmt := if si = 1 then .i64 else if si = 2 then .u64 else (Num.fmtOfCode sf.toNat).getD .fp32
  let dst : Num.Fmt := if di = 1 then .i64 else if di = 2 then .u64 else (Num.fmtOfCode df.toNat).getD .fp32
  let sr := if rm = .sr then Num.srAdvance k.srst else k.srst
  let r := Num.encodeFmt k.dt dst rm sat (Num.srTop (Num.srAdvance k.srst)) (Num.decodeFmt k.dt src x.toNat)
  ((∀ n, dst = .dt n → (k.dt.get n).status = 0) → read1 a s = .ok (x, s1) →
    writeDst d r.1 (if rm = .sr then modCore s1 s.cur fun k => { k with srst := sr } else s1) = .ok ((), s2) →
    ∃ t, exec (.fcvt d a di si sat rm sf df) s = .next t ∧
      t = s.past (s2.onSlot fun sl => { sl with fpst := sl.fpst ||| r.2 }) ∧ (coreOf t s.cur).srst = sr) ∧
  (∀ n, dst = .dt n → (k.dt.get n).status ≠ 0 → ∃ w, exec (.fcvt d a di si sat rm sf df) s = .next (s.trapped { code := .illField } w)))

/-! ### Loads, stores, nibbles, fences, waits (chapters 06 and 12) -/

/-- LD and LDN (R121, R124): the address is the sum of base and scaled index or offset, a misaligned one raises ALIGN with itself in FINFO1, and the value
read is extended as the form says into the destination. ST (R121): the data register's low bytes go to the address; the store itself is what
`storeScalar` says of it. -/
def Obligations.LoadsAndStores : Prop :=
  (∀ (s s1 s2 s3 : State) (sz : Sz) (d : Dst) (a b : Src) (m : Mode) (scl : BitVec 3) (sx : Bool) (off : BitVec 32)
    (x y : Word) (v : Nat),
  let n := Alu.szB sz
  let val : Word := if sx then BitVec.ofInt 64 (signed (8 * n) (v % 2 ^ (8 * n))) else word v
  let nib (i : Int) : Word := let h := v / 16 ^ (i % 2).toNat % 16; if sx then BitVec.ofInt 64 (signed 4 h) else word h
  let load (ea : Word) (i : Instr) : Prop :=
    (ea.toNat % n = 0 → loadScalar m.spc ea n s1 = .ok (v, s2) → writeDst d val s2 = .ok ((), s3) → exec i s = .next (s.past s3)) ∧
    (ea.toNat % n ≠ 0 → ∃ w, exec i s = .next (s.trapped { code := .align, info := ea } w))
  let loadN (i : Int) (j : Instr) : Prop :=
    loadScalar m.spc (BitVec.ofInt 64 (x.toNat + i / 2)) 1 s1 = .ok (v, s2) → writeDst d (nib i) s2 = .ok ((), s3) →
      exec j s = .next (s.past s3)
  (read2 a b s = .ok ((x, y), s1) →
    load (word (x.toNat + y.toNat * 2 ^ scl.toNat)) (.ldReg sz d a b m scl sx) ∧ loadN y.toInt (.ldnReg d a b m sx)) ∧
  (read1 a s = .ok (x, s1) →
    load (BitVec.ofInt 64 (x.toNat + off.toInt)) (.ldLit sz d a m sx off) ∧ loadN off.toInt (.ldnLit d a m sx off))) ∧
  (∀ (s s1 s2 : State) (sz : Sz) (a b v : Src) (m : Mode) (scl : BitVec 3) (off : BitVec 32) (x y z : Word),
  let n := Alu.szB sz
  let store (ea : Word) (i : Instr) : Prop :=
    (ea.toNat % n = 0 → storeScalar m.spc ea n z m.ord s1 = .ok ((), s2) → exec i s = .next (s.past s2)) ∧
    (ea.toNat % n ≠ 0 → ∃ w, exec i s = .next (s.trapped { code := .align, info := ea } w))
  (read3 a b v s = .ok ((x, y, z), s1) → store (word (x.toNat + y.toNat * 2 ^ scl.toNat)) (.stReg sz v a b m scl)) ∧
  (read2 a v s = .ok ((x, z), s1) → store (BitVec.ofInt 64 (x.toNat + off.toInt)) (.stLit sz v a m off)))

/-- An access to the program data of the core's own slice in space L (R116, R121), by a task whose earlier accesses do not hold it: no translation, no
fault, no wait. A load gives the bytes of memory, the lowest address lowest, and changes nothing. A store leaves memory as it is and puts its bytes,
at the physical addresses of the window, last into the store buffer (R260); a nibble store puts its half byte there (R124). STN to the core's own
program data (R124): memory is as it was, and the store buffer's newest entry holds the half byte. The oldest buffered store leaves the buffer and is
performed (R260): every byte it names reads as it says, every byte that lies elsewhere reads as before, and no register changes. -/
def Obligations.OwnSliceMemory : Prop :=
  (∀ (s : State) (ea z : Word) (n : Nat) (rel : Bool),
  let c := s.cur
  let pa := windowPa c ea.toNat
  n ≤ 8 → LocalData s ea n →
  (Settled s pa n → anyPoison s pa n = false →
    loadScalar false ea n s = .ok (((List.range n).map fun j => (rdByte s (pa + j)).toNat * 256 ^ j).sum, s)) ∧
  (drainsDue (coreOf s c) (actOf s c) = false → (coreOf s c).sb.length ≤ Config.storeBuffer → (n = 8 ∨ (s.poison = [] ∧ ∀ e ∈ (coreOf s c).sb, e.poison = [])) → ∃ t e,
    storeScalar false ea n z rel s = .ok ((), t) ∧ t = { s with cores := t.cores, nextId := s.nextId + 1 } ∧
      (∀ k, k ≠ c → coreOf t k = coreOf s k) ∧ coreOf t c = { coreOf s c with sb := (coreOf s c).sb ++ [e] } ∧
      e.bytes = ((List.range n).map fun j => (pa + j, BitVec.ofNat 8 (z.toNat / 256 ^ j))) ∧ e.slot = actOf s c ∧ e.nib = none ∧
      e.poison = [] ∧ e.rel = rel ∧ e.sent = false ∧ e.req = .none)) ∧
  (∀ (s s1 : State) (a b v : Src) (m : Mode) (idx : BitVec 32) (x y z : Word),
  let put (i : Int) (j : Instr) : Prop :=
    let ea : Word := BitVec.ofInt 64 (x.toNat + i / 2)
    m.spc = false → LocalData s1 ea 1 → drainsDue (coreOf s1 s1.cur) (actOf s1 s1.cur) = false → s1.poison = [] → (∀ e ∈ (coreOf s1 s1.cur).sb, e.poison = []) →
    (coreOf s1 s1.cur).sb.length ≤ Config.storeBuffer → ∃ t e, exec j s = .next (s.past t) ∧
      t = { s1 with cores := t.cores, nextId := s1.nextId + 1 } ∧ (∀ k, k ≠ s1.cur → coreOf t k = coreOf s1 k) ∧
      coreOf t s1.cur = { coreOf s1 s1.cur with sb := (coreOf s1 s1.cur).sb ++ [e] } ∧ e.bytes = [] ∧ e.rel = m.ord ∧
      e.nib = some (windowPa s1.cur ea.toNat, (i % 2).toNat, z.setWidth 4)
  (read3 a b v s = .ok ((x, y, z), s1) → put y.toInt (.stnReg v a b m)) ∧
  (read2 a v s = .ok ((x, z), s1) → put idx.toInt (.stnLit v a m idx))) ∧
  (∀ (s : State) (c : Nat) (e : StoreEnt) (r : List StoreEnt),
  (coreOf s c).sb = e :: r → e.sent = false → e.nib = none → e.ack = .none → e.poison = [] → (∀ x ∈ r, x.id ≠ e.id) →
  e.bytes ≠ [] → e.req = .none → (e.tile = none ∨ (coreOf s c).rots = []) → s.ecc = [] →
  (∀ b ∈ e.bytes, isPoison s b.1 = false) → (∀ k j, ownerOf s.hdm (e.bytes.headD (0, 0)).1 = .slice k j → k = c) →
  ((∀ j, ownerOf s.hdm (e.bytes.headD (0, 0)).1 ≠ .slice c j) → outboundFull s c = false) →
  (e.bytes.map fun b => physOf s b.1).Nodup →
  ∃ t, exec (.storeBufferSend c) s = .next t ∧
    t = { s with cores := t.cores, mem := t.mem, poison := t.poison, gwalks := t.gwalks } ∧
    (∀ k, k ≠ c → coreOf t k = coreOf s k) ∧ coreOf t c = { coreOf s c with sb := r } ∧
    (∀ b ∈ e.bytes, rdByte t b.1 = b.2) ∧ ∀ pa, (∀ b ∈ e.bytes, physOf s b.1 ≠ physOf s pa) → rdByte t pa = rdByte s pa)

/-- `Bank` maps the 16 words of an aligned 128-byte row one to one onto the 16 banks, for every legal setting of the regions (R118). The grid of a die
(R59 to R61): each die rank has its place on the curve through the 48 × 32 positions, and each position its rank; ranks k and k + 1 are neighbours; a
quad is an aligned 2 × 2 block, its mesh position, and a ring an aligned block of 8 × 4 or 4 × 8; package ranks, the quads that a service core serves
before any fence, and the worked conversions of R61. -/
def Obligations.Banks : Prop :=
  (∀ (rgn : Vector Word 8) (row i j : Nat), i < 16 → j < 16 →
  (∀ r ∈ rgn.toList, rgnBase r % 128 = 0 ∧ rgnSize r % 128 = 0 ∧ rgnSwz r < 7) →
  bankOf rgn (128 * row + 8 * i) < 16 ∧ (bankOf rgn (128 * row + 8 * i) = bankOf rgn (128 * row + 8 * j) → i = j)) ∧
  (∀ (s : State) (k x y die : Nat),
  let at' (k : Nat) : Nat × Nat := rankToXY k
  let near (a b : Nat) : Prop := a = b + 1 ∨ b = a + 1
  (k < 1536 → (at' k).1 < 48 ∧ (at' k).2 < 32 ∧ xyToRank (at' k).1 (at' k).2 = k) ∧
  (x < 48 → y < 32 → xyToRank x y < 1536 ∧ rankToXY (xyToRank x y) = (x, y)) ∧
  (k + 1 < 1536 → ((at' k).1 = (at' (k + 1)).1 ∧ near (at' k).2 (at' (k + 1)).2) ∨ ((at' k).2 = (at' (k + 1)).2 ∧ near (at' k).1 (at' (k + 1)).1)) ∧
  (k < 384 → ∀ x y, x < 48 → y < 32 → (xyToRank x y / 4 = k ↔ (x / 2, y / 2) = meshOf (4 * k))) ∧
  (k < 48 → ∃ w h bx b, ((w, h) = (8, 4) ∨ (w, h) = (4, 8)) ∧ w ∣ bx ∧ h ∣ b ∧
    ∀ x y, x < 48 → y < 32 → (xyToRank x y / 32 = k ↔ (bx ≤ x ∧ x < bx + w) ∧ b ≤ y ∧ y < b + h)) ∧
  (die < 4 → k < 1536 → let c := 1536 * die + k
    packageRank die k = c ∧ c < 6144 ∧ dieOf c = die ∧ positionOf c = rankToXY k ∧ quadOf c = 384 * die + k / 4 ∧ ringOf c = k / 32) ∧
  (die < 4 → k < 384 → s.reassign = [] → svcOf s (384 * die + k) = 8 * die + k / 48) ∧
  (∀ r ∈ [(0, 0, 0, 0, 0, 0), (5, 0, 3, 1, 0, 1), (255, 15, 0, 63, 7, 0), (256, 16, 0, 64, 8, 0), (767, 32, 15, 191, 16, 7), (768, 32, 16, 192, 16, 8),
    (1029, 31, 28, 257, 15, 14), (1535, 0, 31, 383, 0, 15)], let (k, x, y, q, mx, my) := r
    rankToXY k = (x, y) ∧ quadOf k = q ∧ meshOf k = (mx, my)))

/-- PF never faults and never waits, and neither memory nor a register of the slot changes (R125); FENCE completes once the slot's stores and
read-modify-writes are performed, an acquire fence without regard to the stores (R127), and otherwise waits while the core goes on with another task.
WAITA (R129, R130): with a word that differs from the expected value it completes at once with status 0; with an equal word it completes with 1 when
its limit has passed and with 2 when a drain has begun; in the H slot it raises H_BLOCK and in a masked window MASKW_BLOCK; otherwise the slot sleeps
on the word. A sleeper is woken to read again, and when its limit is reached. -/
def Obligations.PrefetchFenceWait : Prop :=
  (∀ (s s1 : State) (a b : Src) (spc : Bool) (scl : BitVec 3) (off : BitVec 32) (x y : Word)
    (sc : Scope),
  let k := coreOf s s.cur
  let i := actOf s s.cur
  let pf (j : Instr) : Prop := ∃ t, exec j s = .next (s.past t) ∧ t = { s1 with cores := t.cores, walks := t.walks, tick := t.tick } ∧
    (∀ c, (coreOf t c) = { coreOf s1 c with utlb := (coreOf t c).utlb }) ∧ (spc = false → t = s1)
  (read2 a b s = .ok ((x, y), s1) → pf (.pfReg a b spc scl)) ∧ (read1 a s = .ok (x, s1) → pf (.pfLit a spc off)) ∧
  ((∀ e ∈ k.sb, e.slot = i → e.req = .none) → exec (.fence .acq sc) s = .next (s.past s)) ∧
  (Drained s → ∀ kd, exec (.fence kd sc) s = .next (s.past s)) ∧
  (i < 4 → s.curSlot.mw = 0 → ¬ Drained s → ∀ kd, kd ≠ .acq → exec (.fence kd sc) s = .next (s.blockedOn .fence))) ∧
  (∀ (s s1 s2 : State) (sz : Sz) (d : Dst) (a b c : GReg) (e : GZ) (m : Mode) (g : Seg) (gs : List Seg) (v : Nat),
  let sl := s.curSlot
  let n := Alu.szB sz
  let ea := sl.g.get a
  let lim := sl.g.get c
  let want := (sl.g.get b).toNat % 2 ^ (8 * n)
  let since := (clkOf s s.cur - sl.t0.getD (clkOf s s.cur)).toNat
  let j := Instr.waita sz e (.g a) (.g b) (.g c) m
  (actOf s s.cur < 4 → sl.mw = 0 → sl.noted = [] → ea.toNat % n = 0 → resolve m.spc ea n accLoad s = .ok (g :: gs, s1) → g.mt = .normal →
    readSeg g s1 = .ok (v, s2) →
    (v ≠ want → ∃ t, exec j s = .next (s.past t) ∧ writeGZ e 0 (unwatch s2 s.cur (actOf s s.cur) g.pa) = .ok ((), t)) ∧
    (v = want → lim ≠ BitVec.allOnes 64 → lim.toNat ≤ since → ∃ t, exec j s = .next (s.past t) ∧
      writeGZ e 1 (unwatch s2 s.cur (actOf s s.cur) g.pa) = .ok ((), t)) ∧
    (v = want → (lim = BitVec.allOnes 64 ∨ since < lim.toNat) → draining s sl.ctx = true → ∃ t, exec j s = .next (s.past t) ∧
      writeGZ e 2 (unwatch s2 s.cur (actOf s s.cur) g.pa) = .ok ((), t)) ∧
    (v = want → (lim = BitVec.allOnes 64 ∨ since < lim.toNat) → draining s sl.ctx = false → ∃ t w, exec j s = .next t ∧
      w = Wait.waita g.pa n (word want) (if lim = BitVec.allOnes 64 then lim else sl.t0.getD (clkOf s s.cur) + lim) ∧
      (slotAt t s.cur (actOf s s.cur)).st = .blocked w ∧ (slotAt t s.cur (actOf s s.cur)).g = sl.g ∧ t.mem = s.mem)) ∧
  (actOf s s.cur = 4 → ∃ w, exec j s = .next (s.trapped { code := .hBlock } w)) ∧
  (actOf s s.cur < 4 → sl.mw ≠ 0 → ∃ w, exec j s = .next (s.trapped { code := .maskwBlock } w)) ∧
  (∀ (r : Nat) (i : Fin 5) p k x till, (slotAt s r i.val).st = .blocked (.waita p k x till) →
    exec (.waitaReread r i) s = .next (modSlot s r i.val fun y => { y with st := .ready }) ∧
    (till ≠ BitVec.allOnes 64 → till.toNat ≤ (clkOf s r).toNat →
      exec (.waitaTimeout r i) s = .next (modSlot s r i.val fun y => { y with st := .ready }))))

/-! ### Tasks (chapters 02 and 15) -/

/-- TEND ends the task at once (R55): its slot is free and keeps nothing of the task but FPST, masks and layout, a running H task gives the core back to
the L task it pre-empted and an L task to the next ready one, claimed tiles are given up, what its drain streams hold is still to be written, its wide
registers are unmapped now or once what it had accepted has retired, and no other slot changes. Memory changes only by the blocks of its graph walks
and the template store that its template gives up. TYIELD lets the next ready L slot run, in ascending order and wrapping, and has no effect in the H
slot, in a masked window or with no other slot ready (R56); MASKW opens a window of so many instructions in an L slot that has none open, and has no
effect else (R330). Their words are those of R54 and R329. -/
def Obligations.TaskControl : Prop :=
  (∀ s : State,
  let c := s.cur
  let i := actOf s c
  let k := coreOf s c
  i < 5 → ∃ t, exec .tend s = .next t ∧
    slotAt t c i = s.curSlot.freed ∧ (∀ d j, d ≠ c ∨ j ≠ i → slotAt t d j = slotAt s d j) ∧
    (coreOf t c).act = (if i = 4 then k.preempted else if k.act = none then none
      else match [1, 2, 3].map (fun d => (i + d) % 4) |>.find? fun j => (slotAt s c j).st = .ready with | some j => some j | none => k.act) ∧
    (∀ x : Fin 4, (coreOf t c).tiles.get x =
      if (k.tiles.get x).owner = some (i, s.curSlot.task) then { k.tiles.get x with giving := true } else k.tiles.get x) ∧
    (coreOf t c).orphans = k.orphans ++ leftDrains s.curSlot i ∧ (coreOf t c).sb = k.sb ∧ (coreOf t c).dq = k.dq ∧
    (s.curSlot.tpl = none → if ∃ r ∈ k.dq, r.task = s.curSlot.task ∧ r.slot = i
      then t.quads = s.quads ∧ (coreOf t c).unmapDue = k.unmapDue ++ [(s.curSlot.task, s.curSlot.w.toList)]
      else t.quads = (unmapAll s (quadOf c) s.curSlot.w).quads ∧ (coreOf t c).unmapDue = k.unmapDue) ∧
    (s.curSlot.tpl = none → (∀ g ∈ s.gwalks, g.holder ≠ (c, i, s.curSlot.task)) → t.mem = s.mem ∧ t.poison = s.poison)) ∧
  (∀ (s : State) (n : BitVec 5) (w : Word),
  let f (hi lo : Nat) : Nat := w.toNat / 2 ^ lo % 2 ^ (hi + 1 - lo)
  (f 63 56 = 0x28 → fetchDecode w = if 2 ≤ f 55 52 then .illegalWord .op w else if f 51 0 ≠ 0 then .illegalWord .field w else if f 55 52 = 0 then .tend else .tyield) ∧
  (f 63 56 = 0x66 → fetchDecode w = if f 55 52 ≠ 0 then .illegalWord .op w else if f 51 32 ≠ 0 ∨ 16 < f 31 0 then .illegalWord .field w else .maskw (w.setWidth 5)) ∧
  fetchDecode 0x6600000000000004 = .maskw 4 ∧
  let c := s.cur
  let i := actOf s c
  let ready (j : Nat) : Prop := (slotAt s c j).st = .ready
  let at1 (j : Nat) : State := s.past (modCore s c fun k => { k with act := some j })
  (i < 4 → s.curSlot.mw = 0 → ∀ j, j = (i + 1) % 4 → ready j → ∃ t, exec .tyield s = .next t ∧ (coreOf t c).act = some j ∧
    slotAt t c i = { s.curSlot.completed with pc := s.curSlot.pc + 8 } ∧ (∀ m, m ≠ i → slotAt t c m = slotAt s c m) ∧ t.mem = s.mem) ∧
  (i < 4 → s.curSlot.mw = 0 → ∀ d j, 1 ≤ d → d ≤ 3 → j = (i + d) % 4 → ready j → (∀ e, 1 ≤ e → e < d → ¬ ready ((i + e) % 4)) →
    ∃ t, exec .tyield s = .next t ∧ (coreOf t c).act = some j) ∧
  (i = 4 ∨ s.curSlot.mw ≠ 0 ∨ (∀ d, 1 ≤ d → d ≤ 3 → ¬ ready ((i + d) % 4)) → exec .tyield s = .next (s.past s)) ∧
  (i < 4 → s.curSlot.mw = 0 → ∃ t, exec (.maskw n) s = .next t ∧ (slotAt t c i).mw = n.toNat ∧ OnlySlot s t c i ∧
    SlotKeeps s.curSlot (slotAt t c i) [] [] [] false) ∧
  (i = 4 ∨ s.curSlot.mw ≠ 0 → exec (.maskw n) s = .next (s.past s)))

/-- TSPAWN and TCONT (R327, R328): to its own core the descriptor joins the ready queue, in class Spawned or Message, to another a message carries it;
TCONT and `.rel` release the task's accesses first; TCONT ends the task. A descriptor of an unassigned kind and a rank past the region raise ILL_FIELD
with nothing done. A descriptor placed in a ready queue stands last in it, in its class and with its launch, context and source (R322). -/
def Obligations.TaskCreation : Prop :=
  (∀ (s : State) (a : GReg) (b : Src) (rel : Bool) (x : Word),
  let c := s.cur
  let i := actOf s c
  let sl := s.curSlot
  let d : Desc := ⟨sl.g.get a, (sl.g[a.val + 1]?).getD 0⟩
  let queued (cls : Nat) : State := enqueue s c cls d (coreOf s c).launch sl.ctx (BitVec.allOnes 64) 0 []
  let sent (cont : Bool) : State :=
    { s with mesh := s.mesh ++ [⟨c - sl.rank.toNat + x.toNat, ⟨c, i, sl.ctx, sl.task⟩, .spawn d cont⟩] }
  fetchSrc b s = .ok (x, s) →
  (d.w0.toNat % 4 < 2 → x.toNat < sl.rlen.toNat → (rel = true → Drained s) →
    (x = sl.rank → rqFull s c 3 = false → exec (.tspawn a b rel) s = .next (s.past (queued 3))) ∧
    (x ≠ sl.rank → outboundFull s c = false → exec (.tspawn a b rel) s = .next (s.past (sent false)))) ∧
  (d.w0.toNat % 4 < 2 → x.toNat < sl.rlen.toNat → Drained s →
    (x = sl.rank → rqFull s c 1 = false → exec (.tcont a b rel) s = .next (endTask (queued 1) c i true)) ∧
    (x ≠ sl.rank → outboundFull s c = false → exec (.tcont a b rel) s = .next (endTask (sent true) c i true))) ∧
  (2 ≤ d.w0.toNat % 4 ∨ sl.rlen.toNat ≤ x.toNat → ∃ w v, exec (.tspawn a b rel) s = .next (s.trapped { code := .illField } w) ∧
    exec (.tcont a b rel) s = .next (s.trapped { code := .illField } v))) ∧
  (∀ (s : State) (c cls : Nat) (d : Desc) (l : Option Nat) (x : Nat) (src : Word) (kind : Nat) (data : List Word),
  let t := enqueue s c cls d l x src kind data
  ∃ e, (coreOf t c).rq = (coreOf s c).rq ++ [e] ∧ e.cls = cls ∧ e.desc = d ∧ e.launch = l ∧ e.ctx = x ∧ e.src = src ∧ e.kind = kind ∧
    e.data = data ∧ e.age = s.cycles ∧ coreOf t c = { coreOf s c with rq := (coreOf t c).rq, lastEvent := (coreOf t c).lastEvent } ∧
    (∀ k, k ≠ c → coreOf t k = coreOf s k) ∧ t = { s with cores := t.cores, nextId := s.nextId + 1 } ∧
    (e.ovf = false ↔ ((coreOf s c).rq.filter fun r => !r.ovf).length < 64 ∧ ∀ r ∈ (coreOf s c).rq, ¬ (r.ovf = true ∧ r.cls = cls)))

/-! ### Streams (R160 to R165) -/

/-- SCFG binds a stream as its pattern says (counts of 0 in the outer dimensions are 1), ending what the register held as SCTL END does: what a drain was
given is still written, or discarded with a record where a fault has stopped it. A fill is bound behind the task's pushed elements. Misaligned bases
and strides raise ALIGN, an upper half set in the fourth register ILL_FIELD. SCTL FLUSH completes once the drain is empty; SSTAT reads the binding
without changing it. The transfer units (R162 to R164): a fill unit reads the next element of the pattern in program order, at most eight ahead, and
holds a fault of its read with the element; a drain unit puts the oldest element pushed into the store buffer, in the task's push order, and a fault
stops it. The slot is otherwise as it was. -/
def Obligations.Streams : Prop :=
  (∀ (s : State) (sz : Sz) (a : GReg) (spc sx : Bool) (r : Fin 4) (n0 : BitVec 32) (d : GZ),
  let c := s.cur
  let i := actOf s c
  let sl := s.curSlot
  let n := Alu.szB sz
  let base := sl.g.get a
  let g (j : Nat) : Nat := ((sl.g[a.val + j]?).getD 0).toNat
  let left := match sl.d.get r with | some st => if st.drain = true ∧ st.q ≠ [] ∧ st.fault = none then [(i, sl, r.val, st)] else [] | none => []
  let recorded := match sl.d.get r with
    | some st => match st.fault with | some f => if st.drain = true ∧ st.q ≠ [] then errRec s sl.ctx f.code f.info c i else s | none => s
    | none => s
  let bound (t : State) (x : Option Stream) : Prop := slotAt t c i = ({ sl.completed with pc := sl.pc + 8 }).setD r x ∧
    (∀ j, j ≠ i → slotAt t c j = slotAt s c j) ∧ (∀ k, k ≠ c → coreOf t k = coreOf s k) ∧ t = { recorded with cores := t.cores } ∧
    coreOf t c = { coreOf s c with slots := (coreOf t c).slots, orphans := (coreOf s c).orphans ++ left }
  let lit (dr sg : Bool) : Option Stream := if n0 = 0 then none else
    some ⟨dr, sz, spc, sg, base, n0.toNat, 1, 1, n, 0, 0, 0, n0.toNat, [], none, s.nextId⟩
  let n1 := max (g 1 / 2 ^ 32 % 65536) 1
  let n2 := max (g 1 / 2 ^ 48) 1
  let m0 := g 1 % 2 ^ 32
  let s0 := signed 32 (g 2 % 2 ^ 32)
  let s1 := signed 32 (g 2 / 2 ^ 32)
  let s2 := signed 32 (g 3)
  let reg (dr sg : Bool) : Option Stream := if m0 = 0 then none else
    some ⟨dr, sz, spc, sg, base, m0, n1, n2, s0, s1, s2, 0, m0 * n1 * n2, [], none, s.nextId⟩
  i < 5 →
  (base.toNat % n = 0 →
    (drainsDue (coreOf s c) i = false → ∃ t, exec (.scfgFillLit sz a spc sx r n0) s = .next t ∧ bound t (lit false sx)) ∧
    (∃ t, exec (.scfgDrainLit sz a spc r n0) s = .next t ∧ bound t (lit true false))) ∧
  (base.toNat % n ≠ 0 → ∀ j ∈ [Instr.scfgFillLit sz a spc sx r n0, .scfgDrainLit sz a spc r n0], ∃ w,
    exec j s = .next (s.trapped { code := .align, info := base } w)) ∧
  (g 3 < 2 ^ 32 → base.toNat % n = 0 → s0 % (n : Int) = 0 → s1 % (n : Int) = 0 → s2 % (n : Int) = 0 →
    (drainsDue (coreOf s c) i = false → ∃ t, exec (.scfgFillReg sz a spc sx r) s = .next t ∧ bound t (reg false sx)) ∧
    (∃ t, exec (.scfgDrainReg sz a spc r) s = .next t ∧ bound t (reg true false))) ∧
  (g 3 < 2 ^ 32 → (base.toNat % n ≠ 0 ∨ s0 % (n : Int) ≠ 0 ∨ s1 % (n : Int) ≠ 0 ∨ s2 % (n : Int) ≠ 0) →
    ∀ j ∈ [Instr.scfgFillReg sz a spc sx r, .scfgDrainReg sz a spc r], ∃ w, exec j s = .next (s.trapped { code := .align, info := base } w)) ∧
  (2 ^ 32 ≤ g 3 → ∀ j ∈ [Instr.scfgFillReg sz a spc sx r, .scfgDrainReg sz a spc r], ∃ w,
    exec j s = .next (s.trapped { code := .illField } w)) ∧
  (∃ t, exec (.sctlEnd r) s = .next t ∧ bound t none) ∧
  ((∀ st, sl.d.get r = some st → st.drain = true → st.fault = none ∧ st.q = []) → exec (.sctlFlush r) s = .next (s.past s)) ∧
  (∀ st f, sl.d.get r = some st → st.drain = true → st.fault = some f → ∃ w, exec (.sctlFlush r) s =
    .next ((s.onSlot fun x => x.setD r (some { st with fault := none })).trapped f w)) ∧
  (∃ v t, exec (.sstat d r) s = .next (s.past t) ∧ writeGZ d v s = .ok ((), t) ∧
    (match sl.d.get r with
      | none => v = 0
      | some st => v.getLsbD 63 = true ∧ v.getLsbD 62 = st.drain ∧
        (v.getLsbD 61 = true ↔ st.fault.isSome = true ∨ ∃ x ∈ st.q, x.fault.isSome = true) ∧
        (st.q.length ≤ 8 → v.toNat % 65536 = st.q.length ∧ v.toNat / 65536 % 2 ^ 32 = min st.left (2 ^ 32 - 1))))) ∧
  (∀ (s t : State) (r : Nat) (i : Fin 5) (d : Fin 4) (st : Stream) (v : Word) (f : Trap),
  let put (s : State) (x : Option Stream) : State := modSlot s r i.val fun sl => sl.setD d x
  (slotAt s r i.val).d.get d = some st →
  (st.drain = false → st.moved < st.total → st.q.length < 8 → (∀ x ∈ st.q, x.fault = none) →
    (attempt s r i.val (readElement st) = .done v t →
      exec (.fillRead r i d) s = .next (put t (some { st with q := st.q ++ [⟨v, none, 0⟩], moved := st.moved + 1 }))) ∧
    (attempt s r i.val (readElement st) = .trap f t →
      exec (.fillRead r i d) s = .next (put t (some { st with q := st.q ++ [⟨0, some f, 0⟩], moved := st.moved + 1 })))) ∧
  (st.drain = true ∨ st.total ≤ st.moved ∨ 8 ≤ st.q.length → exec (.fillRead r i d) s = .next s) ∧
  ((∀ o ∈ (coreOf s r).orphans, ¬ (o.1 = i.val ∧ o.2.2.1 = d.val)) → ∀ n q, st.drain = true → st.fault = none → st.q = ⟨v, none, n⟩ :: q →
    (∀ e x, (slotAt s r i.val).d.get e = some x → ∀ m ∈ x.oldest, n ≤ m) →
    (∀ o ∈ (coreOf s r).orphans, o.1 = i.val → o.2.1.task = (slotAt s r i.val).task → ∀ m ∈ o.2.2.2.oldest, n ≤ m) →
    (attempt s r i.val (writeElement st v) = .done () t →
      exec (.drainWrite r i d) s = .next (put t (if st.left ≤ 1 then none else some { st with q := q, left := st.left - 1 }))) ∧
    (attempt s r i.val (writeElement st v) = .trap f t →
      exec (.drainWrite r i d) s = .next (put t (some { st with fault := some f })))) ∧
  (∀ k, st.addr k = st.base + BitVec.ofInt 64 ((k % st.n0 : Nat) * st.s0 + (k / st.n0 % st.n1 : Nat) * st.s1 + (k / (st.n0 * st.n1) : Nat) * st.s2)))

/-! ### Messages (chapter 11) -/

/-- SEND and SENDW (R237, R240): through a handle of a kind it takes, and with room in the outbound buffer, the message leaves with its payload read at
issue, after the release that SENDW always makes; a handle it does not take, a revoked one and a handler number above HMAX raise HANDLE, an H message
to a host queue ILL_FIELD. -/
def Obligations.SendingMessages : Prop := ∀ (s : State) (a : Src) (b : GReg) (off : GZ) (rel hc : Bool) (nw : BitVec 3) (hn : BitVec 10) (x : Word)
    (ce : Bool) (cn : BitVec 6),
  let c := s.cur
  let i := actOf s c
  let sl := s.curSlot
  let me : Sender := ⟨c, i, sl.ctx, sl.task⟩
  let p : List Word := (List.range nw.toNat).map fun j => (sl.g[b.val + j]?).getD 0
  let h := (nget s.ctxs sl.ctx).bind fun y => if x.toNat < 4096 then nget y.handles x.toNat else none
  let o : Nat := match off with | .g r => (sl.g.get r).toNat | .zr => 0
  let sent (dst : Nat) (m : MsgBody) : State := { s with mesh := s.mesh ++ [⟨dst, me, m⟩] }
  let dst (pkg : BitVec 21) (rank : BitVec 13) : Nat :=
    if pkg = s.pkg then rank.toNat else 0x1000000 + pkg.toNat * 8192 + rank.toNat
  read1 a s = .ok (x, s) →
  (outboundFull s c = false →
    (∀ pkg rank tctx hmax wb wl, h = some (.core pkg rank tctx hmax wb wl) →
      (hn.toNat ≤ hmax.toNat → (rel = true → Drained s) →
        exec (.send a b rel hc nw hn) s = .next (s.past (sent (dst pkg rank) (if hc then .hmsg hn.toNat p tctx else .lmsg hn.toNat p tctx)))) ∧
      (Drained s → exec (.sendw a b off nw ce cn) s =
        .next (s.past (sent (dst pkg rank) (.sendw tctx wb.toNat wl.toNat o p (if ce then some cn.toNat else none)))))) ∧
    (∀ ring pa, h = some (.hostQueue ring pa) → hc = false → (rel = true → Drained s) →
      exec (.send a b rel hc nw hn) s = .next (s.past (sent (0x400000 + ring) (.lmsg hn.toNat p sl.ctx))))) ∧
  (∀ ring pa, h = some (.hostQueue ring pa) → ∃ w v, (hc = true → exec (.send a b rel hc nw hn) s = .next (s.trapped { code := .illField } w)) ∧
    exec (.sendw a b off nw ce cn) s = .next (s.trapped { code := .handle } v)) ∧
  (∀ pkg rank tctx hmax wb wl, h = some (.core pkg rank tctx hmax wb wl) → hmax.toNat < hn.toNat → ∃ w,
    exec (.send a b rel hc nw hn) s = .next (s.trapped { code := .handle } w)) ∧
  (h = none → ∃ w v, exec (.send a b rel hc nw hn) s = .next (s.trapped { code := .handle } w) ∧
    exec (.sendw a b off nw ce cn) s = .next (s.trapped { code := .handle } v))

/-- RAT on the core's own slice (R244, R245): one step that reads the old value, puts the new one into the store buffer and delivers the old one,
zero-extended; a misaligned address raises ALIGN. RATFADDS saturates (R244): where the sum of finite values overflows to an infinity, it gives the
largest finite value of that sign, and otherwise what RATFADD gives. -/
def Obligations.OwnSliceAtomics : Prop :=
  (∀ (s s1 : State) (w : FSz) (d : RDst) (a cr : GReg) (b : Src) (m : Mode) (imm : BitVec 32) (y : Word),
  let ea := s.curSlot.g.get a
  let n := fpWidth w / 8
  let pa := windowPa s.cur ea.toNat
  let ready (t : State) : Prop := m.spc = false ∧ LocalData t ea n ∧ Clean t pa n ∧ (coreOf t t.cur).sb.length ≤ Config.storeBuffer ∧
    (m.ord = true → Drained t)
  let runs (t : State) (new : Nat) (j : Instr) : Prop := ∃ u, Pushed t u (leBytes pa n new) ∧
    exec j s = .next (s.past (deliverTo d (word (rdNat t pa n)) u))
  (ea.toNat % n = 0 →
    (read1 b s = .ok (y, s1) → ready s1 →
      (∀ p ∈ ratTable, runs s1 (p.2.2 w (rdNat s1 pa n) (y.toNat % 2 ^ fpWidth w)) (p.1 w d a b m)) ∧
      runs s1 (if rdNat s1 pa n = y.toNat % 2 ^ fpWidth w then (s1.curSlot.g.get cr).toNat % 2 ^ fpWidth w else rdNat s1 pa n)
        (.ratcas w d a b cr m)) ∧
    (ready s → ∀ p ∈ ratTable, runs s (p.2.2 w (rdNat s pa n) ((litS imm).toNat % 2 ^ fpWidth w)) (p.2.1 w d a imm m))) ∧
  (ea.toNat % n ≠ 0 → read1 b s = .ok (y, s1) → ∀ p ∈ ratTable, ∃ w1 w2 w3,
    exec (p.1 w d a b m) s = .next (s.trapped { code := .align, info := ea } w1) ∧
    exec (p.2.1 w d a imm m) s = .next (s.trapped { code := .align, info := ea } w2) ∧
    exec (.ratcas w d a b cr m) s = .next (s.trapped { code := .align, info := ea } w3))) ∧
  (∀ (w : FSz) (a b : Nat), fpFinite w a → fpFinite w b →
  let x := (Num.fpAdd (Num.fszSpec w) .rne 0 a b).1
  let y := (Num.roundSpec (Num.fszSpec w) .rne true 0
    (Num.vAdd (Num.decodeSpec (Num.fszSpec w) a) (Num.decodeSpec (Num.fszSpec w) b)).1).1
  (fpFinite w x → y = x) ∧ (¬ fpFinite w x → y = maxFinite w (fpNeg w x)))

/-- QENQ and QDEQ at a queue of the core's own slice (R246, R248): an element goes in at the tail or comes out at the head, the count advances, and a
full, empty or invalid queue gives its status and is left as it is, with the element registers. CTRSET, CTRADD and CTRRD (R251): the counter that CN
and a register name, its new value with the firings of R256, the old value sign-extended. What other cores then read of the counter comes after the
stores before it (R259). -/
def Obligations.QueuesAndCounters : Prop :=
  (∀ (s : State) (d : RDst) (a b dr : GReg) (m : Mode) (nw : BitVec 4) (q : Queue),
  let sl := s.curSlot
  let ea := sl.g.get a
  let pa := windowPa s.cur ea.toNat
  let p (j : Nat) : Nat := ((sl.g[b.val + j]?).getD 0).toNat
  let fill := (q.tail + 2 ^ 64 - q.head) % 2 ^ 64
  ea.toNat % 64 = 0 → m.spc = false → LocalData s ea 64 → (coreOf s s.cur).sb = [] → drainsDue (coreOf s s.cur) (actOf s s.cur) = false →
  s.poison = [] → s.ecc = [] →
  q.at s pa →
  (nw.toNat = q.ew → fill < q.cap → ∃ t, exec (.qenq d a b m nw) s = .next (s.past (deliverTo d 0 t)) ∧
    Pushed s t (((List.range q.ew).flatMap fun j => leBytes (q.elem s q.tail + 8 * j) 8 (p j)) ++ leBytes (pa + 8) 8 ((q.tail + 1) % 2 ^ 64))) ∧
  (nw.toNat = q.ew → fill = q.cap → exec (.qenq d a b m nw) s = .next (s.past (deliverTo d 1 s))) ∧
  (nw.toNat ≠ q.ew → exec (.qenq d a b m nw) s = .next (s.past (deliverTo d 3 s)) ∧
    exec (.qdeq dr a m nw) s = .next (s.past (s.onSlot fun x => x.setG dr 3))) ∧
  (nw.toNat = q.ew → q.tail = q.head → exec (.qdeq dr a m nw) s = .next (s.past (s.onSlot fun x => x.setG dr 2))) ∧
  (nw.toNat = q.ew → q.tail ≠ q.head → dr.val + nw.toNat < 24 → ∃ t u, exec (.qdeq dr a m nw) s = .next (s.past u) ∧
    Pushed s t (leBytes pa 8 ((q.head + 1) % 2 ^ 64)) ∧ (u = t.onSlot fun x => { x with g := u.curSlot.g }) ∧
    ∀ r : GReg, u.curSlot.g.get r = if r = dr then 0
      else if dr < r ∧ r.val ≤ dr.val + nw.toNat then word (rdNat s (q.elem s q.head + 8 * (r.val - dr.val - 1)) 8) else sl.g.get r)) ∧
  (∀ (s s1 : State) (a : Src) (b d : GZ) (dr : GReg) (cn : BitVec 6) (x : Word),
  let c := s.cur
  let n := ((match b with | .g r => (s.curSlot.g.get r).toNat | .zr => 0) + cn.toNat) % 64
  let old := counterAt s c n
  let put (v : BitVec 32) : State := modCore (counterUpdate s1 c n v) c fun k => { k with ctrMark := s1.nextId }
  (read1 a s = .ok (x, s1) → s1.cur = c → Ordered s1 → exec (.ctrset a b cn) s = .next (s.past (put (x.setWidth 32))) ∧
    exec (.ctradd d a b cn) s = .next (s.past (giveGZ d (BitVec.ofInt 64 old.toInt) (put (old + x.setWidth 32))))) ∧
  (Ordered s → exec (.ctrrd dr b cn) s = .next (s.past (s.onSlot fun y => y.setG dr (BitVec.ofInt 64 old.toInt)))))

/-- After an update of a counter, every entry armed on it whose condition holds for the new value fires, in ascending order, and no other: it becomes free
and its descriptor joins the ready queue (R253, R256). Nothing but this core changes. WTSET and WTCLR (R255): a condition that holds already fires at
once with status 16; otherwise the lowest free entry is armed and its number returned, or all ones with none free; a reserved kind raises ILL_FIELD.
WTCLR frees an entry and says whether it was armed. -/
def Obligations.WaitingTaskTable : Prop :=
  (∀ (s : State) (c n : Nat) (v : BitVec 32), n < 64 →
  let t := counterUpdate s c n v
  let fires (e : WtEnt) : Bool := e.ctr.toNat = n && (if e.ge then decide (e.thr.toInt ≤ v.toInt) else v == e.thr)
  let fired := (coreOf s c).wt.toList.filterMap fun o => o.bind fun e => if fires e then some e else none
  counterAt t c n = v ∧ (∀ j, j ≠ n → counterAt t c j = counterAt s c j) ∧ (∀ k, k ≠ c → coreOf t k = coreOf s k) ∧
  (∀ j : Fin 16, (coreOf t c).wt.get j = ((coreOf s c).wt.get j).bind fun e => if fires e then none else some e) ∧
  (coreOf t c).rq.map (fun e => (e.cls, e.desc, e.launch, e.ctx)) =
    (coreOf s c).rq.map (fun e => (e.cls, e.desc, e.launch, e.ctx)) ++ fired.map (fun e => (2, e.desc, e.launch, e.ctx)) ∧
  (coreOf t c).slots = (coreOf s c).slots ∧ t = { s with cores := t.cores, nextId := s.nextId + fired.length }) ∧
  (∀ (s : State) (d a x : GZ) (b ar : GReg) (ge : Bool) (cn : BitVec 6),
  let c := s.cur
  let sl := s.curSlot
  let val (r : GZ) : Word := match r with | .g q => sl.g.get q | .zr => 0
  let desc : Desc := ⟨sl.g.get b, (sl.g[b.val + 1]?).getD 0⟩
  let n := ((val x).toNat + cn.toNat) % 64
  let v := counterAt s c n
  let thr : BitVec 32 := (val a).setWidth 32
  let holds : Prop := if ge then thr.toInt ≤ v.toInt else v = thr
  let wt := (coreOf s c).wt
  let setWt (j : Fin 16) (e : Option WtEnt) : State := modCore s c fun k => { k with wt := k.wt.set j.val e j.isLt }
  let run := exec (.wtset d a b x ge cn) s
  (desc.w0.toNat % 4 < 2 → holds → run = .next (s.past (giveGZ d 16 (enqueue s c 2 desc sl.launch sl.ctx (BitVec.allOnes 64) 0 [])))) ∧
  (desc.w0.toNat % 4 < 2 → ¬ holds → ∀ j : Fin 16, wt.get j = none → (∀ i, i < j → (wt.get i).isSome = true) →
    run = .next (s.past (giveGZ d (word j.val) (setWt j (some ⟨BitVec.ofNat 6 n, thr, ge, desc, sl.launch, sl.ctx⟩))))) ∧
  (desc.w0.toNat % 4 < 2 → ¬ holds → (∀ j : Fin 16, (wt.get j).isSome = true) → run = .next (s.past (giveGZ d (BitVec.allOnes 64) s))) ∧
  (2 ≤ desc.w0.toNat % 4 → ∃ w, run = .next (s.trapped { code := .illField } w)) ∧
  (∀ j : Fin 16, (sl.g.get ar).toNat % 16 = j.val →
    exec (.wtclr d ar) s = .next (s.past (giveGZ d (if (wt.get j).isSome then 1 else 0) (setWt j none)))))

/-! ### Barriers, futures, templates (chapters 14 and 15) -/

/-- The hardware barriers (R331 to R333): an arrival returns the phase, joins the members, and the last one begins the next phase; a wait ends when its
phase has ended, with bit 63 where it missed one or never was in it, and with bit 62 in a drain; a SYNC that has to wait has made its arrival, also
where its wait is refused; a second arrival in one phase, core scope in the H slot and a count out of range raise their faults. Memory barrier objects
in the core's own slice (R334 to R336): an arrival lowers the count, or begins the next phase with the last member, and returns its phase; a wait
reads the word and ends as a hardware barrier's does; a SYNC arrives once and then waits with its token; an invalid object gives bit 61 and is not
written. -/
def Obligations.Barriers : Prop :=
  (∀ (s : State) (d : GZ) (b : GReg) (bo : Option GReg) (sc : Scope),
  let c := s.cur
  let i := actOf s c
  let sl := s.curSlot
  let n : Nat := match bo with | some r => (sl.g.get r).toNat | none => 1
  let k := barOf s c i sc
  let st := barAt s k.1
  let e := if sc = .core then n else k.2.2
  let tok : BitVec 32 := (sl.g.get b).setWidth 32
  let ends (phase tok : BitVec 32) (v : Word) : Prop := let p : Word := phase.setWidth 64
    if phase = tok + 1 then v = p else if phase ≠ tok then v = p + 0x8000000000000000 else draining s sl.ctx = true ∧ v = p + 0x4000000000000000
  let ok : Prop := (sc = .core → 1 ≤ n ∧ n ≤ 4 ∧ i ≠ 4) ∧ (sc = .pod → k.2.2 ≠ 0) ∧ k.2.1 ∉ st.arrived ∧ Drained s
  (ok → exec (.bararrive d bo sc) s = .next (s.past (giveGZ d (st.phase.setWidth 64) (arriveAt s k.1 k.2.1 e)))) ∧
  (∀ v, ends st.phase tok v → exec (.barwait d b sc) s = .next (s.past (giveGZ d v s))) ∧
  (st.phase = tok → draining s sl.ctx = false → i < 4 → sl.mw = 0 →
    exec (.barwait d b sc) s = .next (s.blockedOn (.barWait k.1 tok))) ∧
  (ok → sl.t0 = none → ∀ v, ends (barAt (arriveAt s k.1 k.2.1 e) k.1).phase st.phase v → (∀ x, k.1 ≠ .pod x) →
    exec (.barsync d bo sc) s = .next (s.past (giveGZ d v (arriveAt s k.1 k.2.1 e)))) ∧
  (ok → sl.t0 = none → (∀ v, ¬ ends (barAt (arriveAt s k.1 k.2.1 e) k.1).phase st.phase v) → (∀ x, k.1 ≠ .pod x) →
    let u := (arriveAt s k.1 k.2.1 e).onSlot fun x => { x with t0 := some (st.phase.setWidth 64) }
    (i < 4 → sl.mw = 0 → exec (.barsync d bo sc) s = .next (u.blockedOn (.barWait k.1 st.phase))) ∧
    (i < 4 → sl.mw ≠ 0 → ∃ w, exec (.barsync d bo sc) s = .next (u.trapped { code := .maskwBlock } w)) ∧
    (i = 4 → ∃ w, exec (.barsync d bo sc) s = .next (u.trapped { code := .hBlock } w))) ∧
  (∀ t v, sl.t0 = some t → ends st.phase (t.setWidth 32) v → exec (.barsync d bo sc) s = .next (s.past (giveGZ d v s))) ∧
  ((sc = .core → 1 ≤ n ∧ n ≤ 4 ∧ i ≠ 4) → (sc = .pod → k.2.2 ≠ 0) → k.2.1 ∈ st.arrived → ∃ w,
    exec (.bararrive d bo sc) s = .next (s.trapped { code := .barTwice } w)) ∧
  (sc = .core → 1 ≤ n → n ≤ 4 → i = 4 → ∃ w, exec (.bararrive d bo sc) s = .next (s.trapped { code := .barScope } w)) ∧
  (sc = .core → (n = 0 ∨ 4 < n) → ∃ w, exec (.bararrive d bo sc) s = .next (s.trapped { code := .illField } w)) ∧
  (∀ key m cnt, (∀ x, key ≠ .pod x) → (∀ x, key ≠ .core x) → m ∉ (barAt s key).arrived →
    let t := arriveAt s key m cnt
    (((barAt s key).arrived.length + 1 = cnt → (barAt t key).phase = (barAt s key).phase + 1 ∧ (barAt t key).arrived = []) ∧
      ((barAt s key).arrived.length + 1 ≠ cnt → (barAt t key).phase = (barAt s key).phase ∧
        ∀ x, x ∈ (barAt t key).arrived ↔ x = m ∨ x ∈ (barAt s key).arrived)) ∧
    (∀ o, o ≠ key → barAt t o = barAt s o) ∧ t = { s with bars := t.bars })) ∧
  (∀ (s : State) (d : GZ) (a b : GReg) (sc : Scope),
  let c := s.cur
  let i := actOf s c
  let sl := s.curSlot
  let ea := sl.g.get a
  let pa := windowPa c ea.toNat
  let w := rdNat s pa 8
  let cnt := w / 2 ^ 24 % 65536
  let phase := w % 2 ^ 24
  let valid : Prop := w / 2 ^ 56 = 0xB5 ∧ 1 ≤ cnt ∧ cnt ≤ w / 2 ^ 40 % 65536
  let new := if cnt = 1 then 0xB5 * 2 ^ 56 + w / 2 ^ 40 % 65536 * (2 ^ 40 + 2 ^ 24) + (phase + 1) % 2 ^ 24 else w - 2 ^ 24
  let ends (tok : Nat) (v : Word) : Prop := (¬ valid ∧ v = word (2 ^ 61)) ∨ (valid ∧
    ((phase = (tok + 1) % 2 ^ 24 ∧ v = word phase) ∨ (phase ≠ (tok + 1) % 2 ^ 24 ∧ phase ≠ tok % 2 ^ 24 ∧ v = word (2 ^ 63 + phase)) ∨
      (phase = tok % 2 ^ 24 ∧ draining s sl.ctx = true ∧ v = word (2 ^ 62 + phase))))
  ea.toNat % 8 = 0 → LocalData s ea 8 → Clean s pa 8 →
  (Drained s → (coreOf s c).sb.length ≤ Config.storeBuffer → valid →
    (∃ t, Pushed s t (leBytes pa 8 new) ∧ exec (.bararriveMem d a false sc) s = .next (s.past (giveGZ d (word phase) t))) ∧
    (sl.t0 = none → ∀ v, (cnt = 1 ∧ v = word ((phase + 1) % 2 ^ 24) ∨ cnt ≠ 1 ∧ draining s sl.ctx = true ∧ v = word (2 ^ 62 + phase)) →
      ∃ t, Pushed s t (leBytes pa 8 new) ∧ exec (.barsyncMem d a false sc) s = .next (s.past (giveGZ d v (unwatch t c i pa)))) ∧
    (sl.t0 = none → cnt ≠ 1 → draining s sl.ctx = false → i < 4 → sl.mw = 0 → ∃ t u, Pushed s t (leBytes pa 8 new) ∧
      exec (.barsyncMem d a false sc) s = .next u ∧ (slotAt u c i).st = .blocked (.objBar pa phase) ∧
      (slotAt u c i).t0 = some (word phase) ∧ (coreOf u c).sb = (coreOf t c).sb ∧ u.mem = s.mem)) ∧
  (Drained s → ¬ valid → exec (.bararriveMem d a false sc) s = .next (s.past (giveGZ d (word (2 ^ 61)) s)) ∧
    (sl.t0 = none → exec (.barsyncMem d a false sc) s = .next (s.past (giveGZ d (word (2 ^ 61)) s)))) ∧
  (∀ v, sl.noted = [] → ends ((sl.g.get b).toNat % 2 ^ 24) v → exec (.barwaitMem d a b false sc) s = .next (s.past (giveGZ d v (unwatch s c i pa)))) ∧
  (∀ t v, sl.t0 = some t → sl.noted = [⟨ea, pa, 8, .normal, 0, false⟩] → ends t.toNat v → exec (.barsyncMem d a false sc) s = .next (s.past (giveGZ d v (unwatch s c i pa)))) ∧
  (valid → sl.noted = [] → phase = (sl.g.get b).toNat % 2 ^ 24 → draining s sl.ctx = false → i < 4 → sl.mw = 0 → ∃ t,
    exec (.barwaitMem d a b false sc) s = .next t ∧ (slotAt t c i).st = .blocked (.objBar pa ((sl.g.get b).toNat % 2 ^ 24)) ∧
      t.mem = s.mem ∧ (slotAt t c i).g = sl.g))

/-- Futures in the core's own slice (R340): FUTREG, FUTSET, FUTGET and FUTRESET by the state of the word, their results, what they write, the count they
send off against a registered continuation record, and the faults of a busy or a doubly set future. -/
def Obligations.Futures : Prop := ∀ (s : State) (d : GZ) (a b dr : GReg) (bz : GZ) (psn : Bool),
  let sl := s.curSlot
  let ea := sl.g.get a
  let pa := windowPa s.cur ea.toNat
  let old := rdNat s pa 8
  let x := sl.g.get b
  let z : Word := match bz with | .g r => sl.g.get r | .zr => 0
  let counted (t : State) (va : Word) (p : Bool) : State :=
    { t with counts := t.counts ++ [⟨t.nextId, va, p, quadOf s.cur, ⟨s.cur, actOf s s.cur, sl.ctx, sl.task⟩⟩], nextId := t.nextId + 1 }
  let stops (cd : Code) (j : Instr) : Prop := ∃ w, exec j s = .next (s.trapped { code := cd, info := ea } w)
  let reg := Instr.futreg d a b false
  let set := Instr.futset a bz false psn
  let new := if psn then 3 * 2 ^ 62 else 2 ^ 63 + z.toNat
  let rec0 : Word := BitVec.ofInt 64 (signed 62 (old % 2 ^ 62))
  ea.toNat % 8 = 0 → LocalData s ea 8 → Clean s pa 8 → (coreOf s s.cur).sb.length ≤ Config.storeBuffer →
  (Drained s → x.toNat % 32 = 0 → canonical x = true →
    (old / 2 ^ 62 = 0 → ∃ t, Pushed s t (leBytes pa 8 (2 ^ 62 + x.toNat % 2 ^ 62)) ∧ exec reg s = .next (s.past (giveGZ d 0 t))) ∧
    (old / 2 ^ 62 = 1 → stops .futBusy reg) ∧
    (old / 2 ^ 62 = 2 → exec reg s = .next (s.past (giveGZ d 2 (counted s x false)))) ∧
    (old / 2 ^ 62 = 3 → exec reg s = .next (s.past (giveGZ d 3 (counted s x true))))) ∧
  (Drained s → (psn = true ∨ z.toNat < 2 ^ 62) →
    (old / 2 ^ 62 = 0 → ∃ t, Pushed s t (leBytes pa 8 new) ∧ exec set s = .next (s.past t)) ∧
    (old / 2 ^ 62 = 1 → ∃ t, Pushed s t (leBytes pa 8 new) ∧ exec set s = .next (s.past (counted t rec0 psn))) ∧
    (2 ≤ old / 2 ^ 62 → stops .futDouble set)) ∧
  (exec (.futget dr a false) s = .next (s.past (s.onSlot fun y => y.setG dr (word old)))) ∧
  (old / 2 ^ 62 ≠ 1 → ∃ t, Pushed s t (leBytes pa 8 0) ∧ exec (.futreset d a false) s = .next (s.past (giveGZ d (word old) t))) ∧
  (old / 2 ^ 62 = 1 → stops .futBusy (.futreset d a false)) ∧
  ((x.toNat % 32 ≠ 0 ∨ canonical x = false) → ∃ w, exec reg s = .next (s.trapped { code := .illField } w)) ∧
  (psn = false → 2 ^ 62 ≤ z.toNat → ∃ w, exec set s = .next (s.trapped { code := .illField } w))

/-- FRZ (R310): the task ends, and its template stands with its registers, its program counter after FRZ, its items, its join and the cores that take them
(the region from a prologue, the quad's part of it from an item or a join); each of those cores gets a cursor at its place. What may not freeze raises
TPL_DEPTH, a fifth template of a core TPL_COPY, a bad operand ILL_FIELD. -/
def Obligations.Freezing : Prop := ∀ (s s1 : State) (a : Src) (b : Option GReg) (n : Word),
  let c := s.cur
  let i := actOf s c
  let sl := s.curSlot
  let region := match sl.launch.bind (nget s.launches) with | some l => regionOf l | none => [c]
  let cores := if sl.depth = 0 then region else region.filter fun k => quadOf k = quadOf c
  let join : Option Word := b.map fun r => sl.g.get r
  let mayFreeze : Prop := i ≠ 4 ∧ sl.depth.toNat < 3 ∧ (sl.depth = 0 → sl.role = .prologue)
  (mayFreeze → i < 4 → read1 a s = .ok (n, s1) → n.toNat < 2 ^ 32 → (∀ p, join = some p → p.toNat % 8 = 0) →
    (∀ k ∈ cores, tplCount s1 k < 4) → (∀ r ∈ (coreOf s1 c).dq, r.slot ≠ i) → (∀ r ∈ (coreOf s1 c).rots, r.slot ≠ i) → Drained s1 →
    (n ≠ 0 ∨ join ≠ none) → cores.Nodup → ∃ t x, exec (.frz a b) s = .next t ∧ slotAt t c i = (slotAt s1 c i).freed ∧
      nget t.tpls (s1.nextId + 1) = some x ∧ x.n = n.toNat ∧ x.pending = n.toNat ∧ x.pc = sl.pc + 8 ∧ x.g = sl.g ∧ x.depth = sl.depth + 1 ∧
      x.home = c ∧ x.cores = cores ∧ x.bind = sl.bind ∧ x.meas = sl.meas ∧ x.launch = sl.launch ∧ x.ctx = sl.ctx ∧ x.parent = sl.tpl ∧
      x.join = (match join with | none => .none | some p => if n = 0 then .placed p s.cycles else .waiting p) ∧
      (∀ j k, cores[j]? = some k → ∃ l, (coreOf t k).cursors = l ++ [⟨s1.nextId + 1, j, s.cycles⟩] ∧ l = (coreOf s k).cursors) ∧
      (∀ k, k ∉ cores → (coreOf t k).cursors = (coreOf s k).cursors) ∧ (∀ u, u ≠ s1.nextId + 1 → nget t.tpls u = nget s.tpls u)) ∧
  (¬ mayFreeze → ∃ w, exec (.frz a b) s = .next (s.trapped { code := .tplDepth } w)) ∧
  (mayFreeze → read1 a s = .ok (n, s1) → (2 ^ 32 ≤ n.toNat ∨ ∃ p, join = some p ∧ p.toNat % 8 ≠ 0) → ∃ w,
    exec (.frz a b) s = .next (s.trapped { code := .illField } w)) ∧
  (mayFreeze → read1 a s = .ok (n, s1) → n.toNat < 2 ^ 32 → (∀ p, join = some p → p.toNat % 8 = 0) → (∃ k ∈ cores, 4 ≤ tplCount s1 k) →
    ∃ w, exec (.frz a b) s = .next (s.trapped { code := .tplCopy } w))

/-! ### Objects and graphs (chapter 13) -/

/-- LMAP (R273, R274): an L task blocks once, its accesses released, and then registers the layout of a free type below LCAP; the status says registered,
the same, another, or out of the table, and the second register holds the fingerprint of the table as it is then. A record that breaks the range rules
raises ILL_FIELD. OALLOC and OBJ (R275 to R278): a live, valid header gives type, flags and length; a body word is read or stored behind it; an object
is allocated where its layout and the block allow and its pages can be written, its header and a zero body written, or the status FULL or INVALID
returned with nothing taken. A bad header, a dead object and an index past the body raise their faults. -/
def Obligations.LayoutsAndObjects : Prop :=
  (∀ (s : State) (d a b : GReg),
  let sl := s.curSlot
  let t := (sl.g.get a).toNat
  let r : List Word := (List.range 3).map fun j => (sl.g[b.val + j]?).getD 0
  let j := Instr.lmap d a b
  let wr (st : Nat) (u : State) : State := u.onSlot fun x =>
    { x with g := (x.g.setIfInBounds d.val (word st)).setIfInBounds (d.val + 1) (fingerprint u sl.ctx) }
  (layOk r = true → sl.t0.isSome = true → ∀ x, nget s.ctxs sl.ctx = some x →
    (t < x.desc.lcap.toNat → nget x.layout t = none → ∃ u, exec j s = .next (s.past (wr 0 u)) ∧ u = { s with ctxs := u.ctxs } ∧
      nget u.ctxs sl.ctx = some { x with layout := nset x.layout t r } ∧ ∀ y, y ≠ sl.ctx → nget u.ctxs y = nget s.ctxs y) ∧
    (t < x.desc.lcap.toNat → nget x.layout t = some r → exec j s = .next (s.past (wr 1 s))) ∧
    (t < x.desc.lcap.toNat → ∀ q, nget x.layout t = some q → q ≠ r → exec j s = .next (s.past (wr 2 s))) ∧
    (x.desc.lcap.toNat ≤ t → exec j s = .next (s.past (wr 3 s)))) ∧
  (layOk r = true → sl.t0 = none → Drained s → actOf s s.cur < 4 → sl.mw = 0 →
    exec j s = .next ((s.onSlot fun x => { x with t0 := some 0 }).blockedOn .lmap)) ∧
  (layOk r = false → ∃ w, exec j s = .next (s.trapped { code := .illField } w))) ∧
  (∀ (s s1 s2 s3 s4 s5 s6 s7 : State) (d : GZ) (dr a : GReg) (b c : GZ) (acq rel : Bool) (idx : BitVec 23)
    (h v o : Word) (g g' : Seg) (l l' gs hs : List Seg),
  let sl := s.curSlot
  let val (r : GZ) : Word := match r with | .g q => sl.g.get q | .zr => 0
  let p := sl.g.get a
  let kept := s1.onSlot fun x => { x with t0 := some h, pend := .none }
  let i := val b + idx.setWidth 64
  let len := h.toNat / 2 ^ 16 % 2 ^ 24
  let ea := p + 16 + i <<< 3
  let stops (u : State) (cd : Code) (w : Word) (j : Instr) : Prop := ∃ x, exec j s = .next (u.trapped { code := cd, info := w } x)
  (sl.t0 = none → p.toNat % 16 = 0 → graphLoad p s = .ok (h, s1) →
    (hdrValid s1 sl.ctx h = true →
      exec (.objtype d a) s = .next (s.past (giveGZ d (word (h.toNat / 2 ^ 40 + h.toNat / 2 ^ 8 % 256 * 2 ^ 32)) s1)) ∧
      exec (.objlen d a) s = .next (s.past (giveGZ d (word len) s1)) ∧
      (h.getLsbD 8 = true → i.toNat < len →
        (graphLoad ea kept = .ok (v, s2) → exec (.objldw d a b acq idx) s = .next (s.past (giveGZ d v s2))) ∧
        ((rel = true → Drained s) → resolveGraph ea 8 accBulkWr kept = .ok (g :: gs, s2) → storeSeg g (val c) rel s2 = .ok ((), s3) →
          exec (.objstw c a b rel idx) s = .next (s.past s3))) ∧
      (h.getLsbD 8 = true → len ≤ i.toNat → stops kept .objBound p (.objldw d a b acq idx)) ∧
      (h.getLsbD 8 = false → stops kept .objDead p (.objldw d a b acq idx))) ∧
    (hdrValid s1 sl.ctx h = false → stops kept .objHdr p (.objtype d a) ∧ stops kept .objHdr p (.objlen d a) ∧
      stops kept .objHdr p (.objldw d a b acq idx) ∧ ((rel = true → Drained s) → stops kept .objHdr p (.objstw c a b rel idx)))) ∧
  (p.toNat % 16 ≠ 0 → stops s .objHdr p (.objtype d a) ∧ stops s .objHdr p (.objlen d a) ∧ stops s .objHdr p (.objldw d a b acq idx)) ∧
  (let t := (val b).toNat
    let n := (val c).toNat
    let size := (16 + 8 * n + 15) / 16 * 16
    let rw : Acc := ⟨true, true, true⟩
    let looked := s4.onSlot fun x => { x with t0 := some o, noted := gs ++ hs, pend := .none }
    let fits : Prop := ∃ r, layoutAt s sl.ctx t = some r ∧ layFits r n = true ∧ n < 2 ^ 24
    let j := Instr.oalloc dr a b c
    (fits → p.toNat % 16 = 0 → drainsDue (coreOf s s.cur) (actOf s s.cur) = false → (coreOf s s.cur).sb.length ≤ Config.storeBuffer →
      sl.noted = [] → resolveGraph p 16 rw s = .ok (g :: l, s1) → rmwSeg g (.bump size none) (.g 0) false s1 = .ok ([o], s2) →
      (o.toNat < 16 → exec j s = .next (s.past (s2.onSlot fun x => x.setG dr o))) ∧
      (16 ≤ o.toNat → resolveGraph o 8 accBulkWr s2 = .ok (gs, s3) → resolveGraph (o + 8) (8 + 8 * n) accBulkWr s3 = .ok (hs, s4) →
        gs ++ hs ≠ [] → resolveGraph p 16 rw looked = .ok (g' :: l', s5) → rmwSeg g' (.bump size (some o)) (.g 0) false s5 = .ok ([v], s6) →
        (v.toNat < 2 → exec j s = .next (s.past (s6.onSlot fun x => x.setG dr v))) ∧
        (16 ≤ v.toNat → storeBulk ((Alu.bytesOf (word (t * 2 ^ 40 + n * 2 ^ 16 + 256)).toNat 8 ++ List.replicate (8 + 8 * n) 0).map some)
            false false none (gs ++ hs) s6 = .ok ((), s7) →
          exec j s = .next (s.past (s7.onSlot fun x => x.setG dr v))))) ∧
    (¬ fits → stops s .objHdr p (.oalloc dr a b c)) ∧ (fits → p.toNat % 16 ≠ 0 → stops s .align p (.oalloc dr a b c))) ∧
  (∀ cur last size pa want, let valid := cur % 16 = 0 ∧ last % 16 = 0 ∧ cur ≠ 0 ∧ cur ≤ last
    (valid → cur + size ≤ last → bumpOp cur last size pa none = ⟨[], .vals [word cur], []⟩ ∧
      bumpOp cur last size pa (some want) = if want = word cur then ⟨leBytes pa 8 (cur + size), .vals [want], []⟩ else ⟨[], .vals [2], []⟩) ∧
    (∀ x ∈ [none, some want], (valid → last < cur + size → bumpOp cur last size pa x = ⟨[], .vals [0], []⟩) ∧
      (¬ valid → bumpOp cur last size pa x = ⟨[], .vals [1], []⟩))))

/-- A graph instruction starts by the state of its block (R279, R286): an ended block of the same operation gives its status again, a NEW one that keeps
the rules becomes ACTIVE with a running walk of this task, and one of another operation or that breaks the rules raises its fault; one that a drain
finds waiting for its block, held by another walk or not translated, completes with status 2 (R359). A walk ends (R284, R286, R287, R289 to R292,
R295): with its objects all processed it completes DONE, or MARKED where a store or a stop marked it, GCOPY after its fix-up pass and GSEND once the
receiver has completed; a drain stops it with status INTERRUPTED; its slot and filters are given up. The landing of a graph (R295): the oldest arrived
object is received, or the stream ends LANDFULL or FAILED; a stream whose objects are all received and whose sender has closed is fixed up, its notice
enqueued, its zone freed and the sender told; with nothing to do, nothing changes. -/
def Obligations.GraphWalks : Prop :=
  (∀ (s s1 s2 : State) (d : GZ) (a : GReg) (b : Src) (x : Word) (sg : Seg) (w : List Word),
  let c := s.cur
  let i := actOf s c
  let sl := s.curSlot
  let p := sl.g.get a
  let u : UnitId := ⟨200 + 2 * dieOf c, 4000000 + c * 8 + i, dieOf c, sl.ctx⟩
  let st := (w.getD 0 0).toNat / 2 ^ 56
  let oper := (w.getD 0 0).toNat / 2 ^ 48 % 256
  read1 b s = .ok (x, s) → p.toNat % 256 = 0 → i < 4 → sl.mw = 0 → myWalk s c i sl.task = none → Drained s →
  ∀ q ∈ [(Instr.gcopy d a, 0x70), (.gsend d a b, 0x72), (.gcmp d a, 0x74), (.ghash d a, 0x76), (.gfree d a, 0x78)],
    (∀ f, draining s sl.ctx = true → openBlock u p s = .error (.walk f) → myWalk (f s) c i sl.task = none →
      exec q.1 s = .next (s.past (giveGZ d 2 (forgetAnswers s u.wid)))) ∧
    (openBlock u p s = .ok ((sg, w), s1) →
      (st = 1 → draining s sl.ctx = true → myWalk s1 c i sl.task = none → exec q.1 s = .next (s.past (giveGZ d 2 (forgetAnswers s u.wid)))) ∧
      (st ∈ [3, 4, 5, 6, 8] → oper = q.2 → exec q.1 s = .next (s.past (giveGZ d (word st) (forgetAnswers s1 u.wid)))) ∧
      (st ∈ [3, 4, 5, 6, 8] → oper ≠ q.2 → ∃ v, exec q.1 s = .next ((forgetAnswers s1 u.wid).trapped { code := .illField } v)) ∧
      (st = 0 → ∀ cd f, blockCheck q.2 w = some (cd, f) → ∃ v,
        exec q.1 s = .next ((forgetAnswers s1 u.wid).trapped { code := cd, info := f } v)) ∧
      (st = 0 → blockCheck q.2 w = none → (∀ h ∈ s2.gwalks, h.id ≠ s1.nextId + 1) →
        clearTables u (s1.nextId + 1) w s1 = .ok ((), s2) → ∃ t g, exec q.1 s = .next t ∧
        (slotAt t c i).st = .blocked .walkTurn ∧ g ∈ t.gwalks ∧ g.holder = (c, i, sl.task) ∧ g.running = true ∧ g.oper = q.2 ∧
        g.pa = sg.pa ∧ g.marked = false ∧ g.filt = []))) ∧
  (∀ (s : State) (d : GZ) (a : GReg) (b : Src) (g : GWalk) (x : Word) (r' : GRun),
  let c := s.cur
  let i := actOf s c
  let sl := s.curSlot
  let w (j : Nat) : Nat := rdNat s (g.pa + 8 * j) 8
  let r : GRun := ⟨s, (List.range 32).map fun j => word (w j), g⟩
  let st := if g.marked = true ∨ (w 0).testBit 39 = true ∨ (w 0).testBit 38 = true then 4 else 3
  let ends (j : Instr) (st : Nat) (r : GRun) : Prop := exec j s = .next (s.past (giveGZ d (word st) (endWalk r st 0 false)))
  (read1 b s = .ok (x, s) → (sl.g.get a).toNat % 256 = 0 → i < 4 → sl.mw = 0 → myWalk s c i sl.task = some g → draining s sl.ctx = false →
    (g.fix = 0 → g.unit.isSome = true → g.phase = 0 → w 9 = w 8 → (w 8 ≠ 0 ∨ (w 1 = 0 ∧ (g.oper = 0x74 → w 2 = 0))) →
      (g.oper = 0x74 → ends (.gcmp d a) st r) ∧ (g.oper = 0x76 → ends (.ghash d a) st r) ∧ (g.oper = 0x78 → ends (.gfree d a) st r) ∧
      (g.oper = 0x70 → fixCopies r = (.ok (), r') → ends (.gcopy d a) st r')) ∧
    (g.fix = 3 * 256 + 1 → ∀ z ∈ [(3 : Nat), 4], g.hst.headD 3 = word z → ends (.gsend d a b) z r)) ∧
  (read1 b s = .ok (x, s) → (sl.g.get a).toNat % 256 = 0 → i < 4 → sl.mw = 0 → myWalk s c i sl.task = some g → draining s sl.ctx = true →
    g.fix = 0 → ∀ j ∈ [Instr.gcopy d a, .gsend d a b, .gcmp d a, .ghash d a, .gfree d a],
      exec j s = .next (s.past (giveGZ d 2 (endWalk { r with s := callBack s g } 2 0 true)))) ∧
  (∀ (q : GRun) (z cd : Nat) (l : Bool), ∀ h ∈ (endWalk q z cd l).gwalks, h.id ≠ q.g.id)) ∧
  (∀ (s s1 : State) (x : LStream) (full : Bool),
  let u := streamUid x
  (s.streams.find? (fun y => y.inbox ≠ []) = some x → receiveObject u x (x.inbox.headD []) s = .ok (full, s1) →
    ∃ t, exec .landingObject s = .next t ∧ (full = true → ∀ y ∈ t.streams, y.id ≠ x.id) ∧
      (full = false → t.streams = s1.streams.map (fun y => if y.id = x.id then { y with inbox := y.inbox.drop 1 } else y) ∧ t.mem = s1.mem)) ∧
  ((∀ y ∈ s.streams, y.inbox = []) → exec .landingObject s = .next s) ∧
  (s.streams.find? (fun y => y.inbox = [] && y.ended.isSome) = some x → finishStream u x (x.ended.getD 0) s = .ok (false, s1) → x.qp = none →
    ∃ t, exec .landingComplete s = .next t ∧ (∀ y ∈ t.streams, y.id ≠ x.id) ∧
      t.gwalks.map (·.fix) = (releaseZone (forgetAnswers s1 u.wid) x.id).gwalks.map fun g => if g.id = x.walk then 3 * 256 + 1 else g.fix) ∧
  ((∀ y ∈ s.streams, y.inbox ≠ [] ∨ y.ended = none) → exec .landingComplete s = .next s))

/-! ### Wide registers and wide instructions (chapters 08 and 09) -/

/-- Wide registers (R158): an unmapped one reads as zero; a write keeps a private mapping, gives an unmapped or a shared one a free physical register of
the quad, the shared one losing a reference, and raises WREG_COPY with none free. Afterwards the register holds what was written. The second operand
of R167 is a wide register, a scalar cut to the element, or the index. The second operand of a wide instruction (R167). Retirement (R156, R157, R190):
the oldest entry of the next core in turn that has one for the wide unit, or for the matrix unit, leaves its dispatch queue, its flags join FPST, and
its result fills its full/empty register if its task has not ended; an MROT leaves it once both its parts are done (R200). The wide registers of an
ended task are unmapped once nothing of it is left in the queue (R55). -/
def Obligations.WideRegisterFile : Prop :=
  (∀ (s : State) (r : WReg) (v : WVal) (et : Et),
  let c := s.cur
  let i := actOf s c
  let q := quadOf c
  let pr (t : State) (p : Fin 192) : PReg := (quadAt t q).pregs.get p
  let free : List (Fin 192) := (List.finRange 192).filter fun p => !(pr s p).used
  i < 5 →
  (s.curSlot.w.get r = .unmapped → wideAt s r = ⟨0, none, false⟩) ∧
  (∀ p, s.curSlot.w.get r = .priv p → ∃ t, wwrite r v s = .ok ((), t) ∧ wideAt t r = v ∧ (∀ x, x ≠ p → pr t x = pr s x) ∧
    t = { s with quads := t.quads } ∧ (∀ x, x ≠ q → quadAt t x = quadAt s x)) ∧
  (s.curSlot.w.get r = .unmapped → ∀ p, free.head? = some p → ∃ t, wwrite r v s = .ok ((), t) ∧ wideAt t r = v ∧ pr t p = ⟨true, 1, v.data, v.tag, v.poison⟩ ∧
    (∀ x, x ≠ p → pr t x = pr s x) ∧ t = { s with quads := t.quads, cores := t.cores } ∧
    slotAt t c i = { s.curSlot with w := s.curSlot.w.set r.val (.priv p) r.isLt } ∧ (∀ k j, (k ≠ c ∨ j ≠ i) → slotAt t k j = slotAt s k j)) ∧
  (∀ o p, s.curSlot.w.get r = .shared o → free.head? = some p → (pr s o).used = true → ∃ t, wwrite r v s = .ok ((), t) ∧ wideAt t r = v ∧
    pr t o = (if (pr s o).refs ≤ 1 then ⟨false, 0, 0, none, false⟩ else { pr s o with refs := (pr s o).refs - 1 }) ∧
    (∀ x, x ≠ p → x ≠ o → pr t x = pr s x)) ∧
  ((∀ o, s.curSlot.w.get r ≠ .priv o) → free = [] → ∃ u, wwrite r v s = .error (.trap { code := .wregCopy } u))) ∧
  (∀ (s s1 : State) (et : Et) (r : WReg) (g : Src) (x : Word),
  (∃ f, secondOp et (.reg r) s = .ok (([wideAt s r], f), s) ∧ ∀ i, f i = elem (etW et) (wideAt s r).data i) ∧
  (read1 g s = .ok (x, s1) → ∃ f, secondOp et (.bcast g) s = .ok (([], f), s1) ∧ ∀ i, f i = x.toNat % 2 ^ etW et) ∧
  (∃ f, secondOp et .lane s = .ok (([], f), s) ∧ (etInt et = true → ∀ i, i < etN et → f i = i) ∧
    (et = .f32 → ∀ i, i < 64 → fpVal .f32 (f i) = i ∧ fpFinite .f32 (f i)))) ∧
  (∀ (s : State) (q j : Nat) (m : Bool) (r : Retire) (rest : List Retire),
  let c (n : Nat) : Nat := q * 4 + n
  let rr := if m then (quadAt s q).rrMat else (quadAt s q).rrCore
  let due (n : Nat) : Prop := ∃ r l, (coreOf s (c n)).dq = r :: l ∧ r.matrix = m ∧ (r.rot = false ∨ (coreOf s (c n)).rots = [] ∨ ∃ x ∈ l, x.rot = true)
  (coreOf s (c j)).dq = r :: rest → r.matrix = m → (r.rot = false ∨ (coreOf s (c j)).rots = [] ∨ ∃ x ∈ rest, x.rot = true) →
  let left (x : Nat × List WMap) : Bool := rest.any fun y => y.task = x.1
  let u := ((coreOf s (c j)).unmapDue.filter fun x => !left x).foldl (fun a x => unmapList a q x.2) s
  r.doom = none → r.slot < 5 → ∀ d, d < 4 → j = (rr + d) % 4 → (∀ e, e < d → ¬ due ((rr + e) % 4)) → ∃ t,
    exec (if m then .matrixRequest q else .wideUnitRetire q) s = .next t ∧
    (quadAt t q) = (if m then { quadAt u q with rrMat := (j + 1) % 4 } else { quadAt u q with rrCore := (j + 1) % 4 }) ∧
    (∀ x, x ≠ q → quadAt t x = quadAt s x) ∧ (coreOf t (c j)).dq = rest ∧ (coreOf t (c j)).unmapDue = (coreOf s (c j)).unmapDue.filter left ∧
    (slotAt t (c j) r.slot) = (let sl := slotAt s (c j) r.slot
      let sl1 := { sl with fpst := sl.fpst ||| r.flags }
      match r.result with
      | some (e, v, p) => if sl.task = r.task then sl1.setE e ⟨v, true, p⟩ else sl1
      | none => sl1) ∧
    (∀ i, i ≠ r.slot → slotAt t (c j) i = slotAt s (c j) i) ∧ (∀ k, k ≠ c j → coreOf t k = coreOf s k) ∧
    t = { s with cores := t.cores, quads := t.quads })

/-- The wide integer group (R170), in both forms: with room in the dispatch queue, sources of one seal and a destination that can be written, each
instruction completes: the elements the mask enables take the operation's value at the element's width, the others stay or are zeroed, and the
instruction is accepted; sources of two seals raise FURL_MIX. The wide FP group (R171), under the same conditions: each written element is the rounded
result of its operands, the flags of the written elements are due at retirement, and under SR the core's state advances once for every written
element, in ascending order (R91). -/
def Obligations.WideArithmetic : Prop :=
  (∀ (s s1 : State) (et : Et) (wd wa : WReg) (b : WOpnd) (k : KReg) (kz : Bool) (imm : BitVec 32)
    (l : List WVal) (f : Nat → Nat) (tag : Option (Fin 64)),
  let w := etW et
  let A (t : State) (i : Nat) : Nat := elem w (wideAt t wa).data i
  let runs (t : State) (isReg keep : Bool) (l : List WVal) (F : Nat → Nat) (j : Instr) : Prop :=
    let src := sources k kz keep (wideAt t wd) (wideAt t wa :: l)
    Room t → (Joined src tag → WideReady t wd →
      ∃ v, Written et (t.curSlot.mask k) kz (wideAt t wd).data F v ∧ Gives s t j wd (resultOf src tag v) 0 id) ∧
    ((∀ x, ¬ Joined src x) → ∃ y, exec j s = .next (s.trapped { code := .furlMix } y))
  let isReg : Bool := match b with | .reg _ => true | _ => false
  let lit : Nat := (litS imm).toNat % 2 ^ w
  (secondOp et b s = .ok ((l, f), s1) →
    (∀ p ∈ wideIntTable, runs s1 isReg false l (fun i => toElem w (p.2.2 w (A s1 i) (f i))) (p.1 et wd wa b k kz)) ∧
    (∀ p ∈ wideFunnelTable, runs s1 isReg isReg l (fun i => if isReg then p.2.2 w (A s1 i) (f i) (elem w (wideAt s1 wd).data i)
      else p.2.2 w (A s1 i) 0 (f i)) (p.1 et wd wa b k kz))) ∧
  (∀ p ∈ wideIntTable, runs s false false [] (fun i => toElem w (p.2.2 w (A s i) lit)) (p.2.1 et wd wa imm k kz)) ∧
  (∀ p ∈ wideFunnelTable, runs s false false [] (fun i => p.2.2 w (A s i) 0 lit) (p.2.1 et wd wa imm k kz))) ∧
  (∀ (s s1 : State) (et : Et) (wd wa : WReg) (b : WOpnd) (k : KReg) (kz : Bool) (rm : Rm) (imm : BitVec 32)
    (l : List WVal) (f : Nat → Nat) (tag : Option (Fin 64)),
  let w := etW et
  let sp := etSpec et
  let A (t : State) (i : Nat) : Nat := elem w (wideAt t wa).data i
  let runs (t : State) (rm : Rm) (keep : Bool) (l : List WVal) (F : Nat → Nat → Nat × Num.Flags) (j : Instr) : Prop :=
    let m := t.curSlot.mask k
    let st := (coreOf t t.cur).srst
    let src := sources k kz keep (wideAt t wd) (wideAt t wa :: l)
    let R (i : Nat) : Nat × Num.Flags := F (Num.srTop (srAt rm st (writtenUpTo et m i))) i
    Room t → Joined src tag → WideReady t wd → ∃ v, Written et m kz (wideAt t wd).data (fun i => (R i).1 % 2 ^ w) v ∧
      Gives s t j wd (resultOf src tag v) (flagsOf et m fun i => (R i).2)
        fun u => modCore u u.cur fun x => { x with srst := srAt rm st (writtenUpTo et m (etN et - 1)) }
  let lit : Nat := (litS imm).toNat % 2 ^ w
  (secondOp et b s = .ok ((l, f), s1) →
    (∀ p ∈ wideFpTable, runs s1 rm false l (fun sr i => p.2.2 sp rm sr (A s1 i) (f i)) (p.1 et wd wa b k kz rm)) ∧
    runs s1 rm true l (fun sr i => Num.fpFma sp rm sr (A s1 i) (f i) (elem w (wideAt s1 wd).data i)) (.wfmaReg et wd wa b k kz rm)) ∧
  (∀ p ∈ wideFpTable, runs s .rne false [] (fun sr i => p.2.2 sp .rne sr (A s i) lit) (p.2.1 et wd wa imm k kz)) ∧
  runs s .rne true [] (fun sr i => Num.fpFma sp .rne sr (A s i) lit (elem w (wideAt s wd).data i)) (.wfmaLit et wd wa imm k kz) ∧
  (∀ p ∈ wideUnaryTable, runs s rm false [] (fun sr i => p.2 sp rm sr (A s i)) (p.1 et wd wa k kz rm)))

/-- WCMP, WSEL, WRED and WSCAN (R172 to R178): compared lanes into a mask, elements chosen by the mask, the reduction of the enabled elements (for
integers their exact combination in element order, whatever the tree), the running combination. A sealed source of WCMP and WRED raises FURL_LEAK. -/
def Obligations.WideCompareReduce : Prop := ∀ (s s1 : State) (et : Et) (wd wa : WReg) (b : WOpnd) (kd k : KReg) (kz any u excl : Bool) (cond : BitVec 4)
    (op : BitVec 3) (er : EReg) (l : List WVal) (f : Nat → Nat) (tag : Option (Fin 64)),
  let w := etW et
  let A (t : State) (i : Nat) : Nat := elem w (wideAt t wa).data i
  let o := op.toNat
  let per := 32 / w
  let holds (x y : Nat) : Bool := if etInt et then intCond w cond.toNat x y else (cmpElem et cond.toNat x y).1
  let lanes (t : State) (i : Nat) : List Bool := (List.range per).map fun j => holds (A t (i * per + j)) (f (i * per + j))
  let on (t : State) : List Int := ((List.range (etN et)).filter fun i => lane w (t.curSlot.mask k) i).map fun i =>
    if o ≤ 2 ∧ u = false then signed w (A t i) else A t i
  let step (a : Nat × Num.Flags) (x : Nat) : Nat × Num.Flags :=
    if etInt et then (toElem w (intComb o (intExt w o false a.1) (intExt w o false x)), 0)
    else ((fpComb et o a.1 x).1, a.2 ||| (fpComb et o a.1 x).2)
  let part (t : State) (n : Nat) : Nat × Num.Flags := (((List.range n).filter fun i => lane w (t.curSlot.mask k) i).map fun i => A t i).foldl
    step (if etInt et then toElem w (intIdent w o) else fpIdent et o, 0)
  (secondOp et b s = .ok ((l, f), s1) → Room s1 → (∀ x ∈ wideAt s1 wa :: l, x.tag = none ∧ x.poison = false) → kd ≠ 0 →
    ∃ (m : Word) (fl : Num.Flags), (etInt et = true → fl = 0) ∧
    (∀ i, i < 64 → m.getLsbD i = if (s1.curSlot.mask k).getLsbD i then (if any then (lanes s1 i).any id else (lanes s1 i).all id)
      else !kz && (s1.curSlot.mask kd).getLsbD i) ∧
    exec (.wcmp et kd wa b k kz cond any) s = .next (s.past (accepted (s1.onSlot fun x => x.setK kd m) fl none))) ∧
  (secondOp et b s = .ok ((l, f), s1) → (∃ x ∈ wideAt s1 wa :: l, x.tag ≠ none) → ∃ y,
    exec (.wcmp et kd wa b k kz cond any) s = .next (s.trapped { code := .furlLeak } y)) ∧
  (secondOp et b s = .ok ((l, f), s1) → Room s1 → Joined (wideAt s1 wa :: l) tag → WideReady s1 wd → ∃ v,
    (∀ i, i < etN et → elem w v i = if lane w (s1.curSlot.mask k) i then A s1 i else f i % 2 ^ w) ∧
    Gives s s1 (.wsel et wd wa b k) wd (resultOf (wideAt s1 wa :: l) tag v) 0 id) ∧
  (etInt et = true → Room s → (wideAt s wa).tag = none →
    exec (.wred et er wa k op u) s = .next (s.past (accepted s 0 (some (er, BitVec.ofInt 64 (match on s with
      | [] => intIdent w o | x :: r => r.foldl (intComb o) x), (wideAt s wa).poison))))) ∧
  (etInt et = false → Room s → (wideAt s wa).tag = none → ∃ x fl,
    tree (fpComb et o) 8 ((List.range (etN et)).map fun i => if lane w (s.curSlot.mask k) i then some (A s i) else none) = (x, fl) ∧
    exec (.wred et er wa k op u) s = .next (s.past (accepted s fl (some (er, word (x.getD (fpIdent et o)), (wideAt s wa).poison))))) ∧
  ((wideAt s wa).tag ≠ none → ∃ y, exec (.wred et er wa k op u) s = .next (s.trapped { code := .furlLeak } y)) ∧
  (Room s → Joined (sources k kz false (wideAt s wd) [wideAt s wa]) tag → WideReady s wd → ∃ v,
    Written et (s.curSlot.mask k) kz (wideAt s wd).data (fun i => (part s (if excl then i else i + 1)).1 % 2 ^ w) v ∧
    Gives s s (.wscan et wd wa k kz op excl) wd (resultOf (sources k kz false (wideAt s wd) [wideAt s wa]) tag v) (part s (etN et)).2 id)

/-- WPERM, WSLIDE, WBCAST, WZIP, WMOVS and WIDX (R179 to R181): which element goes where; an extracted element fills a full/empty register at retirement.
KOP (R182): the logic of masks, the first lanes set, their number and the first set lane; `k0` reads all-true and is not written (R10). -/
def Obligations.WideMovesAndMasks : Prop :=
  (∀ (s s1 : State) (et : Et) (wd wa wb : WReg) (g : Src) (k : KReg) (kz hi sx : Bool) (x : Word) (step : BitVec 16)
    (er : EReg) (ln : BitVec 8) (tag : Option (Fin 64)),
  let w := etW et
  let n := etN et
  let E (t : State) (r : WReg) (i : Nat) : Nat := elem w (wideAt t r).data i
  let runs (t : State) (l : List WVal) (F : Nat → Nat) (j : Instr) : Prop := Room t → Joined (sources k kz false (wideAt t wd) l) tag →
    WideReady t wd → ∃ v, Written et (t.curSlot.mask k) kz (wideAt t wd).data F v ∧
      Gives s t j wd (resultOf (sources k kz false (wideAt t wd) l) tag v) 0 id
  runs s [wideAt s wa, wideAt s wb] (fun i => E s wa (E s wb i % n)) (.wperm et wd wa wb k kz) ∧
  runs s [wideAt s wa, wideAt s wb] (fun i => E s (if i % 2 = 0 then wa else wb) ((if hi then n / 2 else 0) + i / 2)) (.wzip et wd wa wb k kz hi) ∧
  runs s [] (fun i => toElem w (i * step.toInt)) (.widx et wd none k kz step) ∧
  (read1 g s = .ok (x, s1) →
    runs s1 [wideAt s1 wa, wideAt s1 wb] (fun i => let j := i + x.toNat % 512
      if j < n then E s1 wa j else if j < 2 * n then E s1 wb (j - n) else 0) (.wslide et wd wa wb g k kz) ∧
    runs s1 [wideAt s1 wa] (fun _ => E s1 wa (x.toNat % n)) (.wbcast et wd wa g k kz) ∧
    runs s1 [] (fun _ => x.toNat % 2 ^ w) (.wmovsInsert et wd g k kz) ∧
    runs s1 [] (fun i => toElem w (x.toNat + i * step.toInt)) (.widx et wd (some g) k kz step)) ∧
  (Room s → (wideAt s wa).tag = none → exec (.wmovsExtract et er wa ln sx) s = .next (s.past (accepted s 0 (some (er,
    if sx then BitVec.ofInt 64 (signed w (E s wa ln.toNat)) else word (E s wa ln.toNat), (wideAt s wa).poison))))) ∧
  ((wideAt s wa).tag ≠ none → ∃ y, exec (.wmovsExtract et er wa ln sx) s = .next (s.trapped { code := .furlLeak } y))) ∧
  (∀ (s s1 : State) (kd ka kb : KReg) (g : Src) (x : Word) (er : EReg),
  let m := s.curSlot.mask
  let put (t : State) (v : Word) : State := accepted (t.onSlot fun y => if kd = 0 then y else { y with k := y.k.set kd.val v kd.isLt }) 0 none
  Room s →
  (∀ p ∈ [((0 : Fin 4), m ka &&& m kb), (1, m ka ||| m kb), (2, m ka ^^^ m kb), (3, m ka &&& ~~~(m kb))],
    exec (.kop (.bin p.1 kd ka kb)) s = .next (s.past (put s p.2))) ∧
  exec (.kop (.inv kd ka)) s = .next (s.past (put s (~~~(m ka)))) ∧ exec (.kop (.mov kd ka)) s = .next (s.past (put s (m ka))) ∧
  (read1 g s = .ok (x, s1) → ∃ v : Word, (∀ i, i < 64 → v.getLsbD i = decide (i < x.toNat)) ∧
    exec (.kop (.set kd g)) s = .next (s.past (put s1 v))) ∧
  exec (.kop (.popc er ka)) s = .next (s.past (accepted s 0 (some (er, word ((List.range 64).filter fun i => (m ka).getLsbD i).length, false)))) ∧
  (∀ j, j < 64 → (m ka).getLsbD j = true → (∀ i, i < j → (m ka).getLsbD i = false) →
    exec (.kop (.first er ka)) s = .next (s.past (accepted s 0 (some (er, word j, false))))) ∧
  (m ka = 0 → exec (.kop (.first er ka)) s = .next (s.past (accepted s 0 (some (er, 64, false))))) ∧
  m 0 = BitVec.allOnes 64)

/-- WCVT (R174, R175): a part of the elements of a wide register converted from a format to another, the rest kept where the destination has more places;
each conversion takes one stochastic step under SR; a decode-only table as the destination raises ILL_FIELD. DTLD from the core's own slice (R86,
R188): the 256 entries are the low 19 bits of their words, the status says what the table permits, and the report is due at retirement. -/
def Obligations.WideConversion : Prop :=
  (∀ (s : State) (wd wa : WReg) (dt : Option (Fin 4)) (sf df : BitVec 5) (part : BitVec 3) (sat : Bool) (rm : Rm)
    (tag : Option (Fin 64)),
  let k := coreOf s s.cur
  let sF : Num.Fmt := match dt with | some t => .dt t | none => (Num.fmtOfCode sf.toNat).getD .fp32
  let dF : Num.Fmt := (Num.fmtOfCode df.toNat).getD .fp32
  let ns := 2048 / Num.fmtPlace sF
  let nd := 2048 / Num.fmtPlace dF
  let m := min ns nd
  let off := part.toNat * m
  let src := if ns < nd then [wideAt s wd, wideAt s wa] else [wideAt s wa]
  let conv (e : Nat) : Word × Num.Flags := Num.encodeFmt k.dt dF rm sat (Num.srTop (srAt rm k.srst (e + 1)))
    (Num.decodeFmt k.dt sF (elem (Num.fmtPlace sF) (wideAt s wa).data (if nd < ns then off + e else e)))
  let out (e : Nat) : Nat := (conv e).1.toNat % 2 ^ Num.fmtWidth dF
  let j := Instr.wcvt wd wa dt sf part sat rm df
  (Room s → (∀ n, dF = .dt n → (k.dt.get n).status = 0) → Joined src tag → WideReady s wd → ∃ v,
    (∀ i, i < nd → elem (Num.fmtPlace dF) v i = if ns < nd then (if off ≤ i ∧ i < off + m then out (i - off)
      else elem (Num.fmtPlace dF) (wideAt s wd).data i) else out i) ∧
    Gives s (modCore s s.cur fun x => { x with srst := srAt rm k.srst m }) j wd (resultOf src tag v)
      ((List.range m).foldl (fun a e => a ||| (conv e).2) 0) id) ∧
  (∀ n, dF = .dt n → (k.dt.get n).status ≠ 0 → ∃ y, exec j s = .next (s.trapped { code := .illField } y))) ∧
  (∀ (s s1 : State) (t : Fin 4) (g : Src) (rpt : Option EReg) (base : Word),
  let c := s.cur
  let pa := windowPa c base.toNat
  let entries : List (BitVec 19) := (List.range 256).map fun i => BitVec.ofNat 19 (rdNat s1 (pa + 4 * i) 4)
  let st := Num.tabStatus entries
  let j := Instr.dtld t g false rpt
  (read1 g s = .ok (base, s1) → base.toNat % 4 = 0 → LocalData s1 base 1024 → Clean s1 pa 1024 → Room s1 →
    exec j s = .next (s.past (accepted (modCore s1 c fun k => { k with dt := k.dt.set t.val ⟨entries, st⟩ t.isLt }) 0
      (rpt.map fun e => (e, st.setWidth 64, false))))) ∧
  (read1 g s = .ok (base, s1) → base.toNat % 4 ≠ 0 → ∃ y, exec j s = .next (s.trapped { code := .align, info := base } y)))

/-! ### Wide loads and stores, tables, furled memory (chapters 04, 09 and 10) -/

/-- WLD, WGATH and WFILL from the core's own slice (R184, R185, R187): each covered byte comes from its address, the others stay or are zeroed; the result
carries the seal of what stays and the poison of what it read. A gathered lane at a misaligned address raises ALIGN. WST, WSCAT and WSPILL to the
core's own slice (R184, R185, R187): the covered bytes, in ascending order, go last into the store buffer; WSPILL gives up the register's mapping. A
sealed source raises FURL_LEAK. -/
def Obligations.WideMemory : Prop :=
  (∀ (s : State) (et : Et) (wd wa : WReg) (g : GReg) (k : KReg) (kz ord : Bool) (ofs : BitVec 20) (scale : BitVec 3)
    (sp : Fin 16) (imm : BitVec 32),
  let c := s.cur
  let sl := s.curSlot
  let old := wideAt s wd
  let m := sl.mask k
  let cov (j : Nat) : Bool := m.getLsbD (j / 4)
  let merge : Bool := !kz && k ≠ 0
  let load (pa : Nat → Nat) (p0 : Bool) (j : Instr) : Prop := WideReady s wd → ∃ v, Loaded s pa cov kz old.data v ∧
    Gives s s j wd ⟨v, if merge then old.tag else none, p0 || (merge && old.poison) || anyBad s pa cov⟩ 0 id
  let base (ea : Word) (j : Instr) : Prop := LocalData s ea 256 → Settled s (windowPa c ea.toNat) 256 → load (fun i => windowPa c ea.toNat + i) false j
  let lane (i : Nat) : Word := sl.g.get g + (BitVec.ofInt 64 (signed 32 (elem 32 (wideAt s wa).data i))) <<< scale.toNat
  Room s →
  base (BitVec.ofInt 64 ((sl.g.get g).toNat + ofs.toInt)) (.wldReg wd g k kz ⟨false, ord⟩ ofs) ∧ base (litS imm) (.wldLit wd k kz imm) ∧
  ((wideAt s wa).tag = none → (∀ i, i < 64 → m.getLsbD i = true → LocalData s (lane i) 4 ∧ (lane i).toNat % 4 = 0 ∧ Settled s (windowPa c (lane i).toNat) 4) →
    load (fun j => windowPa c (lane (j / 4)).toNat + j % 4) (wideAt s wa).poison (.wgath et wd wa g k kz ⟨false, ord⟩ scale)) ∧
  ((wideAt s wa).tag = none → ∀ i, i < 64 → m.getLsbD i = true → (lane i).toNat % 4 ≠ 0 → (∀ j, j < i → m.getLsbD j = true →
    LocalData s (lane j) 4 ∧ (lane j).toNat % 4 = 0) → ∃ x,
    exec (.wgath et wd wa g k kz ⟨false, ord⟩ scale) s = .next (s.trapped { code := .align, info := lane i } x)) ∧
  ((wideAt s wa).tag ≠ none → ∃ x, exec (.wgath et wd wa g k kz ⟨false, ord⟩ scale) s = .next (s.trapped { code := .furlLeak } x)) ∧
  (let pa (j : Nat) : Nat := windowPa c (stkTop sl + 256 * sp.val) + j
   c < 6144 → stkTop sl + 256 * sp.val + 256 ≤ 0x18000 → sp.val < sl.spillN.toNat → Settled s (pa 0) 256 → WideReady s wd → ∃ v,
      Loaded s pa (fun _ => true) true 0 v ∧ Gives s s (.wfill wd sp) wd ⟨v, none, anyBad s pa fun _ => true⟩ 0 id)) ∧
  (∀ (s : State) (et : Et) (wa wb : WReg) (bm : Option WReg) (g : GReg) (k : KReg) (ord : Bool) (ofs : BitVec 20)
    (scale : BitVec 3) (sp : Fin 16) (imm : BitVec 32),
  let c := s.cur
  let sl := s.curSlot
  let x := wideAt s wa
  let m := sl.mask k
  let byte (j : Nat) : Byte := BitVec.ofNat 8 (elem 8 x.data j)
  let cov (bm : Option WReg) (j : Nat) : Bool := m.getLsbD (j / 4) && bm.toList.all fun r => (elem 8 (wideAt s r).data j).testBit 7
  let srcs (bm : Option WReg) : List WVal := x :: bm.toList.map (wideAt s)
  let store (ea : Word) (bm : Option WReg) (rel : Bool) (j : Instr) : Prop := LocalData s ea 256 → (∀ y ∈ srcs bm, y.tag = none) →
    ∃ t, PushedAll s t (((List.range 256).filter (cov bm)).map fun i => (windowPa c ea.toNat + i, byte i)) ((srcs bm).any (·.poison)) rel ∧
      exec j s = .next (s.past (accepted t 0 none))
  let lane (i : Nat) : Word := sl.g.get g + (BitVec.ofInt 64 (signed 32 (elem 32 (wideAt s wb).data i))) <<< scale.toNat
  let leaks (j : Instr) : Prop := ∃ y, exec j s = .next (s.trapped { code := .furlLeak } y)
  Room s → (coreOf s c).sb.length ≤ Config.storeBuffer → drainsDue (coreOf s c) (actOf s c) = false →
  store (BitVec.ofInt 64 ((sl.g.get g).toNat + ofs.toInt)) bm ord (.wstReg wa bm g k ⟨false, ord⟩ ofs) ∧ store (litS imm) none false (.wstLit wa k imm) ∧
  (x.tag = none → (wideAt s wb).tag = none → (∀ i, i < 64 → m.getLsbD i = true → LocalData s (lane i) 4 ∧ (lane i).toNat % 4 = 0) →
    ∃ t, PushedAll s t (((List.range 64).filter fun i => m.getLsbD i).flatMap fun i => (List.range 4).map fun j => (windowPa c (lane i).toNat + j, byte (4 * i + j)))
      (x.poison || (wideAt s wb).poison) ord ∧ exec (.wscat et wa wb g k ⟨false, ord⟩ scale) s = .next (s.past (accepted t 0 none))) ∧
  (x.tag = none → sp.val < sl.spillN.toNat → actOf s c < 5 → c < 6144 → stkTop sl + 256 * sp.val + 256 ≤ 0x18000 → ∃ t u,
    PushedAll s t ((List.range 256).map fun i => (windowPa c (stkTop sl + 256 * sp.val) + i, byte i)) x.poison false ∧
    exec (.wspill wa sp) s = .next (s.past (accepted (u.onSlot fun y => { y with w := y.w.set wa.val .unmapped wa.isLt }) 0 none)) ∧
    u = (match sl.w.get wa with | .unmapped => t | .priv p => dropPreg t (quadOf c) p | .shared p => dropPreg t (quadOf c) p)) ∧
  (x.tag ≠ none → leaks (.wstReg wa bm g k ⟨false, ord⟩ ofs) ∧ leaks (.wstLit wa k imm) ∧ leaks (.wscat et wa wb g k ⟨false, ord⟩ scale) ∧ leaks (.wspill wa sp)))

/-- WLDF and SEALST (R215, R219, R224, R225): on memory that is not furled they are WLD and WST, and what WLDF gives is unsealed; on a whole furled
granule every one of whose keys is bound and permits it WLDF writes the decrypted bytes sealed by the key, those of a poisoned granule as poison, and
a granule whose tag does not match as poison with FURL_TAG due, while SEALST stores the encrypted granule and its tag as one update; the refusals name
their faults. FBIND (R217, R302): a loaded key of the context whose policy lists the task's measurement is bound; the range form also binds a range of
the own slice that furled pages of the key, each wholly in the key's window, map in one piece below the limit of program data; the drop form removes
the core's ranges of a key once no accepted instruction that reads one is left. An unloaded key raises FURL_KEY, one of another context or policy and
a page of another kind or key FURL_POLICY, a number past 63 ILL_FIELD. -/
def Obligations.FurledAccess : Prop :=
  (∀ (s s1 s2 s3 : State) (et : Et) (w : WReg) (g : GReg) (k : KReg) (kz : Bool) (m : Mode) (ofs : BitVec 20)
    (gs : List Seg) (seg : Seg) (ky v : Nat) (pt : List Nat),
  let sl := s.curSlot
  let ea := sl.g.get g + ofs.signExtend 64
  let old := wideAt s1 w
  let merge : Bool := !kz && k ≠ 0
  let tag : Option (Fin 64) := some (Fin.ofNat 64 ky)
  let ld := Instr.wldf et w g k kz m ofs
  let st := Instr.sealst w g m ofs
  let keys := furlKeys s1 seg
  let allBound : Prop := ∀ x ∈ keys, bound s1 sl x.1 = true
  let windows : Prop := ∀ x ∈ keys, (keyAt s1 x.1).inWindow x.2 256 = true
  let formats : Prop := ∀ x ∈ keys, etPermitted (keyAt s1 x.1) et = true
  let stops (cd : Code) (j : Instr) : Prop := ∃ y, exec j s = .next (s.trapped { code := cd, info := ea } y)
  let whole : Prop := gs = [seg] ∧ seg.furled s1 = true ∧ seg.allFurled s1 = true ∧ ea.toNat % 256 = 0 ∧ furlOf s1 seg = some (ky, v)
  let loaded (p : Bool) : Prop := ∃ new u, (∀ j, j < 256 → elem 8 new j = if (sl.mask k).getLsbD (j / 4) then pt.getD j 0 % 256 else if kz then 0 else elem 8 old.data j) ∧
    wwrite w ⟨new, tag, p⟩ s2 = .ok ((), u) ∧ exec ld s = .next (s.past (acceptedUnder u 0 none [(ky, seg.mt ≠ .furled)]))
  (resolveAny m.spc ea 256 accBulkRd s = .ok (gs, s1) →
    ((∀ x ∈ gs, x.furled s1 = false) → wideLoad w ea k kz m.spc s1 = .ok (.next, s2) →
      wwrite w { wideAt s2 w with tag := none } s2 = .ok ((), s3) → exec ld s = .next (s.past s3)) ∧
    ((∃ x ∈ gs, x.furled s1 = true) → (∃ x ∈ gs, x.allFurled s1 = false) → stops .furlRead ld) ∧
    (whole → ¬ allBound → stops .furlKey ld) ∧
    (whole → allBound → ¬ (formats ∧ windows) → stops .furlPolicy ld) ∧
    (whole → allBound → formats → windows → (merge = true → old.tag = none ∨ old.tag.map (·.val) = some ky) → Room s1 →
      (readGranule seg ky v s1 = .ok (.clear pt, s2) → WideReady s2 w → loaded (merge && old.poison)) ∧
      (readGranule seg ky v s1 = .ok (.poisoned pt, s2) → WideReady s2 w → loaded true) ∧
      (readGranule seg ky v s1 = .ok (.badTag, s2) → wwrite w ⟨0, tag, true⟩ s2 = .ok ((), s3) → ∃ t e, exec ld s = .next (s.past t) ∧
        t = modCore s3 s3.cur (fun x => { x with dq := x.dq ++ [e] }) ∧ e.doom = some ({ code := .furlTag, info := word v }, sl.pc) ∧ e.result = none))) ∧
  (resolveAny m.spc ea 256 accBulkWr s = .ok (gs, s1) →
    ((∀ x ∈ gs, x.furled s1 = false) → wideStore w none ea 0 m.spc m.ord s1 = .ok (.next, s2) → exec st s = .next (s.past s2)) ∧
    ((∃ x ∈ gs, x.furled s1 = true) → (∃ x ∈ gs, x.allFurled s1 = false) → stops .furlWrite st) ∧
    (whole → ¬ allBound → stops .furlKey st) ∧ (whole → allBound → ¬ windows → stops .furlPolicy st) ∧
    (whole → allBound → windows → seg.pastQ s1 = false → ((wideAt s w).tag = none ∨ (wideAt s w).tag.map (·.val) = some ky) → Room s1 →
      (coreOf s1 s1.cur).sb.length ≤ Config.storeBuffer → drainsDue (coreOf s1 s1.cur) (actOf s1 s1.cur) = false → (wideAt s w).poison = false → ∃ t,
      PushedAll s1 t (sealedBytes (keyAt s1 ky) v seg.pa ((List.range 256).map (elem 8 (wideAt s w).data))) false m.ord ∧
        exec st s = .next (s.past (acceptedUnder t 0 none [(ky, false)]))))) ∧
  (∀ (s s1 : State) (a b c : GReg) (gs : List Seg) (lb : Nat) (e : TlbEntry),
  let sl := s.curSlot
  let k := (sl.g.get a).toNat
  let vb := sl.g.get b
  let n := (sl.g.get c).toNat
  let key := keyAt s k
  let mine : Prop := key.ctx = sl.ctx ∧ key.lists sl.meas = true ∧ sl.up = false
  let bit : BitVec 64 := sl.bind ||| BitVec.ofNat 64 (2 ^ k)
  let stops (t : Trap) (j : Instr) : Prop := ∃ y, exec j s = .next (s.trapped t y)
  let placed : Prop := gs ≠ [] ∧ ∀ g ∈ gs, ownerOf s1.hdm g.pa = .slice s.cur (lb + (g.va.toNat - vb.toNat))
  let old := (coreOf s1 s.cur).furl
  let size := 2 ^ pageBits e.size
  (64 ≤ k → stops { code := .illField } (.fbind a) ∧ stops { code := .illField } (.fbindRange a b c) ∧ stops { code := .illField } (.fbindDrop a)) ∧
  (k < 64 → key.st ≠ .loaded → stops { code := .furlKey } (.fbind a) ∧ stops { code := .furlKey } (.fbindRange a b c)) ∧
  (k < 64 → key.st = .loaded → ¬ mine → stops { code := .furlPolicy } (.fbind a) ∧ stops { code := .furlPolicy } (.fbindRange a b c)) ∧
  (k < 64 → key.st = .loaded → mine → exec (.fbind a) s = .next (s.past (s.onSlot fun x => { x with bind := bit }))) ∧
  (k < 64 → key.st = .loaded → mine → vb.toNat % 256 = 0 → n % 256 = 0 → 0 < n → n ≤ 0x10000 →
    (rangePages k (n / 4096 + 2) vb n s = .ok (gs, s1) → (gs.head?.map fun g => g.va) = some vb → placed → lb + n ≤ qbaseOf s1 s.cur →
      old.length < 4 → (∀ r ∈ old, r.lb + r.len ≤ lb ∨ lb + n ≤ r.lb) →
      exec (.fbindRange a b c) s = .next (s.past ((modCore s1 s.cur fun x => { x with furl := x.furl ++ [⟨k, lb, n, vb⟩] }).onSlot fun x =>
        { x with bind := x.bind ||| BitVec.ofNat 64 (2 ^ k) }))) ∧
    (lookup vb s = .ok (e, s1) → vb.toNat < 2 ^ 56 → (e.mt ≠ .furled ∨ e.key ≠ k ∨ (keyAt s1 k).inWindow (vb.toNat / size * size) size = false) →
      stops { code := .furlPolicy, info := vb } (.fbindRange a b c))) ∧
  (k < 64 → (vb.toNat % 256 ≠ 0 ∨ n % 256 ≠ 0 ∨ n = 0 ∨ 0x10000 < n) → key.st = .loaded → mine → stops { code := .align, info := vb } (.fbindRange a b c)) ∧
  (k < 64 → (∀ r ∈ (coreOf s s.cur).dq, (k, true) ∉ r.keys) →
    exec (.fbindDrop a) s = .next (s.past (modCore s s.cur fun x => { x with furl := x.furl.filter fun r => r.key ≠ k }))))

/-! ### The matrix unit (chapter 09) -/

/-- MCTX, MPROG, MCLAIM, MRELEASE, MZERO, MTOWIDE and MWAIT (R195, R196, R205, R208, R209): a context word or program is checked before it is taken; a
claim makes a tile that no other task holds the task's, +0, unsealed and clean, changes nothing where the task holds it already, and waits for a tile
that another holds or whose last accepted work is not complete; releasing gives the tile up, and changes nothing where the task does not hold it;
MTOWIDE takes two rows with the tile's seal and poison; MWAIT ends when nothing it names is left. MLDB, MLOAD and MSTORE with the own slice (R193,
R198, R207, R208): the rows read or written, at the stride; the scales under MX; the conversion under the context's rounding and saturation in row
order, with its flags and stochastic steps. What reads memory comes after both parts of an earlier MROT (R200). A sealed tile is not stored. -/
def Obligations.MatrixSetUp : Prop :=
  (∀ (s : State) (c : Fin 4) (a : GReg) (x : BitVec 32) (wd : WReg) (p : Fin 16) (n : Option (Fin 4)),
  let k := coreOf s s.cur
  let i := actOf s s.cur
  let t := tileAt s c
  let me := (i, s.curSlot.task)
  let held : Prop := t.owner = some me ∧ t.giving = false
  let due (task : Nat) (n : Option (Fin 4)) : Prop := (∃ r ∈ k.dq, r.matrix = true ∧ r.task = task ∧ (n = none ∨ r.tile = n)) ∨
    ∃ e ∈ k.sb, e.src.task = task ∧ e.tile ≠ none ∧ (n = none ∨ e.tile = n)
  let taken : Prop := ∃ o, t.owner = some o ∧ o ≠ me ∧ (t.giving = false ∨ due o.2 (some c))
  let stops (cd : Code) (j : Instr) : Prop := ∃ y, exec j s = .next (s.trapped { code := cd } y)
  let ctx (w : Word) (j : Instr) : Prop :=
    (GoodContext w → exec j s = .next (s.past (acceptedX (modCore s s.cur fun k => { k with mctx := w.setWidth 32 }) 0 none))) ∧
    (¬ GoodContext w → stops .illField j)
  let g := s.curSlot.g.get a
  let prog : Prop := ∀ m, m < 4 → GoodOp (g.toNat / 2 ^ (16 * m) % 65536)
  Room s →
  ctx (x.setWidth 64) (.mctx (.lit x)) ∧ ctx g (.mctx (.reg a)) ∧
  (prog → exec (.mprog a) s = .next (s.past (acceptedX (modCore s s.cur fun k => { k with mprog := g }) 0 none))) ∧
  (¬ prog → stops .illField (.mprog a)) ∧
  (¬ held → ¬ taken → exec (.mclaim c) s = .next (s.past (acceptedX (putTile s c ⟨0, none, false, some me, false⟩) 0 (some c)))) ∧
  (taken → i < 4 → s.curSlot.mw = 0 → exec (.mclaim c) s = .next (s.blockedOn (.tile c))) ∧
  (held → exec (.mclaim c) s = .next (s.past (acceptedX s 0 (some c))) ∧
    exec (.mrelease c) s = .next (s.past (acceptedX (putTile s c { t with giving := true }) 0 (some c))) ∧
    exec (.mzero c) s = .next (s.past (acceptedX (putTile s c ⟨0, none, false, some me, false⟩) 0 (some c))) ∧
    (k.rots = [] → WideReady s wd → ∃ v u, (∀ m, m < 64 → elem 32 v m = tileElem t.data (64 * p.val + m)) ∧
      wwrite wd ⟨v, t.tag, t.poison⟩ s = .ok ((), u) ∧ exec (.mtowide c wd p) s = .next (s.past (acceptedX u 0 (some c))))) ∧
  (¬ held → exec (.mrelease c) s = .next (s.past (acceptedX s 0 (some c))) ∧ stops .illField (.mzero c) ∧ stops .illField (.mtowide c wd p)) ∧
  (¬ due me.2 n → exec (.mwait n) s = .next (s.past s)) ∧
  (due me.2 n → i < 4 → s.curSlot.mw = 0 → exec (.mwait n) s = .next (s.blockedOn (.matrixSlot n)))) ∧
  (∀ (s : State) (c : Fin 4) (a : GReg) (az b : GZ) (df : BitVec 5) (f : Num.Fmt) (st : Nat),
  let k := coreOf s s.cur
  let sh := shapeOf k.mctx
  let t := tileAt s c
  let held : Prop := t.owner = some (actOf s s.cur, s.curSlot.task) ∧ t.giving = false
  let base := s.curSlot.g.get a
  let pa (x : Word) : Nat := windowPa s.cur x.toNat
  let here (x : Word) (n : Nat) : Prop := LocalData s x n ∧ Settled s (pa x) n
  Room s →
  (k.rots = [] → Stride (valGZ s b) sh.row 16 st → (valGZ s az).toNat % 16 = 0 → here (valGZ s az) (sh.K * st + sh.ns) → ∃ L : Latch,
    (∀ m i, m < sh.K → i < sh.row → L.data.toNat / 256 ^ (sh.row * m + i) % 256 = (rdByte s (pa (valGZ s az) + m * st + i)).toNat) ∧
    (∀ m, m < 128 → L.scales.toNat / 256 ^ m % 256 = if m < sh.ns then (rdByte s (pa (valGZ s az) + sh.K * st + m)).toNat else 0x7F) ∧
    L.tag = none ∧ L.full = false ∧ L.poison = (rowsBad s (pa (valGZ s az)) sh.K st sh.row || rowsBad s (pa (valGZ s az) + sh.K * st) 1 0 sh.ns) ∧
    exec (.mldb az b false) s = .next (s.past (acceptedX (modCore s s.cur fun k => { k with latch := L }) 0 none))) ∧
  (k.rots = [] → held → Stride (valGZ s b) 128 8 st → base.toNat % 8 = 0 → here base (31 * st + 128) → ∃ d : BitVec 32768,
    (∀ i j, i < 32 → j < 32 → tileElem d (32 * i + j) = rdNat s (pa base + i * st + 4 * j) 4) ∧
    exec (.mload c a b false) s = .next (s.past (acceptedX (putTile s c ⟨d, none, rowsBad s (pa base) 32 st 128, t.owner, false⟩) 0 (some c)))) ∧
  (let w := Num.fmtPlace f
   let rm := ctxRm k.mctx
   let out (n : Nat) : Word × Num.Flags := Num.encodeFmt k.dt f rm (k.mctx.getLsbD 22) (Num.srTop (srAt rm k.srst (n + 1))) (Num.decodeFmt k.dt .fp32 (tileElem t.data n))
   let bits (n : Nat) : Nat := (out n).1.toNat % 2 ^ Num.fmtWidth f
   let byte (i j : Nat) : Byte := BitVec.ofNat 8 (if w = 4 then bits (32 * i + 2 * j) + 16 * bits (32 * i + 2 * j + 1) else bits (32 * i + 8 * j / w) / 2 ^ (8 * j % w))
   held → Num.fmtOfCode df.toNat = some f → f ≠ .fp64 → f ≠ .e8m0 → (∀ d, f = .dt d → (k.dt.get d).status = 0) → t.tag = none →
   Stride (valGZ s b) (4 * w) 8 st → base.toNat % 8 = 0 → LocalData s base (31 * st + 4 * w) → k.sb.length ≤ Config.storeBuffer →
   drainsDue k (actOf s s.cur) = false → ∃ u,
    PushedAll s u ((List.range 32).flatMap fun i => (List.range (4 * w)).map fun j => (pa base + i * st + j, byte i j)) t.poison false ∧
    exec (.mstore c a b false df) s = .next (s.past (acceptedX (modCore u s.cur fun k => { k with srst := srAt rm k.srst 1024 })
      ((List.range 1024).foldl (fun a n => a ||| (out n).2) 0) (some c)))) ∧
  (t.tag ≠ none → Num.fmtOfCode df.toNat = some f → (∀ d, f = .dt d → (k.dt.get d).status = 0) → ∃ y,
    exec (.mstore c a b false df) s = .next (s.trapped { code := .furlLeak } y)))

/-- MROT (R199, R200): accepted where its whole sub-ring lies in the region of its launch, ILL_FIELD otherwise; its Send fills the empty receive buffer of
the next core with the latch, its Receive takes the own full one; each waits while it cannot. MMA and MREC on an unsealed A tile of the own slice and
an unsealed latch (R203, R206): every element of a claimed tile becomes the product, or the recurrence, of its row and column; the poison of what is
read is joined; only NV and OF are recorded. A footprint that reaches the template window raises LOCAL_BOUND. The named programs of R205 are a
multiply-add, max-plus and min-plus. -/
def Obligations.MatrixCompute : Prop :=
  (∀ (s : State) (n : BitVec 3) (l : Launch) (id rank : Nat) (r : Rot) (rest : List Rot),
  let c := s.cur
  let size := 32 / 2 ^ n.toNat
  let member (x : Nat) : Prop := x / 1536 = c / 1536 ∧ x % 1536 / size = c % 1536 / size
  let inside (x : Nat) : Prop := l.base ≤ x ∧ x < l.base + l.rlen
  let nxt := c - c % size + (c % size + 1) % size
  let k := coreOf s rank
  (s.curSlot.launch = some id → nget s.launches id = some l → c < 6144 → n.toNat ≤ 4 →
    ((∀ x, member x → inside x) → (coreOf s c).rots = [] → (coreOf s c).latch.tag = none → Room s →
      exec (.mrot n) s = .next (s.past (modCore s c fun k => { k with
        rots := k.rots ++ [⟨actOf s c, s.curSlot.task, nxt, true, s.nextId⟩]
        dq := k.dq ++ [⟨true, actOf s c, s.curSlot.task, 0, none, none, none, true, [], s.nextId⟩] }))) ∧
    ((∃ x, member x ∧ ¬ inside x) → ∃ y, exec (.mrot n) s = .next (s.trapped { code := .illField } y))) ∧
  (k.rots = r :: rest → r.sendDue = true → r.next ≠ rank → (coreOf s r.next).recv.full = false → ∃ t, exec (.mrotSend rank) s = .next t ∧
    coreOf t r.next = { coreOf s r.next with recv := { k.latch with full := true } } ∧ coreOf t rank = { k with rots := { r with sendDue := false } :: rest } ∧
    t = { s with cores := t.cores } ∧ ∀ j, j ≠ rank → j ≠ r.next → coreOf t j = coreOf s j) ∧
  (k.rots = r :: rest → r.sendDue = true → (coreOf s r.next).recv.full = true → exec (.mrotSend rank) s = .next s) ∧
  (k.rots = r :: rest → r.sendDue = false → k.recv.full = true → exec (.mrotReceive rank) s = .next (modCore s rank fun k => { k with
    latch := { k.recv with full := false }
    recv := { k.recv with full := false }
    rots := rest })) ∧
  (k.rots = r :: rest → (r.sendDue = true ∨ k.recv.full = false) → exec (.mrotReceive rank) s = .next s)) ∧
  (∀ (s : State) (c : Fin 4) (a : GReg) (b : GZ) (z : Bool) (st : Nat),
  let k := coreOf s s.cur
  let sh := shapeOf k.mctx
  let mx : Bool := k.mctx.getLsbD 16
  let t := tileAt s c
  let base := s.curSlot.g.get a
  let pa := windowPa s.cur base.toNat
  let len := if mx then 32 * st + sh.ns else 31 * st + 64
  let o := operandsAt s pa st
  let start (i j : Nat) : Nat := if z then 0 else tileElem t.data (32 * i + j)
  let bad : Bool := (!z && t.poison) || (rowsBad s pa 32 st 64 || rowsBad s (pa + 32 * st) 1 0 sh.ns) || k.latch.poison
  let done (d : BitVec 32768) (j : Instr) : Prop := ∃ fl, exec j s = .next (s.past (acceptedX (putTile s c ⟨d, none, bad, t.owner, false⟩) fl (some c))) ∧
    fl &&& (Num.flNV ||| Num.flOF) = fl
  Stride (valGZ s b) 64 64 st → base.toNat % 64 = 0 →
  (LocalData s base len → Settled s pa len → base.toNat + len ≤ s.curSlot.tplBase.toNat → t.owner = some (actOf s s.cur, s.curSlot.task) → t.giving = false →
    k.rots = [] → k.latch.tag = none →
    (z = true ∨ t.tag = none) → Room s →
    (∃ x, (∀ i j, i < 32 → j < 32 → tileElem x (32 * i + j) = product mx sh.G o i j (start i j)) ∧ done x (.mma c a b z)) ∧
    (∃ y, (∀ i j, i < 32 → j < 32 → tileElem y (32 * i + j) = recurrence mx sh.K k.mprog o i j (start i j)) ∧ done y (.mrec c a b z))) ∧
  (base.toNat + len ≤ 2 ^ 64 → s.curSlot.tplBase.toNat < base.toNat + len → ∃ u v,
    exec (.mma c a b z) s = .next (s.trapped { code := .localBound, info := base } u) ∧
    exec (.mrec c a b z) s = .next (s.trapped { code := .localBound, info := base } v)) ∧
  (∀ p q r : Nat, p < 2 ^ 32 → q < 2 ^ 32 → r < 2 ^ 32 → nan32 p = false → nan32 q = false → nan32 r = false →
    (recStep 0x12033012 p q r).1 = (Num.fpAdd spF32 .rne 0 p (Num.fpMul spF32 .rne 0 q r).1).1 ∧
    (recStep 0x42031012 p q r).1 = (Num.fpMinMax spF32 true p (Num.fpAdd spF32 .rne 0 q r).1).1 ∧
    (recStep 0x52031012 p q r).1 = (Num.fpMinMax spF32 false p (Num.fpAdd spF32 .rne 0 q r).1).1))

/-! ### Copy engines (chapter 07) -/

/-- EPUSH, EPOP, ESTAT and the two steps of a channel (R133, R135, R137, R138): an index outside ENGMAP or without a granted engine handle raises HANDLE;
a command of eight registers joins the command FIFO with the task's bindings, with none in upcall mode; a full FIFO is waited for, and a drain ends
the push without a command; a result is taken, at once or by a pending pop, which comes before later ones; a drain ends a blocked pop with
INTERRUPTED; a held result enters the FIFO when there is room. -/
def Obligations.EngineAccess : Prop := ∀ (s : State) (a : Fin 17) (idx : BitVec 6) (eng ch : Nat) (r : Fin 23) (n : Fin 4) (d : GZ) (x y : Word) (l : List (Word × Word))
    (p : APop) (ps : List APop),
  let key := chanKey eng ch
  let k := chanAt s key
  let c := s.cur
  let i := actOf s c
  let me : Sender := ⟨c, i, s.curSlot.ctx, s.curSlot.task⟩
  let waits (j : Instr) (w : Wait) : Prop := (i < 4 → s.curSlot.mw = 0 → draining s s.curSlot.ctx = false → exec j s = .next (s.blockedOn w)) ∧
    (i = 4 → ∃ b, exec j s = .next (s.trapped { code := .hBlock } b)) ∧
    (i < 4 → s.curSlot.mw ≠ 0 → ∃ b, exec j s = .next (s.trapped { code := .maskwBlock } b))
  let drained : Prop := i < 4 ∧ s.curSlot.mw = 0 ∧ draining s s.curSlot.ctx = true
  let pair (u : Slot) (x y : Word) : Slot := { u with g := (u.g.setIfInBounds r.val x).setIfInBounds (r.val + 1) y }
  let stops (j : Instr) : Prop := ∃ w, exec j s = .next (s.trapped { code := .handle } w)
  ((∀ e h, ¬ Granted s idx.toNat e h) → stops (.epush a idx) ∧ (∀ d, stops (.epop d idx)) ∧ stops (.estat d idx)) ∧
  (Granted s idx.toNat eng ch →
    (k.cmds.length < 32 → exec (.epush a idx) s = .next (s.past { modChan s key (fun k => { k with cmds := k.cmds ++
      [⟨s.nextId, (List.range 8).map fun j => (s.curSlot.g[a.val + j]?).getD 0, if s.curSlot.up then 0 else s.curSlot.bind, me, s.nextId, s.tick⟩] })
        with nextId := s.nextId + 1 })) ∧
    (32 ≤ k.cmds.length → waits (.epush a idx) (.cmdFull eng ch) ∧ (drained → exec (.epush a idx) s = .next (s.past s))) ∧
    (k.results.drop k.pops.length = (x, y) :: l → (let t := modChan s key fun k => { k with results := k.results.take k.pops.length ++ l }
      exec (.epop (.g r) idx) s = .next (s.past (t.onSlot fun u => pair u x y)) ∧ exec (.epop .zr idx) s = .next (s.past t))) ∧
    (k.results.length ≤ k.pops.length → waits (.epop (.g r) idx) (.resEmpty eng ch) ∧ waits (.epop .zr idx) (.resEmpty eng ch) ∧
      (drained → exec (.epop (.g r) idx) s = .next (s.past (s.onSlot fun u => pair u 0x10000000000 0)) ∧ exec (.epop .zr idx) s = .next (s.past s))) ∧
    ((∀ e ∈ s.chans, ∀ q ∈ e.2.pops, q ≠ ⟨c, i, s.curSlot.task, n⟩) →
      (k.results = [] → exec (.epop (.e n) idx) s = .next (s.past (modChan s key fun k => { k with pops := k.pops ++ [⟨c, i, s.curSlot.task, n⟩] }))) ∧
      (k.pops = [] → k.results = (x, y) :: l → exec (.epop (.e n) idx) s = .next (s.past
        (popped (modChan s key fun k => { k with pops := [], results := l }) ⟨c, i, s.curSlot.task, n⟩ x y)))) ∧
    ((∃ e ∈ s.chans, ⟨c, i, s.curSlot.task, n⟩ ∈ e.2.pops) → waits (.epop (.e n) idx) (.asyncPop eng ch)) ∧
    (k.pops.length < 64 → k.exec.length + k.held.length < 8 → exec (.estat d idx) s = .next (s.past (giveGZ d
      (word (k.pops.length * 2 ^ 24 + k.results.length * 2 ^ 16 + (k.exec.length + k.held.length) * 2 ^ 8 + k.cmds.length)) s)))) ∧
  (k.pops = p :: ps → k.results = (x, y) :: l →
    exec (.asyncPop eng ch) s = .next (popped (modChan s key fun k => { k with pops := ps, results := l }) p x y)) ∧
  (k.pops = [] ∨ k.results = [] → exec (.asyncPop eng ch) s = .next s) ∧
  (k.held = (x, y) :: l → (32 ≤ k.results.length → exec (.engineResult eng ch) s = .next s) ∧
    (k.results.length < 32 → k.pops = [] →
      exec (.engineResult eng ch) s = .next (modChan s key fun k => { k with held := l, results := k.results ++ [(x, y)] })) ∧
    (k.results = [] → k.pops = p :: ps →
      exec (.engineResult eng ch) s = .next (popped (modChan s key fun k => { k with held := l, results := [], pops := ps }) p x y))) ∧
  (k.held = [] → exec (.engineResult eng ch) s = .next s)

/-- What an engine does with a command (R131, R133, R139, R141, R150, R151): the first waiting command with P, else the oldest, leaves the FIFO; one whose
fields or alignment are wrong ends with its status before any access, and its result says so; the last block of a COPY, the fetch form, and a row with
nothing of its operation to do. The fields of TILECAST's command word are those of its worked example. -/
def Obligations.EngineCommands : Prop := ∀ (s : State) (eng ch o : Nat) (j : Nat → Instr) (x : Exec) (c : Cmd) (en : Engine) (src dst : List Nat) (sg dg : List Seg)
    (st : Nat) (w1 va : Word),
  let key := chanKey eng ch
  let k := chanAt s key
  let w (m : Nat) : Word := x.cmd.w.getD m 0
  let u := chanUnit s eng key x.cmd
  let len := x.cmd.word 3 % 2 ^ 32
  let n := min (len - x.done) (256 - (w 2 + word x.done).toNat % 256)
  let s1 := turned s
  (∀ p ∈ operRows, (∀ m, m < 64 → (chanAt s (chanKey eng m)).exec = []) → nextStart s eng = none → exec (p.2 eng) s = .next s) ∧
  (((o, j) ∈ operRows) → ch < 64 → (∀ m, m < 64 → (chanAt s (chanKey eng m)).exec = [] ∧ (chanAt s (chanKey eng m)).held = []) →
    (∀ m, m < 64 → m ≠ ch → (chanAt s (chanKey eng m)).cmds = []) → ResultRoom s key → ctxRuns s k.ctx = true → nget s.engines eng = some en → en.fenced = false → c ∈ k.cmds → c.word 0 / 2 ^ 56 = o →
    ((c.bit 48 = true ∧ ∃ l r, k.cmds = l ++ c :: r ∧ ∀ e ∈ l, e.bit 48 = false) ∨ ((∀ e ∈ k.cmds, e.bit 48 = false) ∧ k.cmds.head? = some c)) →
    pusherDone s c = true → c.check = some (st, w1, va) → c.bit 49 = true → c.bit 50 = false → c.bit 51 = false → alwaysRecorded st = false → ∃ t,
    exec (j eng) s = .next t ∧ t = { turned s with chans := t.chans, engines := t.engines, unitAns := t.unitAns } ∧ (chanAt t key).exec = [] ∧
      (chanAt t key).cmds = k.cmds.filter (fun e => e.id ≠ c.id) ∧ (chanAt t key).results = k.results ++
        [(word (c.word 0 % 2 ^ 16 * 2 ^ 48 + st * 2 ^ 40 + o * 2 ^ 32), w1)] ∧ (nget t.engines eng).map (·.rr) = some ch) ∧
  (Executing s eng ch x → Exec.Plain x → ResultRoom s key → x.cmd.word 0 / 2 ^ 56 = 1 → w 2 ≠ 0 → x.done + n = len → 0 < n →
    uSegs u accBulkRd (some .furlCopy) 3 (w 1 + word x.done) n s1 = .ok (sg, s1) → uSegs u accBulkWr (some .furlWrite) 3 (w 2 + word x.done) n s1 = .ok (dg, s1) →
    src = segBytes sg → dst = segBytes dg → dst.length = n → src.length = n → NoPoison s (src ++ dst) → Apart s src dst → ∃ g,
    exec (.copy eng) s = .next (completed { s1 with mem := putBytes s s.mem (dst.zip (src.map (rdByte s))), gwalks := g } key { x with done := len } 0)) ∧
  (Executing s eng ch x → Exec.Plain x → ResultRoom s key → x.cmd.word 0 / 2 ^ 56 = 1 → w 2 = 0 → x.done = 0 → 1 ≤ len → len ≤ 8 →
    uSegs u accBulkRd (some .furlRead) 3 (w 1) len s1 = .ok (sg, s1) → (segBytes sg).length = len → NoPoison s (segBytes sg) →
    exec (.copy eng) s = .next (completed s1 key { x with done := len } (word (Alu.natOf ((segBytes sg).map (rdByte s)))))) ∧
  (let t : Cmd := ⟨0, [0x05F0010504000007, 0, 0, 0x0020003000000060, 0x001E002D00000020], 0, ⟨0, 0, 0, 0⟩, 0, 0⟩
   t.oper = 5 ∧ t.bit 55 = true ∧ t.bit 54 = true ∧ t.bit 53 = true ∧ t.bit 52 = true ∧ t.sf = 1 ∧ t.df = 5 ∧ t.bit 26 = true ∧ t.rm = .rne ∧ t.tag = 7 ∧
    t.rows = 32 ∧ t.cols = 48 ∧ t.sstr = 96 ∧ t.xr = 30 ∧ t.xc = 45 ∧ t.dstr = 32 ∧ t.dr = 48 ∧ t.dc = 32)

/-- COPY2D, COPY3D, FILL and CONVERT, the last destination row of a command (R142, R143): where each element comes from and goes, transposed or not;
beyond the extents nothing is read, and zero is written only under Z, by CONVERT what it makes of +0; what CONVERT makes of a code, its flags and its
stochastic steps; FILL's pattern. What CONVERT makes of one element (R143): exact decoding, an exact product with the scale, one rounding; an FP32
scale, a power of two, and the scale code 0xFF that gives NaN. -/
def Obligations.EngineShapes : Prop :=
  (∀ (s : State) (eng ch : Nat) (j : Nat → Instr) (x : Exec) (en : Engine) (S D : Word → Nat),
  let c := x.cmd
  let key := chanKey eng ch
  let u := chanUnit s eng key c
  let o := c.word 0 / 2 ^ 56
  let fs := (engFmt (if o = 4 then c.df else c.sf)).getD .uint8
  let fd := (engFmt c.df).getD .uint8
  let off (f : Num.Fmt) (n : Nat) : Nat := if Num.fmtWidth f = 4 then n / 2 else n * max 1 (Num.fmtWidth f / 8)
  let tr := c.bit 55
  let dr := if tr then c.cols else c.rows
  let dc := if tr then c.rows else c.cols
  let planes := if o = 3 ∨ o = 5 then c.dims + 1 else 1
  let p := x.done / dr
  let i := x.done % dr
  let row (n : Nat) : Nat := if tr then n else i
  let col (n : Nat) : Nat := if tr then i else n
  let beyond (n : Nat) : Bool := o ≠ 4 && (decide (min c.xr c.rows ≤ row n) || decide (min c.xc c.cols ≤ col n))
  let sva (n : Nat) : Word := BitVec.ofInt 64 (c.word 1 + (p * c.rows + row n : Nat) * c.sstr + (off fs (col n) : Nat))
  let dva (n : Nat) : Word := BitVec.ofInt 64 (c.word 2 + (p * dr + i : Nat) * c.dstr + (off fd n : Nat))
  let here := (List.range dc).filter fun n => !beyond n || c.bit 54
  let read := here.filter fun n => o ≠ 4 && !beyond n
  let bytes (f : Num.Fmt) (pa : Nat) : List Nat := (List.range (max 1 (Num.fmtWidth f / 8))).map (pa + ·)
  let rm := if o = 5 then c.rm else .rne
  let sr (m : Nat) : Word := srAt rm en.sr (m + 1)
  let conv (m n : Nat) : Nat × Num.Flags :=
    let code := codeAt s fs (S (sva n)) (col n)
    if o = 4 then (c.word 1 % 2 ^ Num.fmtWidth fd, 0)
    else if o = 5 then convertElem c (Num.srTop (sr m)) (if beyond n then .fin false 0 0 else Num.decodeFmt Core.reset.dt fs code)
    else (if beyond n then 0 else code, 0)
  let s1 := turned s
  let fl := here.zipIdx.foldl (fun a q => a ||| (conv q.2 q.1).2) x.flags
  (o, j) ∈ operRows → 2 ≤ o → o ≤ 5 → Executing s eng ch x → Exec.Plain x → ResultRoom s key →
  nget s.engines eng = some en → x.done + 1 = planes * dr →
  (∀ n ∈ read, ∃ g, uSeg u accBulkRd (some .furlCopy) (sva n) (max 1 (Num.fmtWidth fs / 8)) s1 = .ok (g, s1) ∧ g.pa = S (sva n)) →
  (∀ n ∈ here, ∃ g, uSeg u accBulkWr (some .furlWrite) (dva n) (max 1 (Num.fmtWidth fd / 8)) s1 = .ok (g, s1) ∧ g.pa = D (dva n)) →
  NoPoison s (read.flatMap fun n => bytes fs (S (sva n))) → NoPoison s (here.flatMap fun n => bytes fd (D (dva n))) →
  Apart s (read.flatMap fun n => bytes fs (S (sva n))) (here.flatMap fun n => bytes fd (D (dva n))) → ∃ g e,
    exec (j eng) s = .next (completed { s1 with
      mem := here.zipIdx.foldl (fun m q => putCode s fd m (D (dva q.1)) q.1 (conv q.2 q.1).1) s.mem, gwalks := g, engines := e } key { x with done := planes * dr }
        (if o = 5 then fl.setWidth 64 else 0)) ∧
    ∀ m, nget e m = if m = eng then some { en with sr := srAt rm en.sr here.length } else nget s.engines m) ∧
  (∀ (c : Cmd) (sr : Nat) (x : Num.Val),
  let df := (engFmt c.df).getD .uint8
  let out (v : Num.Val) (inv : Bool) : Nat × Num.Flags :=
    let e := Num.encodeFmt Core.reset.dt df c.rm (c.bit 53) sr v
    (e.1.toNat % 2 ^ Num.fmtWidth df, e.2 ||| (if inv then Num.flNV else 0))
  let k := c.word 5
  c.word 0 / 2 ^ 56 = 5 →
  (c.bit 26 = false → convertElem c sr x = out x false) ∧
  (c.bit 26 = true → c.bit 27 = false → ∀ v, v = Num.decodeFmt Core.reset.dt .fp32 (k % 2 ^ 32) → convertElem c sr x = out (Num.vMul x v).1 (Num.vMul x v).2) ∧
  (c.bit 26 = true → c.bit 27 = true → k % 256 = 255 → convertElem c sr x = out (Num.vMul x (.nan false)).1 (Num.vMul x (.nan false)).2) ∧
  (c.bit 26 = true → c.bit 27 = true → k % 256 ≠ 255 → ∀ n m e, x = .fin n m e →
    convertElem c sr x = out (.fin n m (e + (k % 256 : Nat) - 127)) false))

/-- FURLMOVE's last granule (R145, R146): under a key that was loaded and bound as the command started, whose window holds both pages, the source granule
is decrypted under its address and written encrypted and tagged under the destination's; pages of two keys, an unbound key, a page outside the window,
a page that is not furled and a tag that does not match end the command with their statuses and write nothing. -/
def Obligations.FurledMove : Prop := ∀ (s : State) (eng ch : Nat) (x : Exec) (sg dg : Seg),
  let c := x.cmd
  let key := chanKey eng ch
  let u := chanUnit s eng key c
  let sv := c.w.getD 1 0 + word x.done
  let dv := c.w.getD 2 0 + word x.done
  let k := keyAt s sg.key
  let ct := (rdBytes s sg.pa 256).map (·.toNat)
  let tag := (rdBytes s (tagPa k sv.toNat) 16).map (·.toNat)
  let src := (List.range 256).map (sg.pa + ·) ++ (List.range 16).map (tagPa k sv.toNat + ·)
  let dst := (List.range 256).map (dg.pa + ·) ++ (List.range 16).map (tagPa k dv.toNat + ·)
  let ends (st : Nat) (at' : Word) : Prop := ∃ t, exec (.furlmove eng) s = .next t ∧ t.mem = s.mem ∧ t.poison = s.poison ∧
    (chanAt t key).results = (chanAt s key).results ++ [(word (c.word 0 % 2 ^ 16 * 2 ^ 48 + st * 2 ^ 40 + 6 * 2 ^ 32 + x.done % 2 ^ 32), at')]
  let bound : Prop := sg.key ∈ x.keys
  let s1 := turned s
  c.word 0 / 2 ^ 56 = 6 → Executing s eng ch x → Exec.Plain x → ResultRoom s key →
  c.word 3 % 2 ^ 32 = x.done + 256 →
  uSeg u accBulkRd none sv 256 s1 = .ok (sg, s1) → uSeg u accBulkWr none dv 256 s1 = .ok (dg, s1) →
  (sg.key ≠ dg.key → ends 0x27 sv) ∧ (sg.key = dg.key → ¬ bound → ends 0x24 sv) ∧
  (sg.key = dg.key → bound → k.inWindow sv.toNat 256 = false → ends 0x25 sv) ∧
  (sg.key = dg.key → bound → k.inWindow sv.toNat 256 = true → k.inWindow dv.toNat 256 = false → ends 0x25 dv) ∧
  (sg.key = dg.key → bound → k.inWindow sv.toNat 256 = true → k.inWindow dv.toNat 256 = true → NoPoison s (src ++ dst) →
      uIdle (tagPa k sv.toNat) 16 s1 = .ok ((), s1) →
    (Crypto.gmac k.tagKey sv.toNat ct ≠ tag → ends 0x26 sv) ∧
    (Crypto.gmac k.tagKey sv.toNat ct = tag → ∃ g, exec (.furlmove eng) s = .next (completed
      { s1 with mem := putBytes s s.mem (sealedBytes k dv.toNat dg.pa (Crypto.xts false k.xts (sv.toNat / 256) ct)), gwalks := g } key
      { x with done := x.done + 256 } 0)))

/-! ### Exceptions, system registers, supervision (chapters 05 and 16) -/

/-- Upcall entry (R347, R348, R352, R353, R357): a class U fault of a user-mode task of an L slot, with a launch and UPC not 0, writes FINFO and the park
record, closes the masked window, sets UP and goes to UPC; all else stays. TRAP raises one with its number, to resume after itself. Terminal delivery
(R347, R356): a class T fault, and one of class U in upcall mode, with UPC 0 or without a launch, ends the task as TEND does, and a record goes to the
terminal ring; in the H slot a class U fault becomes H_BLOCK with its code as the cause. A code of the END mask ends the context. UPRET, RETURN FROM
AN EXCEPTION (R354, R355): resume restores the registers not kept, MW and the PC and clears VALID and UP; detach parks the slot with its record valid;
abandon ends the task. Outside upcall mode, or with no valid record, each raises ILL_FIELD. -/
def Obligations.Exceptions : Prop :=
  (∀ (s : State) (n : BitVec 8) (t : Trap) (w : Word),
  let c := s.cur
  let i := actOf s c
  let sl := s.curSlot
  let off := sl.carveBase.toNat + sl.carveSize.toNat - 256
  let enters (t : Trap) (resume : Word) (u : State) : Prop :=
    let f0 : Word := word (t.code.num + 2 ^ 8)
    slotAt u c i = { sl with st := .ready, finfo0 := f0, finfo1 := t.info, finfo2 := sl.pc, mw := 0, up := true, pc := sl.upc, pend := .none
                             walkAns := [], t0 := none, noted := [], idle0 := none } ∧
    (∀ j, j ≠ i → slotAt u c j = slotAt s c j) ∧ coreOf u c = { coreOf s c with slots := (coreOf u c).slots } ∧ (∀ d, d ≠ c → coreOf u d = coreOf s d) ∧
    u = { s with mem := u.mem, poison := u.poison, gwalks := u.gwalks, cores := u.cores } ∧
    u.mem = putBytes s s.mem (wordBytes (windowPa c off) (sl.g.toList ++ [resume, slotWord c i sl, f0, t.info, sl.pc, word t.cookie, 1, 0])) ∧
    NoPoison u ((List.range 256).map (windowPa c off + ·))
  i < 4 → sl.launch ≠ none → sl.up = false → sl.upc ≠ 0 → off % 8 = 0 →
  (∃ u, exec (.trap n) s = .next u ∧ enters { code := .trap, info := n.setWidth 64 } (sl.pc + 8) u) ∧
  (t.code.cls = .u → t.code ≠ .trap → enters t sl.pc (s.trapped t w))) ∧
  (∀ (s u : State) (t : Trap) (w : Word) (x : Context),
  let c := s.cur
  let i := actOf s c
  let sl := s.curSlot
  let ends (code : Code) (cause : Nat) : Prop :=
    let w2 : Word := if code = .furlTag ∨ code = .poison then sl.pc else 0
    let r := (nget u.rings (terminalRing x)).getD ⟨0, []⟩
    let ws := terminalRecord x sl.ctx code.num cause t.info w2 (u.ns / 1000) c i
    let v : State := { u with rings := nset u.rings (terminalRing x) { r with pend := r.pend ++ [ws] } }
    s.trapped t w = (if x.desc.endMask.getLsbD code.num then { v with ctxs := nset v.ctxs sl.ctx { x with endDue := true } } else v)
  exec .tend s = .next u → nget u.ctxs sl.ctx = some x →
  (t.code.cls = .t → ends t.code t.cause) ∧
  (t.code.cls = .u → (sl.launch = none ∨ (i ≠ 4 ∧ (sl.up = true ∨ sl.upc = 0))) → ends t.code t.cause) ∧
  (t.code.cls = .u → sl.launch ≠ none → i = 4 → ends .hBlock t.code.num)) ∧
  (∀ (s : State) (keep : BitVec 24),
  let c := s.cur
  let i := actOf s c
  let sl := s.curSlot
  let off := sl.carveBase.toNat + sl.carveSize.toNat - 256
  let rec' (j : Nat) : Nat := rdNat s (windowPa c off + 8 * j) 8
  let valid : Prop := sl.carveSize ≠ 0 ∧ rec' 30 % 2 = 1
  let cleared (u : State) : Prop := u = { s with mem := u.mem, poison := u.poison, gwalks := u.gwalks } ∧
    u.mem = putBytes s s.mem (leBytes (windowPa c off + 240) 8 (rec' 30 / 2 * 2))
  i < 5 → off % 8 = 0 →
  (sl.up = true → valid →
    (Drained s → ∃ u, cleared u ∧ exec (.upretResume keep) s = .next (modSlot u c i fun x => { x.completed with
      g := Vector.ofFn fun (j : Fin 24) => if keep.getLsbD j.val then sl.g.get j else word (rec' j.val)
      mw := min (rec' 25 % 32) 16, up := false, pc := word (rec' 24) })) ∧
    exec .upretDetach s = .next (s.onSlot fun x => { x.completed with st := .parked, up := false }) ∧
    (∃ u v, cleared u ∧ exec .tend (modSlot u c i fun x => { x with up := false }) = .next v ∧ exec .upretAbandon s = .next v)) ∧
  (sl.up = false ∨ ¬ valid → ∀ j ∈ [Instr.upretResume keep, .upretDetach, .upretAbandon], ∃ w, exec j s = .next (s.trapped { code := .illField } w)))

/-- SRD and SWR (R43, R115, R118, R132, R342 to R345): each register reads its value; a write follows its own rule, has no effect on one that only reads,
and keeps one whose rule refuses the value; FPST and SRST wait for what has still to retire. Numbers of supervisor mode raise PRIV in user mode, as
HRESUME, SWIN, TLBW and TLBI do; an unassigned one raises ILL_FIELD. -/
def Obligations.SystemRegisters : Prop := ∀ (s : State) (d a : GZ) (g h m : GReg) (n : BitVec 12) (v : Word) (x : Context) (b : Bool),
  let c := s.cur
  let i := actOf s c
  let sl := s.curSlot
  let k := coreOf s c
  let quiet : Prop := k.dq = []
  let stops (cd : Code) (j : Instr) : Prop := ∃ w, exec j s = .next (s.trapped { code := cd } w)
  let w := valGZ s a
  let writes (n : BitVec 12) (f : Slot → Slot) : Prop := exec (.swr n a) s = .next (s.past (s.onSlot f))
  (quiet → ∀ p ∈ userRegs c k i sl, n.toNat = p.1 → exec (.srd d n) s = .next (s.past (giveGZ d p.2 s))) ∧
  (v.toNat < 256 → (∀ r : Fin 8, v.getLsbD r.val = (sl.e.get r).full) → exec (.srd d 0x050) s = .next (s.past (giveGZ d v s))) ∧
  (isSuper c sl = true → nget s.ctxs sl.ctx = some x → exec (.srd d 0x100) s = .next (s.past (giveGZ d x.desc.sve s)) ∧
    exec (.srd d 0x108) s = .next (s.past (giveGZ d (s.rptw.setWidth 64) s))) ∧
  (6144 ≤ c → exec (.srd d 0x110) s = .next (s.past (giveGZ d (word ((c - 6144) % 8 + (c - 6144) / 8 * 16)) s))) ∧
  (c < 6144 → isSuper c sl = true → stops .illField (.srd d 0x110) ∧ stops .illField (.swr 0x110 a)) ∧
  (quiet → writes 0x001 fun y => { y with fpst := w.setWidth 5 }) ∧
  (quiet → exec (.swr 0x002 a) s = .next (s.past (modCore s c fun y => { y with srst := w }))) ∧
  (writes 0x003 fun y => if w.toNat % 8 = 0 then { y with upc := w } else y) ∧ (writes 0x009 fun y => { y with ovfp := w }) ∧
  (writes 0x020 fun y => if w.toNat / 2 ^ 23 = 0 ∧ w.toNat / 2 ^ 12 % 16 = 0 ∧ w.toNat % 4096 + w.toNat / 2 ^ 16 % 128 ≤ 4096 then { y with engMap := w } else y) ∧
  (∀ j, j < 8 → n.toNat = 0x010 + j → k.sb = [] → exec (.swr n a) s = .next (s.past (if
    w.toNat % 2 ^ 17 % 128 = 0 ∧ w.toNat / 2 ^ 17 % 2 ^ 17 % 128 = 0 ∧ w.toNat % 2 ^ 17 + w.toNat / 2 ^ 17 % 2 ^ 17 ≤ 0x18000 ∧ w.toNat / 2 ^ 34 % 8 ≠ 7 then
      modCore s c fun y => { y with rgn := y.rgn.setIfInBounds j (w &&& 0x1FFFFFFFFF) } else s))) ∧
  (n.toNat ∈ [0x000, 0x004, 0x005, 0x006, 0x007, 0x008, 0x00A, 0x030, 0x050] → exec (.swr n a) s = .next (s.past s)) ∧
  (isSuper c sl = false → (0x100 ≤ n.toNat → stops .priv (.srd d n) ∧ stops .priv (.swr n a)) ∧ stops .priv (.hresume d g b) ∧ stops .priv (.swin g h b n) ∧
    stops .priv (.tlbw g h m) ∧ stops .priv (.tlbi g h)) ∧
  (n.toNat ∉ [0x050, 0x100, 0x108, 0x110] → (∀ p ∈ userRegs c k i sl, n.toNat ≠ p.1) → (n.toNat < 0x100 ∨ isSuper c sl = true) →
    stops .illField (.srd d n) ∧ stops .illField (.swr n a))

/-- SWIN and HRESUME on a halted slot of the own core, in supervisor mode (R350, R351, R223): registers read and written, the PC, masks, unsealed wide
words; a sealed word is not read, a poisoned one raises POISON; HRESUME makes the slot ready at the same or the next word, status 0, and changes
nothing where it is not halted, status 1, after the handler's accesses are performed. A target outside the region raises ILL_FIELD. IDLE, DBG and WDOG
(R363 to R365): IDLE ends with 0 after an event, 1 at its limit, 2 in a drain, and blocks else; DBG reads tiles, the latch, tables, wide registers and
the template store once all has retired, but no sealed or poisoned word; WDOG sets or clears a limit whose expiry ends the task. -/
def Obligations.SupervisionAndDebug : Prop :=
  (∀ (s : State) (d : GZ) (r a : GReg) (nx b : Bool) (i : Nat) (sel : BitVec 12),
  let c := s.cur
  let x := s.curSlot.g.get a
  let t := slotAt s c i
  let v := s.curSlot.g.get r
  let halted : Prop := t.st = .halted
  let stops (cd : Code) (j : Instr) : Prop := ∃ w, exec j s = .next (s.trapped { code := cd } w)
  let reads (n : BitVec 12) (y : Word) : Prop := exec (.swin r a false n) s = .next (s.past (s.onSlot fun u => u.setG r y))
  let writes (n : BitVec 12) (f : Slot → Slot) : Prop := exec (.swin r a true n) s = .next (s.past (modSlot s c i f))
  isSuper c s.curSlot = true →
  (Target s x c i → s.curSlot.pend = .none → Drained s →
    (halted → exec (.hresume d a nx) s = .next (s.past (giveGZ d 0 (modSlot s c i fun u => { u with st := .ready, pc := if nx then u.pc + 8 else u.pc })))) ∧
    (¬ halted → exec (.hresume d a nx) s = .next (s.past (giveGZ d 1 s)))) ∧
  (Target s x c i → ¬ halted → stops .illField (.swin r a b sel)) ∧
  (Target s x c i → halted → i ≠ actOf s c →
    (∀ q : GReg, sel.toNat = q.val → reads sel (t.g.get q) ∧ writes sel fun u => u.setG q v) ∧
    (∀ q : EReg, sel.toNat = 0x18 + q.val → ((t.e.get q).poison = false → reads sel (t.e.get q).val) ∧ ((t.e.get q).poison = true → stops .poison (.swin r a false sel)) ∧
      writes sel fun u => u.setE q ⟨v, true, false⟩) ∧
    reads 0x020 t.pc ∧ (v.toNat % 8 = 0 → writes 0x020 fun u => { u with pc := v }) ∧ (v.toNat % 8 ≠ 0 → stops .illField (.swin r a true 0x020)) ∧
    (∀ q : KReg, sel.toNat = 0x30 + q.val → reads sel (t.mask q) ∧ writes sel fun u => u.setK q v) ∧
    (∀ (q : WReg) (m : Nat), m < 32 → sel.toNat = 0x100 + 32 * q.val + m →
      let y := wideOf s c i q
      (y.tag = none → y.poison = false → reads sel (word (elem 64 y.data m))) ∧ (y.tag = none → y.poison = true → stops .poison (.swin r a false sel)) ∧
      (y.tag ≠ none → stops .furlDebug (.swin r a false sel))) ∧
    (∀ n : BitVec 12, sel.toNat = 0x400 + n.toNat → ∀ p ∈ userRegs c (coreOf s c) i t, n.toNat = p.1 → (coreOf s c).dq = [] → reads sel p.2) ∧
    (((0x21 ≤ sel.toNat ∧ sel.toNat < 0x30) ∨ (0x34 ≤ sel.toNat ∧ sel.toNat < 0x100) ∨ (0x300 ≤ sel.toNat ∧ sel.toNat < 0x400) ∨ 0x500 ≤ sel.toNat) →
      stops .illField (.swin r a b sel))) ∧
  (s.curSlot.rlen.toNat ≤ x.toNat % 8192 ∨ 4 < x.toNat / 8192 → stops .illField (.swin r a b sel) ∧ stops .illField (.hresume d a nx))) ∧
  (∀ (s u : State) (d : GZ) (r a : GReg) (lim : BitVec 32) (c : Nat) (i : Fin 5) (start tick n l : Nat) (x : Context),
  let sl := s.curSlot
  let k := coreOf s s.cur
  let v := (s.curSlot.g.get a).toNat
  let ends (st : Word) : Prop := exec (.idle d lim) s = .next (s.past (giveGZ d st s))
  let shows (unit : BitVec 4) (y : Word) : Prop := exec (.dbg r a unit) s = .next (s.past (s.onSlot fun u => u.setG r y))
  let stops (cd : Code) (unit : BitVec 4) : Prop := ∃ w, exec (.dbg r a unit) s = .next (s.trapped { code := cd } w)
  let o := slotAt s c i.val
  (actOf s s.cur < 4 → sl.mw = 0 → sl.idle0 = some (start, tick) → (tick < k.lastEvent → ends 0) ∧
    (k.lastEvent ≤ tick → lim ≠ 0xFFFFFFFF → start + lim.toNat ≤ s.cycles → ends 1) ∧
    (k.lastEvent ≤ tick → (lim = 0xFFFFFFFF ∨ s.cycles < start + lim.toNat) → draining s sl.ctx = true → ends 2)) ∧
  (actOf s s.cur < 4 → sl.mw = 0 → sl.idle0 = none → lim = 0 → ends 1) ∧
  (actOf s s.cur < 4 → sl.mw = 0 → sl.idle0 = none → lim = 0xFFFFFFFF → draining s sl.ctx = false →
    exec (.idle d lim) s = .next ((s.onSlot fun y => { y with idle0 := some (s.cycles, s.tick) }).blockedOn (.idle none))) ∧
  (actOf s s.cur < 4 → sl.mw = 0 → sl.idle0 = none → lim ≠ 0 → lim ≠ 0xFFFFFFFF → draining s sl.ctx = false →
    exec (.idle d lim) s = .next ((s.onSlot fun y => { y with idle0 := some (s.cycles, s.tick) }).blockedOn (.idle (some (s.cycles + lim.toNat))))) ∧
  (o.st = .blocked (.idle (some l)) → exec (.idleTimeout c i) s = .next (if l ≤ s.cycles then modSlot s c i.val fun y => { y with st := .ready } else s)) ∧
  exec (.wdog lim) s = .next (s.past (s.onSlot fun y => { y with watchdog := if lim = 0 then none else some (s.ns + 1000 * lim.toNat) })) ∧
  (o.watchdog = some n → n ≤ s.ns → o.st ≠ .free → o.st ≠ .parked → o.st ≠ .halted → s.cur = c → actOf s c = i.val → exec .tend s = .next u → nget u.ctxs o.ctx = some x →
    x.desc.endMask.getLsbD 0x32 = false →
    let q := (nget u.rings (terminalRing x)).getD ⟨0, []⟩
    let ws := terminalRecord x o.ctx 0x32 0 0 0 (u.ns / 1000) c i.val
    exec (.watchdogExpiry c i) s = .next { u with rings := nset u.rings (terminalRing x) { q with pend := q.pend ++ [ws] } }) ∧
  (o.watchdog = none ∨ (∃ m, o.watchdog = some m ∧ s.ns < m) → exec (.watchdogExpiry c i) s = .next s) ∧
  (k.dq = [] →
    (∀ (q : Fin 4) (m : Nat), m < 512 → v = 512 * q.val + m →
      let t := k.tiles.get q
      (t.tag = none → t.poison = false → shows 0 (word (t.data.toNat / 2 ^ (64 * m) % 2 ^ 64))) ∧ (t.tag ≠ none → stops .furlDebug 0) ∧
        (t.tag = none → t.poison = true → stops .poison 0)) ∧
    (k.latch.tag = none → k.latch.poison = false → (v < 256 → shows 1 (word (k.latch.data.toNat / 2 ^ (64 * v) % 2 ^ 64))) ∧
      (256 ≤ v → v < 272 → shows 1 (word (k.latch.scales.toNat / 2 ^ (64 * (v - 256)) % 2 ^ 64)))) ∧
    (v = 272 → shows 2 (word k.recv.full.toNat) ∧ stops .illField 1) ∧
    (∀ (q : Fin 4) (m : Nat), m < 256 → v = 256 * q.val + m →
      shows 3 (word ((Num.tabEntry (k.dt.get q) m).toNat + (k.dt.get q).status.toNat * 2 ^ 32))) ∧
    (∀ (q : WReg) (m : Nat), m < 32 → v = 32 * q.val + m → (wideAt s q).tag = none → (wideAt s q).poison = false → shows 4 (word (elem 64 (wideAt s q).data m))) ∧
    (v % 8 = 0 → sl.tplBase.toNat + v + 8 ≤ 0x18000 → k.furl = [] → isPoison s (windowPa s.cur (sl.tplBase.toNat + v)) = false → s.cur < 6144 →
      shows 5 (word (rdNat s (windowPa s.cur (sl.tplBase.toNat + v)) 8))) ∧
    (∀ unit : BitVec 4, 6 ≤ unit.toNat → stops .illField unit)))

/-- Translation service (R99, R101 to R108): a request taken up counts as in flight; TLBW answers it with an entry, which enters the quad TLB in place of
what it overlaps and the asking core's micro-TLB and wakes the slot, or with a refusal, which is recorded for the slot; TLBI drops every matching
entry of the TLBs in its scope at once and completes when the accesses made through them are done; FCOMP sends a notice to the slots that wait. -/
def Obligations.TranslationService : Prop := ∀ (s : State) (a b g : GReg) (svc j : Nat) (w : Walk) (l r : List Walk) (c i : Nat) (id : Word) (tw : TlbiWait)
    (ld : Fin 16) (ck : BitVec 40),
  let va := s.curSlot.g.get a
  let e := (s.curSlot.g.get b).toNat
  let t := (s.curSlot.g.get g).toNat
  let q := t / 2 ^ 26 % 512
  let size := t / 2 ^ 24 % 4
  let vf := t / 2 ^ 35 % 512
  let space := vf * 2 ^ 20 + t / 2 ^ 44
  let quad := dieOf s.cur * 384 + q
  let page := va57 va / 2 ^ pageBits size * 2 ^ pageBits size
  let ent : TlbEntry := ⟨space, page, size, e / 4096 % 2 ^ 40, if e / 16 % 4 = 1 then .furled else if e / 16 % 4 = 2 then .io else .normal, e / 64 % 64,
    e / 8 % 2 = 1, e / 4 % 2 = 1, e / 2 % 2 = 1, e % 2 = 1⟩
  let good (resp : Nat) : Prop := e / 2 ^ 62 = resp ∧ e / 2 ^ 52 % 1024 = 0 ∧ e / 16 % 4 ≠ 3 ∧ t % 2 ^ 24 = 0 ∧ vf < 384 ∧ q < 384 ∧ canonical va = true ∧
    (e / 64 % 64 ≠ 0 → e / 16 % 4 = 1) ∧ 6144 ≤ s.cur ∧ s.cur < 6176 ∧ svcOf s quad = s.cur - 6144
  let asked : Prop := s.walks = l ++ w :: r ∧ w.stale = false ∧ w.space = space ∧ w.quad = quad ∧ w.va / 2 ^ pageBits size * 2 ^ pageBits size = page ∧
    w.cwReq = false ∧ w.who = [.slot c i] ∧ (∀ y ∈ l ++ r, y.space ≠ space) ∧ c < 6144 ∧ i < 5 ∧ (slotAt s c i).st = .blocked .xlate
  (s.walks = l ++ w :: r → w.svc = svc → w.flying = false → (∀ y ∈ l, y.svc = svc → y.flying = true) → (s.walks.filter fun y => y.svc = svc && y.flying).length < 16 →
    exec (.walkRequest svc) s = .next { s with walks := l ++ { w with flying := true } :: r }) ∧
  (good 0 → e / 4096 % 2 ^ (pageBits size - 12) = 0 → asked → ∃ u, exec (.tlbw a b g) s = .next (s.past u) ∧ u.walks = l ++ r ∧ ent ∈ (quadAt u quad).tlb ∧
    (∀ y ∈ (quadAt u quad).tlb, y = ent ∨ (y ∈ (quadAt s quad).tlb ∧ y.overlaps ent = false)) ∧ ent ∈ (coreOf u c).utlb ∧ (slotAt u c i).st = .ready ∧
    nget (slotAt u c i).walkAns (w.va / 4096 * 2) = some (.entry ent) ∧ u.mem = s.mem) ∧
  (good 2 → asked → ∃ u, exec (.tlbw a b g) s = .next (s.past u) ∧ u.walks = l ++ r ∧ (quadAt u quad).tlb = (quadAt s quad).tlb ∧ (slotAt u c i).st = .ready ∧
    nget (slotAt u c i).walkAns (w.va / 4096 * 2) = some .terminal) ∧
  (isSuper s.cur s.curSlot = true → s.curSlot.t0 = some id → s.tlbis.find? (fun y => y.id = id.toNat) = some tw → actOf s s.cur ≠ 4 →
    (let z := (s.curSlot.g.get b).toNat
     z % 2 ^ 22 = 0 ∧ z / 2 ^ 22 % 4 < 3 ∧ z / 2 ^ 35 % 512 < 384 ∧ z / 2 ^ 26 % 512 < 384 ∧ canonical va = true) → tlbiDone s tw = true →
    exec (.tlbi a b) s = .next (s.past { s with tlbis := s.tlbis.filter fun y => y.id ≠ tw.id })) ∧
  (let z := (s.curSlot.g.get b).toNat
   isSuper s.cur s.curSlot = true → s.curSlot.t0 = none → actOf s s.cur < 4 → s.curSlot.mw = 0 → z % 2 ^ 22 = 0 → z / 2 ^ 22 % 4 = 2 → z / 2 ^ 24 % 4 = 1 →
   z / 2 ^ 35 % 512 < 384 → z / 2 ^ 26 % 512 < 384 → ∃ u, exec (.tlbi a b) s = .next u ∧
    (slotAt u s.cur (actOf s s.cur)).t0 = some (word s.nextId) ∧ (slotAt u s.cur (actOf s s.cur)).st = .blocked (.tlbi s.nextId) ∧
    (∀ n, n < 1536 → ∀ y ∈ (quadAt u n).tlb, y.space ≠ (z / 2 ^ 35 % 512) * 2 ^ 20 + z / 2 ^ 44) ∧
    (∀ n, n < 6144 → ∀ y ∈ (coreOf u n).utlb, y.space ≠ (z / 2 ^ 35 % 512) * 2 ^ 20 + z / 2 ^ 44) ∧
    (∀ y ∈ u.walks, y.space = (z / 2 ^ 35 % 512) * 2 ^ 20 + z / 2 ^ 44 → y.stale = true)) ∧
  (ck ≠ 0 → s.retryables = [⟨ld.val, ck.toNat, j⟩] → s.cores.map (·.1) = [c] → (∀ y ∈ s.ctxs, y.2.saved = none) → cookieSlots s c (ck.setWidth 64) = [i] → ldOf (slotAt s c i).ctx = ld.val →
    exec (.fcomp ld ck) s = .next (enqueue { s with retryables := [] } c 3 ⟨0, 0⟩ (slotAt s c i).launch (slotAt s c i).ctx 0 2 [ck.setWidth 64])) ∧
  (ck = 0 ∨ (∀ y ∈ s.retryables, y.ld ≠ ld.val ∨ y.cookie ≠ ck.toNat) → exec (.fcomp ld ck) s = .next s)

/-! ### Messages, handlers and the start of tasks (chapters 11 and 15) -/

/-- What arrives at a core (R29, R30, R231, R232, R234, R324, R327, R349, R359): an access or H message joins the message queue if it has a place, an L
message, a spawned descriptor and a fault message the ready queue, in their classes, or wait for room; a supervisor's access to a halted H slot finds
room always; a user's message for a context that has ended is discarded with a HANDLE record, and what comes for a descheduled context is kept with
its preserved state. A reply (R55, R122, R231, R245): a value fills the full/empty register named or is given to the slot that waits, which is then
ready; poison comes with it; what comes for a task that has ended is discarded. -/
def Obligations.ArrivalsAndReplies : Prop :=
  (∀ (s : State) (c : Nat) (m : Msg) (rest : List Msg) (hn ctx n base wlen off : Nat) (data : List Word) (d : Desc) (cont b : Bool)
    (t f0 f1 f2 : Word) (cn : Option Nat) (y : Context) (v : Saved) (kk : Core) (wr : Option Word),
  let k := coreOf s c
  let u := takenOff s rest
  let room (cls : Nat) : Prop := rqFull s c cls = false
  let user : Prop := m.body = .hmsg hn data ctx ∨ m.body = .sendw ctx base wlen off data cn
  let access : Prop := m.body.hkind.isSome = true ∧ ctx = m.src.ctx ∧ ∀ x b l o w q, m.body ≠ .sendw x b l o w q
  let gone : State := errRec u m.src.ctx .handle 0 m.src.core m.src.slot
  let queued : State := modCore u c fun k => { k with mq := k.mq ++ [m], lastEvent := s.tick }
  let kept (f : Core → Core) (u : State) : State := { u with ctxs := nset u.ctxs ctx { y with saved := some { v with cores := nset v.cores c (f kk) } } }
  let cls := if cont then 1 else 3
  OneFor s c m rest →
  (access ∨ (user ∧ ctxGone s ctx = false) →
    (Here s c ctx → (k.mq.length < 32 ∨ overflowRoom s c = true → exec (.messageQueueEntry c) s = .next queued) ∧
      (32 ≤ k.mq.length → overflowRoom s c = false → (slotAt s c 4).st ≠ .halted → exec (.messageQueueEntry c) s = .next s)) ∧
    (Kept s c ctx y v kk → exec (.messageQueueEntry c) s = .next (kept (fun k => { k with mq := k.mq ++ [m] }) u))) ∧
  (user → ctxGone s ctx = true → exec (.messageQueueEntry c) s = .next gone) ∧
  (m.body = .swin n hn wr ∨ m.body = .hresume n b → Here s c m.src.ctx → (slotAt s c 4).st = .halted → exec (.messageQueueEntry c) s = .next queued) ∧
  (m.body = .lmsg hn data ctx →
    (ctxGone s ctx = false → Here s c ctx → (room 1 → exec (.lMessage c) s =
      .next (enqueue u c 1 ⟨0, 0⟩ k.launch ctx 0 1 (word hn :: word m.src.core :: word m.src.ctx :: data))) ∧ (¬ room 1 → exec (.lMessage c) s = .next s)) ∧
    (ctxGone s ctx = false → Kept s c ctx y v kk → exec (.lMessage c) s = .next { kept (fun kk =>
      addRq s kk 1 ⟨0, 0⟩ kk.launch ctx 0 1 (word hn :: word m.src.core :: word m.src.ctx :: data)) u with nextId := s.nextId + 1 }) ∧
    (ctxGone s ctx = true → exec (.lMessage c) s = .next gone)) ∧
  (m.body = .spawn d cont → Here s c m.src.ctx → (room cls →
    exec (.spawnMessage c) s = .next (enqueue u c cls d k.launch m.src.ctx 0 4 [word m.src.core, word m.src.ctx])) ∧
    (¬ room cls → exec (.spawnMessage c) s = .next s)) ∧
  (m.body = .spawn d cont → ctx = m.src.ctx → Kept s c ctx y v kk → exec (.spawnMessage c) s = .next { kept (fun kk =>
    addRq s kk cls d kk.launch ctx 0 4 [word m.src.core, word m.src.ctx]) u with nextId := s.nextId + 1 }) ∧
  (m.body = .fault t f0 f1 f2 → Here s c m.src.ctx → (room 1 →
    exec (.faultMessage c) s = .next (enqueue u c 1 ⟨0, 0⟩ k.launch m.src.ctx 0 3 [t, f0, f1, f2, word m.src.core, word m.src.ctx])) ∧
    (¬ room 1 → exec (.faultMessage c) s = .next s))) ∧
  (∀ (s : State) (c i task : Nat) (m : Msg) (rest : List Msg) (r : Reply) (d : RTo) (q : EReg) (v : Word) (l : List Word),
  let u := modCore (takenOff s rest) c fun k => { k with lastEvent := s.tick }
  let sl := slotAt s c i
  OneFor s c m rest → m.body = .reply r i task d → i < 5 →
  (sl.task ≠ task → exec (.reply c) s = .next u) ∧
  (sl.task = task →
    (d = .wait → sl.pend = .waiting → sl.st = .blocked .replyCore → exec (.reply c) s = .next (modSlot u c i fun x => { x with st := .ready, pend := .got r })) ∧
    (d = .wait → sl.pend ≠ .waiting → exec (.reply c) s = .next u) ∧
    (d = .ereg q → r = .vals (v :: l) → exec (.reply c) s = .next (modSlot u c i fun x => x.setE q ⟨v, true, false⟩)) ∧
    (d = .ereg q → r = .poison → exec (.reply c) s = .next (modSlot u c i fun x => x.setE q ⟨0, true, true⟩))))

/-- A load that needs another core's slice (R122): the first attempt sends it and blocks, stalls in a masked window, or raises H_BLOCK in the H slot; with
the reply it completes with the value, zero- or sign-extended, or raises POISON. Built-in handlers (R69, R73, R121, R124, R232, R240 to R242, R244,
R249): the oldest message runs once the H slot is free; a load replies with the bytes, or poison; a store and a nibble join the owner's store buffer;
a read-modify-write does there what it does on the own slice, and replies; a counter replies with its old value; SENDW stores its payload in the
window and then adds one to the counter it names. A handler waits for buffered stores. -/
def Obligations.RemoteAccess : Prop :=
  (∀ (s : State) (sz : Sz) (d : GReg) (a : Src) (sx : Bool) (off : BitVec 32) (x : Word) (g : Seg) (o p : Nat) (v : Word) (l : List Word),
  let c := s.cur
  let i := actOf s c
  let sl := s.curSlot
  let n := Alu.szB sz
  let ea := x + litS off
  let j := Instr.ldLit sz (.g d) a ⟨true, false⟩ sx off
  read1 a s = .ok (x, s) → ea.toNat % n = 0 → resolve true ea n accLoad s = .ok ([g], s) → ownerOf s.hdm g.pa = .slice o p → o ≠ c → g.va = ea →
  (∀ e ∈ (coreOf s c).sb, e.touches g.pa g.n = false ∧ (g.mt = .io → e.slot ≠ i)) → Ordered s →
  (sl.pend = .none → (let asked : State := { s.onSlot fun y => { y with pend := .waiting } with mesh := s.mesh ++ [⟨o, ⟨c, i, sl.ctx, sl.task⟩, .load g.pa g.n .wait⟩] }
    (i < 4 → sl.mw = 0 → exec j s = .next (asked.blockedOn .replyCore)) ∧
    (i < 4 → sl.mw ≠ 0 → exec j s = .next (asked.onSlot fun y => { y with st := .stalled .replyCore })) ∧
    (i = 4 → ∃ w, exec j s = .next (s.trapped { code := .hBlock } w)))) ∧
  (sl.pend = .got (.vals (v :: l)) → v.toNat < 2 ^ Alu.szW sz → exec j s = .next (s.past (s.onSlot fun y => y.setG d
    (if sx then BitVec.ofInt 64 (signed (Alu.szW sz) v.toNat) else v)))) ∧
  (sl.pend = .got .poison → ∃ w, exec j s = .next (s.trapped { code := .poison, info := ea } w))) ∧
  (∀ (s : State) (c : Nat) (m : Msg) (rest : List Msg) (pa n id half idx base wlen off ctx : Nat) (bytes : List (Nat × Byte))
    (pois : List Nat) (v : BitVec 4) (op : Rmw) (data : List Word) (cn : Option Nat) (fn : Nat) (F : Nat → Nat → Nat → Nat) (dbl hr rel : Bool) (b x va : Word),
  let k := coreOf s c
  let u := modCore s c fun k => { k with mq := rest, hRun := if (oldestH k).isSome then k.hRun + 1 else 0 }
  let rd (a k : Nat) : Nat := rdNat s a k
  let out (op : Rmw) : RmwOut := rmwOut rd (fun a k => anyPoison s a k) (qbaseOf s c) (windowPa c 0) pa n va op
  let old := (k.ctr[idx]?).getD 0
  HFree s c → k.mq = m :: rest → (k.hRun < 16 ∨ oldestH k = none) → s.ecc = [] → k.furl = [] →
  (m.body = .load pa n .wait → Untouched s c pa n → exec (.remoteLoad c) s = .next (withReply u m (if anyPoison s pa n then .poison else .vals [word (rd pa n)]) .wait)) ∧
  (m.body = .load pa n .wait → ¬ Untouched s c pa n → exec (.remoteLoad c) s = .next s) ∧
  (m.body = .store bytes pois id va → exec (.remoteStore c) s = .next (arrived u c m.src va bytes pois none (.entry m.src.core id) [])) ∧
  (m.body = .stn pa half v id va → exec (.remoteStn c) s = .next (arrived u c m.src va [] [] (some (pa, half, v)) (.entry m.src.core id) [])) ∧
  (m.body = .rmw pa n op .wait va id → k.sb = [] → (∀ p ∈ rmwTouches k s pa n op, rangeAt s p.1 p.2 = none) → (out op).counts = [] →
    exec (rmwRow op c) s = .next (withReply (if (out op).writes = [] then placeFreed u m.src.core id
      else arrived u c m.src va (out op).writes [] none (.entry m.src.core id) (rmwTouches k s pa n op)) m (out op).reply .wait)) ∧
  ((fn, F) ∈ ratCodes → n = (if dbl then 8 else 4) → anyPoison s pa n = false →
    out (.rat fn dbl hr b x) = ⟨leBytes pa n (F (8 * n) (rd pa n) (b.toNat % 2 ^ (8 * n))), .vals [word (rd pa n)], []⟩) ∧
  (n = (if dbl then 8 else 4) → anyPoison s pa n = false → out (.rat 6 dbl hr b x) =
    ⟨leBytes pa n (if rd pa n = b.toNat % 2 ^ (8 * n) then x.toNat % 2 ^ (8 * n) else rd pa n), .vals [word (rd pa n)], []⟩) ∧
  ((∀ e ∈ k.sb, k.ctrMark ≤ e.id) →
    (m.body = .counter idx none rel .wait id → exec (.remoteLoad c) s = .next (withReply u m (.vals [old.setWidth 64]) .wait)) ∧
    (m.body = .counter idx (some (.rat 0 false false b x)) rel .wait id → exec (.remoteRat c) s =
      .next (withReply (placeFreed (counterUpdate u c idx (old + b.setWidth 32)) m.src.core id) m (.vals [old.setWidth 64]) .wait))) ∧
  (m.body = .sendw ctx base wlen off data cn →
    (off % 8 = 0 → off + 8 * data.length ≤ wlen → base + off + 8 * data.length ≤ qbaseOf s c → qbaseOf s c ≤ 0x18000 → c < 6144 → data ≠ [] →
      exec (.sendwHandler c) s = .next (
        let t := arrived u c m.src 0 (wordBytes (windowPa c (base + off)) data) [] none .none []
        match cn with
        | some q => modCore (counterUpdate t c q ((k.ctr[q]?).getD 0 + 1)) c fun k => { k with ctrMark := t.nextId }
        | none => t)) ∧
    (off % 8 ≠ 0 ∨ wlen < off + 8 * data.length ∨ qbaseOf s c < base + off + 8 * data.length →
      exec (.sendwHandler c) s = .next (errRec u m.src.ctx .handle 0 m.src.core m.src.slot))))

/-- How tasks start (R54, R233, R252, R320 to R323, R355): a free L slot takes a descriptor, the oldest of the class whose turn it is; the H slot
pre-empts with an H message's handler, whose entry the handler table names, or with an H descriptor; an entry that is not valid is discarded with a
HANDLE record; after 16 messages in a row an H descriptor comes first; a notice returns a parked slot whose record holds its cookie to upcall mode,
and stays for one that has still to detach. -/
def Obligations.TaskStarts : Prop := ∀ (s : State) (c i j hn ctx v : Nat) (e : RqEnt) (m : Msg) (rest : List Msg) (data : List Word) (x : Context) (ck : Word),
  let k := coreOf s c
  let plain : Prop := k.rq = [e] ∧ e.kind = 0 ∧ e.cls < 4
  let pc := e.desc.w0 &&& ~~~7
  let first := if e.desc.w0.toNat % 4 = 0 then [e.desc.w1] else []
  let args := if e.desc.w0.toNat % 4 = 1 then some e.desc.w1 else none
  let begun (u : State) (i : Nat) (pc : Word) (g : List Word) (src : Word) (launch : Option Nat) (ctx : Nat) (args : Option Word) : Prop :=
    slotAt u c i = startedSlot s c (slotAt s c i) pc g src launch ctx (s.nextId + 1) args ∧ (∀ j, j ≠ i → slotAt u c j = slotAt s c j) ∧
    (∀ d, d ≠ c → coreOf u d = coreOf s d) ∧ (coreOf u c).ctx = some ctx ∧ u.mem = s.mem ∧ u.nextId = s.nextId + 1
  (coreDraining s c = false → plain → e.desc.w0.getLsbD 2 = false → k.cursors = [] → s.tpls = [] → i < 4 → (slotAt s c i).st = .free →
    (∀ j, j < i → (slotAt s c j).st ≠ .free) → ∃ u, exec (.takeL c) s = .next u ∧ begun u i pc first e.src e.launch e.ctx args ∧
      (coreOf u c).rq = [] ∧ (coreOf u c).rr = (e.cls + 1) % 4 ∧ (k.act ≠ some i → (coreOf u c).act = k.act) ∧
      (k.act = some i → (coreOf u c).act = nextReady (coreOf u c) i)) ∧
  (coreDraining s c = true → exec (.takeL c) s = .next s) ∧
  (HFree s c → coreDraining s c = false → (k.mq = [] ∨ 16 ≤ k.hRun) → plain → e.desc.w0.getLsbD 2 = true → ∃ u, exec (.hSlotTake c) s = .next u ∧
    begun u 4 pc first e.src e.launch e.ctx args ∧ (coreOf u c).rq = [] ∧ (coreOf u c).act = some 4 ∧ (coreOf u c).preempted = k.act) ∧
  (HFree s c → coreDraining s c = false → k.mq = m :: rest → k.rq = [] → m.body = .hmsg hn data ctx → nget s.ctxs ctx = some x → x.st ≠ .ended →
    (hn < x.desc.hcnt.toNat → devRead s c 4 ctx (x.desc.htab + word (8 * hn)) 8 = .val v →
      (v % 8 = 1 → ∃ u src, exec (.hSlotTake c) s = .next u ∧ begun u 4 (word (v / 8 * 8)) data src k.launch ctx none ∧ (coreOf u c).mq = rest ∧
        (coreOf u c).act = some 4 ∧ (coreOf u c).preempted = k.act) ∧
      (v % 8 ≠ 1 → ∃ u, exec (.hSlotTake c) s = .next u ∧ (coreOf u c).mq = rest ∧ (coreOf u c).act = k.act ∧ (slotAt u c 4).st = .free ∧
        u.rings = (errRec s ctx .handle 0 c 4).rings)) ∧
    (x.desc.hcnt.toNat ≤ hn → ∃ u, exec (.hSlotTake c) s = .next u ∧ (coreOf u c).mq = rest ∧ (coreOf u c).act = k.act ∧ (slotAt u c 4).st = .free ∧
      u.rings = (errRec s ctx .handle 0 c 4).rings)) ∧
  (coreDraining s c = false → k.rq = [e] → e.kind = 2 → e.data = [ck] →
    (cookieSlots s c ck = [i] → (slotAt s c i).st = .parked → exec (.upcallCompletionNotice c) s = .next (modCore (modSlot s c i fun y =>
      { y with st := .ready, up := true, pc := y.upc, g := y.g.setIfInBounds 0 ck }) c fun k => { k with rq := [], rr := 0 })) ∧
    (cookieSlots s c ck = [i] → (slotAt s c i).st = .ready → (slotAt s c i).up = true → exec (.upcallCompletionNotice c) s = .next s) ∧
    (cookieSlots s c ck = [i, j] → (slotAt s c i).st = .parked → (slotAt s c j).st = .ready → (slotAt s c j).up = true →
      exec (.upcallCompletionNotice c) s = .next (modCore (modSlot s c i fun y =>
        { y with st := .ready, up := true, pc := y.upc, g := y.g.setIfInBounds 0 ck }) c fun k => { k with rq := [{ e with data := [ck, word i] }], rr := 0 })) ∧
    (cookieSlots s c ck = [] → exec (.upcallCompletionNotice c) s = .next (modCore s c fun k => { k with rq := [], rr := 0 })))

/-- Counts and records (R110, R111, R238, R338): a count subtracts one from the JOIN of a record in the core's slice, sets PSN for a poisoned future, and
at zero enqueues the record's descriptor in class Waiting; a message for a host queue becomes a record at the tail of its ring, which then advances;
the reporting port writes the next record of a ring with room, taking the kinds in turn. -/
def Obligations.CountsAndRecords : Prop := ∀ (s : State) (c o off n pa : Nat) (r : CountReq) (e : TlbEntry) (m : Msg) (l rest : List Msg) (hn ctx : Nat) (p ws : List Word)
    (pend : List (List Word)),
  let at' := e.pa r.va
  let rd (j : Nat) : Nat := rdNat s (at' + 8 * j) 8
  let join := (rd 2 % 2 ^ 32 + 2 ^ 32 - 1) % 2 ^ 32
  let u : State := { s with counts := [], unitAns := ndel s.unitAns (1000000 + r.id) }
  let done := arrived u c r.src r.va (leBytes (at' + 16) 8 (rd 2 / 2 ^ 32 * 2 ^ 32 + join) ++ leBytes (at' + 24) 8 (if r.psn then rd 3 / 2 * 2 + 1 else rd 3)) [] none .none [(at', 32)]
  let tail := rdNat s (pa + 24) 8
  let at0 := rdNat s pa 8 + 64 * (tail % max 1 (rdNat s (pa + 8) 8))
  let hasRoom : Prop := (∃ n, 4 ≤ n ∧ n ≤ 16 ∧ rdNat s (pa + 8) 8 = 2 ^ n) ∧ (tail + 2 ^ 64 - rdNat s (pa + 16) 8) % 2 ^ 64 < rdNat s (pa + 8) 8
  let placed (ws : List Word) (t : State) : Prop :=
    t.mem = putBytes s s.mem (wordBytes at0 ws ++ leBytes (pa + 24) 8 ((tail + 1) % 2 ^ 64))
  let fine : Prop := at0 % 8 = 0 ∧ pa % 8 = 0 ∧ 2 ^ 40 ≤ at0 ∧ 2 ^ 40 ≤ pa ∧ (∃ p, ownerOf s.hdm pa = .host p) ∧ (∃ p, ownerOf s.hdm at0 = .host p) ∧ (∃ p, ownerOf s.hdm (at0 + 63) = .host p) ∧
    (at0 + 64 ≤ pa ∨ pa + 32 ≤ at0)
  (s.counts = [r] → nget s.unitAns (1000000 + r.id) = none → (quadAt s r.quad).tlb.find? (fun y => y.hits r.src.ctx (va57 r.va)) = some e →
    e.r = true → e.w = true → e.cw = false → e.mt = .normal → ownerOf s.hdm at' = .slice c off → off + 32 ≤ qbaseOf s c → HFree s c → Untouched s c at' 32 →
    anyPoison s at' 32 = false → inTagRegion s at' 32 = false → (coreOf s c).furl = [] →
    (2 ≤ rd 0 % 4 → exec (.count c) s = .next (errRec done r.src.ctx .illField r.va r.src.core r.src.slot)) ∧
    (join ≠ 0 → rd 0 % 4 < 2 → exec (.count c) s = .next done) ∧
    (join = 0 → rd 0 % 4 < 2 → exec (.count c) s = .next (enqueue done c 2 ⟨word (rd 0), word (rd 1)⟩ (coreOf s c).launch r.src.ctx (BitVec.allOnes 64) 0 []))) ∧
  (s.counts = [] → exec (.count c) s = .next s) ∧
  (s.mesh = l ++ m :: rest → (∀ y ∈ l ++ rest, y.dst < 0x400000 ∨ 0x1000000 ≤ y.dst) → m.dst = 0x400000 + o → o < 0xC00000 → nget s.rings (1000 + o) = some ⟨pa, pend⟩ →
    m.body = .lmsg hn p ctx → p.length ≤ 6 → m.src.slot < 8 → m.src.ctx / 2 ^ 20 < 512 → hasRoom → fine → ∃ t, exec .hostQueueRecord s = .next t ∧ t.mesh = l ++ rest ∧
      placed (word (hn + p.length * 2 ^ 10 + m.src.ctx / 2 ^ 20 * 2 ^ 16) :: (List.range 6).map (fun j => p.getD j 0) ++
        [word (m.src.core % 8192 + m.src.slot * 8192)]) t ∧ t.cores = s.cores) ∧
  (s.rings = [(n, ⟨pa, ws :: pend⟩)] → ws.length = 8 → n < 1000 → s.rpt.kind < 3 → (let kind := if n < 16 then 0 else if n < 32 then 1 else 2
      s.rptw.toNat / 16 ^ kind % 16 ≠ 0) → hasRoom → fine → ∃ t, exec .ringReport s = .next t ∧ t.rings = [(n, ⟨pa, pend⟩)] ∧ placed ws t ∧
    (if n < 16 then t.rpt.last0 else if n < 32 then t.rpt.last1 else t.rpt.last2) = n ∧ t.cores = s.cores)

/-! ### Launches (chapter 14) -/

/-- LAUNCH_RECORD (R301, R303, R305, R307): the record at the head of a context's fabric queue is checked; one that fails is refused with a record of code
ILL_FIELD on the terminal ring; DEP is waited for, then PRED is read once, and zero skips the launch. A context that does not run or drains starts
nothing. LAUNCH_START (R299, R306, R331): once no launch is active on its region, a launch starts; the cores of the region lose their instruction
caches, counters, waiting tasks, barrier instances and template stores, and take the layout of the record; each starts one task at ENTRY, or the
leader starts the prologue. LAUNCH_COMPLETE (R307): a launch of which nothing runs, waits or is on its way is no longer active, and one is added to
the word at COMPL; while anything of it is left, it stays active. -/
def Obligations.Launches : Prop :=
  (∀ (s : State) (x : Nat) (y : Context) (ws : List Word) (rest : List (List Word)) (v p : Word) (l r : List Head),
  let q := LaunchQ.fabric x
  let w (j : Nat) : Word := ws.getD j 0
  let u : UnitId := ⟨300, 506000000 + x, (intervalOf s x).1 / 1536, x⟩
  let fine := GoodRecord (intervalOf s x).2 ws
  let alone : Prop := ∀ h ∈ s.heads, h.q ≠ q
  let base : State := { s with unitAns := ndel s.unitAns u.wid }
  let gone : State := withCtx base x { y with fabricQ := rest }
  let j := Instr.launchRecord q
  nget s.ctxs x = some y → y.st = .running → y.drain = none → y.fabricQ = ws :: rest →
  (alone → fine → w 4 = 0 → w 5 = 0 → exec j s = .next { base with heads := s.heads ++ [⟨q, ws, 0, true, some true, none⟩] }) ∧
  (alone → ¬ fine → exec j s = .next (recorded gone (terminalRing y) (terminalRecord y x 2 0 0 0 (s.ns / 1000) 0 0))) ∧
  (alone → fine → w 5 ≠ 0 → dispRead u (w 5) s = .ok (v, s) →
    exec j s = .next { base with heads := s.heads ++ [⟨q, ws, 0, decide ((w 6).toNat / 2 ^ 32 ≤ v.toNat), none, none⟩] }) ∧
  (alone → fine → w 5 = 0 → w 4 ≠ 0 → dispRead u (w 4) s = .ok (p, s) →
    (p ≠ 0 → exec j s = .next { base with heads := s.heads ++ [⟨q, ws, 0, true, some true, none⟩] }) ∧
    (p = 0 → w 7 = 0 → exec j s = .next { gone with nextId := s.nextId + 1 })) ∧
  (s.heads = l ++ ⟨q, ws, 0, true, none, none⟩ :: r → (∀ h ∈ l ++ r, h.q ≠ q) → ws ≠ [] →
    (w 4 = 0 → exec j s = .next { base with heads := l ++ r ++ [⟨q, ws, 0, true, some true, none⟩] }) ∧
    (w 4 ≠ 0 → dispRead u (w 4) s = .ok (p, s) → p ≠ 0 → exec j s = .next { base with heads := l ++ r ++ [⟨q, ws, 0, true, some true, none⟩] })) ∧
  exec j (withCtx s x { y with st := .descheduled }) = .next (withCtx s x { y with st := .descheduled }) ∧
  (∀ t, exec j (withCtx s x { y with drain := some t }) = .next (withCtx s x { y with drain := some t }))) ∧
  (∀ (s : State) (x first len : Nat) (y : Context) (ws : List Word) (rest : List (List Word)) (d : Nat → Nat),
  let q := LaunchQ.fabric x
  let l := launchOf s x first ws
  let id := s.nextId + 1
  let flat : Prop := l.tpl = false
  let starts (c : Nat) : Prop := if l.tpl then c = l.base else l.base ≤ c ∧ c < l.base + l.rlen
  nget s.ctxs x = some y → y.st = .running → y.drain = none → y.fabricQ = ws :: rest → nget s.vfs (x / 2 ^ 20) = some (first, len) → GoodRecord len ws →
  s.heads = [⟨q, ws, 0, true, some true, none⟩] → (∀ c, starts c → d c < 4 ∧ (slotAt s c (d c)).st = .free ∧ ∀ i, i < d c → (slotAt s c i).st ≠ .free) →
  ((∀ p ∈ s.launches, p.2.active = true → p.2.base + p.2.rlen ≤ l.base ∨ l.base + l.rlen ≤ p.2.base) → ∃ t, exec (.launchStart q) s = .next t ∧
    nget t.launches id = some l ∧ (∀ p, p ≠ id → nget t.launches p = nget s.launches p) ∧ t.heads = [] ∧ nget t.ctxs x = some { y with fabricQ := rest } ∧
    (∀ c, l.base ≤ c → c < l.base + l.rlen → let k := coreOf t c
      k.icache = [] ∧ k.ctr = Vector.replicate 64 0 ∧ k.wt = Vector.replicate 16 none ∧ k.launch = some id ∧ k.ctx = some x ∧ (∀ b ∈ t.bars, b.1 ≠ .core c) ∧
      (∀ j, l.tplBase.toNat ≤ j → j < 0x18000 → memGet t.mem (windowPa c j) = 0) ∧
      (∀ i, i < 5 → (starts c ∧ i = d c → Begun (slotAt t c i) id i l (c - l.base) (if l.tpl then 0 else c - l.base) (if l.tpl then l.nitems else l.rlen)) ∧
        (¬ (starts c ∧ i = d c) → (slotAt t c i).st = (slotAt s c i).st ∧ (slotAt t c i).pc = (slotAt s c i).pc ∧ (slotAt t c i).g = (slotAt s c i).g ∧
          (slotAt t c i).qbase = l.qbase))) ∧
    (∀ c, ¬ (l.base ≤ c ∧ c < l.base + l.rlen) → coreOf t c = coreOf s c)) ∧
  ((∃ p ∈ s.launches, p.2.active = true ∧ 1 ≤ p.2.rlen ∧ p.2.base < l.base + l.rlen ∧ l.base < p.2.base + p.2.rlen) → exec (.launchStart q) s = .next s)) ∧
  (∀ (s : State) (id : Nat) (l : Launch) (y : Context) (g : Seg),
  let region := (List.range l.rlen).map (l.base + ·)
  let quiet (c : Nat) : Prop := let k := coreOf s c
    (∀ i, i < 5 → (slotAt s c i).st = .free ∨ (slotAt s c i).launch ≠ some id) ∧ (∀ e ∈ k.rq, e.launch ≠ some id ∨ e.kind = 2) ∧
    (∀ j (h : j < 16) e, k.wt[j] = some e → e.launch ≠ some id) ∧ (∀ e ∈ k.sb, 5 ≤ e.slot) ∧ k.dq = [] ∧ k.rots = [] ∧ k.orphans = []
  let still : Prop := s.mesh = [] ∧ s.counts = [] ∧ (∀ p ∈ s.cores, p.2.mq = []) ∧ ∀ p ∈ s.tpls, p.2.launch ≠ some id
  nget s.launches id = some l → l.active = true → s.compls = [] → nget s.ctxs l.ctx = some y → y.st = .running →
  ((∀ c ∈ region, quiet c) → still → ∃ t, (nget t.launches id = some { l with active := false } ∧ (∀ p, p ≠ id → nget t.launches p = nget s.launches p) ∧
      (∀ c, coreOf t c = if c ∈ region ∧ (coreOf s c).launch = some id then { coreOf s c with launch := none } else coreOf s c) ∧ t.mem = s.mem ∧ t.rings = s.rings) ∧
    (l.compl = 0 → exec (.launchComplete id) s = .next t) ∧
    (l.compl ≠ 0 →
      let u : UnitId := ⟨300, 7000000 + id, (intervalOf s l.ctx).1 / 1536, l.ctx⟩
      let t1 : State := { t with compls := [⟨id, l.ctx, l.compl, none⟩] }
      uSeg u ⟨true, true, true⟩ (some .furlWrite) l.compl 8 t1 = .ok (g, t1) → anyPoison s g.pa 8 = false → ∃ w,
        exec (.launchComplete id) s = .next { t with
          mem := putBytes s s.mem (leBytes g.pa 8 ((rdNat s g.pa 8 + 1) % 2 ^ 64)), unitAns := ndel s.unitAns u.wid, gwalks := w })) ∧
  ((∃ c ∈ region, ∃ i, i < 5 ∧ (slotAt s c i).st ≠ .free ∧ (slotAt s c i).launch = some id) → exec (.launchComplete id) s = .next s))

/-! ### Contexts, drains, scrubs (chapters 16 and 18) -/

/-- How a context is made, runs and fails (R358, R359, R382, R383, R386, R387, R394, R395): a descriptor that keeps its ranges makes a context where none
of its name lives and its VF holds fewer than 64; a slice starts once the interval's scrub record names the context, and after a protected tenant no
sooner than the fixed instant of R386; a slice end, for a protected context when SQ has passed, notes the instant of the drain and cancels the walks
of its tasks; entry into ERROR frees every slot of its tasks and raises event 0x005. The end of a drain (R30, R356, R359, R360, R361): at t0 + WDLIM a
task still in a slot, other than a parked one, ends with a WDOG record; a drained context becomes DESCHEDULED, and its cores' preserved state is put
away: counters, waiting tasks, queues, decode tables, matrix context, latch, regions and ranges stay, as do core barriers and engine channels; tiles,
the context's TLB entries and instruction caches are discarded, and LOST is set in a parked slot's record. -/
def Obligations.ContextLifeAndDrain : Prop :=
  (∀ (s : State) (d : Descriptor) (x first len n : Nat) (y : Context) (l : List ScrubRec) (rc : ScrubRec) (c pa : Nat) (k : Core)
    (b : Byte) (p : Context) (z f first2 len2 kc : Nat) (bs : List (BarKey × BarInst)) (ch : Chan),
  let lasted : Prop := y.desc.prot = false ∨ ∃ f, y.firstStart = some f ∧ 0 < y.desc.sper.toNat ∧ y.desc.sq.toNat ≤ (s.ns - f) / 1000 % y.desc.sper.toNat
  let key := d.vf.toNat * 2 ^ 20 + d.pasid.toNat
  let live := (s.ctxs.filter fun p => decide (p.1 / 2 ^ 20 = d.vf.toNat) && decide (p.2.st ≠ .ended)).length
  let new : Prop := ∀ z, nget s.ctxs key = some z → z.st = .ended
  let ready : Prop := (y.st = .created ∨ y.st = .descheduled) ∧ y.held = false ∧ nget s.vfs (x / 2 ^ 20) = some (first, len) ∧ 0 < len ∧
    (∀ p ∈ s.ctxs, p.2.st = .running → p.1 / 2 ^ 20 ≠ x / 2 ^ 20) ∧ (∀ q ∈ s.quads, q.2.fenced = false) ∧
    ∀ q ∈ s.ctxs, q.1 ≠ x → q.2.desc.prot = false ∨ q.2.st ≠ .descheduled ∨ q.2.firstStart = none
  let covers : Prop := s.scrubs = l ++ [rc] ∧ rc.base ≤ first ∧ first + len ≤ rc.base + rc.len ∧ rc.arriving = some x
  (GoodDescriptor d → live < 64 → new → exec (.contextCreate d) s = .next (withCtx s key (freshContext d))) ∧
  (¬ GoodDescriptor d ∨ 64 ≤ live ∨ ¬ new → exec (.contextCreate d) s = .next s) ∧
  (nget s.ctxs x = some y → ready → covers → (y.desc.prot = true → y.firstStart = none) → ∃ t, exec (.sliceStart x) s = .next t ∧
    nget t.ctxs x = some { y with st := .running, drain := none, saved := none, firstStart := some (y.firstStart.getD s.ns) } ∧
    (y.desc.prot = true → t.power.mhz = 1000) ∧ (y.desc.prot = false → t.power = s.power) ∧
    (y.saved = none → t.mem = s.mem ∧ ∀ q, (Within first len q → coreOf t q = Core.enter s x (coreOf s q)) ∧ (¬ Within first len q → coreOf t q = coreOf s q)) ∧
    (y.saved = some ⟨[(c, k)], [(pa, b)], [pa / 8], bs, [(kc, ch)]⟩ → Within first len c → ownerOf s.hdm pa = .slice c n →
      coreOf t c = Core.enter s x { k with fenced := (coreOf s c).fenced, clkProt := (coreOf s c).clkProt, clkBase := (coreOf s c).clkBase
                                           clkFrom := (coreOf s c).clkFrom } ∧
      memGet t.mem pa = b ∧ pa / 8 ∈ t.poison ∧ t.bars = s.bars ++ bs ∧ chanAt t kc = ch)) ∧
  (nget s.ctxs x = some y → (∀ q ∈ s.scrubs, q.arriving ≠ some x) ∨ y.held = true ∨ (y.st ≠ .created ∧ y.st ≠ .descheduled) →
    exec (.sliceStart x) s = .next s) ∧
  (nget s.ctxs x = some y → (z, p) ∈ s.ctxs → z ≠ x → p.desc.prot = true → p.st = .descheduled → p.firstStart = some f → nget s.vfs (x / 2 ^ 20) = some (first, len) →
    nget s.vfs (z / 2 ^ 20) = some (first2, len2) → first < first2 + len2 → first2 < first + len →
    (s.ns - f) / 1000 % p.desc.sper.toNat < p.desc.sq.toNat + p.desc.wdlim.toNat + (if p.desc.rlc = 0 then 200 else if p.desc.rlc = 1 then 2000 else 20000) →
    exec (.sliceStart x) s = .next s) ∧
  (nget s.ctxs x = some y → y.st = .running → y.drain = none → lasted → ∃ w, exec (.sliceEnd x) s = .next { withCtx s x { y with drain := some s.ns } with walks := w } ∧
    (∀ e ∈ w, e.space = x → ∀ c i, .slot c i ∈ e.who → (slotAt s c i).ctx ≠ x) ∧ ∀ e ∈ s.walks, e.space ≠ x → e.who ≠ [] → e ∈ w) ∧
  (nget s.ctxs x = some y → y.st ≠ .running ∨ y.drain ≠ none → exec (.sliceEnd x) s = .next s) ∧
  (nget s.ctxs x = some y → y.desc.prot = true → y.firstStart = some f → (s.ns - f) / 1000 % y.desc.sper.toNat < y.desc.sq.toNat → 0 < y.desc.sper.toNat →
    exec (.sliceEnd x) s = .next s) ∧
  (nget s.ctxs x = some y → y.st ≠ .ended → y.st ≠ .error → s.ecc = [] → ∃ t, exec (.contextErrorRequest x) s = .next t ∧
    nget t.ctxs x = some { y with st := .error, drain := some s.ns, endDue := false } ∧ t.events = (raised s (x / 2 ^ 20 / 24) 5 x).events ∧
    (∀ c i, i < 5 → (slotAt s c i).ctx = x → (slotAt t c i).st = .free) ∧
    ∀ c i, i < 5 → (slotAt s c i).ctx ≠ x → (slotAt t c i).pc = (slotAt s c i).pc ∧ (slotAt t c i).st = (slotAt s c i).st) ∧
  (nget s.ctxs x = some y → y.st = .ended ∨ y.st = .error → exec (.contextErrorRequest x) s = .next s)) ∧
  (∀ (s : State) (x first len c i t0 : Nat) (y : Context),
  let sl := slotAt s c i
  let here : Prop := Within first len c ∧ i < 5 ∧ sl.st ≠ .free ∧ sl.st ≠ .parked ∧ sl.ctx = x
  let drained : Prop := (∀ q, Within first len q → (∀ j, j < 5 → (slotAt s q j).st = .free ∨ (slotAt s q j).st = .parked) ∧ (coreOf s q).sb = [] ∧
      (coreOf s q).dq = [] ∧ (coreOf s q).rots = [] ∧ (coreOf s q).orphans = [] ∧ (coreOf s q).unmapDue = []) ∧ (∀ h ∈ s.chans, h.2.ctx = x → h.2.exec = [] ∧ (h.2.pops = [] ∨ h.2.results = [])) ∧
    (∀ m ∈ s.mesh, m.src.ctx = x → m.body.hkind = none ∧ ∀ d n, m.body ≠ .spawn d n) ∧
    (∀ p ∈ s.cores, ∀ m ∈ p.2.mq, m.src.ctx = x → m.body.hkind = none ∧ ∀ d n, m.body ≠ .spawn d n) ∧ ∀ r ∈ s.counts, r.src.ctx ≠ x
  let empty (k : Core) : Core := { Core.reset with fenced := k.fenced, clkProt := k.clkProt, clkBase := k.clkBase, clkFrom := k.clkFrom }
  let pa := windowPa c (sl.carveBase.toNat + sl.carveSize.toNat - 256 + 240)
  nget s.ctxs x = some y → nget s.vfs (x / 2 ^ 20) = some (first, len) → y.drain = some t0 →
  (s.ns < t0 + 1000 * y.desc.wdlim.toNat → exec (.drainWatchdog x) s = .next s) ∧
  (t0 + 1000 * y.desc.wdlim.toNat ≤ s.ns → here → sl.tpl = none → sl.d = Vector.replicate 4 none →
    (∀ q j, j < 5 → ¬ (q = c ∧ j = i) → (slotAt s q j).ctx ≠ x ∨ (slotAt s q j).st = .free ∨ (slotAt s q j).st = .parked) → ∃ t,
    exec (.drainWatchdog x) s = .next t ∧ (slotAt t c i).st = .free ∧
      t.rings = (recorded s (terminalRing y) (terminalRecord y x 0x32 0 0 0 (s.ns / 1000) c i)).rings ∧
      t.ctxs = if y.desc.endMask.getLsbD 0x32 then nset s.ctxs x { y with endDue := true } else s.ctxs) ∧
  (y.st = .running → drained → ∃ t sv, exec (.drainComplete x) s = .next t ∧
    nget t.ctxs x = some { y with st := .descheduled, drain := none, saved := some sv } ∧
    (∀ q, Within first len q → coreOf t q = empty (coreOf s q)) ∧ (∀ q, ¬ Within first len q → coreOf t q = coreOf s q) ∧
    (∀ q k, Within first len q → nget s.cores q = some k → ∃ z, nget sv.cores q = some z ∧ z.ctr = k.ctr ∧ z.wt = k.wt ∧ z.mq = k.mq ∧ z.rq = k.rq ∧
      z.cursors = k.cursors ∧ z.dt = k.dt ∧ z.mctx = k.mctx ∧ z.mprog = k.mprog ∧ z.latch = k.latch ∧ z.recv = k.recv ∧ z.srst = k.srst ∧ z.rgn = k.rgn ∧
      z.furl = k.furl ∧ z.utlb = [] ∧ z.icache = [] ∧ (∀ j (h : j < 4), z.tiles[j].owner = none) ∧
      ∀ j, j < 5 → (slotOf z j).bind = (slotOf k j).bind ∧ (slotOf z j).depth = (slotOf k j).depth ∧ (slotOf z j).ovfp = (slotOf k j).ovfp ∧
        (slotOf z j).engMap = (slotOf k j).engMap ∧ (slotOf z j).w = Vector.replicate 16 .unmapped ∧ (slotOf z j).k = Vector.replicate 4 0) ∧
    (∀ q k, Within first len q → nget s.cores q = some k → ∀ e ∈ (quadAt t (q / 4)).tlb, e.space ≠ x) ∧
    (∀ b, b ∈ sv.bars ↔ b ∈ s.bars ∧ ∃ q, b.1 = .core q ∧ Within first len q) ∧ (∀ h, h ∈ sv.chans ↔ h ∈ s.chans ∧ h.2.ctx = x) ∧
    (∀ a b q o, ownerOf s.hdm a = .slice q o → Within first len q → ((a, b) ∈ sv.mem ↔ (a, b) ∈ t.mem)) ∧
    (sl.st = .parked → Within first len c → i < 4 → pa % 8 = 0 → (∀ q j, j < 4 → (slotAt s q j).st = .parked → q = c ∧ j = i) → s.gwalks = [] →
      ownerOf s.hdm pa = .slice c (pa % 0x20000) → (memGet t.mem (physOf s pa)).getLsbD 1 = true)) ∧
  (here → exec (.drainComplete x) s = .next s))

/-- SCRUB (R71, R213, R382, R387): an interval on which no context runs is set to its values: every core of it is as after reset but for its fence and its
clock, every byte of its slices is zero and unpoisoned, and a record is written that names both contexts. A departing context in ERROR ends: its
handles, launches and queue pairs are gone, its key slots ERASING, and of what it sent only its users' messages go on; one that is DESCHEDULED stays.
Key slots (R213, R214, R390): an EMPTY slot takes a record that keeps the rules and came in the session; a LOADED one becomes ERASING; ERASING ends,
and the keys, the ranges and every binding to the slot are gone, once nothing accepted under it executes. -/
def Obligations.ScrubsAndKeys : Prop :=
  (∀ (s : State) (base len : Nat) (dep arr : Option Nat) (x : Nat) (y : Context),
  let iv (p : Nat) : Nat × Nat := (nget s.vfs (p / 2 ^ 20)).getD (0, 0)
  let e := Instr.scrub base len dep arr
  ((∀ p ∈ s.ctxs, p.2.st = .running → (iv p.1).1 + (iv p.1).2 ≤ base ∨ base + len ≤ (iv p.1).1) → (∀ d, dep = some d → ∃ z, nget s.ctxs d = some z) → ∃ t,
    exec e s = .next t ∧ t.scrubs = s.scrubs ++ [⟨base, len, dep, arr, s.scrubs.length + 1⟩] ∧
    (∀ q, Within base len q → coreOf t q = { Core.reset with
      fenced := (coreOf s q).fenced, clkProt := (coreOf s q).clkProt, clkBase := (coreOf s q).clkBase, clkFrom := (coreOf s q).clkFrom }) ∧ (∀ q, ¬ Within base len q → coreOf t q = coreOf s q) ∧
    ((∀ d z, dep = some d → nget s.ctxs d = some z → z.st ≠ .error) → t.ctxs = s.ctxs ∧ t.keys = s.keys ∧ t.mesh = s.mesh ∧
      (∀ pa q o, ownerOf s.hdm pa = .slice q o → Within base len q → memGet t.mem pa = 0 ∧ pa / 8 ∉ t.poison) ∧
      (∀ pa, (∀ q o, ownerOf s.hdm pa = .slice q o → ¬ Within base len q) → memGet t.mem pa = memGet s.mem pa)) ∧
    (dep = some x → nget s.ctxs x = some y → y.st = .error → ∃ z, nget t.ctxs x = some z ∧ z.st = .ended ∧ z.handles = [] ∧ z.fabricQ = [] ∧
      (∀ p ∈ t.launches, p.2.ctx ≠ x) ∧ (∀ p ∈ t.qps, p.2.ctx ≠ x) ∧ (∀ p ∈ t.chans, p.2.ctx ≠ x) ∧
      (∀ m, m ∈ t.mesh ↔ m ∈ s.mesh ∧ (m.src.ctx ≠ x ∨ m.body.device = false)) ∧
      ∀ n, keySlot t n = if (keySlot s n).st = .loaded ∧ (keySlot s n).ctx = x then { keySlot s n with st := .erasing } else keySlot s n)) ∧
  ((∃ p ∈ s.ctxs, p.2.st = .running ∧ (iv p.1).1 < base + len ∧ base < (iv p.1).1 + (iv p.1).2) → exec e s = .next s)) ∧
  (∀ (s : State) (n : Fin 64) (b : KeyBlob) (c i : Nat),
  let k := keySlot s n
  let only (t : State) (z : KeySlot) : Prop := t = { s with keys := t.keys } ∧ keySlot t n = z ∧ ∀ m, m ≠ n → keySlot t m = keySlot s m
  (k.st = .empty → b.inSession = true → GoodPolicy b.policy → ∃ t, exec (.keyInstall n b) s = .next t ∧
    only t ⟨.loaded, b.ctx, b.xts, b.tagKey, b.policy, b.tagBase⟩) ∧
  (k.st ≠ .empty ∨ b.inSession = false ∨ ¬ GoodPolicy b.policy → exec (.keyInstall n b) s = .next s) ∧
  (k.st = .loaded → ∃ t, exec (.keyErase n) s = .next t ∧ only t { k with st := .erasing }) ∧
  (k.st ≠ .loaded → exec (.keyErase n) s = .next s) ∧
  (k.st = .erasing → (∀ p ∈ s.chans, ∀ e ∈ p.2.exec, n.val ∉ e.keys) →
    (∀ p ∈ s.cores, (∀ r ∈ p.2.dq, ∀ m ∈ r.keys, m.1 ≠ n.val) ∧
      ∀ e ∈ p.2.sb, ∀ a ∈ e.bytes, a.1 < k.tagBase ∨ k.tagBase + (k.policy.getD 2 0).toNat / 16 ≤ a.1) → ∃ t, exec (.keyErased n) s = .next t ∧ keySlot t n = ⟨.empty, 0, 0, 0, [], 0⟩ ∧
    (∀ m, m ≠ n → keySlot t m = keySlot s m) ∧ (∀ r, r ∈ (coreOf t c).furl ↔ r ∈ (coreOf s c).furl ∧ r.key ≠ n.val) ∧
    (i < 5 → ∀ j, (slotAt t c i).bind.getLsbD j = ((slotAt s c i).bind.getLsbD j && decide (j ≠ n.val))) ∧ t.mem = s.mem ∧
    ∀ z ∈ t.ctxs, ∀ v, z.2.saved = some v → ∀ q ∈ v.cores, ∀ r ∈ q.2.furl, r.key ≠ n.val) ∧
  (k.st ≠ .erasing ∨ (∃ p ∈ s.chans, ∃ e ∈ p.2.exec, n.val ∈ e.keys) ∨ (∃ p ∈ s.cores, ∃ r ∈ p.2.dq, ∃ m ∈ r.keys, m.1 = n.val) → exec (.keyErased n) s = .next s))

/-! ### Keys, handles, evidence, registers (chapters 10 and 18) -/

/-- Handles (R131, R229, R235, R385): a core or landing-zone handle to a context of this package is granted where that context is neither ENDED nor in
ERROR and, for another VF, was offered and accepted; one to another package needs both; the grant is recorded; an engine handle gives its channel to
the context, unless another owns it; a host queue's ring is the one named; a revoked entry is gone. Evidence and the interface of a VF (R389, R394): a
nonce of 16 to 64 bytes gets a token with the claims of its context, and no task stops; sessions open and end, the interface locks and starts only in
order; where it leaves RUN or loses its session, one record of class 0b11 with the cause goes to the terminal ring of the logical device, and the
contexts of the VF enter ERROR. -/
def Obligations.HandlesAndEvidence : Prop :=
  (∀ (s : State) (x : Nat) (y : Context) (idx : BitVec 12) (pkg : BitVec 21) (rank : BitVec 13) (tgt : Nat) (hm : BitVec 10)
    (wb wl : BitVec 17) (d : Word) (qp : BitVec 24) (h : Handle) (offered accepted : Bool) (z : Context) (eng ch pa : Nat),
  let e (h : Handle) := Instr.handleGrant x idx h offered accepted
  let granted (h : Handle) : State := { withCtx s x { y with handles := nset y.handles idx.toNat h } with grants := s.grants ++ [⟨x, idx.toNat, offered, accepted⟩] }
  let reach : Prop := h = .core pkg rank tgt hm wb wl ∨ h = .landing pkg tgt d qp
  let agreed : Prop := offered = true ∧ accepted = true
  let alive : Prop := nget s.ctxs tgt = some z ∧ z.st ≠ .ended ∧ z.st ≠ .error
  nget s.ctxs x = some y →
  (reach → pkg = s.pkg → alive → tgt / 2 ^ 20 = x / 2 ^ 20 ∨ agreed → exec (e h) s = .next (granted h)) ∧
  (reach → pkg = s.pkg → (tgt / 2 ^ 20 ≠ x / 2 ^ 20 ∧ ¬ agreed) ∨ (nget s.ctxs tgt = some z ∧ (z.st = .ended ∨ z.st = .error)) → exec (e h) s = .next s) ∧
  (reach → pkg ≠ s.pkg → exec (e h) s = .next (if offered && accepted then granted h else s)) ∧
  exec (e (.queuePair qp)) s = .next (granted (.queuePair qp)) ∧
  exec (e (.hostQueue eng pa)) s = .next { granted (.hostQueue eng pa) with rings := nset s.rings (1000 + eng) ⟨pa, ((nget s.rings (1000 + eng)).getD ⟨0, []⟩).pend⟩ } ∧
  ((∀ k, nget s.chans (64 * eng + ch) = some k → k.ctx = x ∨ ∀ z, nget s.ctxs k.ctx = some z → z.st = .ended) →
    exec (e (.engine eng ch)) s = .next (modChan (granted (.engine eng ch)) (64 * eng + ch) fun k => { k with ctx := x })) ∧
  (∀ k, nget s.chans (64 * eng + ch) = some k → k.ctx ≠ x → nget s.ctxs k.ctx = some z → z.st ≠ .ended → exec (e (.engine eng ch)) s = .next s) ∧
  exec (.handleRevoke x idx) s = .next (withCtx s x { y with handles := y.handles.filter fun p => p.1 ≠ idx.toNat })) ∧
  (∀ (s : State) (x vf : Nat) (y : Context) (nonce : List Byte) (i : VfIf),
  let put (i : VfIf) : State := { s with ifs := nset s.ifs vf i }
  let leaves (j : Instr) (cause : Nat) : Prop := ∃ t, exec j s = .next t ∧ nget t.ifs vf = some ⟨if cause = 2 then false else i.session, .unlocked, some s.ns⟩ ∧
    (∀ q z, q / 2 ^ 20 = vf → nget t.ctxs q = some z → z.st = .error ∨ z.st = .ended) ∧
    (s.ctxs = [] → t.rings = (recorded s (16 + vf / 24) [word (3 * 2 ^ 8 + 2 ^ 10 + vf * 2 ^ 12), 0, word cause, word (s.ns / 1000), 0, 0, 0, 0]).rings)
  let asks (n : List Byte) (j : Instr) : Prop := ∃ t k, exec j s = .next t ∧ t = { s with tokens := t.tokens, tick := s.tick + 1 } ∧ t.tokens = s.tokens ++ [k] ∧
    k.ctx = x ∧ k.nonce = n ∧ k.images = y.images ∧ k.desc = y.desc ∧
    k.keys = (s.keys.toList.filter fun z => decide (z.st = .loaded) && decide (z.ctx = x)).map fun z => Crypto.sha384 (z.policy.flatMap fun w => Crypto.leBytes 8 w.toNat)
  (nget s.ctxs x = some y → y.st ≠ .ended → (16 ≤ nonce.length → nonce.length ≤ 64 → asks nonce (.evidenceRequest x nonce)) ∧
    (x / 2 ^ 20 = vf → asks [] (.spdmRequest vf (.measurements x)))) ∧
  (nonce.length < 16 ∨ 64 < nonce.length → exec (.evidenceRequest x nonce) s = .next s) ∧
  (nget s.ifs vf = some i →
    exec (.spdmRequest vf .sessionOpen) s = .next (put { i with session := true }) ∧
    (i.session = true → i.tdi = .unlocked → exec (.spdmRequest vf .lock) s = .next (put { i with tdi := .locked })) ∧
    (i.session = true → i.tdi = .locked → exec (.spdmRequest vf .start) s = .next (put { i with tdi := .run })) ∧
    (i.tdi = .locked → exec (.spdmRequest vf .stop) s = .next (put { i with tdi := .unlocked })) ∧
    (i.session = false → exec (.spdmRequest vf .lock) s = .next s ∧ exec (.spdmRequest vf .start) s = .next s ∧ exec (.spdmExpiry vf) s = .next s ∧
      exec (.heartbeatLoss vf) s = .next s) ∧
    (i.tdi = .run → leaves (.tdispExit vf) 1 ∧ leaves (.spdmRequest vf .stop) 1) ∧
    (i.tdi ≠ .run → exec (.tdispExit vf) s = .next s) ∧
    (i.session = true → leaves (.spdmExpiry vf) 2 ∧ leaves (.heartbeatLoss vf) 2 ∧ leaves (.spdmRequest vf .sessionEnd) 2)))

/-- Registers and the control complex (R29, R74, R111, R223, R297, R303, R304, R373, R386, R391, R393, R395, R396): each register and table takes what is
written; a VF interval only where no context of the VF runs, no other interval and no fenced quad lies in it, and what a descheduled one keeps moves
with it; an event's entry only when it is free or for its owner; a halted slot without a supervisor of its own is resumed; a debug read shows a slice
as it is, sealed state as zeros with a FURL_DEBUG record, and a protected context's state as zeros; a host's write is performed at its owner. -/
def Obligations.ControlComplex : Prop := ∀ (s : State) (r : SvcReg) (vf base len c i host pa : Nat) (ld : Fin 16) (e : BitVec 12) (claimant owner : BitVec 4)
    (dest : BitVec 32) (slot : Fin 5) (nx : Bool) (x : Nat) (y : Context) (o : Nat) (t : Fin 4) (wr : Fin 16) (p : Fin 192) (b : Byte) (v : Saved) (kk : Nat),
  let cur := (nget s.evrt (ld.val * 4096 + e.toNat)).getD ⟨0, 0⟩
  let sl := slotAt s c slot.val
  let zeros (n : Nat) : State := { s with dbgOut := List.replicate n 0 }
  let told (i : Nat) : State := { recorded s (terminalRing y) (terminalRecord y x 0x23 0 0 0 (s.ns / 1000) c i) with dbgOut := [] }
  let fit : Prop := Writable s r
  let free : Prop := (∀ v ∈ s.vfs, v.1 ≠ vf → v.2.1 + v.2.2 ≤ base ∨ base + len ≤ v.2.1) ∧
    (∀ q ∈ s.quads, q.2.fenced = true → 4 * q.1 + 3 < base ∨ base + len ≤ 4 * q.1) ∧ 0 < len ∧ base + len ≤ 6144
  (fit → exec (.registerWrite r) s = .next (noted s r)) ∧
  (free → (∀ q ∈ s.ctxs, q.1 / 2 ^ 20 ≠ vf) → (∀ l ∈ s.launches, l.2.ctx / 2 ^ 20 ≠ vf) → (∀ l ∈ s.tpls, l.2.ctx / 2 ^ 20 ≠ vf) →
    exec (.registerWrite (.vfInterval vf base len)) s = .next (noted s (.vfInterval vf base len))) ∧
  (free → nget s.vfs vf = some (i, len) → (∀ q ∈ s.ctxs, q.1 / 2 ^ 20 = vf → q.2.st = .descheduled) → nget s.ctxs x = some y → x / 2 ^ 20 = vf → y.saved = some v →
    ∃ u w, exec (.registerWrite (.vfInterval vf base len)) s = .next u ∧ nget u.vfs vf = some (base, len) ∧ nget u.ctxs x = some { y with saved := some w } ∧
      w.cores = v.cores.map fun q => (base + (q.1 - i), q.2)) ∧
  ((∃ q ∈ s.ctxs, q.1 / 2 ^ 20 = vf ∧ (q.2.st = .running ∨ q.2.st = .error)) ∨ ¬ free → exec (.registerWrite (.vfInterval vf base len)) s = .next s) ∧
  exec (.ldBind ld host) s = .next { s with lds := nset s.lds ld.val host } ∧
  (cur.owner = 0 ∨ cur.owner = claimant.toNat → owner.toNat ≤ 2 →
    exec (.evrtWrite ld e claimant owner dest) s = .next { s with evrt := nset s.evrt (ld.val * 4096 + e.toNat) ⟨owner.toNat, dest.toNat⟩ }) ∧
  (cur.owner ≠ 0 → cur.owner ≠ claimant.toNat → exec (.evrtWrite ld e claimant owner dest) s = .next s) ∧
  (sl.st = .halted → sl.launch = none → exec (.controlComplexResume c slot nx) s = .next (modSlot s c slot.val fun u => { u with
    st := .ready, pc := if nx then u.pc + 8 else u.pc })) ∧
  (sl.st ≠ .halted → exec (.controlComplexResume c slot nx) s = .next s) ∧
  ((coreOf s c).ctx = some x → nget s.ctxs x = some y →
    (ownerOf s.hdm (pa / 8 * 8) = .slice c o → furledKey s (pa / 8 * 8) = none →
      exec (.debugAccess (.phys pa)) s = .next (if y.desc.prot then zeros 8 else { s with dbgOut := rdBytes s (pa / 8 * 8) 8 })) ∧
    (let v := (coreOf s c).tiles.get t
     (v.tag = none → exec (.debugAccess (.tile c t)) s = .next (if y.desc.prot then zeros 4096 else { s with dbgOut := Alu.bytesOf v.data.toNat 4096 })) ∧
     (v.tag ≠ none → v.owner = some (i, o) → exec (.debugAccess (.tile c t)) s = .next { told i with dbgOut := List.replicate 4096 0 })) ∧
    (sl.w.get wr = .priv p → let v := (quadAt s (c / 4)).pregs.get p
      (v.tag = none → exec (.debugAccess (.wreg c slot wr)) s = .next (if y.desc.prot then zeros 256 else { s with dbgOut := Alu.bytesOf v.data.toNat 256 })) ∧
      (v.tag ≠ none → exec (.debugAccess (.wreg c slot wr)) s = .next { told slot.val with dbgOut := List.replicate 256 0 })) ∧
    (sl.w.get wr = .unmapped → exec (.debugAccess (.wreg c slot wr)) s = .next (zeros 256))) ∧
  (furledKey s (pa / 8 * 8) = some kk → (keyAt s kk).ctx = x → nget s.ctxs x = some y → c = 0 →
    exec (.debugAccess (.phys pa)) s = .next { told 0 with dbgOut := List.replicate 8 0 }) ∧
  (populated s pa 1 = true → isPoison s pa = false → ∃ g, exec (.hostMemoryWrite pa [b]) s = .next { s with mem := memSet s.mem (physOf s pa) b, gwalks := g })

/-! ### Halyard (chapter 17) -/

/-- Queue pairs and registrations (R368, R374, R376): one is created in RESET, with the handshake of its session, or READY where the session is up, and
granted as a handle; an evicted one answers CONTEXT-BUSY until its state is fetched; a revoked registration is gone. Sessions (R378, R390): a peer's
signed handshake that the context's policy lists brings a session up and its queue pairs to READY, or re-keys the direction from the peer, whose old
epoch is taken for 1 ms more; one that fails puts the session's queue pairs into ERROR; a direction re-keyed here flips EPOCH and starts its counter
at 0; a packet that no session takes is discarded and counted. -/
def Obligations.QueuePairsAndSessions : Prop :=
  (∀ (s : State) (x : Nat) (idx : BitVec 12) (r : QpInit) (y : Context) (en : Engine) (ses : Session) (n : BitVec 24) (q : Qp)
    (rkey : BitVec 16),
  let e := Instr.queuePairCreate x idx r
  let fine : Prop := nget s.ctxs x = some y ∧ y.st ≠ .ended ∧ y.st ≠ .error ∧ 1 ≤ r.tmo ∧ r.tmo ≤ 12000000 ∧ 1 ≤ r.rcnt ∧ r.rcnt ≤ 15 ∧
    nget s.engines (100 + r.port.val) = some en ∧ en.fenced = false ∧ (∀ q, nget s.qps r.qpn.toNat = some q → q.ctx = x ∧ q.st ≠ .ready)
  let granted : State := { withCtx s x { y with handles := nset y.handles idx.toNat (.queuePair r.qpn) } with grants := s.grants ++ [⟨x, idx.toNat, false, false⟩] }
  (fine → nget s.sessions r.sid.toNat = none → exec e s = .next { granted with
    qps := nset s.qps r.qpn.toNat ⟨x, idx.toNat, r, .reset, 0, 0, [], [], false, []⟩
    sessions := nset s.sessions r.sid.toNat ⟨x, r.ppkg.toNat, false, false, 0, false, [], none⟩
    rx := s.rx.filter fun z => z.qpn ≠ r.qpn.toNat
    sent := s.sent ++ [⟨0x0D, r.qpn.toNat, { Packet.blank with sid := r.sid }⟩] }) ∧
  (fine → nget s.sessions r.sid.toNat = some ses → ses.up = true → ses.ctx = x → ses.pkg = r.ppkg.toNat → exec e s = .next { granted with
    qps := nset s.qps r.qpn.toNat ⟨x, idx.toNat, r, .ready, 0, 0, [], [], false, []⟩, sessions := nset s.sessions r.sid.toNat ses
    rx := s.rx.filter fun z => z.qpn ≠ r.qpn.toNat }) ∧
  ((∃ q, nget s.qps r.qpn.toNat = some q ∧ q.st = .ready) ∨ r.tmo = 0 ∨ 12000000 < r.tmo ∨ r.rcnt = 0 ∨ 15 < r.rcnt → exec e s = .next s) ∧
  (nget s.qps n.toNat = some q → exec (.queuePairEvict n) s = .next { s with qps := nset s.qps n.toNat { q with evicted := true } } ∧
    exec (.stateFetch n) s = .next { s with qps := nset s.qps n.toNat { q with evicted := false } }) ∧
  (nget s.ctxs x = some y → exec (.registrationRevoke x rkey) s = .next (withCtx s x { y with regs := y.regs.filter fun p => p.1 ≠ rkey.toNat }))) ∧
  (∀ (s : State) (p : Packet) (x : Session) (y : Context) (sid : BitVec 32) (n : Nat) (q : Qp) (t : Nat),
  let good : Prop := p.auth = true ∧ Alu.natOf p.data ∈ y.peers
  let put (z : Session) : State := { s with sessions := nset s.sessions p.sid.toNat z }
  let e := Instr.handshake p
  (nget s.sessions p.sid.toNat = some x → nget s.ctxs x.ctx = some y →
    (good → x.up = false → exec e s = .next { put { x with up := true, epoch := false, sendCtr := 0, recvEpoch := false, seen := [], oldUntil := none } with
      qps := s.qps.map fun q => if q.2.rec0.sid = p.sid ∧ q.2.st = .reset then (q.1, { q.2 with st := .ready }) else q }) ∧
    (good → x.up = true → exec e s = .next (put { x with
      recvEpoch := !x.recvEpoch, seen := x.seen.filter (fun c => decide (c % 2 = x.recvEpoch.toNat)), oldUntil := some (s.ns + 1000000) })) ∧
    (¬ good → ∃ t, exec e s = .next t ∧ nget t.sessions p.sid.toNat = some { x with up := false } ∧ ∀ n q, nget t.qps n = some q → q.rec0.sid = p.sid →
      q.st = .error)) ∧
  (nget s.sessions p.sid.toNat = none → exec e s = .next s) ∧
  (nget s.sessions sid.toNat = some x → x.up = true → s.qps.find? (fun q => q.2.rec0.sid = sid) = some (n, q) → exec (.rekey sid) s = .next { s with
    sessions := nset s.sessions sid.toNat { x with sendCtr := 0, epoch := !x.epoch }
    sent := s.sent ++ [⟨0x0D, n, { Packet.blank with sid := sid, epoch := !x.epoch }⟩] }) ∧
  (nget s.sessions sid.toNat = some x → x.oldUntil = some t → exec (.oldEpochExpiry sid) s = .next (if t ≤ s.ns then
    { s with sessions := nset s.sessions sid.toNat { x with oldUntil := none, seen := x.seen.filter fun c => decide (c % 2 = x.recvEpoch.toNat) } } else s)) ∧
  (∀ row ∈ packetRows, p.auth = false ∨ nget s.sessions p.sid.toNat = none ∨ (∃ x, nget s.sessions p.sid.toNat = some x ∧ 2 * p.ctr + p.epoch.toNat ∈ x.seen) →
    exec (row p) s = .next { s with discards := s.discards + 1 }))

/-- The commands of a Halyard engine (R366, R370, R371): each sends the packet of its operation, on its queue pair with the pair's next number, and waits
for the answer; one whose QPH is no granted queue pair ends with HANDLE and the QPH. CWRITE (R372): FP32 elements in ascending order, each rounded to
E4M3 or E5M2 with the flags collected; with MX a block of 32 elements shares the E8M0 scale of its largest magnitude, its E2M1 codes packed low half
first with the scale byte after them; a block with a NaN or an infinity has scale 0xFF and a zero block scale 0, both with zero codes. That UF is not
among MX's flags is the model's reading (log entry 23). -/
def Obligations.NetworkCommands : Prop :=
  (∀ (s : State) (port ch n : Nat) (x : Exec) (q : Qp) (ses : Session) (sg : List Seg) (o : Nat) (row : Nat → Instr) (c : Cmd),
  let eng := 100 + port
  let key := chanKey eng ch
  let k := chanAt s key
  let w (j : Nat) : Word := x.cmd.w.getD j 0
  let len := x.cmd.word 3 / 2 ^ 32
  let u : UnitId := ⟨eng, 2000000 + x.cmd.id, (nget s.hubs (port / 6)).getD 0, k.ctx⟩
  let remote : Packet := { Packet.blank with addr := w 2, rkey := BitVec.ofNat 16 (x.cmd.word 3 / 2 ^ 16) }
  let data := (segBytes sg).map (rdByte s)
  let posts (j : Instr) (opc : Nat) (p : Packet) : Prop := exec j s = .next (modChan (postedOn s n opc x.cmd.id q ses p) key fun k => { k with exec := [{ x with posted := true }] })
  let source (acc : Acc) : Prop := uSegs u acc (some .furlCopy) (len / 4096 + 2) (w 1) len s = .ok (sg, s) ∧ (segBytes sg).length = len ∧ 1 ≤ len ∧ len ≤ 8192
  let of (o : Nat) : Prop := x.cmd.word 0 / 2 ^ 56 = o
  (OnlyCommand s eng ch x → x.posted = false → x.keys = [n] → x.pois = none → nget s.qps n = some q → q.st = .ready → nget s.sessions q.rec0.sid.toNat = some ses →
    ses.sendCtr < 2 ^ 32 → qpExecs s n = [(key, x)] →
    (of 0x10 → source accBulkRd → NoPoison s (segBytes sg) →
      posts (.halyardWrite eng) 0x01 { remote with len := len, data := data, fin := x.cmd.bit 55, ackreq := true }) ∧
    (of 0x11 → source accBulkWr → posts (.halyardRead eng) 0x03 { remote with len := len }) ∧
    (of 0x12 → source accBulkRd → NoPoison s (segBytes sg) → posts (.halyardSend eng) 0x05 { Packet.blank with len := len, data := data, ackreq := true }) ∧
    (of 0x13 → posts (.aadd eng) 0x06 { remote with len := 8, vals := [0, w 4, w 5] }) ∧
    (of 0x14 → posts (.acas eng) 0x06 { remote with len := 8, vals := [1, w 4, w 5] })) ∧
  ((o, row) ∈ netRows → ch < 64 → (∀ m, m < 64 → (chanAt s (chanKey eng m)).exec = [] ∧ (chanAt s (chanKey eng m)).held = []) → (∀ m, m < 64 → m ≠ ch → (chanAt s (chanKey eng m)).cmds = []) →
    k.cmds = [c] → ResultRoom s key → ctxRuns s k.ctx = true → (∀ en, nget s.engines eng = some en → en.fenced = false) →
    pusherDone s c = true → c.word 0 / 2 ^ 56 = o → c.hFieldsOk = true → (∀ m, ¬ HandleOf s k.ctx c m) → c.bit 49 = true → c.bit 50 = false → c.bit 51 = false →
    c.bit 52 = false → ∃ t, exec (row eng) s = .next t ∧ (chanAt t key).exec = [] ∧ (chanAt t key).cmds = [] ∧
      (chanAt t key).results = k.results ++ [(word (c.word 0 % 2 ^ 16 * 2 ^ 48 + 0x38 * 2 ^ 40 + o * 2 ^ 32), word (c.word 3 % 2 ^ 12))] ∧ t.sent = s.sent ∧ t.mem = s.mem)) ∧
  (∀ (s : State) (port ch n : Nat) (x : Exec) (q : Qp) (ses : Session) (sg : List Seg) (en : Engine) (top : Int),
  let eng := 100 + port
  let key := chanKey eng ch
  let k := chanAt s key
  let len := x.cmd.word 3 / 2 ^ 32
  let u : UnitId := ⟨eng, 2000000 + x.cmd.id, (nget s.hubs (port / 6)).getD 0, k.ctx⟩
  let src := (segBytes sg).map (rdByte s)
  let v (j : Nat) : Num.Val := Num.decodeSpec ⟨8, 23, 127, .ieee⟩ (Alu.natOf ((src.drop (4 * j)).take 4))
  let vs := (List.range (len / 4)).map v
  let f := x.cmd.dstFmt
  let code (f : Num.Fmt) (sat : Bool) (z : Num.Val) : Nat × Num.Flags := let r := Num.encodeFmt Core.reset.dt f x.cmd.rm sat (Num.srTop en.sr) z
    (r.1.toNat % 2 ^ Num.fmtWidth f, r.2)
  let sends (out : List Byte) (fl : Num.Flags) : Prop := exec (.cwrite eng) s = .next (modChan (postedOn { s with engines := nset s.engines eng en } n 0x01 x.cmd.id q ses
    { Packet.blank with
      addr := x.cmd.w.getD 2 0, rkey := BitVec.ofNat 16 (x.cmd.word 3 / 2 ^ 16), len := out.length, data := out, fin := x.cmd.bit 55, ackreq := true })
    key fun k => { k with exec := [{ x with posted := true, flags := fl }] })
  let scaled (e : Int) (z : Num.Val) : Num.Val := match z with | .fin g m i => .fin g m (i - e) | z => z
  let pair (a b : Nat) : Byte := BitVec.ofNat 8 (a + 16 * b)
  OnlyCommand s eng ch x → x.posted = false → x.keys = [n] → x.pois = none → nget s.qps n = some q → q.st = .ready → nget s.sessions q.rec0.sid.toNat = some ses →
  ses.sendCtr < 2 ^ 32 → qpExecs s n = [(key, x)] → nget s.engines eng = some en → x.cmd.word 0 / 2 ^ 56 = 0x15 → x.cmd.cwriteOk = true → x.cmd.rm ≠ .sr →
  uSegs u accBulkRd (some .furlCopy) (len / 4096 + 2) (x.cmd.w.getD 1 0) len s = .ok (sg, s) → (segBytes sg).length = len → NoPoison s (segBytes sg) →
  (x.cmd.bit 27 = false → 4 ≤ len → len ≤ 32768 →
    sends (vs.map fun z => BitVec.ofNat 8 (code f (x.cmd.bit 53) z).1) (vs.foldl (fun a z => a ||| (code f (x.cmd.bit 53) z).2) 0)) ∧
  (x.cmd.bit 27 = true → len = 128 → (∃ z ∈ vs, ∀ g m i, z ≠ .fin g m i) → sends (List.replicate 16 0 ++ [0xFF]) 0) ∧
  (x.cmd.bit 27 = true → len = 128 → (∀ z ∈ vs, ∃ g i, z = .fin g 0 i) → sends (List.replicate 17 0) 0) ∧
  (x.cmd.bit 27 = true → len = 128 → (∀ z ∈ vs, ∃ g m i, z = .fin g m i) → (∀ z ∈ vs, ∀ i, leadOf z = some i → i ≤ top) → (∃ z ∈ vs, leadOf z = some top) →
    let e := max (-127) (min 127 (top - 2))
    let c (j : Nat) := code .e2m1 true (scaled e (v j))
    sends ((List.range 16).map (fun j => pair (c (2 * j)).1 (c (2 * j + 1)).1) ++ [BitVec.ofInt 8 (e + 127)])
      ((List.range 32).foldl (fun a j => a ||| (c j).2) 0 &&& ~~~ 0b00010)))

/-- Answers (R371, R374, R376, R379): an ACK, a READ_RESP whose data is then in local memory, and an ATOMIC_RESP with the old value complete their command
with its result; CONTEXT-BUSY makes it wait for its backoff, which doubles up to TMO; ACCESS, SEQUENCE and INVALID end it with their status and put
the queue pair into ERROR, whose other commands then end FLUSHED; RECV-FULL leaves the pair READY. R379 gives NAK SEQUENCE no status. Timers (R375,
R376): a packet without an answer for TMO is sent again with RETRY, at most RCNT times; then its command ends RETRY_EXCEEDED and the queue pair is in
ERROR; one that met CONTEXT-BUSY is sent again after its backoff, which does not count. Before their time the timers do nothing. -/
def Obligations.NetworkAnswers : Prop :=
  (∀ (s : State) (p : Packet) (ses : Session) (port ch : Nat) (x x2 : Exec) (q : Qp) (o : Outst) (sg : List Seg),
  let n := p.dqpn.toNat
  let eng := 100 + port
  let key := chanKey eng ch
  let k := chanAt s key
  let op := x.cmd.word 0 / 2 ^ 56
  let plain (x : Exec) : Prop := x.posted = true ∧ x.stop = none ∧ x.pois = none ∧ x.cmd.bit 49 = true ∧ x.cmd.bit 50 = false ∧ x.cmd.bit 51 = false ∧ x.cmd.bit 52 = false
  let result (x : Exec) (st done : Nat) (w1 : Word) : Word × Word :=
    (word (x.cmd.word 0 % 2 ^ 16 * 2 ^ 48 + st * 2 ^ 40 + x.cmd.word 0 / 2 ^ 56 * 2 ^ 32 + done % 2 ^ 32), w1)
  let ends (j : Instr) (rs : List (Word × Word)) (st : QpSt) (mem : Memory) : Prop := ∃ t, exec j s = .next t ∧ (chanAt t key).exec = [] ∧
    (chanAt t key).results = k.results ++ rs ∧ t.mem = mem ∧ ∃ z, nget t.qps n = some z ∧ z.out = [] ∧ z.st = st
  let alone : Prop := k.exec = [x] ∧ qpExecs s n = [(key, x)]
  let both : Prop := k.exec = [x, x2] ∧ qpExecs s n = [(key, x), (key, x2)] ∧ plain x2 ∧ x.cmd.id < x2.cmd.id
  let quiet : Prop := ∀ h ∈ s.chans, 6400 ≤ h.1 → h.2.cmds = []
  let idle : Prop := ∀ r ∈ s.streams, r.qp ≠ some n
  let data := p.data.take o.pkt.len
  let put (o : Outst) : State := let t := tookIn s p ses
    { t with qps := nset s.qps n { q with out := [o] } }
  let u : UnitId := ⟨eng, 2000000 + x.cmd.id, (nget s.hubs (port / 6)).getD 0, k.ctx⟩
  Taken s p ses → nget s.qps n = some q → q.rec0.sid = p.sid → q.st = .ready → q.out = [o] → o.psn = p.psn.toNat → o.cmd = x.cmd.id → ch < 64 → plain x →
  k.results.length < 31 → k.held = [] → k.pops = [] →
  (alone → op ∈ [0x10, 0x12, 0x15] → o.opc ≠ 3 → o.opc ≠ 6 →
    ends (.ack p) [result x 0 (x.done + o.pkt.len) (if op = 0x15 then x.flags.setWidth 64 else 0)] .ready s.mem) ∧
  (alone → op = 0x11 → o.opc = 3 → let t := put { o with resp := some data }
    uSegs u accBulkWr (some .furlCopy) (data.length / 4096 + 2) (x.cmd.w.getD 1 0 + (o.pkt.addr - x.cmd.w.getD 2 0)) data.length t = .ok (sg, t) →
    (segBytes sg).length = data.length → NoPoison s (segBytes sg) →
    ends (.readResp p) [result x 0 (x.done + data.length) 0] .ready (putBytes s s.mem ((segBytes sg).zip data))) ∧
  (alone → op ∈ [0x13, 0x14] → o.opc = 6 → ends (.atomicResp p) [result x 0 x.done (p.vals.getD 0 0)] .ready s.mem) ∧
  (p.ncode = 1 → exec (.nak p) s = .next (put { o with
    busy := true, sentAt := s.ns, backoff := if o.backoff = 0 then 10000 else min (2 * o.backoff) (10000 * q.rec0.tmo) })) ∧
  (alone → p.ncode = 4 → op = 0x12 → ends (.nak p) [result x 0x8B x.done 0] .ready s.mem) ∧
  (both → quiet → idle → p.ncode = 2 → ends (.nak p) [result x 0x89 x.done o.pkt.addr, result x2 0x88 x2.done 0] .error s.mem) ∧
  (alone → quiet → idle → p.ncode = 5 →
    ends (.nak p) [result x (if p.vals.getD 0 0 = 1 then 0x50 else 0x8C) x.done o.pkt.addr] .error s.mem) ∧
  (alone → quiet → idle → p.ncode = 3 → ∃ st w1, 0 < st ∧ st < 256 ∧ ends (.nak p) [result x st x.done w1] .error s.mem)) ∧
  (∀ (s : State) (m : BitVec 24) (q : Qp) (o : Outst) (ses : Session) (port ch : Nat) (x : Exec),
  let n := m.toNat
  let key := chanKey (100 + port) ch
  let k := chanAt s key
  let sent (o' : Outst) : State := sentOn { s with qps := nset s.qps n { q with out := [o'] } } n o.opc ses { o.pkt with retry := true }
  nget s.qps n = some q → q.out = [o] → nget s.sessions o.pkt.sid.toNat = some ses → ses.sendCtr < 2 ^ 32 → o.resp = none →
  (o.busy = false → o.sentAt + 10000 * q.rec0.tmo ≤ s.ns → o.tries < q.rec0.rcnt →
    exec (.retransmitTimer m) s = .next (sent { o with tries := o.tries + 1, sentAt := s.ns })) ∧
  (o.busy = true ∨ s.ns < o.sentAt + 10000 * q.rec0.tmo → exec (.retransmitTimer m) s = .next s) ∧
  (o.busy = false → o.sentAt + 10000 * q.rec0.tmo ≤ s.ns → q.rec0.rcnt ≤ o.tries → k.exec = [x] → qpExecs s n = [(key, x)] → o.cmd = x.cmd.id → ch < 64 →
    x.stop = none → x.pois = none → x.cmd.bit 49 = true → x.cmd.bit 50 = false → x.cmd.bit 51 = false → x.cmd.bit 52 = false → ResultRoom s key →
    (∀ h ∈ s.chans, 6400 ≤ h.1 → h.2.cmds = []) → ∃ t, exec (.retransmitTimer m) s = .next t ∧ (chanAt t key).exec = [] ∧ (chanAt t key).results = k.results ++
      [(word (x.cmd.word 0 % 2 ^ 16 * 2 ^ 48 + 0x8A * 2 ^ 40 + x.cmd.word 0 / 2 ^ 56 * 2 ^ 32 + x.done % 2 ^ 32), 0)] ∧
      ∃ z, nget t.qps n = some z ∧ z.st = .error) ∧
  (o.busy = true → o.sentAt + o.backoff ≤ s.ns → exec (.contextBusyBackoff m) s = .next (sent { o with busy := false, sentAt := s.ns })) ∧
  (o.busy = false ∨ s.ns < o.sentAt + o.backoff → exec (.contextBusyBackoff m) s = .next s))

/-- What arrives at the target (R371, R373 to R376): a WRITE that a registration admits is performed and acknowledged, a READ-REQ answered with the bytes,
a SEND enqueued on the receive queue with its element padded by zeros, or refused with RECV-FULL, an atomic performed with the old value as its
answer; what no registration admits gets NAK ACCESS and puts the pair into ERROR; an evicted pair answers CONTEXT-BUSY; a packet already performed is
answered again, and memory is left as it is. Fabric-borne work (R303, R304, R380, R381): a launch packet that its table entry permits joins the fabric
queue with its arguments and item count, else it gets NAK ACCESS and a HANDLE record; a stream's object joins its inbox; a barrier packet counts a
child's subtree, ends the phase at the root with the last, or releases the phase here. -/
def Obligations.NetworkTargets : Prop :=
  (∀ (s : State) (p : Packet) (ses : Session) (q : Qp) (y : Context) (sg : List Seg) (g : Seg) (o : Nat) (z : Queue) (a : Sent),
  let n := p.dqpn.toNat
  let u : UnitId := ⟨100 + q.rec0.port.val, 7000000 + (n + 1) * 2 ^ 24 + p.psn.toNat, (nget s.hubs (q.rec0.port.val / 6)).getD 0, q.ctx⟩
  let at' (opc : Nat) : State := { tookIn s p ses with rx := [⟨opc, n, p⟩] }
  let answers (j : Instr) (opc : Nat) (a : Packet) (mem : Memory) : Prop := ∃ t, exec j s = .next t ∧ t.mem = mem ∧ t.rx = [] ∧
    t.sent = s.sent ++ [answering n opc q ses p.psn a]
  let nak (c : BitVec 8) : Packet := { Packet.blank with ncode := c }
  let elem (j : Nat) : Nat := Alu.natOf ((p.data.drop (8 * j)).take 8)
  let w (j : Nat) : Word := p.vals.getD j 0
  let old := rdNat s g.pa 8
  let whole (acc : Acc) (role : Code) (opc len : Nat) : Prop := uSegs u acc (some role) (len / 4096 + 2) p.addr len (at' opc) = .ok (sg, at' opc) ∧
    (segBytes sg).length = len ∧ NoPoison s (segBytes sg)
  let word8 (opc m : Nat) (va : Word) : Prop := uSeg u ⟨true, true, true⟩ (some .furlWrite) va m (at' opc) = .ok (g, at' opc) ∧
    anyPoison s g.pa m = false
  let spot := windowPa o z.base + 8 * z.ew * (z.tail % z.cap)
  Taken s p ses → ses.sendCtr < 2 ^ 32 → nget s.qps n = some q → q.rec0.sid = p.sid → s.rx = [] → nget s.ctxs q.ctx = some y →
  (q.evicted = false → q.st = .ready → (∀ d ∈ q.done, d.1 ≠ p.psn.toNat) → (p.psn.toNat + 2 ^ 24 - q.rpsn) % 2 ^ 24 < 2 ^ 23 →
    (p.psn.toNat = q.rpsn ∨ (q.rec0.strict = false ∧ p.fin = false)) →
    (p.vals = [] → Admits y n 1 p p.data.length → whole accBulkWr .furlWrite 1 p.data.length →
      answers (.writePacket p) 8 Packet.blank (putBytes s s.mem ((segBytes sg).zip p.data))) ∧
    (Admits y n 3 p p.len → whole accBulkRd .furlRead 3 p.len →
      answers (.readReq p) 4 { Packet.blank with len := p.len, data := (segBytes sg).map (rdByte s) } s.mem) ∧
    (p.vals = [] → q.rec0.rq ≠ 0 → q.rec0.rq.toNat % 64 = 0 → word8 5 64 q.rec0.rq → QueueIn s o g.pa z → p.len ≤ 8 * z.ew → s.poison = [] → s.ecc = [] →
      sliceIdle s spot (8 * z.ew) = true → rangeAt s spot (8 * z.ew) = none →
      ((z.tail + 2 ^ 64 - z.head) % 2 ^ 64 < z.cap → answers (.sendPacket p) 8 Packet.blank
        (putBytes s s.mem (((List.range z.ew).flatMap fun j => leBytes (spot + 8 * j) 8 (elem j)) ++ leBytes (g.pa + 8) 8 ((z.tail + 1) % 2 ^ 64)))) ∧
      ((z.tail + 2 ^ 64 - z.head) % 2 ^ 64 = z.cap → answers (.sendPacket p) 9 (nak 4) s.mem)) ∧
    (p.addr.toNat % 8 = 0 → Admits y n 6 p 8 → word8 6 8 p.addr →
      (w 0 = 0 → answers (.atomic p) 7 { Packet.blank with vals := [word old] } (putBytes s s.mem (leBytes g.pa 8 ((old + (w 1).toNat) % 2 ^ 64)))) ∧
      (w 0 = 1 → answers (.atomic p) 7 { Packet.blank with vals := [word old] }
        (putBytes s s.mem (leBytes g.pa 8 (if old = (w 1).toNat then (w 2).toNat else old))))) ∧
    (p.vals = [] → ¬ Admits y n 1 p p.data.length → qpExecs s n = [] → (∀ h ∈ s.chans, 6400 ≤ h.1 → h.2.cmds = []) → (∀ r ∈ s.streams, r.qp ≠ some n) → ∃ t,
      exec (.writePacket p) s = .next t ∧ t.mem = s.mem ∧ (∃ r, nget t.qps n = some r ∧ r.st = .error) ∧
      answering n 9 q ses p.psn (nak 2) ∈ t.sent)) ∧
  (q.evicted = true → ∀ row ∈ [Instr.writePacket p, .readReq p, .sendPacket p, .atomic p, .launchPacket p, .gstream p, .barrierPacket p],
    exec row s = .next { sentOn (tookIn s p ses) n 9 (noting p ses) { nak 1 with dqpn := q.rec0.dqpn, sid := q.rec0.sid, psn := p.psn } with rx := [] }) ∧
  (q.evicted = false → q.done = [(p.psn.toNat, [a])] → a.p.sid = p.sid → ∀ row ∈ [Instr.writePacket p, .readReq p, .sendPacket p, .atomic p],
    exec row s = .next (sentOn (tookIn s p ses) n a.opc (noting p ses) a.p))) ∧
  (∀ (s : State) (p : Packet) (ses : Session) (q : Qp) (y : Context) (e : LaunchEntry) (owner : BitVec 24) (x : LStream) (other : Nat),
  let n := p.dqpn.toNat
  let w (j : Nat) : Word := p.vals.getD j 0
  let f (j : Nat) : Nat := (e.words.getD j 0).toNat
  let permits : Prop := owner.toNat = n ∧ e.argLo.toNat ≤ (w 1).toNat ∧ (w 1).toNat ≤ e.argHi.toNat ∧ (w 2).toNat ≤ e.nmax.toNat ∧
    (f 0 % 2 = 1 ∨ (w 2).toNat = f 1 / 2 ^ 32 % 2 ^ 16)
  let acked (t : State) (a : Packet) (opc : Nat) : Prop := t.sent = s.sent ++ [answering n opc q ses p.psn a] ∧ t.rx = []
  let me := s.pkg.toNat
  let b := barAt s (.pod q.ctx)
  Taken s p ses → ses.sendCtr < 2 ^ 32 → nget s.qps n = some q → q.rec0.sid = p.sid → s.rx = [] → nget s.ctxs q.ctx = some y → q.evicted = false → q.st = .ready →
  (∀ d ∈ q.done, d.1 ≠ p.psn.toNat) → p.psn.toNat = q.rpsn → q.rpsn < 2 ^ 24 →
  (nget y.launchTab (w 0).toNat = some (e, owner) → permits → y.fabricQ.length < 64 → ∃ t, exec (.launchPacket p) s = .next t ∧ acked t Packet.blank 8 ∧
    nget t.ctxs q.ctx = some { y with fabricQ := y.fabricQ ++ [(e.words.set 3 (w 1)).set 1 (word (f 1 / 2 ^ 32 * 2 ^ 32 + (w 2).toNat))] }) ∧
  (nget y.launchTab (w 0).toNat = some (e, owner) → permits → 64 ≤ y.fabricQ.length → ∃ t, exec (.launchPacket p) s = .next t ∧ t.ctxs = s.ctxs ∧
    acked t { Packet.blank with ncode := 1 } 9) ∧
  (nget y.launchTab (w 0).toNat = none ∨ (nget y.launchTab (w 0).toNat = some (e, owner) ∧ ¬ permits) → ∃ t, exec (.launchPacket p) s = .next t ∧
    (∃ r, nget t.qps n = some r ∧ r.st = .error) ∧ answering n 9 q ses p.psn { Packet.blank with ncode := 2 } ∈ t.sent ∧
    ∃ g, nget t.rings (terminalRing y) = some g ∧ terminalRecord y q.ctx 0x38 0 0 0 (s.ns / 1000) 0 0 ∈ g.pend) ∧
  (s.streams = [x] → x.qp = some n → w 1 = word x.id → x.id < 2 ^ 64 →
    (w 0 = 1 → ∃ t, exec (.gstream p) s = .next t ∧ acked t Packet.blank 8 ∧ t.streams = [{ x with inbox := x.inbox ++ [p.vals.drop 2] }]) ∧
    (w 0 = 4 → ∃ t, exec (.gstream p) s = .next t ∧ acked t Packet.blank 8 ∧ t.streams = [{ x with ended := some (w 2).toNat }])) ∧
  (y.podGroup = [me, other] → y.podRoot = me → other ≠ me → q.rec0.ppkg.toNat = other → w 0 = 0 →
    (b.arrived = [] → ∃ t, exec (.barrierPacket p) s = .next t ∧ acked t Packet.blank 8 ∧ barAt t (.pod q.ctx) = { b with arrived := [other] }) ∧
    (b.arrived = [me] → ∃ t, exec (.barrierPacket p) s = .next t ∧ barAt t (.pod q.ctx) = ⟨b.phase + 1, [], 0⟩)) ∧
  (y.podGroup = [me, other] → y.podRoot = other → other ≠ me → w 0 = 1 → ∃ t, exec (.barrierPacket p) s = .next t ∧ acked t Packet.blank 8 ∧
    barAt t (.pod q.ctx) = ⟨b.phase + 1, [], 0⟩))

/-! ### Power, clock, temperature, fences (chapter 20) -/

/-- Rails, reset and boot (R415, R419): rails rise in the order of their numbers and fall in the reverse one; with every rail up a package reset sets
every core, quad, context and queue pair back and zeroes slices and LPDDR-6, while what lies in the host and behind CXL stays; an image that does not
verify leaves the package in recovery, from which only a signed image leads. Clock, temperature and port events (R386, R395, R416 to R418): the clock
takes a point of its grid unless a protected context lives; at 105 °C it is lowered, or event 0x006 is raised for a protected context, which is held;
at 110 °C every context drains; at 115 °C only VAON and VHUB stay and the trip is recorded; below 100 °C contexts may start again; the loss of a port
is an event. The step of 25 MHz is the model's choice (log entry 24). UNIT_FENCE (R68, R102, R420, R421): a quad on which no context runs, a
sub-channel, a service core whose quads and walks go to another of its die, a copy engine with nothing executing, whose channel and handle move, a
Bunting unit without a running walk, and a port, whose queue pairs enter ERROR; each completion is event 0x002, once; before its boundary nothing is
fenced. -/
def Obligations.PackagePower : Prop :=
  (∀ (s : State) (k : Nat) (ok : Bool),
  let all : Prop := ∀ r : Rail, r ∈ s.power.rails
  let back (t : State) (b : Boot) : Prop := t.power.boot = b ∧ t.power.rails = s.power.rails ∧ t.power.mhz = State.reset.power.mhz ∧ t.pkg = s.pkg ∧ t.ns = 0 ∧ t.cycles = 0 ∧
    (∀ c, coreOf t c = Core.reset ∧ (coreOf t c).srst = 1) ∧ t.quads = [] ∧ t.ctxs = [] ∧ t.launches = [] ∧ t.chans = [] ∧ t.qps = [] ∧ t.mesh = [] ∧
    t.rptw = 0x224 ∧ (∀ n, (t.keys.get n).st = .empty) ∧ ∀ pa, (memGet t.mem pa = if (0x2000000000000 ≤ pa ∧ pa < 0x2080000000000) ∨ 0x9000000000000 ≤ pa then memGet s.mem pa else 0) ∧
      (pa < 0x2000000000000 → pa / 8 ∉ t.poison)
  (1 ≤ k → k ≤ 4 → (∀ r : Rail, r.order < k → r ∈ s.power.rails) → (∃ r : Rail, r.order = k ∧ r ∉ s.power.rails) → ∃ t, exec .powerUp s = .next t ∧
    t = { s with power := { s.power with rails := t.power.rails } } ∧ ∀ r, r ∈ t.power.rails ↔ r ∈ s.power.rails ∨ r.order = k) ∧
  (all → exec .powerUp s = .next s) ∧
  ((∃ r ∈ s.power.rails, r.order = k) → (∀ r ∈ s.power.rails, r.order ≤ k) →
    exec .powerDown s = .next { s with power := { s.power with rails := s.power.rails.filter fun r => r.order ≠ k, boot := .off } }) ∧
  (all → ∃ t, exec (.packageReset ok) s = .next t ∧ back t (if ok then .up else .recovery)) ∧
  (¬ all → exec (.packageReset ok) s = .next s) ∧
  (s.power.boot = .recovery → ∃ t, exec (.recoveryImage true) s = .next t ∧ back t .up) ∧
  (s.power.boot ≠ .recovery ∨ ok = false → exec (.recoveryImage ok) s = .next s)) ∧
  (∀ (s : State) (mhz x : Nat) (die : Fin 6) (y : Context) (p : Fin 12) (c : Fin 4),
  let live : Prop := ∃ z ∈ s.ctxs, z.2.desc.prot = true ∧ (z.2.st = .running ∨ z.2.st = .descheduled)
  let grid : Prop := 600 ≤ mhz ∧ mhz ≤ 1100 ∧ 25 ∣ mhz
  (¬ live → grid → exec (.clockChange mhz) s = .next { s with power := { s.power with mhz := mhz } }) ∧
  (live ∨ ¬ grid → exec (.clockChange mhz) s = .next s) ∧
  (¬ live → ∃ h, exec (.thermal105 die) s = .next { s with power := { s.power with mhz := max 600 (s.power.mhz - 25), hot := h } } ∧ ∀ d, d ∈ h ↔ d = die.val ∨ d ∈ s.power.hot) ∧
  (s.ctxs = [(x, y)] → y.desc.prot = true → y.st = .running ∨ y.st = .descheduled → y.held = false → ∃ h, exec (.thermal105 die) s =
    .next { raised (withCtx s x { y with held := true }) (x / 2 ^ 20 / 24) 6 x with power := { s.power with hot := h } } ∧ ∀ d, d ∈ h ↔ d = die.val ∨ d ∈ s.power.hot) ∧
  (∃ t, exec (.thermal110 die) s = .next t ∧ ∀ x y, nget s.ctxs x = some y → nget t.ctxs x = some (if y.st = .running ∧ y.drain = none then { y with drain := some s.ns } else y)) ∧
  (∃ t, exec (.thermal115 die) s = .next t ∧ t.power.trip = true ∧ t.power.boot = .off ∧ (∀ r, r ∈ t.power.rails ↔ r ∈ s.power.rails ∧ (r = .vaon ∨ r = .vhub)) ∧
    t.cores = [] ∧ t.ctxs = [] ∧ ∀ pa, pa < 0x2000000000000 → memGet t.mem pa = 0) ∧
  (∃ t, exec .thermalClear s = .next t ∧ t.power = { s.power with hot := [] } ∧ ∀ x y, nget s.ctxs x = some y → nget t.ctxs x = some { y with held := false }) ∧
  exec (.portDown p) s = .next (raised s 0 3 p.val) ∧ exec (.cxlPortError c) s = .next (raised s 0 4 c.val)) ∧
  (∀ (s : State) (n m e : Nat) (p : Fin 12) (ch : Chan) (en : Engine) (q : Qp),
  let iv (x : Nat) : Nat × Nat := (nget s.vfs (x / 2 ^ 20)).getD (0, 0)
  let runs : Prop := ∃ z ∈ s.ctxs, z.2.st = .running ∧ ∃ j, j < 4 ∧ (iv z.1).1 ≤ 4 * n + j ∧ 4 * n + j < (iv z.1).1 + (iv z.1).2
  let f (u : SpareUnit) := Instr.unitFence u
  (¬ runs → (quadAt s n).fenced = false → ∃ t, exec (f (.quad n)) s = .next t ∧ (quadAt t n).fenced = true ∧ (∀ j, j < 4 → (coreOf t (4 * n + j)).fenced = true) ∧
    t = { s with quads := t.quads, cores := t.cores, events := (raised s 0 2 n).events }) ∧
  (runs ∨ (quadAt s n).fenced = true → exec (f (.quad n)) s = .next s) ∧
  (n ∉ s.subFenced → ∃ l, exec (f (.subChannel n)) s = .next { raised s 0 2 n with subFenced := l } ∧ ∀ j, j ∈ l ↔ j = n ∨ j ∈ s.subFenced) ∧
  (n ∈ s.subFenced → exec (f (.subChannel n)) s = .next s) ∧
  (n < 32 → n ≠ m → n / 8 = m / 8 → nget s.reassign n = none → nget s.reassign m = none → exec (f (.service n m)) s = .next { raised s 0 2 n with
    reassign := nset (s.reassign.map fun r => (r.1, if r.2 = n then m else r.2)) n m, walks := s.walks.map fun w => if w.svc = n then { w with svc := m, flying := false } else w }) ∧
  (n ≠ m → nget s.reassign n ≠ none → exec (f (.service n m)) s = .next s) ∧
  (n < 64 → nget s.engines n = some en → en.fenced = false → s.chans = [(64 * n + m, ch)] → m < 64 → ch.exec = [] → s.ctxs = [] → e / 16 = n / 16 → e ≠ n →
    (∀ d, d / 16 = n / 16 → d < e → d ≠ n → (∀ z, nget s.engines d = some z → z.fenced = true) ∧ nget s.engines d ≠ none) →
    (∀ z, nget s.engines e = some z → z.fenced = false) →
    ∃ t, exec (f (.copyEngine n)) s = .next t ∧ t.chans = [(64 * e, ch)] ∧ nget t.engines n = some { en with fenced := true } ∧ t.events = (raised s 0 2 n).events) ∧
  (n < 64 → nget s.engines n = some en → en.fenced = false → m < 64 → (chanAt s (64 * n + m)).exec ≠ [] → ∃ t, exec (f (.copyEngine n)) s = .next t ∧ t.chans = s.chans ∧
    t.events = s.events ∧ nget t.engines n = some { en with fenced := true }) ∧
  (s.gwalks = [] → n ∉ s.buntFenced → ∃ l, exec (f (.bunting n)) s = .next { raised s 0 2 n with buntFenced := l } ∧ ∀ j, j ∈ l ↔ j = n ∨ j ∈ s.buntFenced) ∧
  ((∃ g ∈ s.gwalks, g.running = true ∧ g.unit = some n) → ∃ l, exec (f (.bunting n)) s = .next { s with buntFenced := l }) ∧
  (s.engines = [] → s.chans = [] → s.qps = [(n, q)] → q.rec0.port = p → ∃ t, exec (f (.port p)) s = .next t ∧ (∃ z, nget t.qps n = some z ∧ z.st = .error) ∧
    nget t.engines (100 + p.val) = some ⟨1, 63, true⟩ ∧ t.events = (raised s 0 2 (100 + p.val)).events))
end

