-- ==== Sys2Proof/Laws/Memory.lean ====
section
/-! SUPPORT. Memory's two laws, that a byte written reads back and that no other byte changes, and its canonical form, which every
operation keeps and which makes equal contents equal lists. -/

set_option Elab.async false

namespace Sys2Proof.Machine

/-- A list above a bound is above every lower one. -/
theorem wfAbove_mono {m : Memory} {lo lo' : Nat} (h : lo' ≤ lo) (hm : wfAbove m lo = true) : wfAbove m lo' = true := by
  cases m with
  | nil => rfl
  | cons p r =>
    simp only [wfAbove, Bool.and_eq_true, decide_eq_true_eq] at hm ⊢
    exact ⟨⟨by omega, hm.1.2⟩, hm.2⟩

/-- An address below a list's bound reads as unlisted. -/
theorem memGet_below {m : Memory} {lo a : Nat} (hm : wfAbove m lo = true) (h : a < lo) : memGet m a = unlisted := by
  induction m generalizing lo with
  | nil => rfl
  | cons p r ih =>
    simp only [wfAbove, Bool.and_eq_true, decide_eq_true_eq] at hm
    have : p.1 ≠ a := by omega
    simp only [memGet, this, if_false]
    exact ih hm.2 (by omega)

/-- A write keeps the form, above any bound that the address respects. -/
theorem wfAbove_memSet {m : Memory} {lo a : Nat} (v : Byte) (hm : wfAbove m lo = true) (h : lo ≤ a) :
    wfAbove (memSet m a v) lo = true := by
  induction m generalizing lo with
  | nil => by_cases hv : v = unlisted <;> simp [memSet, wfAbove, hv, h]
  | cons p r ih =>
    obtain ⟨b, w⟩ := p
    simp only [wfAbove, Bool.and_eq_true, decide_eq_true_eq] at hm
    unfold memSet
    split
    · split
      · simp [wfAbove, hm]
      · rename_i hab hv
        have : wfAbove r (b + 1) = true := hm.2
        simp [wfAbove, h, hv, hm.1.2, this]
        omega
    · split
      · subst_vars
        split
        · exact wfAbove_mono (by omega) hm.2
        · rename_i hv; simp [wfAbove, h, hv, hm.2]
      · have := ih hm.2 (by omega)
        simp [wfAbove, hm.1, this]

/-- A write keeps the canonical form. -/
theorem Memory.wf_memSet {m : Memory} (a : Nat) (v : Byte) (hm : Memory.wf m = true) : Memory.wf (memSet m a v) = true :=
  wfAbove_memSet v hm (Nat.zero_le a)

/-- Writes in order keep the canonical form. -/
theorem Memory.wf_memSets {m : Memory} (l : List (Nat × Byte)) (hm : Memory.wf m = true) : Memory.wf (memSets m l) = true := by
  induction l generalizing m with
  | nil => exact hm
  | cons p r ih => exact ih (Memory.wf_memSet p.1 p.2 hm)

/-- Bytes taken out leave a list above its bound. -/
theorem wfAbove_filter {m : Memory} {lo : Nat} (f : Nat × Byte → Bool) (hm : wfAbove m lo = true) :
    wfAbove (m.filter f) lo = true := by
  induction m generalizing lo with
  | nil => rfl
  | cons p r ih =>
    simp only [wfAbove, Bool.and_eq_true, decide_eq_true_eq] at hm
    have := ih hm.2
    by_cases hp : f p = true
    · simp [hp, wfAbove, hm.1, this]
    · simpa [List.filter_cons, hp] using wfAbove_mono (by omega) this

/-- A range scrubbed keeps the canonical form. -/
theorem Memory.wf_filter {m : Memory} (f : Nat × Byte → Bool) (hm : Memory.wf m = true) : Memory.wf (m.filter f) = true :=
  wfAbove_filter f hm

/-- READ AFTER WRITE: a byte written reads back. -/
theorem memGet_memSet_self {m : Memory} (a : Nat) (v : Byte) (hm : Memory.wf m = true) : memGet (memSet m a v) a = v := by
  suffices ∀ lo, wfAbove m lo = true → memGet (memSet m a v) a = v from this 0 hm
  clear hm
  induction m with
  | nil => intro lo _; by_cases hv : v = unlisted <;> simp [memSet, memGet, hv]
  | cons p r ih =>
    intro lo hm
    obtain ⟨b, w⟩ := p
    simp only [wfAbove, Bool.and_eq_true, decide_eq_true_eq] at hm
    unfold memSet
    split
    · split
      · subst_vars
        have hne : b ≠ a := by omega
        simp only [memGet, hne, if_false]
        exact memGet_below hm.2 (by omega)
      · simp [memGet]
    · split
      · split
        · subst_vars; exact memGet_below hm.2 (by omega)
        · simp [memGet]
      · simp_all [memGet]; exact ih (b + 1) hm.2

/-- A write leaves every other byte alone, in any list. -/
theorem memGet_memSet_ne {m : Memory} {a b : Nat} (v : Byte) (h : b ≠ a) : memGet (memSet m a v) b = memGet m b := by
  induction m with
  | nil => by_cases hv : v = unlisted <;> simp [memSet, memGet, hv, Ne.symm h]
  | cons p r ih =>
    obtain ⟨c, w⟩ := p
    unfold memSet
    split
    · split <;> simp [memGet, Ne.symm h]
    · split
      · subst_vars; split <;> simp [memGet, Ne.symm h]
      · simp [memGet, ih]

/-- Bytes outside a list of writes are left alone. -/
theorem memGet_memSets_ne {m : Memory} {l : List (Nat × Byte)} {b : Nat} (h : ∀ p ∈ l, p.1 ≠ b) :
    memGet (memSets m l) b = memGet m b := by
  induction l generalizing m with
  | nil => rfl
  | cons p r ih =>
    rw [memSets, ih fun q hq => h q (List.mem_cons_of_mem _ hq)]
    exact memGet_memSet_ne _ (h p List.mem_cons_self).symm

/-- A byte that a scrub keeps reads as before; one it takes out reads as unlisted. -/
theorem memGet_filter (m : Memory) (f : Nat → Bool) (a : Nat) :
    memGet (m.filter fun c => f c.1) a = if f a then memGet m a else unlisted := by
  induction m with
  | nil => simp [memGet]
  | cons p r ih =>
    obtain ⟨b, w⟩ := p
    by_cases hb : b = a
    · subst hb; by_cases hf : f b = true <;> simp [hf, memGet, ih]
    · by_cases hf : f b = true <;> simp [hf, memGet, ih, hb]

/-- EQUAL MEMORIES ARE EQUAL DATA: two canonical lists that read alike everywhere are one list. -/
theorem Memory.ext_wf {m n : Memory} (hm : Memory.wf m = true) (hn : Memory.wf n = true) (h : ∀ a, memGet m a = memGet n a) :
    m = n := by
  suffices ∀ lo, wfAbove m lo = true → wfAbove n lo = true → m = n from this 0 hm hn
  clear hm hn
  induction m generalizing n with
  | nil =>
    intro lo _ hn
    cases n with
    | nil => rfl
    | cons q t =>
      simp only [wfAbove, Bool.and_eq_true, bne_iff_ne, ne_eq] at hn
      have := h q.1
      simp [memGet] at this
      exact absurd this.symm hn.1.2
  | cons p r ih =>
    intro lo hm hn
    obtain ⟨b, w⟩ := p
    simp only [wfAbove, Bool.and_eq_true, decide_eq_true_eq, bne_iff_ne, ne_eq] at hm
    cases n with
    | nil =>
      have := h b
      simp [memGet] at this
      exact absurd this hm.1.2
    | cons q t =>
      obtain ⟨c, v⟩ := q
      simp only [wfAbove, Bool.and_eq_true, decide_eq_true_eq, bne_iff_ne, ne_eq] at hn
      have hbc : b = c := by
        rcases Nat.lt_trichotomy b c with hlt | heq | hgt
        · have hb := h b
          have hne : c ≠ b := by omega
          simp only [memGet, if_true, hne, if_false] at hb
          rw [memGet_below hn.2 (by omega)] at hb
          exact absurd hb hm.1.2
        · exact heq
        · have hc := h c
          have hne : b ≠ c := by omega
          simp only [memGet, if_true, hne, if_false] at hc
          rw [memGet_below hm.2 (by omega)] at hc
          exact absurd hc.symm hn.1.2
      subst hbc
      have hv : w = v := by simpa [memGet] using h b
      subst hv
      have : r = t := by
        refine ih (fun a => ?_) (b + 1) hm.2 hn.2
        by_cases ha : b = a
        · subst ha; rw [memGet_below hm.2 (by omega), memGet_below hn.2 (by omega)]
        · simpa [memGet, ha] using h a
      rw [this]

end Sys2Proof.Machine
end

