-- ==== Sys2Proof/Laws/State.lean ====
section
/-! SUPPORT. What each update of the state leaves, field by field, and reading back cores, slots and quads after a change. -/

set_option Elab.async false

namespace Sys2Proof

/-! ### Sparse maps -/

@[simp] theorem nget_nset_self {α : Type} (m : NMap α) (k : Nat) (v : α) : nget (nset m k v) k = some v := by
  induction m with
  | nil => simp [nset, nget]
  | cons p r ih =>
    obtain ⟨j, w⟩ := p
    unfold nset
    split
    · simp [nget]
    · split
      · simp [nget]
      · simp_all [nget]

theorem nget_nset_ne {α : Type} (m : NMap α) {k j : Nat} (v : α) (h : j ≠ k) : nget (nset m k v) j = nget m j := by
  induction m with
  | nil => simp [nset, nget, Ne.symm h]
  | cons p r ih =>
    obtain ⟨i, w⟩ := p
    unfold nset
    split
    · simp [nget, Ne.symm h]
    · split
      · subst_vars; simp [nget, Ne.symm h]
      · simp [nget, ih]

theorem nset_nset {α : Type} (m : NMap α) (k : Nat) (v w : α) : nset (nset m k v) k w = nset m k w := by
  induction m with
  | nil => simp [nset]
  | cons p r ih =>
    obtain ⟨i, x⟩ := p
    by_cases h : k < i
    · simp [nset, h]
    · by_cases h' : i = k
      · simp [nset, h, h']
      · simp [nset, h, h', ih]

end Sys2Proof

namespace Sys2Proof.Machine

/-! ### A core replaced or changed -/

@[simp] theorem setCore_pkg (s : State) (c : Nat) (k : Core) : (setCore s c k).pkg = s.pkg := rfl
@[simp] theorem modCore_pkg (s : State) (c : Nat) (f : Core → Core) : (modCore s c f).pkg = s.pkg := rfl
@[simp] theorem modSlot_pkg (s : State) (c i : Nat) (f : Slot → Slot) : (modSlot s c i f).pkg = s.pkg := rfl
@[simp] theorem modQuad_pkg (s : State) (q : Nat) (f : Quad → Quad) : (modQuad s q f).pkg = s.pkg := rfl
@[simp] theorem setCore_agenda (s : State) (c : Nat) (k : Core) : (setCore s c k).agenda = s.agenda := rfl
@[simp] theorem modCore_agenda (s : State) (c : Nat) (f : Core → Core) : (modCore s c f).agenda = s.agenda := rfl
@[simp] theorem modSlot_agenda (s : State) (c i : Nat) (f : Slot → Slot) : (modSlot s c i f).agenda = s.agenda := rfl
@[simp] theorem modQuad_agenda (s : State) (q : Nat) (f : Quad → Quad) : (modQuad s q f).agenda = s.agenda := rfl
@[simp] theorem setCore_cur (s : State) (c : Nat) (k : Core) : (setCore s c k).cur = s.cur := rfl
@[simp] theorem modCore_cur (s : State) (c : Nat) (f : Core → Core) : (modCore s c f).cur = s.cur := rfl
@[simp] theorem modSlot_cur (s : State) (c i : Nat) (f : Slot → Slot) : (modSlot s c i f).cur = s.cur := rfl
@[simp] theorem modQuad_cur (s : State) (q : Nat) (f : Quad → Quad) : (modQuad s q f).cur = s.cur := rfl
@[simp] theorem setCore_tick (s : State) (c : Nat) (k : Core) : (setCore s c k).tick = s.tick := rfl
@[simp] theorem modCore_tick (s : State) (c : Nat) (f : Core → Core) : (modCore s c f).tick = s.tick := rfl
@[simp] theorem modSlot_tick (s : State) (c i : Nat) (f : Slot → Slot) : (modSlot s c i f).tick = s.tick := rfl
@[simp] theorem modQuad_tick (s : State) (q : Nat) (f : Quad → Quad) : (modQuad s q f).tick = s.tick := rfl
@[simp] theorem setCore_cycles (s : State) (c : Nat) (k : Core) : (setCore s c k).cycles = s.cycles := rfl
@[simp] theorem modCore_cycles (s : State) (c : Nat) (f : Core → Core) : (modCore s c f).cycles = s.cycles := rfl
@[simp] theorem modSlot_cycles (s : State) (c i : Nat) (f : Slot → Slot) : (modSlot s c i f).cycles = s.cycles := rfl
@[simp] theorem modQuad_cycles (s : State) (q : Nat) (f : Quad → Quad) : (modQuad s q f).cycles = s.cycles := rfl
@[simp] theorem setCore_ns (s : State) (c : Nat) (k : Core) : (setCore s c k).ns = s.ns := rfl
@[simp] theorem modCore_ns (s : State) (c : Nat) (f : Core → Core) : (modCore s c f).ns = s.ns := rfl
@[simp] theorem modSlot_ns (s : State) (c i : Nat) (f : Slot → Slot) : (modSlot s c i f).ns = s.ns := rfl
@[simp] theorem modQuad_ns (s : State) (q : Nat) (f : Quad → Quad) : (modQuad s q f).ns = s.ns := rfl
@[simp] theorem setCore_nsFrac (s : State) (c : Nat) (k : Core) : (setCore s c k).nsFrac = s.nsFrac := rfl
@[simp] theorem modCore_nsFrac (s : State) (c : Nat) (f : Core → Core) : (modCore s c f).nsFrac = s.nsFrac := rfl
@[simp] theorem modSlot_nsFrac (s : State) (c i : Nat) (f : Slot → Slot) : (modSlot s c i f).nsFrac = s.nsFrac := rfl
@[simp] theorem modQuad_nsFrac (s : State) (q : Nat) (f : Quad → Quad) : (modQuad s q f).nsFrac = s.nsFrac := rfl
@[simp] theorem setCore_nextId (s : State) (c : Nat) (k : Core) : (setCore s c k).nextId = s.nextId := rfl
@[simp] theorem modCore_nextId (s : State) (c : Nat) (f : Core → Core) : (modCore s c f).nextId = s.nextId := rfl
@[simp] theorem modSlot_nextId (s : State) (c i : Nat) (f : Slot → Slot) : (modSlot s c i f).nextId = s.nextId := rfl
@[simp] theorem modQuad_nextId (s : State) (q : Nat) (f : Quad → Quad) : (modQuad s q f).nextId = s.nextId := rfl
@[simp] theorem setCore_turns (s : State) (c : Nat) (k : Core) : (setCore s c k).turns = s.turns := rfl
@[simp] theorem modCore_turns (s : State) (c : Nat) (f : Core → Core) : (modCore s c f).turns = s.turns := rfl
@[simp] theorem modSlot_turns (s : State) (c i : Nat) (f : Slot → Slot) : (modSlot s c i f).turns = s.turns := rfl
@[simp] theorem modQuad_turns (s : State) (q : Nat) (f : Quad → Quad) : (modQuad s q f).turns = s.turns := rfl
@[simp] theorem modQuad_cores (s : State) (q : Nat) (f : Quad → Quad) : (modQuad s q f).cores = s.cores := rfl
@[simp] theorem setCore_quads (s : State) (c : Nat) (k : Core) : (setCore s c k).quads = s.quads := rfl
@[simp] theorem modCore_quads (s : State) (c : Nat) (f : Core → Core) : (modCore s c f).quads = s.quads := rfl
@[simp] theorem modSlot_quads (s : State) (c i : Nat) (f : Slot → Slot) : (modSlot s c i f).quads = s.quads := rfl
@[simp] theorem setCore_mem (s : State) (c : Nat) (k : Core) : (setCore s c k).mem = s.mem := rfl
@[simp] theorem modCore_mem (s : State) (c : Nat) (f : Core → Core) : (modCore s c f).mem = s.mem := rfl
@[simp] theorem modSlot_mem (s : State) (c i : Nat) (f : Slot → Slot) : (modSlot s c i f).mem = s.mem := rfl
@[simp] theorem modQuad_mem (s : State) (q : Nat) (f : Quad → Quad) : (modQuad s q f).mem = s.mem := rfl
@[simp] theorem setCore_poison (s : State) (c : Nat) (k : Core) : (setCore s c k).poison = s.poison := rfl
@[simp] theorem modCore_poison (s : State) (c : Nat) (f : Core → Core) : (modCore s c f).poison = s.poison := rfl
@[simp] theorem modSlot_poison (s : State) (c i : Nat) (f : Slot → Slot) : (modSlot s c i f).poison = s.poison := rfl
@[simp] theorem modQuad_poison (s : State) (q : Nat) (f : Quad → Quad) : (modQuad s q f).poison = s.poison := rfl
@[simp] theorem setCore_walks (s : State) (c : Nat) (k : Core) : (setCore s c k).walks = s.walks := rfl
@[simp] theorem modCore_walks (s : State) (c : Nat) (f : Core → Core) : (modCore s c f).walks = s.walks := rfl
@[simp] theorem modSlot_walks (s : State) (c i : Nat) (f : Slot → Slot) : (modSlot s c i f).walks = s.walks := rfl
@[simp] theorem modQuad_walks (s : State) (q : Nat) (f : Quad → Quad) : (modQuad s q f).walks = s.walks := rfl
@[simp] theorem setCore_tlbis (s : State) (c : Nat) (k : Core) : (setCore s c k).tlbis = s.tlbis := rfl
@[simp] theorem modCore_tlbis (s : State) (c : Nat) (f : Core → Core) : (modCore s c f).tlbis = s.tlbis := rfl
@[simp] theorem modSlot_tlbis (s : State) (c i : Nat) (f : Slot → Slot) : (modSlot s c i f).tlbis = s.tlbis := rfl
@[simp] theorem modQuad_tlbis (s : State) (q : Nat) (f : Quad → Quad) : (modQuad s q f).tlbis = s.tlbis := rfl
@[simp] theorem setCore_reassign (s : State) (c : Nat) (k : Core) : (setCore s c k).reassign = s.reassign := rfl
@[simp] theorem modCore_reassign (s : State) (c : Nat) (f : Core → Core) : (modCore s c f).reassign = s.reassign := rfl
@[simp] theorem modSlot_reassign (s : State) (c i : Nat) (f : Slot → Slot) : (modSlot s c i f).reassign = s.reassign := rfl
@[simp] theorem modQuad_reassign (s : State) (q : Nat) (f : Quad → Quad) : (modQuad s q f).reassign = s.reassign := rfl
@[simp] theorem setCore_unitTlb (s : State) (c : Nat) (k : Core) : (setCore s c k).unitTlb = s.unitTlb := rfl
@[simp] theorem modCore_unitTlb (s : State) (c : Nat) (f : Core → Core) : (modCore s c f).unitTlb = s.unitTlb := rfl
@[simp] theorem modSlot_unitTlb (s : State) (c i : Nat) (f : Slot → Slot) : (modSlot s c i f).unitTlb = s.unitTlb := rfl
@[simp] theorem modQuad_unitTlb (s : State) (q : Nat) (f : Quad → Quad) : (modQuad s q f).unitTlb = s.unitTlb := rfl
@[simp] theorem setCore_unitAns (s : State) (c : Nat) (k : Core) : (setCore s c k).unitAns = s.unitAns := rfl
@[simp] theorem modCore_unitAns (s : State) (c : Nat) (f : Core → Core) : (modCore s c f).unitAns = s.unitAns := rfl
@[simp] theorem modSlot_unitAns (s : State) (c i : Nat) (f : Slot → Slot) : (modSlot s c i f).unitAns = s.unitAns := rfl
@[simp] theorem modQuad_unitAns (s : State) (q : Nat) (f : Quad → Quad) : (modQuad s q f).unitAns = s.unitAns := rfl
@[simp] theorem setCore_counts (s : State) (c : Nat) (k : Core) : (setCore s c k).counts = s.counts := rfl
@[simp] theorem modCore_counts (s : State) (c : Nat) (f : Core → Core) : (modCore s c f).counts = s.counts := rfl
@[simp] theorem modSlot_counts (s : State) (c i : Nat) (f : Slot → Slot) : (modSlot s c i f).counts = s.counts := rfl
@[simp] theorem modQuad_counts (s : State) (q : Nat) (f : Quad → Quad) : (modQuad s q f).counts = s.counts := rfl
@[simp] theorem setCore_chans (s : State) (c : Nat) (k : Core) : (setCore s c k).chans = s.chans := rfl
@[simp] theorem modCore_chans (s : State) (c : Nat) (f : Core → Core) : (modCore s c f).chans = s.chans := rfl
@[simp] theorem modSlot_chans (s : State) (c i : Nat) (f : Slot → Slot) : (modSlot s c i f).chans = s.chans := rfl
@[simp] theorem modQuad_chans (s : State) (q : Nat) (f : Quad → Quad) : (modQuad s q f).chans = s.chans := rfl
@[simp] theorem setCore_engines (s : State) (c : Nat) (k : Core) : (setCore s c k).engines = s.engines := rfl
@[simp] theorem modCore_engines (s : State) (c : Nat) (f : Core → Core) : (modCore s c f).engines = s.engines := rfl
@[simp] theorem modSlot_engines (s : State) (c i : Nat) (f : Slot → Slot) : (modSlot s c i f).engines = s.engines := rfl
@[simp] theorem modQuad_engines (s : State) (q : Nat) (f : Quad → Quad) : (modQuad s q f).engines = s.engines := rfl
@[simp] theorem setCore_sent (s : State) (c : Nat) (k : Core) : (setCore s c k).sent = s.sent := rfl
@[simp] theorem modCore_sent (s : State) (c : Nat) (f : Core → Core) : (modCore s c f).sent = s.sent := rfl
@[simp] theorem modSlot_sent (s : State) (c i : Nat) (f : Slot → Slot) : (modSlot s c i f).sent = s.sent := rfl
@[simp] theorem modQuad_sent (s : State) (q : Nat) (f : Quad → Quad) : (modQuad s q f).sent = s.sent := rfl
@[simp] theorem setCore_qps (s : State) (c : Nat) (k : Core) : (setCore s c k).qps = s.qps := rfl
@[simp] theorem modCore_qps (s : State) (c : Nat) (f : Core → Core) : (modCore s c f).qps = s.qps := rfl
@[simp] theorem modSlot_qps (s : State) (c i : Nat) (f : Slot → Slot) : (modSlot s c i f).qps = s.qps := rfl
@[simp] theorem modQuad_qps (s : State) (q : Nat) (f : Quad → Quad) : (modQuad s q f).qps = s.qps := rfl
@[simp] theorem setCore_sessions (s : State) (c : Nat) (k : Core) : (setCore s c k).sessions = s.sessions := rfl
@[simp] theorem modCore_sessions (s : State) (c : Nat) (f : Core → Core) : (modCore s c f).sessions = s.sessions := rfl
@[simp] theorem modSlot_sessions (s : State) (c i : Nat) (f : Slot → Slot) : (modSlot s c i f).sessions = s.sessions := rfl
@[simp] theorem modQuad_sessions (s : State) (q : Nat) (f : Quad → Quad) : (modQuad s q f).sessions = s.sessions := rfl
@[simp] theorem setCore_mesh (s : State) (c : Nat) (k : Core) : (setCore s c k).mesh = s.mesh := rfl
@[simp] theorem modCore_mesh (s : State) (c : Nat) (f : Core → Core) : (modCore s c f).mesh = s.mesh := rfl
@[simp] theorem modSlot_mesh (s : State) (c i : Nat) (f : Slot → Slot) : (modSlot s c i f).mesh = s.mesh := rfl
@[simp] theorem modQuad_mesh (s : State) (q : Nat) (f : Quad → Quad) : (modQuad s q f).mesh = s.mesh := rfl
@[simp] theorem setCore_ctxs (s : State) (c : Nat) (k : Core) : (setCore s c k).ctxs = s.ctxs := rfl
@[simp] theorem modCore_ctxs (s : State) (c : Nat) (f : Core → Core) : (modCore s c f).ctxs = s.ctxs := rfl
@[simp] theorem modSlot_ctxs (s : State) (c i : Nat) (f : Slot → Slot) : (modSlot s c i f).ctxs = s.ctxs := rfl
@[simp] theorem modQuad_ctxs (s : State) (q : Nat) (f : Quad → Quad) : (modQuad s q f).ctxs = s.ctxs := rfl
@[simp] theorem setCore_launches (s : State) (c : Nat) (k : Core) : (setCore s c k).launches = s.launches := rfl
@[simp] theorem modCore_launches (s : State) (c : Nat) (f : Core → Core) : (modCore s c f).launches = s.launches := rfl
@[simp] theorem modSlot_launches (s : State) (c i : Nat) (f : Slot → Slot) : (modSlot s c i f).launches = s.launches := rfl
@[simp] theorem modQuad_launches (s : State) (q : Nat) (f : Quad → Quad) : (modQuad s q f).launches = s.launches := rfl
@[simp] theorem setCore_tpls (s : State) (c : Nat) (k : Core) : (setCore s c k).tpls = s.tpls := rfl
@[simp] theorem modCore_tpls (s : State) (c : Nat) (f : Core → Core) : (modCore s c f).tpls = s.tpls := rfl
@[simp] theorem modSlot_tpls (s : State) (c i : Nat) (f : Slot → Slot) : (modSlot s c i f).tpls = s.tpls := rfl
@[simp] theorem modQuad_tpls (s : State) (q : Nat) (f : Quad → Quad) : (modQuad s q f).tpls = s.tpls := rfl
@[simp] theorem setCore_bars (s : State) (c : Nat) (k : Core) : (setCore s c k).bars = s.bars := rfl
@[simp] theorem modCore_bars (s : State) (c : Nat) (f : Core → Core) : (modCore s c f).bars = s.bars := rfl
@[simp] theorem modSlot_bars (s : State) (c i : Nat) (f : Slot → Slot) : (modSlot s c i f).bars = s.bars := rfl
@[simp] theorem modQuad_bars (s : State) (q : Nat) (f : Quad → Quad) : (modQuad s q f).bars = s.bars := rfl
@[simp] theorem setCore_rings (s : State) (c : Nat) (k : Core) : (setCore s c k).rings = s.rings := rfl
@[simp] theorem modCore_rings (s : State) (c : Nat) (f : Core → Core) : (modCore s c f).rings = s.rings := rfl
@[simp] theorem modSlot_rings (s : State) (c i : Nat) (f : Slot → Slot) : (modSlot s c i f).rings = s.rings := rfl
@[simp] theorem modQuad_rings (s : State) (q : Nat) (f : Quad → Quad) : (modQuad s q f).rings = s.rings := rfl
@[simp] theorem setCore_rpt (s : State) (c : Nat) (k : Core) : (setCore s c k).rpt = s.rpt := rfl
@[simp] theorem modCore_rpt (s : State) (c : Nat) (f : Core → Core) : (modCore s c f).rpt = s.rpt := rfl
@[simp] theorem modSlot_rpt (s : State) (c i : Nat) (f : Slot → Slot) : (modSlot s c i f).rpt = s.rpt := rfl
@[simp] theorem modQuad_rpt (s : State) (q : Nat) (f : Quad → Quad) : (modQuad s q f).rpt = s.rpt := rfl
@[simp] theorem setCore_rptw (s : State) (c : Nat) (k : Core) : (setCore s c k).rptw = s.rptw := rfl
@[simp] theorem modCore_rptw (s : State) (c : Nat) (f : Core → Core) : (modCore s c f).rptw = s.rptw := rfl
@[simp] theorem modSlot_rptw (s : State) (c i : Nat) (f : Slot → Slot) : (modSlot s c i f).rptw = s.rptw := rfl
@[simp] theorem modQuad_rptw (s : State) (q : Nat) (f : Quad → Quad) : (modQuad s q f).rptw = s.rptw := rfl
@[simp] theorem setCore_rx (s : State) (c : Nat) (k : Core) : (setCore s c k).rx = s.rx := rfl
@[simp] theorem modCore_rx (s : State) (c : Nat) (f : Core → Core) : (modCore s c f).rx = s.rx := rfl
@[simp] theorem modSlot_rx (s : State) (c i : Nat) (f : Slot → Slot) : (modSlot s c i f).rx = s.rx := rfl
@[simp] theorem modQuad_rx (s : State) (q : Nat) (f : Quad → Quad) : (modQuad s q f).rx = s.rx := rfl
@[simp] theorem setCore_gwalks (s : State) (c : Nat) (k : Core) : (setCore s c k).gwalks = s.gwalks := rfl
@[simp] theorem modCore_gwalks (s : State) (c : Nat) (f : Core → Core) : (modCore s c f).gwalks = s.gwalks := rfl
@[simp] theorem modSlot_gwalks (s : State) (c i : Nat) (f : Slot → Slot) : (modSlot s c i f).gwalks = s.gwalks := rfl
@[simp] theorem modQuad_gwalks (s : State) (q : Nat) (f : Quad → Quad) : (modQuad s q f).gwalks = s.gwalks := rfl
@[simp] theorem setCore_streams (s : State) (c : Nat) (k : Core) : (setCore s c k).streams = s.streams := rfl
@[simp] theorem modCore_streams (s : State) (c : Nat) (f : Core → Core) : (modCore s c f).streams = s.streams := rfl
@[simp] theorem modSlot_streams (s : State) (c i : Nat) (f : Slot → Slot) : (modSlot s c i f).streams = s.streams := rfl
@[simp] theorem modQuad_streams (s : State) (q : Nat) (f : Quad → Quad) : (modQuad s q f).streams = s.streams := rfl
@[simp] theorem setCore_keys (s : State) (c : Nat) (k : Core) : (setCore s c k).keys = s.keys := rfl
@[simp] theorem modCore_keys (s : State) (c : Nat) (f : Core → Core) : (modCore s c f).keys = s.keys := rfl
@[simp] theorem modSlot_keys (s : State) (c i : Nat) (f : Slot → Slot) : (modSlot s c i f).keys = s.keys := rfl
@[simp] theorem modQuad_keys (s : State) (q : Nat) (f : Quad → Quad) : (modQuad s q f).keys = s.keys := rfl
@[simp] theorem setCore_vfs (s : State) (c : Nat) (k : Core) : (setCore s c k).vfs = s.vfs := rfl
@[simp] theorem modCore_vfs (s : State) (c : Nat) (f : Core → Core) : (modCore s c f).vfs = s.vfs := rfl
@[simp] theorem modSlot_vfs (s : State) (c i : Nat) (f : Slot → Slot) : (modSlot s c i f).vfs = s.vfs := rfl
@[simp] theorem modQuad_vfs (s : State) (q : Nat) (f : Quad → Quad) : (modQuad s q f).vfs = s.vfs := rfl
@[simp] theorem setCore_hdm (s : State) (c : Nat) (k : Core) : (setCore s c k).hdm = s.hdm := rfl
@[simp] theorem modCore_hdm (s : State) (c : Nat) (f : Core → Core) : (modCore s c f).hdm = s.hdm := rfl
@[simp] theorem modSlot_hdm (s : State) (c i : Nat) (f : Slot → Slot) : (modSlot s c i f).hdm = s.hdm := rfl
@[simp] theorem modQuad_hdm (s : State) (q : Nat) (f : Quad → Quad) : (modQuad s q f).hdm = s.hdm := rfl
@[simp] theorem setCore_retryables (s : State) (c : Nat) (k : Core) : (setCore s c k).retryables = s.retryables := rfl
@[simp] theorem modCore_retryables (s : State) (c : Nat) (f : Core → Core) : (modCore s c f).retryables = s.retryables := rfl
@[simp] theorem modSlot_retryables (s : State) (c i : Nat) (f : Slot → Slot) : (modSlot s c i f).retryables = s.retryables := rfl
@[simp] theorem modQuad_retryables (s : State) (q : Nat) (f : Quad → Quad) : (modQuad s q f).retryables = s.retryables := rfl
@[simp] theorem setCore_launchRings (s : State) (c : Nat) (k : Core) : (setCore s c k).launchRings = s.launchRings := rfl
@[simp] theorem modCore_launchRings (s : State) (c : Nat) (f : Core → Core) : (modCore s c f).launchRings = s.launchRings := rfl
@[simp] theorem modSlot_launchRings (s : State) (c i : Nat) (f : Slot → Slot) : (modSlot s c i f).launchRings = s.launchRings := rfl
@[simp] theorem modQuad_launchRings (s : State) (q : Nat) (f : Quad → Quad) : (modQuad s q f).launchRings = s.launchRings := rfl
@[simp] theorem setCore_heads (s : State) (c : Nat) (k : Core) : (setCore s c k).heads = s.heads := rfl
@[simp] theorem modCore_heads (s : State) (c : Nat) (f : Core → Core) : (modCore s c f).heads = s.heads := rfl
@[simp] theorem modSlot_heads (s : State) (c i : Nat) (f : Slot → Slot) : (modSlot s c i f).heads = s.heads := rfl
@[simp] theorem modQuad_heads (s : State) (q : Nat) (f : Quad → Quad) : (modQuad s q f).heads = s.heads := rfl
@[simp] theorem setCore_compls (s : State) (c : Nat) (k : Core) : (setCore s c k).compls = s.compls := rfl
@[simp] theorem modCore_compls (s : State) (c : Nat) (f : Core → Core) : (modCore s c f).compls = s.compls := rfl
@[simp] theorem modSlot_compls (s : State) (c i : Nat) (f : Slot → Slot) : (modSlot s c i f).compls = s.compls := rfl
@[simp] theorem modQuad_compls (s : State) (q : Nat) (f : Quad → Quad) : (modQuad s q f).compls = s.compls := rfl
@[simp] theorem setCore_power (s : State) (c : Nat) (k : Core) : (setCore s c k).power = s.power := rfl
@[simp] theorem modCore_power (s : State) (c : Nat) (f : Core → Core) : (modCore s c f).power = s.power := rfl
@[simp] theorem modSlot_power (s : State) (c i : Nat) (f : Slot → Slot) : (modSlot s c i f).power = s.power := rfl
@[simp] theorem modQuad_power (s : State) (q : Nat) (f : Quad → Quad) : (modQuad s q f).power = s.power := rfl
@[simp] theorem setCore_ifs (s : State) (c : Nat) (k : Core) : (setCore s c k).ifs = s.ifs := rfl
@[simp] theorem modCore_ifs (s : State) (c : Nat) (f : Core → Core) : (modCore s c f).ifs = s.ifs := rfl
@[simp] theorem modSlot_ifs (s : State) (c i : Nat) (f : Slot → Slot) : (modSlot s c i f).ifs = s.ifs := rfl
@[simp] theorem modQuad_ifs (s : State) (q : Nat) (f : Quad → Quad) : (modQuad s q f).ifs = s.ifs := rfl
@[simp] theorem setCore_lds (s : State) (c : Nat) (k : Core) : (setCore s c k).lds = s.lds := rfl
@[simp] theorem modCore_lds (s : State) (c : Nat) (f : Core → Core) : (modCore s c f).lds = s.lds := rfl
@[simp] theorem modSlot_lds (s : State) (c i : Nat) (f : Slot → Slot) : (modSlot s c i f).lds = s.lds := rfl
@[simp] theorem modQuad_lds (s : State) (q : Nat) (f : Quad → Quad) : (modQuad s q f).lds = s.lds := rfl
@[simp] theorem setCore_evrt (s : State) (c : Nat) (k : Core) : (setCore s c k).evrt = s.evrt := rfl
@[simp] theorem modCore_evrt (s : State) (c : Nat) (f : Core → Core) : (modCore s c f).evrt = s.evrt := rfl
@[simp] theorem modSlot_evrt (s : State) (c i : Nat) (f : Slot → Slot) : (modSlot s c i f).evrt = s.evrt := rfl
@[simp] theorem modQuad_evrt (s : State) (q : Nat) (f : Quad → Quad) : (modQuad s q f).evrt = s.evrt := rfl
@[simp] theorem setCore_events (s : State) (c : Nat) (k : Core) : (setCore s c k).events = s.events := rfl
@[simp] theorem modCore_events (s : State) (c : Nat) (f : Core → Core) : (modCore s c f).events = s.events := rfl
@[simp] theorem modSlot_events (s : State) (c i : Nat) (f : Slot → Slot) : (modSlot s c i f).events = s.events := rfl
@[simp] theorem modQuad_events (s : State) (q : Nat) (f : Quad → Quad) : (modQuad s q f).events = s.events := rfl
@[simp] theorem setCore_scrubs (s : State) (c : Nat) (k : Core) : (setCore s c k).scrubs = s.scrubs := rfl
@[simp] theorem modCore_scrubs (s : State) (c : Nat) (f : Core → Core) : (modCore s c f).scrubs = s.scrubs := rfl
@[simp] theorem modSlot_scrubs (s : State) (c i : Nat) (f : Slot → Slot) : (modSlot s c i f).scrubs = s.scrubs := rfl
@[simp] theorem modQuad_scrubs (s : State) (q : Nat) (f : Quad → Quad) : (modQuad s q f).scrubs = s.scrubs := rfl
@[simp] theorem setCore_tokens (s : State) (c : Nat) (k : Core) : (setCore s c k).tokens = s.tokens := rfl
@[simp] theorem modCore_tokens (s : State) (c : Nat) (f : Core → Core) : (modCore s c f).tokens = s.tokens := rfl
@[simp] theorem modSlot_tokens (s : State) (c i : Nat) (f : Slot → Slot) : (modSlot s c i f).tokens = s.tokens := rfl
@[simp] theorem modQuad_tokens (s : State) (q : Nat) (f : Quad → Quad) : (modQuad s q f).tokens = s.tokens := rfl
@[simp] theorem setCore_grants (s : State) (c : Nat) (k : Core) : (setCore s c k).grants = s.grants := rfl
@[simp] theorem modCore_grants (s : State) (c : Nat) (f : Core → Core) : (modCore s c f).grants = s.grants := rfl
@[simp] theorem modSlot_grants (s : State) (c i : Nat) (f : Slot → Slot) : (modSlot s c i f).grants = s.grants := rfl
@[simp] theorem modQuad_grants (s : State) (q : Nat) (f : Quad → Quad) : (modQuad s q f).grants = s.grants := rfl
@[simp] theorem setCore_hubs (s : State) (c : Nat) (k : Core) : (setCore s c k).hubs = s.hubs := rfl
@[simp] theorem modCore_hubs (s : State) (c : Nat) (f : Core → Core) : (modCore s c f).hubs = s.hubs := rfl
@[simp] theorem modSlot_hubs (s : State) (c i : Nat) (f : Slot → Slot) : (modSlot s c i f).hubs = s.hubs := rfl
@[simp] theorem modQuad_hubs (s : State) (q : Nat) (f : Quad → Quad) : (modQuad s q f).hubs = s.hubs := rfl
@[simp] theorem setCore_thr (s : State) (c : Nat) (k : Core) : (setCore s c k).thr = s.thr := rfl
@[simp] theorem modCore_thr (s : State) (c : Nat) (f : Core → Core) : (modCore s c f).thr = s.thr := rfl
@[simp] theorem modSlot_thr (s : State) (c i : Nat) (f : Slot → Slot) : (modSlot s c i f).thr = s.thr := rfl
@[simp] theorem modQuad_thr (s : State) (q : Nat) (f : Quad → Quad) : (modQuad s q f).thr = s.thr := rfl
@[simp] theorem setCore_ecc (s : State) (c : Nat) (k : Core) : (setCore s c k).ecc = s.ecc := rfl
@[simp] theorem modCore_ecc (s : State) (c : Nat) (f : Core → Core) : (modCore s c f).ecc = s.ecc := rfl
@[simp] theorem modSlot_ecc (s : State) (c i : Nat) (f : Slot → Slot) : (modSlot s c i f).ecc = s.ecc := rfl
@[simp] theorem modQuad_ecc (s : State) (q : Nat) (f : Quad → Quad) : (modQuad s q f).ecc = s.ecc := rfl
@[simp] theorem setCore_furled (s : State) (c : Nat) (k : Core) : (setCore s c k).furled = s.furled := rfl
@[simp] theorem modCore_furled (s : State) (c : Nat) (f : Core → Core) : (modCore s c f).furled = s.furled := rfl
@[simp] theorem modSlot_furled (s : State) (c i : Nat) (f : Slot → Slot) : (modSlot s c i f).furled = s.furled := rfl
@[simp] theorem modQuad_furled (s : State) (q : Nat) (f : Quad → Quad) : (modQuad s q f).furled = s.furled := rfl
@[simp] theorem setCore_errLogs (s : State) (c : Nat) (k : Core) : (setCore s c k).errLogs = s.errLogs := rfl
@[simp] theorem modCore_errLogs (s : State) (c : Nat) (f : Core → Core) : (modCore s c f).errLogs = s.errLogs := rfl
@[simp] theorem modSlot_errLogs (s : State) (c i : Nat) (f : Slot → Slot) : (modSlot s c i f).errLogs = s.errLogs := rfl
@[simp] theorem modQuad_errLogs (s : State) (q : Nat) (f : Quad → Quad) : (modQuad s q f).errLogs = s.errLogs := rfl
@[simp] theorem setCore_subFenced (s : State) (c : Nat) (k : Core) : (setCore s c k).subFenced = s.subFenced := rfl
@[simp] theorem modCore_subFenced (s : State) (c : Nat) (f : Core → Core) : (modCore s c f).subFenced = s.subFenced := rfl
@[simp] theorem modSlot_subFenced (s : State) (c i : Nat) (f : Slot → Slot) : (modSlot s c i f).subFenced = s.subFenced := rfl
@[simp] theorem modQuad_subFenced (s : State) (q : Nat) (f : Quad → Quad) : (modQuad s q f).subFenced = s.subFenced := rfl
@[simp] theorem setCore_buntFenced (s : State) (c : Nat) (k : Core) : (setCore s c k).buntFenced = s.buntFenced := rfl
@[simp] theorem modCore_buntFenced (s : State) (c : Nat) (f : Core → Core) : (modCore s c f).buntFenced = s.buntFenced := rfl
@[simp] theorem modSlot_buntFenced (s : State) (c i : Nat) (f : Slot → Slot) : (modSlot s c i f).buntFenced = s.buntFenced := rfl
@[simp] theorem modQuad_buntFenced (s : State) (q : Nat) (f : Quad → Quad) : (modQuad s q f).buntFenced = s.buntFenced := rfl
@[simp] theorem setCore_discards (s : State) (c : Nat) (k : Core) : (setCore s c k).discards = s.discards := rfl
@[simp] theorem modCore_discards (s : State) (c : Nat) (f : Core → Core) : (modCore s c f).discards = s.discards := rfl
@[simp] theorem modSlot_discards (s : State) (c i : Nat) (f : Slot → Slot) : (modSlot s c i f).discards = s.discards := rfl
@[simp] theorem modQuad_discards (s : State) (q : Nat) (f : Quad → Quad) : (modQuad s q f).discards = s.discards := rfl
@[simp] theorem setCore_dbgOut (s : State) (c : Nat) (k : Core) : (setCore s c k).dbgOut = s.dbgOut := rfl
@[simp] theorem modCore_dbgOut (s : State) (c : Nat) (f : Core → Core) : (modCore s c f).dbgOut = s.dbgOut := rfl
@[simp] theorem modSlot_dbgOut (s : State) (c i : Nat) (f : Slot → Slot) : (modSlot s c i f).dbgOut = s.dbgOut := rfl
@[simp] theorem modQuad_dbgOut (s : State) (q : Nat) (f : Quad → Quad) : (modQuad s q f).dbgOut = s.dbgOut := rfl
@[simp] theorem Core.modSlot_act (k : Core) (i : Nat) (f : Slot → Slot) : (k.modSlot i f).act = k.act := rfl
@[simp] theorem Core.modSlot_preempted (k : Core) (i : Nat) (f : Slot → Slot) : (k.modSlot i f).preempted = k.preempted := rfl
@[simp] theorem Core.modSlot_srst (k : Core) (i : Nat) (f : Slot → Slot) : (k.modSlot i f).srst = k.srst := rfl
@[simp] theorem Core.modSlot_rgn (k : Core) (i : Nat) (f : Slot → Slot) : (k.modSlot i f).rgn = k.rgn := rfl
@[simp] theorem Core.modSlot_dt (k : Core) (i : Nat) (f : Slot → Slot) : (k.modSlot i f).dt = k.dt := rfl
@[simp] theorem Core.modSlot_utlb (k : Core) (i : Nat) (f : Slot → Slot) : (k.modSlot i f).utlb = k.utlb := rfl
@[simp] theorem Core.modSlot_icache (k : Core) (i : Nat) (f : Slot → Slot) : (k.modSlot i f).icache = k.icache := rfl
@[simp] theorem Core.modSlot_mctx (k : Core) (i : Nat) (f : Slot → Slot) : (k.modSlot i f).mctx = k.mctx := rfl
@[simp] theorem Core.modSlot_mprog (k : Core) (i : Nat) (f : Slot → Slot) : (k.modSlot i f).mprog = k.mprog := rfl
@[simp] theorem Core.modSlot_tiles (k : Core) (i : Nat) (f : Slot → Slot) : (k.modSlot i f).tiles = k.tiles := rfl
@[simp] theorem Core.modSlot_latch (k : Core) (i : Nat) (f : Slot → Slot) : (k.modSlot i f).latch = k.latch := rfl
@[simp] theorem Core.modSlot_recv (k : Core) (i : Nat) (f : Slot → Slot) : (k.modSlot i f).recv = k.recv := rfl
@[simp] theorem Core.modSlot_rots (k : Core) (i : Nat) (f : Slot → Slot) : (k.modSlot i f).rots = k.rots := rfl
@[simp] theorem Core.modSlot_sb (k : Core) (i : Nat) (f : Slot → Slot) : (k.modSlot i f).sb = k.sb := rfl
@[simp] theorem Core.modSlot_dq (k : Core) (i : Nat) (f : Slot → Slot) : (k.modSlot i f).dq = k.dq := rfl
@[simp] theorem Core.modSlot_mq (k : Core) (i : Nat) (f : Slot → Slot) : (k.modSlot i f).mq = k.mq := rfl
@[simp] theorem Core.modSlot_orphans (k : Core) (i : Nat) (f : Slot → Slot) : (k.modSlot i f).orphans = k.orphans := rfl
@[simp] theorem Core.modSlot_rq (k : Core) (i : Nat) (f : Slot → Slot) : (k.modSlot i f).rq = k.rq := rfl
@[simp] theorem Core.modSlot_rr (k : Core) (i : Nat) (f : Slot → Slot) : (k.modSlot i f).rr = k.rr := rfl
@[simp] theorem Core.modSlot_hRun (k : Core) (i : Nat) (f : Slot → Slot) : (k.modSlot i f).hRun = k.hRun := rfl
@[simp] theorem Core.modSlot_ctr (k : Core) (i : Nat) (f : Slot → Slot) : (k.modSlot i f).ctr = k.ctr := rfl
@[simp] theorem Core.modSlot_ctrMark (k : Core) (i : Nat) (f : Slot → Slot) : (k.modSlot i f).ctrMark = k.ctrMark := rfl
@[simp] theorem Core.modSlot_clkProt (k : Core) (i : Nat) (f : Slot → Slot) : (k.modSlot i f).clkProt = k.clkProt := rfl
@[simp] theorem Core.modSlot_clkBase (k : Core) (i : Nat) (f : Slot → Slot) : (k.modSlot i f).clkBase = k.clkBase := rfl
@[simp] theorem Core.modSlot_clkFrom (k : Core) (i : Nat) (f : Slot → Slot) : (k.modSlot i f).clkFrom = k.clkFrom := rfl
@[simp] theorem Core.modSlot_unmapDue (k : Core) (i : Nat) (f : Slot → Slot) : (k.modSlot i f).unmapDue = k.unmapDue := rfl
@[simp] theorem Core.modSlot_wt (k : Core) (i : Nat) (f : Slot → Slot) : (k.modSlot i f).wt = k.wt := rfl
@[simp] theorem Core.modSlot_cursors (k : Core) (i : Nat) (f : Slot → Slot) : (k.modSlot i f).cursors = k.cursors := rfl
@[simp] theorem Core.modSlot_watched (k : Core) (i : Nat) (f : Slot → Slot) : (k.modSlot i f).watched = k.watched := rfl
@[simp] theorem Core.modSlot_furl (k : Core) (i : Nat) (f : Slot → Slot) : (k.modSlot i f).furl = k.furl := rfl
@[simp] theorem Core.modSlot_ctx (k : Core) (i : Nat) (f : Slot → Slot) : (k.modSlot i f).ctx = k.ctx := rfl
@[simp] theorem Core.modSlot_launch (k : Core) (i : Nat) (f : Slot → Slot) : (k.modSlot i f).launch = k.launch := rfl
@[simp] theorem Core.modSlot_lastEvent (k : Core) (i : Nat) (f : Slot → Slot) : (k.modSlot i f).lastEvent = k.lastEvent := rfl
@[simp] theorem Core.modSlot_fenced (k : Core) (i : Nat) (f : Slot → Slot) : (k.modSlot i f).fenced = k.fenced := rfl
@[simp] theorem coreOf_setCore_self (s : State) (c : Nat) (k : Core) : coreOf (setCore s c k) c = k := by simp [coreOf, setCore]
theorem coreOf_setCore_ne (s : State) {c j : Nat} (k : Core) (h : j ≠ c) : coreOf (setCore s c k) j = coreOf s j := by
  simp [coreOf, setCore, nget_nset_ne _ _ h]
@[simp] theorem coreOf_modCore_self (s : State) (c : Nat) (f : Core → Core) : coreOf (modCore s c f) c = f (coreOf s c) := by simp [modCore]
theorem coreOf_modCore_ne (s : State) {c j : Nat} (f : Core → Core) (h : j ≠ c) : coreOf (modCore s c f) j = coreOf s j := by
  simp [modCore, coreOf_setCore_ne _ _ h]
@[simp] theorem coreOf_modSlot_self (s : State) (c i : Nat) (f : Slot → Slot) : coreOf (modSlot s c i f) c = (coreOf s c).modSlot i f := by
  simp [modSlot]
theorem coreOf_modSlot_ne (s : State) {c j : Nat} (i : Nat) (f : Slot → Slot) (h : j ≠ c) : coreOf (modSlot s c i f) j = coreOf s j := by
  simp [modSlot, coreOf_modCore_ne _ _ h]

/-! ### A slot changed -/

theorem slotOf_modSlot_self (k : Core) {i : Nat} (f : Slot → Slot) (h : i < 5) : slotOf (k.modSlot i f) i = f (slotOf k i) := by
  simp [slotOf, Core.modSlot, h]
theorem slotOf_modSlot_ne (k : Core) {i j : Nat} (f : Slot → Slot) (h : j ≠ i) : slotOf (k.modSlot i f) j = slotOf k j := by
  unfold slotOf Core.modSlot
  by_cases hj : j < 5
  · simp [hj, Ne.symm h]
  · simp [hj]
theorem slotAt_modSlot_self (s : State) (c : Nat) {i : Nat} (f : Slot → Slot) (h : i < 5) :
    slotAt (modSlot s c i f) c i = f (slotAt s c i) := by simp [slotAt, slotOf_modSlot_self _ _ h]
theorem slotAt_modSlot_slot (s : State) (c : Nat) {i j : Nat} (f : Slot → Slot) (h : j ≠ i) :
    slotAt (modSlot s c i f) c j = slotAt s c j := by simp [slotAt, slotOf_modSlot_ne _ _ h]
theorem slotAt_modSlot_core (s : State) {c d : Nat} (i j : Nat) (f : Slot → Slot) (h : d ≠ c) :
    slotAt (modSlot s c i f) d j = slotAt s d j := by simp [slotAt, coreOf_modSlot_ne _ _ _ h]
@[simp] theorem actOf_modSlot (s : State) (c i d : Nat) (f : Slot → Slot) : actOf (modSlot s c i f) d = actOf s d := by
  unfold actOf
  by_cases h : d = c
  · subst h; simp
  · rw [coreOf_modSlot_ne _ _ _ h]

/-- Two changes of one core are one. -/
theorem modCore_modCore (s : State) (c : Nat) (f g : Core → Core) : modCore (modCore s c f) c g = modCore s c fun k => g (f k) := by
  simp [modCore, setCore, coreOf, nset_nset]

/-- Two changes of one slot are one. -/
theorem modSlot_modSlot (s : State) (c i : Nat) (f g : Slot → Slot) : modSlot (modSlot s c i f) c i g = modSlot s c i fun x => g (f x) := by
  unfold modSlot
  rw [modCore_modCore]
  congr 1; funext k
  unfold Core.modSlot slotOf
  by_cases h : i < 5
  · simp [h]
  · have out (v : Vector Slot 5) (x : Slot) : v.setIfInBounds i x = v := by
      ext j hj; rw [Vector.getElem_setIfInBounds_ne]; omega
    simp [out]

/-! ### Quads -/

@[simp] theorem quadAt_modQuad_self (s : State) (q : Nat) (f : Quad → Quad) : quadAt (modQuad s q f) q = f (quadAt s q) := by
  simp [quadAt, modQuad]
theorem quadAt_modQuad_ne (s : State) {q r : Nat} (f : Quad → Quad) (h : r ≠ q) : quadAt (modQuad s q f) r = quadAt s r := by
  simp [quadAt, modQuad, nget_nset_ne _ _ h]

end Sys2Proof.Machine
end

