-- ==== Sys2Proof/Laws/Keeps.lean ====
section
/-! SUPPORT. What the shared operations leave of memory's canonical form: the operations on the state keep it, and an instruction's
effect keeps it where its parts do (`Keeps`), so that a meaning needs no unfolding of what it calls. -/

set_option Elab.async false

namespace Sys2Proof.Machine

/-! ### Operations on the state -/

/-- Memory's form depends on memory alone. -/
theorem State.MemOk.of_mem {s t : State} (h : s.MemOk) (e : t.mem = s.mem) : t.MemOk := by
  unfold State.MemOk at *; rw [e]; exact h

/-- Memory after reset has its form. -/
theorem reset_memOk : State.reset.MemOk := rfl

/-- Steps over a list, each of which keeps the form, keep it. -/
theorem memOk_foldl {β : Type} (f : State → β → State) (l : List β) {s : State} (h : s.MemOk)
    (step : ∀ t : State, t.MemOk → ∀ b ∈ l, (f t b).MemOk) : (l.foldl f s).MemOk := List.foldlRecOn l f h step

/-- One byte written keeps the form. -/
theorem wrByte_memOk {s : State} (pa : Nat) (b : Byte) (h : s.MemOk) : (wrByte s pa b).MemOk := Memory.wf_memSet _ _ h

/-- A store keeps the form. -/
theorem perform_memOk {s : State} (bytes : List (Nat × Byte)) (pois : List Nat) (h : s.MemOk) : (perform s bytes pois).1.MemOk := by
  refine List.foldlRecOn (motive := fun a : State × Bool => a.1.MemOk) bytes _ h fun a ha b _ => ?_
  split
  · exact ha
  · exact wrByte_memOk _ _ ha

/-- A value written keeps the form. -/
theorem wrNat_memOk {s : State} (pa n v : Nat) (h : s.MemOk) : (wrNat s pa n v).MemOk := perform_memOk _ _ h

/-- A scrubbed range keeps the form. -/
theorem zeroRange_memOk {s : State} (lo hi : Nat) (h : s.MemOk) : (zeroRange s lo hi).MemOk := Memory.wf_filter _ h

/-- A scrubbed range reads as zero, and every other byte as before. -/
theorem zeroRange_get (s : State) (lo hi a : Nat) :
    memGet (zeroRange s lo hi).mem a = if a < lo || hi ≤ a then memGet s.mem a else 0 :=
  memGet_filter s.mem (fun a => decide (a < lo) || decide (hi ≤ a)) a

/-- A record posted, a terminal record, an error record and an event leave memory alone. -/
@[simp] theorem postRec_mem (s : State) (r : Nat) (ws : List Word) : (postRec s r ws).mem = s.mem := rfl
@[simp] theorem postTerm_mem (s : State) (x code cls : Nat) (info w2 : Word) (c i cause : Nat) :
    (postTerm s x code cls info w2 c i cause).mem = s.mem := by
  unfold postTerm; repeat' split
  all_goals rfl
@[simp] theorem errRec_mem (s : State) (x : Nat) (code : Code) (info : Word) (c i : Nat) :
    (errRec s x code info c i).mem = s.mem := postTerm_mem ..
@[simp] theorem raiseEvent_mem (s : State) (ld evt arg : Nat) : (raiseEvent s ld evt arg).mem = s.mem := rfl
@[simp] theorem markWalks_mem (s : State) (l : List Nat) : (markWalks s l).mem = s.mem := rfl
@[simp] theorem countError_mem (s : State) (u : ErrUnit) : (countError s u).mem = s.mem := by
  unfold countError; dsimp only; repeat' split
  all_goals rfl
@[simp] theorem dropPreg_mem (s : State) (q : Nat) (p : Fin 192) : (dropPreg s q p).mem = s.mem := rfl
@[simp] theorem modTpl_mem (s : State) (t : Nat) (f : Tpl → Tpl) : (modTpl s t f).mem = s.mem := by
  unfold modTpl; split <;> rfl

/-- A read of a range that finds bit errors keeps the form: it changes poison and counts, no byte. -/
theorem eccTouch_memOk {s : State} (pa n : Nat) (h : s.MemOk) : (eccTouch s pa n).MemOk := by
  refine memOk_foldl _ _ h fun t ht e _ => ?_
  dsimp only
  split
  · exact .of_mem ht (countError_mem _ _)
  · exact ht

/-- Wide registers given up leave memory alone. -/
@[simp] theorem unmapList_mem (s : State) (q : Nat) (w : List WMap) : (unmapList s q w).mem = s.mem := by
  induction w generalizing s with
  | nil => rfl
  | cons m r ih => cases m <;> exact ih _

/-- The wide registers of a task that ends, given up now or later, leave memory alone. -/
@[simp] theorem endMaps_mem (s : State) (c i : Nat) (sl : Slot) : (endMaps s c i sl).mem = s.mem := by
  unfold endMaps
  split
  · rfl
  · exact unmapList_mem ..

/-- A released template keeps the form: it zeroes the region's template stores at most. -/
theorem tplRemove_memOk {s : State} (t : Nat) (x : Tpl) (h : s.MemOk) : (tplRemove s t x).MemOk := by
  have h1 := memOk_foldl (fun s c => modCore s c fun k => { k with cursors := k.cursors.filter fun u => u.tpl ≠ t }) x.cores h
    fun _ ht _ _ => ht
  have h2 := memOk_foldl (fun s (w : Nat × Nat × Fin 192) => dropPreg s w.1 w.2.2) x.wide h1 fun _ ht _ _ => ht
  unfold tplRemove
  dsimp only
  split
  · split
    · exact memOk_foldl _ _ h2 fun _ ht _ _ => zeroRange_memOk _ _ ht
    · exact h2
  · exact h2

/-- The end of an item or a join keeps the form. -/
theorem tplEnd_memOk {s : State} (t : Nat) (j : Bool) (who : List (Nat × Nat)) (n : Nat) (h : s.MemOk) : (tplEnd s t j who n).MemOk := by
  induction n generalizing s t j who with
  | zero => exact h
  | succ n ih =>
    unfold tplEnd
    split
    · exact h
    · dsimp only
      repeat' split
      all_goals first
        | exact h
        | exact tplRemove_memOk _ _ (State.MemOk.of_mem h rfl)
        | exact ih _ _ _ (tplRemove_memOk _ _ (State.MemOk.of_mem h rfl))

/-- The records of held faults keep the form. -/
theorem drainFaults_memOk {s : State} (c i : Nat) (sl : Slot) (h : s.MemOk) : (drainFaults s c i sl).MemOk := by
  refine memOk_foldl _ _ h fun t ht o _ => ?_
  repeat' split
  all_goals first | exact ht | exact .of_mem ht (errRec_mem ..)

/-- Walks given up keep the form. -/
theorem dropWalks_memOk {s : State} (c i task : Nat) (h : s.MemOk) : (dropWalks s c i task).MemOk := by
  refine memOk_foldl _ _ h fun t ht g _ => ?_
  dsimp only
  split
  · exact memOk_foldl _ _ (wrNat_memOk _ _ _ ht) fun _ hu _ _ => wrNat_memOk _ _ _ hu
  · exact wrNat_memOk _ _ _ ht

/-- The end of a task keeps the form. -/
theorem endTask_memOk {s : State} (c i : Nat) (d : Bool) (h : s.MemOk) : (endTask s c i d).MemOk := by
  have h1 : (endMaps (drainFaults (dropWalks s c i (slotAt s c i).task) c i (slotAt s c i)) c i (slotAt s c i)).MemOk :=
    .of_mem (drainFaults_memOk _ _ _ (dropWalks_memOk _ _ _ h)) (endMaps_mem ..)
  unfold endTask
  dsimp only
  repeat' split
  all_goals first | exact tplEnd_memOk _ _ _ _ h1 | exact h1

/-- The park record written keeps the form. -/
theorem writePark_memOk {s : State} (c i : Nat) (sl : Slot) (r : Word) (t : Trap) (h : s.MemOk) : (writePark s c i sl r t).MemOk :=
  memOk_foldl _ _ h fun _ ht _ _ => wrNat_memOk _ _ _ ht

/-- A halt leaves memory alone. -/
@[simp] theorem haltSlot_mem (s : State) (c i : Nat) (t : Trap) (w : Word) : (haltSlot s c i t w).mem = s.mem := by
  unfold haltSlot
  dsimp only
  repeat' split
  all_goals simp

/-- Terminal delivery keeps the form. -/
theorem terminal_memOk {s : State} (c i : Nat) (code : Code) (info : Word) (cause : Nat) (pc : Word) (h : s.MemOk) :
    (terminal s c i code info cause pc).MemOk := by
  have h1 : ∀ a b z d e f g y, (postTerm (endTask s c i true) a b z d e f g y).MemOk := fun _ _ _ _ _ _ _ _ =>
    State.MemOk.of_mem (endTask_memOk c i true h) (postTerm_mem ..)
  unfold terminal
  dsimp only
  split
  · split
    · exact h1 ..
    · exact h1 ..
  · exact h1 ..

end Sys2Proof.Machine
end

