-- ==== Sys2Proof/Laws/Effects.lean ====
section
/-! SUPPORT. Effects put together: what issuing, sequencing and the operand forms do, each said once, and that they keep memory's form. -/

set_option Elab.async false

namespace Sys2Proof.Machine

/-! ### Taking an exception and waiting -/

/-- Upcall entry keeps the form. -/
theorem upcall_memOk {s : State} (c i : Nat) (t : Trap) (h : s.MemOk) : (upcall s c i t).MemOk := writePark_memOk _ _ _ _ _ h

/-- Taking an exception keeps the form. -/
theorem deliver_memOk {s : State} (c i : Nat) (t : Trap) (w : Word) (h : s.MemOk) : (deliver s c i t w).MemOk := by
  unfold deliver
  dsimp only
  repeat' split
  all_goals first
    | exact State.MemOk.of_mem h (haltSlot_mem ..)
    | exact terminal_memOk _ _ _ _ _ _ h
    | exact upcall_memOk _ _ _ h

/-- A wait keeps the form where what it leaves behind does. -/
theorem waitAt_memOk {s : State} (c i : Nat) (wt : Wait) (u : State → State) (w : Word) (h : s.MemOk) (hu : (u s).MemOk) :
    (waitAt s c i wt u w).MemOk := by
  unfold waitAt
  dsimp only
  repeat' split
  all_goals first | exact hu | exact deliver_memOk _ _ _ _ hu | exact deliver_memOk _ _ _ _ h

/-- Delivery of a class-H fault is a halt (R28). -/
theorem deliver_h {s : State} {c i : Nat} {t : Trap} {w : Word} (h : t.code.cls = .h) : deliver s c i t w = haltSlot s c i t w := by
  simp only [deliver, h]

/-- Delivery of a terminal fault ends the task (R356). -/
theorem deliver_t {s : State} {c i : Nat} {t : Trap} {w : Word} (h : t.code.cls = .t) :
    deliver s c i t w = terminal s c i t.code t.info t.cause (slotAt s c i).pc := by
  simp only [deliver, h]

/-- Delivery of a class-U fault in an L slot with a handler is an upcall (R347, R352). -/
theorem deliver_u {s : State} {c i : Nat} {t : Trap} {w : Word} (h : t.code.cls = .u) (hl : (slotAt s c i).launch ≠ none) (hi : i ≠ 4)
    (hu : (slotAt s c i).up = false) (hp : (slotAt s c i).upc ≠ 0) : deliver s c i t w = upcall s c i t := by
  have hp' : ¬ (slotAt s c i).upc = 0#64 := hp
  simp [deliver, h, hl, hi, hu, hp']

/-! ### Issuing -/

/-- An effect that completes and goes on. -/
theorem issueW_next {w : Word} {m : M Flow} {s t : State} (h : m s = .ok (.next, t)) :
    issueW w m s = .next (modSlot t s.cur (actOf s s.cur) fun sl => { sl.completed with pc := sl.pc + 8 }) := by
  simp only [issueW, h]

/-- An effect that completes and goes to a target. -/
theorem issueW_goto {w : Word} {m : M Flow} {s t : State} {pc : Word} (h : m s = .ok (.goto pc, t)) :
    issueW w m s = .next (modSlot t s.cur (actOf s s.cur) fun sl => { sl.completed with pc := pc }) := by
  simp only [issueW, h]

/-- An effect that leaves the slot as it says. -/
theorem issueW_stay {w : Word} {m : M Flow} {s t : State} (h : m s = .ok (.stay, t)) : issueW w m s = .next t := by
  simp only [issueW, h]

/-- An effect that faults: its exception is taken. -/
theorem issueW_trap {w : Word} {m : M Flow} {s : State} {t : Trap} {u : State → State} (h : m s = .error (.trap t u)) :
    issueW w m s = .next (deliver (u s) s.cur (actOf s s.cur) t w) := by
  simp only [issueW, h]

/-- An effect that waits. -/
theorem issueW_wait {w : Word} {m : M Flow} {s : State} {wt : Wait} {u : State → State} (h : m s = .error (.wait wt u)) :
    issueW w m s = .next (waitAt s s.cur (actOf s s.cur) wt u w) := by
  simp only [issueW, h]

/-- Issuing always answers a next state, and these five are all. -/
theorem issueW_cases (w : Word) (m : M Flow) (s : State) : ∃ t, issueW w m s = .next t := by
  unfold issueW
  dsimp only
  repeat' split
  all_goals exact ⟨_, rfl⟩

/-! ### Effects that keep memory's form -/

/-- An effect keeps the form: from a state with it, its result has it, and what a fault or a wait leaves behind keeps it. -/
def Keeps {α : Type} (m : M α) : Prop := ∀ s : State, s.MemOk →
  match m s with
  | .ok (_, t) => t.MemOk
  | .error (.trap _ u) => ∀ t : State, t.MemOk → (u t).MemOk
  | .error (.wait _ u) => ∀ t : State, t.MemOk → (u t).MemOk

theorem Keeps.pure {α : Type} (a : α) : Keeps (Pure.pure a : M α) := fun _ h => h

theorem Keeps.bind {α β : Type} {m : M α} {f : α → M β} (hm : Keeps m) (hf : ∀ a, Keeps (f a)) : Keeps (m >>= f) := by
  intro s h
  have h1 := hm s h
  rcases e : m s with (_ | _) | ⟨a, t⟩
  · rw [e] at h1; simpa [Bind.bind, StateT.bind, Except.bind, e] using h1
  · rw [e] at h1; simpa [Bind.bind, StateT.bind, Except.bind, e] using h1
  · rw [e] at h1; simpa [Bind.bind, StateT.bind, Except.bind, e] using hf a t h1

theorem Keeps.get : Keeps (MonadState.get : M State) := fun _ h => h

/-- The state read, with its form known for what follows. -/
theorem Keeps.bind_get {β : Type} {f : State → M β} (hf : ∀ s : State, s.MemOk → Keeps (f s)) :
    Keeps ((MonadState.get : M State) >>= f) := fun s h => hf s h s h

theorem Keeps.set {t : State} (h : t.MemOk) : Keeps (MonadStateOf.set t : M PUnit) := fun _ _ => h

theorem Keeps.modify {f : State → State} (hf : ∀ s : State, s.MemOk → (f s).MemOk) : Keeps (modify f : M PUnit) := fun s h => hf s h

theorem Keeps.raiseT {α : Type} (t : Trap) : Keeps (raiseT t : M α) := fun _ _ _ ht => ht

theorem Keeps.raise {α : Type} (c : Code) : Keeps (Machine.raise c : M α) := fun _ _ _ ht => ht

theorem Keeps.raiseAt {α : Type} (c : Code) (x : Word) : Keeps (raiseAt c x : M α) := fun _ _ _ ht => ht

theorem Keeps.raiseIf (b : Bool) (c : Code) (x : Word) : Keeps (raiseIf b c x) := by
  cases b
  · exact Keeps.pure ()
  · exact Keeps.raiseAt c x

theorem Keeps.waitOn {α : Type} (w : Wait) : Keeps (waitOn w : M α) := fun _ _ _ ht => ht

theorem Keeps.waitWith {α : Type} (w : Wait) {u : State → State} (hu : ∀ s : State, s.MemOk → (u s).MemOk) :
    Keeps (waitWith w u : M α) := fun _ _ => hu

theorem Keeps.ite {α : Type} {p : Prop} [Decidable p] {m n : M α} (hm : Keeps m) (hn : Keeps n) : Keeps (if p then m else n) := by
  split <;> assumption

/-- A part done only where a condition holds, then the rest. -/
theorem Keeps.when {α β : Type} {p : Prop} [Decidable p] {m : M β} {k : M α} (hm : Keeps m) (hk : Keeps k) :
    Keeps (if p then (m >>= fun _ => k) else k) := .ite (.bind hm fun _ => hk) hk

/-- An instruction whose effect keeps the form keeps it when issued, whatever its outcome. -/
theorem issueW_memOk {w : Word} {m : M Flow} {s t : State} (hm : Keeps m) (h : s.MemOk) (e : issueW w m s = .next t) : t.MemOk := by
  have h1 := hm s h
  rcases em : m s with (⟨tr, u⟩ | ⟨wt, u⟩) | ⟨f, s'⟩ <;> rw [em] at h1
  · rw [issueW_trap em] at e; cases e; exact deliver_memOk _ _ _ _ (h1 s h)
  · rw [issueW_wait em] at e; cases e; exact waitAt_memOk _ _ _ _ _ h (h1 s h)
  · cases f
    · rw [issueW_next em] at e; cases e; exact h1
    · rw [issueW_goto em] at e; cases e; exact h1
    · rw [issueW_stay em] at e; cases e; exact h1

/-! ### The issuing slot -/

theorem Keeps.myCore : Keeps myCore := fun _ h => h
theorem Keeps.myIdx : Keeps myIdx := fun _ h => h
theorem Keeps.mySlot : Keeps mySlot := fun _ h => h
theorem Keeps.modMy (f : Slot → Slot) : Keeps (modMy f) := fun _ h => h
theorem Keeps.modMyCore (f : Core → Core) : Keeps (modMyCore f) := fun _ h => h
theorem Keeps.freshId : Keeps freshId := fun _ h => h

/-- What each of them answers. -/
@[simp] theorem mySlot_run (s : State) : mySlot s = .ok (slotAt s s.cur (actOf s s.cur), s) := rfl
@[simp] theorem myCore_run (s : State) : myCore s = .ok (s.cur, s) := rfl
@[simp] theorem myIdx_run (s : State) : myIdx s = .ok (actOf s s.cur, s) := rfl
@[simp] theorem modMy_run (f : Slot → Slot) (s : State) : modMy f s = .ok ((), modSlot s s.cur (actOf s s.cur) f) := rfl
@[simp] theorem modMyCore_run (f : Core → Core) (s : State) : modMyCore f s = .ok ((), modCore s s.cur f) := rfl
@[simp] theorem freshId_run (s : State) : freshId s = .ok (s.nextId, { s with nextId := s.nextId + 1 }) := rfl

/-- Two effects in order: the first completes and the second runs on what it leaves. -/
theorem bind_ok {α β : Type} {m : M α} {f : α → M β} {s t : State} {a : α} (h : m s = .ok (a, t)) : (m >>= f) s = f a t := by
  simp only [Bind.bind, StateT.bind, Except.bind, h]

/-- Two effects in order: the first stops. -/
theorem bind_error {α β : Type} {m : M α} {f : α → M β} {s : State} {x : Stop} (h : m s = .error x) : (m >>= f) s = .error x := by
  simp only [Bind.bind, StateT.bind, Except.bind, h]

/-- A sequence completes exactly where its first part completes and its second part completes on what that leaves. -/
theorem seq_completes {α β : Type} (m : M α) (f : α → M β) (s : State) (r : β × State) :
    (m >>= f) s = .ok r ↔ ∃ p, m s = .ok p ∧ f p.1 p.2 = .ok r := by
  cases e : m s <;> simp [Bind.bind, StateT.bind, Except.bind, e]

/-! ### Operands (R11 to R15) -/

theorem Keeps.popD (r : Fin 4) : Keeps (popD r) := by
  unfold Machine.popD
  refine .bind .myCore fun c => .bind .myIdx fun i => .bind .mySlot fun sl => ?_
  split
  · exact .raise _
  · split
    · exact .raise _
    · split
      · exact .waitOn _
      · split
        · exact fun s h t ht => ht
        · exact .bind (.modMy _) fun _ => .pure _

theorem Keeps.pushD (r : Fin 4) (v : Word) : Keeps (pushD r v) := by
  unfold Machine.pushD
  refine .bind .myCore fun c => .bind .myIdx fun i => .bind .mySlot fun sl => ?_
  split
  · exact .raise _
  · split
    · exact .raise _
    · split
      · exact fun s h t ht => ht
      · exact .ite (.waitOn _) (.bind .get fun _ => .modMy _)

theorem Keeps.fetchSrc (x : Src) : Keeps (fetchSrc x) := by
  unfold Machine.fetchSrc
  refine .bind .get fun s => .bind .mySlot fun sl => ?_
  cases x <;> try exact .pure _
  · dsimp only
    repeat' split
    · exact .waitOn _
    · exact .raise _
    · exact .pure _
  · exact .popD _

theorem Keeps.emptyE (l : List Src) : Keeps (emptyE l) := by
  induction l with
  | nil => exact .pure ()
  | cons x r ih => cases x <;> first | exact ih | exact .bind (.modMy _) fun _ => ih

theorem Keeps.read1 (a : Src) : Keeps (read1 a) := .bind (.fetchSrc a) fun _ => .bind (.emptyE _) fun _ => .pure _
theorem Keeps.read2 (a b : Src) : Keeps (read2 a b) :=
  .bind (.fetchSrc a) fun _ => .bind (.fetchSrc b) fun _ => .bind (.emptyE _) fun _ => .pure _
theorem Keeps.read3 (a b c : Src) : Keeps (read3 a b c) :=
  .bind (.fetchSrc a) fun _ => .bind (.fetchSrc b) fun _ => .bind (.fetchSrc c) fun _ => .bind (.emptyE _) fun _ => .pure _
theorem Keeps.readG (r : GReg) : Keeps (readG r) := fun _ h => h
theorem Keeps.readGZ (r : GZ) : Keeps (readGZ r) := by cases r <;> exact fun _ h => h
theorem Keeps.writeG (r : GReg) (v : Word) : Keeps (writeG r v) := .modMy _
theorem Keeps.writeGZ (r : GZ) (v : Word) : Keeps (writeGZ r v) := by cases r <;> exact fun _ h => h
theorem Keeps.writeGN (r : Nat) (v : Word) : Keeps (writeGN r v) := .modMy _
theorem Keeps.readRun (r n : Nat) : Keeps (readRun r n) := fun _ h => h
theorem Keeps.writeDst (d : Dst) (v : Word) : Keeps (writeDst d v) := by
  cases d
  · exact .writeG _ _
  · exact .pushD _ _
  · exact .pure ()

/-- A general register read, and written. -/
@[simp] theorem readG_run (r : GReg) (s : State) : readG r s = .ok ((slotAt s s.cur (actOf s s.cur)).g.get r, s) := rfl
@[simp] theorem writeG_run (r : GReg) (v : Word) (s : State) :
    writeG r v s = .ok ((), modSlot s s.cur (actOf s s.cur) fun sl => sl.setG r v) := rfl
@[simp] theorem writeDst_zr (v : Word) (s : State) : writeDst .zr v s = .ok ((), s) := rfl
@[simp] theorem writeDst_g (r : GReg) (v : Word) (s : State) : writeDst (.g r) v s = writeG r v s := rfl

/-- Reading sources that are general registers changes nothing. -/
theorem read1_g (r : GReg) (s : State) : read1 (.g r) s = .ok ((slotAt s s.cur (actOf s s.cur)).g.get r, s) := rfl
theorem read2_gg (a b : GReg) (s : State) : read2 (.g a) (.g b) s =
    .ok (((slotAt s s.cur (actOf s s.cur)).g.get a, (slotAt s s.cur (actOf s s.cur)).g.get b), s) := rfl

/-! ### Results of sources -/

/-- An operation completes where its sources are readable and its destination takes the result. -/
theorem unOp_ok {d : Dst} {a : Src} {f : Word → Word} {s s1 s2 : State} {x : Word} (h1 : read1 a s = .ok (x, s1))
    (h2 : writeDst d (f x) s1 = .ok ((), s2)) : unOp d a f s = .ok (.next, s2) := by
  simp only [unOp, bind_ok h1, bind_ok h2]; rfl
theorem binOp_ok {d : Dst} {a b : Src} {f : Word → Word → Word} {s s1 s2 : State} {x y : Word} (h1 : read2 a b s = .ok ((x, y), s1))
    (h2 : writeDst d (f x y) s1 = .ok ((), s2)) : binOp d a b f s = .ok (.next, s2) := by
  simp only [binOp, bind_ok h1, bind_ok h2]; rfl
theorem triOp_ok {d : Dst} {a b c : Src} {f : Word → Word → Word → Word} {s s1 s2 : State} {x y z : Word}
    (h1 : read3 a b c s = .ok ((x, y, z), s1)) (h2 : writeDst d (f x y z) s1 = .ok ((), s2)) : triOp d a b c f s = .ok (.next, s2) := by
  simp only [triOp, bind_ok h1, bind_ok h2]; rfl

theorem Keeps.unOp (d : Dst) (a : Src) (f : Word → Word) : Keeps (unOp d a f) :=
  .bind (.read1 a) fun _ => .bind (.writeDst d _) fun _ => .pure _
theorem Keeps.binOp (d : Dst) (a b : Src) (f : Word → Word → Word) : Keeps (binOp d a b f) :=
  .bind (.read2 a b) fun _ => .bind (.writeDst d _) fun _ => .pure _
theorem Keeps.triOp (d : Dst) (a b c : Src) (f : Word → Word → Word → Word) : Keeps (triOp d a b c f) :=
  .bind (.read3 a b c) fun _ => .bind (.writeDst d _) fun _ => .pure _

end Sys2Proof.Machine
end

