-- ==== Sys2Proof/Laws/Accesses.lean ====
section
/-! SUPPORT. Accesses: translation, local resolution, loads, stores and read-modify-writes keep memory's form, and what an access to the
program data of the core's own slice does (R116, R117, R121). -/

set_option Elab.async false

namespace Sys2Proof.Machine

/-! ### State operations behind accesses -/

@[simp] theorem fillUtlb_mem (s : State) (c : Nat) (e : TlbEntry) : (fillUtlb s c e).mem = s.mem := rfl
@[simp] theorem inject_mem (s : State) (d : Nat) (x : Sender) (b : MsgBody) : (inject s d x b).mem = s.mem := rfl
@[simp] theorem addEnt_mem (s : State) (c : Nat) (f : Nat → StoreEnt) : (addEnt s c f).mem = s.mem := rfl
@[simp] theorem enqueue_mem (s : State) (c cls : Nat) (d : Desc) (l : Option Nat) (x : Nat) (w : Word) (k : Nat) (data : List Word) :
    (enqueue s c cls d l x w k data).mem = s.mem := rfl
@[simp] theorem addWalk_mem (s : State) (q sp a : Nat) (cw : Bool) (who : Walker) : (addWalk s q sp a cw who).mem = s.mem := by
  unfold addWalk; dsimp only; repeat' split
  all_goals rfl
@[simp] theorem sendCounts_mem (s : State) (x : Sender) (l : List (Word × Bool)) : (sendCounts s x l).mem = s.mem := by
  induction l generalizing s with
  | nil => rfl
  | cons p r ih => obtain ⟨a, b⟩ := p; exact ih _
@[simp] theorem wtFire_mem (s : State) (c n : Nat) (l : List Nat) : (wtFire s c n l).mem = s.mem := by
  induction l generalizing s with
  | nil => rfl
  | cons j r ih =>
    unfold wtFire
    repeat' split
    all_goals exact ih _
@[simp] theorem counterUpdate_mem (s : State) (c n : Nat) (v : BitVec 32) : (counterUpdate s c n v).mem = s.mem := wtFire_mem ..
@[simp] theorem ownCounter_mem (s : State) (c n : Nat) (v : BitVec 32) : (ownCounter s c n v).mem = s.mem := wtFire_mem ..

/-- A read of several ranges that finds bit errors keeps the form. -/
theorem eccScan_memOk {s : State} (l : List (Nat × Nat)) (h : s.MemOk) : (eccScan s l).MemOk :=
  memOk_foldl _ _ h fun _ ht _ _ => eccTouch_memOk _ _ ht

/-- A copy within a slice keeps the form. -/
theorem copyLocal_memOk {s : State} (c a b n : Nat) (h : s.MemOk) : (copyLocal s c a b n).MemOk := perform_memOk _ _ h

/-! ### Translation -/

theorem Keeps.lookup (va : Word) : Keeps (lookup va) := by
  unfold Machine.lookup
  refine .bind_get fun s h => ?_
  dsimp only
  split
  · exact .raiseAt _ _
  · split
    · exact .raiseT _
    · exact .raiseAt _ _
    · exact .pure _
    · split
      · exact .pure _
      · split
        · exact .bind (.set (.of_mem h rfl)) fun _ => .pure _
        · exact .waitWith _ fun s h => .of_mem h (addWalk_mem ..)


theorem Keeps.permit (e : TlbEntry) (acc : Acc) (va : Word) (a : Option WalkAns) {ask : State → State}
    (h : ∀ s : State, s.MemOk → (ask s).MemOk) : Keeps (permit e acc va a ask) := by
  unfold Machine.permit
  repeat' split
  all_goals first
    | exact .raiseAt _ _
    | exact .raiseT _
    | exact .waitWith _ h
    | exact .pure _

theorem Keeps.xlate (acc : Acc) (va : Word) : Keeps (xlate acc va) := by
  unfold Machine.xlate
  refine .bind (.lookup va) fun e => .bind_get fun s h => ?_
  exact .bind (.permit _ _ _ _ fun s h => .of_mem h (addWalk_mem ..)) fun _ => .pure _

theorem Keeps.globalSegs (acc : Acc) (f : Nat) (va : Word) (n : Nat) : Keeps (globalSegs acc f va n) := by
  induction f generalizing va n with
  | zero => exact .pure _
  | succ f ih =>
    unfold Machine.globalSegs
    dsimp only
    refine .ite (.pure _) (.bind (.xlate _ _) fun e => ?_)
    exact .bind_get fun _ _ => .bind (.raiseIf _ _ _) fun _ => .bind (.raiseIf _ _ _) fun _ => .bind (.raiseIf _ _ _) fun _ =>
      .bind (ih _ _) fun _ => .pure _

/-! ### Local addresses -/

theorem Keeps.cowLines (l : List Nat) : Keeps (cowLines l) := by
  induction l with
  | nil => exact .pure ()
  | cons x r ih =>
    unfold Machine.cowLines
    refine .bind_get fun s h => ?_
    dsimp only
    split
    · exact ih
    · exact .bind (.modify fun _ h => copyLocal_memOk _ _ _ _ h) fun _ => .bind (.modMy _) fun _ => ih

theorem Keeps.tplAccess (acc : Acc) (ea n : Nat) : Keeps (tplAccess acc ea n) := by
  unfold Machine.tplAccess
  refine .bind .mySlot fun sl => .bind .myCore fun c => ?_
  dsimp only
  refine .ite (.pure _) (.bind (.raiseIf _ _ _) fun _ => .bind (.raiseIf _ _ _) fun _ => .bind (.cowLines _) fun _ =>
    .bind .mySlot fun _ => .pure _)

theorem Keeps.localSegs (acc : Acc) (ea : Word) (n : Nat) : Keeps (localSegs acc ea n) := by
  unfold Machine.localSegs
  refine .bind .mySlot fun sl => .bind .myCore fun c => ?_
  split
  · exact .raiseAt _ _
  · exact .pure _
  · exact .tplAccess _ _ _
  · exact .globalSegs _ _ _ _

theorem Keeps.resolveRaw (spc : Bool) (ea : Word) (n : Nat) (acc : Acc) : Keeps (resolveRaw spc ea n acc) :=
  .ite (.globalSegs _ _ _ _) (.localSegs _ _ _)

theorem Keeps.resolve (spc : Bool) (ea : Word) (n : Nat) (acc : Acc) : Keeps (resolve spc ea n acc) := by
  unfold Machine.resolve
  refine .bind (.resolveRaw _ _ _ _) fun gs => .bind_get fun s h => ?_
  repeat' split
  all_goals first
    | exact .raiseAt _ _
    | exact .pure _

/-! ### Loads -/

theorem Keeps.releaseTask : Keeps releaseTask := .bind_get fun _ _ => .ite (.waitOn _) (.pure _)

theorem Keeps.releaseOnce : Keeps releaseOnce := .bind .mySlot fun _ => .ite .releaseTask (.pure _)

theorem Keeps.inOrder : Keeps inOrder := .bind_get fun _ _ => .ite (.waitOn _) (.pure _)

theorem Keeps.readOrder : Keeps readOrder := .bind .inOrder fun _ => .bind_get fun _ _ => .ite (.waitOn _) (.pure _)

theorem Keeps.awaitReply (w : Wait) (va : Word) {ask : State → State} (h : ∀ s : State, s.MemOk → (ask s).MemOk) :
    Keeps (awaitReply w va ask) := by
  unfold Machine.awaitReply
  refine .bind .mySlot fun sl => ?_
  split
  · exact .waitWith _ h
  · exact .waitWith _ h
  · exact .waitOn _
  · exact .raiseT _
  · exact .raiseAt _ _
  · exact .pure _

theorem Keeps.awaitMemory : Keeps awaitMemory := by
  unfold Machine.awaitMemory
  refine .bind .mySlot fun sl => ?_
  exact .ite (.waitWith _ fun s h => h) (.pure _)

theorem Keeps.waitOutbound (r : Bool) : Keeps (waitOutbound r) := .bind_get fun _ _ => .ite (.waitOn _) (.pure _)

theorem Keeps.poisonAt {α : Type} (va : Word) (pa n : Nat) : Keeps (poisonAt va pa n : M α) := fun _ _ _ ht => eccTouch_memOk _ _ ht

theorem Keeps.readHere (g : Seg) : Keeps (readHere g) := by
  unfold Machine.readHere
  refine .bind_get fun s h => ?_
  exact .when (.waitOn _) (.when (.poisonAt _ _ _) (.bind (.set (eccTouch_memOk _ _ h)) fun _ => .pure _))

theorem Keeps.readSeg (g : Seg) : Keeps (readSeg g) := by
  unfold Machine.readSeg
  refine .bind .readOrder fun _ => .bind_get fun s h => .when (.waitOn _) ?_
  split
  · split
    · exact .readHere _
    · split
      · split
        · exact .waitOn _
        · exact .bind (.raiseIf _ _ _) fun _ => .pure _
      · exact .bind (.awaitReply _ _ fun _ h => h) fun _ => .pure _
  · split
    · exact .raiseAt _ _
    · split
      · exact .pure _
      · exact .bind (.awaitReply _ _ fun _ h => h) fun _ => .pure _
  · exact .bind .awaitMemory fun _ => .readHere _

theorem Keeps.loadScalar (spc : Bool) (ea : Word) (n : Nat) : Keeps (loadScalar spc ea n) := by
  unfold Machine.loadScalar
  refine .bind (.resolve _ _ _ _) fun gs => ?_
  split
  · exact .pure _
  · exact .readSeg _

/-! ### Stores -/

theorem Keeps.bufferRoom : Keeps bufferRoom := .bind_get fun _ _ => .ite (.waitOn _) (.pure _)

theorem Keeps.pushEnt (f : StoreEnt → StoreEnt) (va : Word) (b : List (Nat × Byte)) : Keeps (pushEnt f va b) :=
  .bind .bufferRoom fun _ => .modify fun _ h => h

theorem Keeps.refuseStore (va : Word) : Keeps (refuseStore va) := .modify fun _ h => .of_mem h (errRec_mem ..)

theorem Keeps.storeSeg (g : Seg) (v : Word) (r : Bool) : Keeps (storeSeg g v r) := by
  unfold Machine.storeSeg
  refine .bind_get fun s h => ?_
  dsimp only
  refine .ite (.refuseStore _) ?_
  split
  · exact .when (.raiseIf _ _ _) (.pushEnt _ _ _)
  · exact .ite (.raiseAt _ _) (.pushEnt _ _ _)
  · exact .pushEnt _ _ _

theorem Keeps.storeScalar (spc : Bool) (ea : Word) (n : Nat) (v : Word) (r : Bool) : Keeps (storeScalar spc ea n v r) := by
  unfold Machine.storeScalar
  refine .bind (.resolve _ _ _ _) fun gs => .bind .inOrder fun _ => ?_
  split
  · exact .pure _
  · exact .storeSeg _ _ _

theorem Keeps.bulkRoom : Keeps bulkRoom := .bind .inOrder fun _ => .bufferRoom

theorem Keeps.readBulk (l : List Seg) : Keeps (readBulk l) := by
  induction l with
  | nil => exact .pure _
  | cons g r ih =>
    unfold Machine.readBulk
    refine .bind .readOrder fun _ => .bind_get fun s h => .when (.waitOn _) ?_
    have rest : Keeps (do
        MonadStateOf.set (eccTouch s g.pa g.n)
        let l ← Machine.readBulk r
        return ((List.range g.n).map fun j => (fwdByte (eccTouch s g.pa g.n) (coreOf s s.cur) (g.pa + j),
          fwdPoison (eccTouch s g.pa g.n) (coreOf s s.cur) (g.pa + j))) ++ l) :=
      .bind (.set (eccTouch_memOk _ _ h)) fun _ => .bind ih fun _ => .pure _
    dsimp only
    split
    · exact .when (.waitOn _) rest
    · exact rest

theorem Keeps.storeBulk (data : List (Option Byte)) (p r : Bool) (t : Option (Fin 4)) (l : List Seg) : Keeps (storeBulk data p r t l) := by
  induction l generalizing data with
  | nil => exact .pure _
  | cons g l ih =>
    unfold Machine.storeBulk
    refine .bind_get fun s h => ?_
    dsimp only
    exact .when (.refuseStore _) (.when (.modify fun _ h => h) (ih _))

/-! ### Read-modify-writes -/

theorem Keeps.deliverR (va : Word) (d : RDst) (r : Reply) {u : State → State} (hu : ∀ s : State, s.MemOk → (u s).MemOk) :
    Keeps (deliverR va d r u) := by
  unfold Machine.deliverR
  split
  · exact .raiseT _
  · exact fun _ _ => hu
  · exact .bind (.modMy _) fun _ => .pure _
  · exact .bind .mySlot fun _ => .bind_get fun _ _ => .bind (.modify fun _ h => .of_mem h (errRec_mem ..)) fun _ => .pure _
  · exact .bind (.modMy _) fun _ => .pure _
  · exact .pure _

theorem Keeps.sendRmw (g : Seg) (q : RTo → SbReq) (l : List (Nat × Nat)) (far acq : Bool) (d : RDst) : Keeps (sendRmw g q l far acq d) := by
  unfold Machine.sendRmw
  refine .bind .myIdx fun i => ?_
  dsimp only
  split
  · exact .bind (.raiseIf _ _ _) fun _ => .bind .mySlot fun _ =>
      .ite (.bind (.waitOutbound _) fun _ => .bind .bufferRoom fun _ => .awaitReply _ _ fun _ h => h) (.awaitReply _ _ fun _ h => h)
  · exact .bind (.waitOutbound _) fun _ => .bind (.pushEnt _ _ _) fun _ => .pure _
  · exact .bind (.waitOutbound _) fun _ => .bind (.pushEnt _ _ _) fun _ => .pure _

theorem Keeps.rmwSeg (g : Seg) (op : Rmw) (d : RDst) (acq : Bool) : Keeps (rmwSeg g op d acq) := by
  unfold Machine.rmwSeg
  refine .bind .inOrder fun _ => .bind_get fun s h => .when (.waitOn _) ?_
  split
  · refine .ite (.sendRmw _ _ _ _ _ _) (.bind .readOrder fun _ => .when (.waitOn _) (.bind (.raiseIf _ _ _) fun _ => ?_))
    refine .bind (.set (eccScan_memOk _ h)) fun _ => .when (.pushEnt _ _ _) ?_
    exact .bind (.modify fun _ h => .of_mem h (sendCounts_mem ..)) fun _ => .deliverR _ _ _ fun _ h => eccScan_memOk _ h
  · split
    · refine .ite (.raiseAt _ _) (.ite ?_ (.sendRmw _ _ _ _ _ _))
      exact .bind .readOrder fun _ => .bind (.modify fun _ h => .of_mem h (ownCounter_mem ..)) fun _ => .deliverR _ _ _ fun _ h => h
    · exact .raiseAt _ _
  · exact .sendRmw _ _ _ _ _ _

/-! ### The core's own slice -/

/-- A local address below `QBASE` is its own offset of the slice (R116). -/
theorem localTarget_data {sl : Slot} {ea n : Nat} (h : ea + n ≤ sl.qbase.toNat) (hq : sl.qbase.toNat ≤ 0x18000) :
    localTarget sl ea n = .ok (.slice ea) := by
  unfold localTarget
  have h1 : ¬ 0x18000 < ea + n := by omega
  simp only [h1, h, if_true, if_false]

/-- An access to program data of the core's own slice is one piece, whatever it does there. -/
theorem localSegs_data {s : State} {ea : Word} {n : Nat} (acc : Acc)
    (h : ea.toNat + n ≤ (slotAt s s.cur (actOf s s.cur)).qbase.toNat)
    (hq : (slotAt s s.cur (actOf s s.cur)).qbase.toNat ≤ 0x18000) :
    localSegs acc ea n s = .ok ([⟨ea, windowPa s.cur ea.toNat, n, .normal, 0, false⟩], s) := by
  simp only [localSegs, bind_ok (mySlot_run s), bind_ok (myCore_run s), localTarget_data h hq]
  rfl

end Sys2Proof.Machine
end

