-- ==== Sys2Proof/Laws/Decode.lean ====
section
/-! SUPPORT. What each reader of a field gives on the code the encoder writes, the value of each packed word, and which part of the
opcode map an opcode selects. The round trip of every instruction (`Laws/PerInstr.lean`) rests on these. -/

set_option Elab.async false

namespace Sys2Proof

/-! ### The codes and their readers -/

theorem Src.code_lt (x : Src) : x.code < 64 := by cases x <;> simp only [Src.code] <;> omega
theorem Dst.code_lt (x : Dst) : x.code < 64 := by cases x <;> simp only [Dst.code] <;> omega
theorem GZ.code_lt (x : GZ) : x.code < 64 := by cases x <;> simp only [GZ.code] <;> omega
theorem RDst.code_lt (x : RDst) : x.code < 64 := by cases x <;> simp only [RDst.code] <;> omega
theorem PopDst.code_lt (x : PopDst) : x.code < 64 := by cases x <;> simp only [PopDst.code] <;> omega
theorem Sz.code_lt (x : Sz) : x.code < 4 := by cases x <;> decide
theorem FSz.code_lt (x : FSz) : x.code < 2 := by cases x <;> decide
theorem Rm.code_lt (x : Rm) : x.code < 4 := by cases x <;> decide
theorem Et.code_lt (x : Et) : x.code < 6 := by cases x <;> decide
theorem Scope.code_lt (x : Scope) : x.code < 6 := by cases x <;> decide
theorem FenceKind.code_lt (x : FenceKind) : x.code < 3 := by cases x <;> decide

theorem srcOf_code (x : Src) : srcOf x.code = .ok x := by
  cases x with
  | g r => simp [Src.code, srcOf]
  | e r => revert r; decide
  | d r => revert r; decide
  | _ => decide
theorem dstOf_code (x : Dst) : dstOf x.code = .ok x := by
  cases x with
  | g r => revert r; decide
  | d r => revert r; decide
  | zr => decide
theorem gzOf_code (x : GZ) : gzOf x.code = .ok x := by
  cases x with
  | g r => simp [GZ.code, gzOf]
  | zr => decide
theorem rdstOf_code (x : RDst) : rdstOf x.code = .ok x := by
  cases x with
  | g r => revert r; decide
  | e r => revert r; decide
  | zr => decide
theorem popOf_code (x : PopDst) : popOf x.code = .ok x := by
  cases x with
  | g r => revert r; decide
  | e r => revert r; decide
  | zr => decide
@[simp] theorem srcOf_zero : srcOf 0 = .ok (.g 0) := rfl
@[simp] theorem gzOf_zero : gzOf 0 = .ok (.g 0) := rfl

theorem gOf_val (r : GReg) : gOf r.val = .ok r := by simp [gOf]
theorem eOf_val (r : EReg) : eOf (24 + r.val) = .ok r := by revert r; decide
theorem szOf_code (x : Sz) : szOf x.code = x := by cases x <;> rfl
theorem fszOf_code (x : FSz) : fszOf x.code = .ok x := by cases x <;> rfl
theorem rmOf_code (x : Rm) : rmOf x.code = x := by cases x <;> rfl
theorem etOf_code (x : Et) : etOf x.code = .ok x := by cases x <;> rfl
theorem scopeOf_code (x : Scope) : scopeOf x.code = .ok x := by cases x <;> rfl
theorem modeOf_ord (m : Mode) : modeOf m.spc m.ord.toNat = .ok m := by obtain ⟨_, _ | _⟩ := m <;> rfl
theorem finOfNat_val {n : Nat} [NeZero n] (x : Fin n) : Fin.ofNat n x.val = x := by simp
theorem boolNat_eq (b : Bool) : decide (b.toNat = 1) = b := by cases b <;> rfl

theorem Sz.code_zero {x : Sz} : x.code = 0 ↔ x = .d := by cases x <;> decide
theorem Rm.code_two {x : Rm} : x.code = 2 ↔ x = .sr := by cases x <;> decide
theorem GZ.code_zero {x : GZ} : x.code = 0 ↔ x = .g 0 := by
  cases x with
  | g r => revert r; decide
  | zr => decide
theorem need_true {b : Bool} (h : b = true) : need b = .ok () := by rw [h]; rfl
theorem srcIf_code {p : Src → Bool} {x : Src} (h : p x = true) : srcIf p x.code = .ok x := by simp [srcIf, srcOf_code, h]
theorem gUpTo_val {m : Nat} {r : GReg} (h : r.val ≤ m) : gUpTo m r.val = .ok r := by simp [gUpTo, h]

/-! ### The value of a packed word -/

theorem packR_toNat {op fn d a b sz c mod : Nat} (h0 : op < 256) (h1 : fn < 16) (h2 : d < 64) (h3 : a < 64) (h4 : b < 64) (h5 : sz < 4)
    (h6 : c < 64) (h7 : mod < 2 ^ 26) : (packR op fn d a b sz c mod).toNat =
      op * 2 ^ 56 + fn * 2 ^ 52 + d * 2 ^ 46 + a * 2 ^ 40 + b * 2 ^ 34 + sz * 2 ^ 32 + c * 2 ^ 26 + mod := by
  simp only [packR, word, BitVec.toNat_ofNat]; omega
theorem packL_toNat {op fn d a c sz lit : Nat} (h0 : op < 256) (h1 : fn < 16) (h2 : d < 64) (h3 : a < 64) (h4 : c < 64) (h5 : sz < 4)
    (h6 : lit < 2 ^ 32) : (packL op fn d a c sz lit).toNat =
      op * 2 ^ 56 + fn * 2 ^ 52 + d * 2 ^ 46 + a * 2 ^ 40 + c * 2 ^ 34 + sz * 2 ^ 32 + lit := by
  simp only [packL, word, BitVec.toNat_ofNat]; omega
theorem packW_toNat {op fn wd wa wb k et s g mod : Nat} {kz : Bool} (h0 : op < 256) (h1 : fn < 16) (h2 : wd < 16) (h3 : wa < 16)
    (h4 : wb < 16) (h5 : k < 4) (h6 : et < 8) (h7 : s < 4) (h8 : g < 64) (h9 : mod < 2 ^ 26) :
    (packW op fn wd wa wb k kz et s g mod).toNat =
      op * 2 ^ 56 + fn * 2 ^ 52 + wd * 2 ^ 48 + wa * 2 ^ 44 + wb * 2 ^ 40 + k * 2 ^ 38 + kz.toNat * 2 ^ 37 + et * 2 ^ 34 +
        s * 2 ^ 32 + g * 2 ^ 26 + mod := by
  have := Bool.toNat_lt kz
  simp only [packW, word, BitVec.toNat_ofNat]; omega
theorem packWL_toNat {op fn wd wa k et lit : Nat} {kz : Bool} (h0 : op < 256) (h1 : fn < 16) (h2 : wd < 16) (h3 : wa < 16)
    (h5 : k < 4) (h6 : et < 8) (h9 : lit < 2 ^ 32) :
    (packWL op fn wd wa k kz et lit).toNat =
      op * 2 ^ 56 + fn * 2 ^ 52 + wd * 2 ^ 48 + wa * 2 ^ 44 + k * 2 ^ 38 + kz.toNat * 2 ^ 37 + et * 2 ^ 34 + 2 ^ 32 + lit := by
  have := Bool.toNat_lt kz
  simp only [packWL, word, BitVec.toNat_ofNat]; omega
theorem packX_toNat {op fn c a b sp lit : Nat} (h0 : op < 256) (h1 : fn < 16) (h2 : c < 4) (h3 : a < 64) (h4 : b < 64) (h5 : sp < 4)
    (h6 : lit < 2 ^ 32) : (packX op fn c a b sp lit).toNat =
      op * 2 ^ 56 + fn * 2 ^ 52 + c * 2 ^ 50 + a * 2 ^ 42 + b * 2 ^ 36 + sp * 2 ^ 34 + lit := by
  simp only [packX, word, BitVec.toNat_ofNat]; omega

/-! ### The fields of a packed word -/

/-- A field below a multiple of a power of two that covers it. -/
theorem field_low {x m k lo n : Nat} (h : lo + n ≤ k) : (x * 2 ^ k + m) / 2 ^ lo % 2 ^ n = m / 2 ^ lo % 2 ^ n := by
  obtain ⟨j, rfl⟩ := Nat.exists_eq_add_of_le h
  rw [show x * 2 ^ (lo + n + j) + m = m + x * 2 ^ j * 2 ^ n * 2 ^ lo by ring, Nat.add_mul_div_right _ _ (by positivity),
    Nat.add_mul_mod_self_right]

/-- A field inside a part of the word that starts at bit `s` and is `k` bits wide. -/
theorem field_mid {x c m s k lo n : Nat} (hm : m < 2 ^ s) (h1 : s ≤ lo) (h2 : lo + n ≤ s + k) :
    ((x * 2 ^ k + c) * 2 ^ s + m) / 2 ^ lo % 2 ^ n = c / 2 ^ (lo - s) % 2 ^ n := by
  obtain ⟨j, rfl⟩ := Nat.exists_eq_add_of_le h1
  rw [Nat.add_sub_cancel_left, Nat.pow_add, ← Nat.div_div_eq_div_mul, Nat.add_comm, Nat.add_mul_div_right _ _ (by positivity),
    Nat.div_eq_of_lt hm, Nat.zero_add, field_low (by omega)]

structure FieldsR (w : Word) (op fn d a b sz c mod : Nat) : Prop where
  op : fld w 56 8 = op
  fn : fld w 52 4 = fn
  d : fld w 46 6 = d
  a : fld w 40 6 = a
  b : fld w 34 6 = b
  sz : fld w 32 2 = sz
  c : fld w 26 6 = c
  mod : ∀ lo n, lo + n ≤ 26 → fld w lo n = mod / 2 ^ lo % 2 ^ n

theorem fieldsR {w : Word} {op fn d a b sz c mod : Nat} (hw : w = packR op fn d a b sz c mod) (h0 : op < 256) (h1 : fn < 16) (h2 : d < 64)
    (h3 : a < 64) (h4 : b < 64) (h5 : sz < 4) (h6 : c < 64) (h7 : mod < 2 ^ 26) : FieldsR w op fn d a b sz c mod := by
  have h := packR_toNat h0 h1 h2 h3 h4 h5 h6 h7
  rw [← hw] at h
  refine ⟨?_, ?_, ?_, ?_, ?_, ?_, ?_, fun lo n hl => ?_⟩ <;> rw [fld, h] <;> first | omega | skip
  exact (congrArg (· / 2 ^ lo % 2 ^ n) (by omega)).trans (field_low (x := op * 2 ^ 30 + fn * 2 ^ 26 + d * 2 ^ 20 + a * 2 ^ 14 + b * 2 ^ 8 + sz * 2 ^ 6 + c) hl)

structure FieldsL (w : Word) (op fn d a c sz lit : Nat) : Prop where
  op : fld w 56 8 = op
  fn : fld w 52 4 = fn
  d : fld w 46 6 = d
  a : fld w 40 6 = a
  sz : fld w 32 2 = sz
  c : ∀ lo n, 34 ≤ lo → lo + n ≤ 40 → fld w lo n = c / 2 ^ (lo - 34) % 2 ^ n
  lit : ∀ lo n, lo + n ≤ 32 → fld w lo n = lit / 2 ^ lo % 2 ^ n

theorem fieldsL {w : Word} {op fn d a c sz lit : Nat} (hw : w = packL op fn d a c sz lit) (h0 : op < 256) (h1 : fn < 16) (h2 : d < 64)
    (h3 : a < 64) (h4 : c < 64) (h5 : sz < 4) (h6 : lit < 2 ^ 32) : FieldsL w op fn d a c sz lit := by
  have h := packL_toNat h0 h1 h2 h3 h4 h5 h6
  rw [← hw] at h
  refine ⟨?_, ?_, ?_, ?_, ?_, fun lo n hl hl' => ?_, fun lo n hl => ?_⟩ <;> rw [fld, h] <;> first | omega | skip
  · exact (congrArg (· / 2 ^ lo % 2 ^ n) (by omega)).trans (field_mid (x := op * 2 ^ 16 + fn * 2 ^ 12 + d * 2 ^ 6 + a) (k := 6) (m := sz * 2 ^ 32 + lit) (by omega) hl (by omega))
  · exact (congrArg (· / 2 ^ lo % 2 ^ n) (by omega)).trans (field_low (x := op * 2 ^ 24 + fn * 2 ^ 20 + d * 2 ^ 14 + a * 2 ^ 8 + c * 2 ^ 2 + sz) hl)

structure FieldsW (w : Word) (op fn wd wa wb k : Nat) (kz : Bool) (et s g mod : Nat) : Prop where
  op : fld w 56 8 = op
  fn : fld w 52 4 = fn
  wd : fld w 48 4 = wd
  wa : fld w 44 4 = wa
  wb : fld w 40 4 = wb
  k : fld w 38 2 = k
  kz : fld w 37 1 = kz.toNat
  et : fld w 34 3 = et
  s : fld w 32 2 = s
  g : fld w 26 6 = g
  mod : ∀ lo n, lo + n ≤ 26 → fld w lo n = mod / 2 ^ lo % 2 ^ n

theorem fieldsW {w : Word} {op fn wd wa wb k et s g mod : Nat} {kz : Bool} (hw : w = packW op fn wd wa wb k kz et s g mod)
    (h0 : op < 256) (h1 : fn < 16) (h2 : wd < 16) (h3 : wa < 16) (h4 : wb < 16) (h5 : k < 4) (h6 : et < 8) (h7 : s < 4) (h8 : g < 64)
    (h9 : mod < 2 ^ 26) : FieldsW w op fn wd wa wb k kz et s g mod := by
  have h := packW_toNat (kz := kz) h0 h1 h2 h3 h4 h5 h6 h7 h8 h9
  rw [← hw] at h
  have hk := Bool.toNat_lt kz
  refine ⟨?_, ?_, ?_, ?_, ?_, ?_, ?_, ?_, ?_, ?_, fun lo n hl => ?_⟩ <;> rw [fld, h] <;> first | omega | skip
  exact (congrArg (· / 2 ^ lo % 2 ^ n) (by omega)).trans (field_low (x := op * 2 ^ 30 + fn * 2 ^ 26 + wd * 2 ^ 22 + wa * 2 ^ 18 + wb * 2 ^ 14 + k * 2 ^ 12 + kz.toNat * 2 ^ 11 + et * 2 ^ 8 +
    s * 2 ^ 6 + g) hl)

structure FieldsWL (w : Word) (op fn wd wa k : Nat) (kz : Bool) (et lit : Nat) : Prop where
  op : fld w 56 8 = op
  fn : fld w 52 4 = fn
  wd : fld w 48 4 = wd
  wa : fld w 44 4 = wa
  wb : fld w 40 4 = 0
  k : fld w 38 2 = k
  kz : fld w 37 1 = kz.toNat
  et : fld w 34 3 = et
  s : fld w 32 2 = 1
  lit : ∀ lo n, lo + n ≤ 32 → fld w lo n = lit / 2 ^ lo % 2 ^ n

theorem fieldsWL {w : Word} {op fn wd wa k et lit : Nat} {kz : Bool} (hw : w = packWL op fn wd wa k kz et lit)
    (h0 : op < 256) (h1 : fn < 16) (h2 : wd < 16) (h3 : wa < 16) (h5 : k < 4) (h6 : et < 8) (h9 : lit < 2 ^ 32) :
    FieldsWL w op fn wd wa k kz et lit := by
  have h := packWL_toNat (kz := kz) h0 h1 h2 h3 h5 h6 h9
  rw [← hw] at h
  have hk := Bool.toNat_lt kz
  refine ⟨?_, ?_, ?_, ?_, ?_, ?_, ?_, ?_, ?_, fun lo n hl => ?_⟩ <;> rw [fld, h] <;> first | omega | skip
  exact (congrArg (· / 2 ^ lo % 2 ^ n) (by omega)).trans (field_low (x := op * 2 ^ 24 + fn * 2 ^ 20 + wd * 2 ^ 16 + wa * 2 ^ 12 + k * 2 ^ 6 + kz.toNat * 2 ^ 5 + et * 2 ^ 2 + 1) hl)

structure FieldsX (w : Word) (op fn c a b sp lit : Nat) : Prop where
  op : fld w 56 8 = op
  fn : fld w 52 4 = fn
  c : fld w 50 2 = c
  z1 : fld w 48 2 = 0
  a : fld w 42 6 = a
  b : fld w 36 6 = b
  sp : fld w 34 2 = sp
  z2 : fld w 32 2 = 0
  lit : ∀ lo n, lo + n ≤ 32 → fld w lo n = lit / 2 ^ lo % 2 ^ n

theorem fieldsX {w : Word} {op fn c a b sp lit : Nat} (hw : w = packX op fn c a b sp lit) (h0 : op < 256) (h1 : fn < 16) (h2 : c < 4)
    (h3 : a < 64) (h4 : b < 64) (h5 : sp < 4) (h6 : lit < 2 ^ 32) : FieldsX w op fn c a b sp lit := by
  have h := packX_toNat h0 h1 h2 h3 h4 h5 h6
  rw [← hw] at h
  refine ⟨?_, ?_, ?_, ?_, ?_, ?_, ?_, ?_, fun lo n hl => ?_⟩ <;> rw [fld, h] <;> first | omega | skip
  exact (congrArg (· / 2 ^ lo % 2 ^ n) (by omega)).trans (field_low (x := op * 2 ^ 24 + fn * 2 ^ 20 + c * 2 ^ 18 + a * 2 ^ 10 + b * 2 ^ 4 + sp * 2 ^ 2) hl)

/-! ### The opcode map -/

theorem dec_02 {w : Word} (h : fOp w = 0x02) : decodeWord w = decArith w := by unfold decodeWord; rw [h]; rfl
theorem dec_03 {w : Word} (h : fOp w = 0x03) : decodeWord w = decArithL w := by unfold decodeWord; rw [h]; rfl
theorem dec_04 {w : Word} (h : fOp w = 0x04) : decodeWord w = decLogic w := by unfold decodeWord; rw [h]; rfl
theorem dec_05 {w : Word} (h : fOp w = 0x05) : decodeWord w = decLogicL w := by unfold decodeWord; rw [h]; rfl
theorem dec_06 {w : Word} (h : fOp w = 0x06) : decodeWord w = decCmp w := by unfold decodeWord; rw [h]; rfl
theorem dec_07 {w : Word} (h : fOp w = 0x07) : decodeWord w = decCmpL w := by unfold decodeWord; rw [h]; rfl
theorem dec_08 {w : Word} (h : fOp w = 0x08) : decodeWord w = decBits w := by unfold decodeWord; rw [h]; rfl
theorem dec_10 {w : Word} (h : fOp w = 0x10) : decodeWord w = decFp w := by unfold decodeWord; rw [h]; rfl
theorem dec_11 {w : Word} (h : fOp w = 0x11) : decodeWord w = decFpL w := by unfold decodeWord; rw [h]; rfl
theorem dec_12 {w : Word} (h : fOp w = 0x12) : decodeWord w = fn0 w (decFcvt w) := by unfold decodeWord; rw [h]; rfl
theorem dec_20 {w : Word} (h : fOp w = 0x20) : decodeWord w = decBranch w := by unfold decodeWord; rw [h]; rfl
theorem dec_30 {w : Word} (h : fOp w = 0x30) : decodeWord w = fn0 w (decLd w) := by unfold decodeWord; rw [h]; rfl
theorem dec_31 {w : Word} (h : fOp w = 0x31) : decodeWord w = fn0 w (decLdL w) := by unfold decodeWord; rw [h]; rfl
theorem dec_32 {w : Word} (h : fOp w = 0x32) : decodeWord w = fn0 w (decSt w) := by unfold decodeWord; rw [h]; rfl
theorem dec_33 {w : Word} (h : fOp w = 0x33) : decodeWord w = fn0 w (decStL w) := by unfold decodeWord; rw [h]; rfl
theorem dec_34 {w : Word} (h : fOp w = 0x34) : decodeWord w = decNib w := by unfold decodeWord; rw [h]; rfl
theorem dec_35 {w : Word} (h : fOp w = 0x35) : decodeWord w = decNibL w := by unfold decodeWord; rw [h]; rfl
theorem dec_36 {w : Word} (h : fOp w = 0x36) : decodeWord w = fn0 w (decPf w) := by unfold decodeWord; rw [h]; rfl
theorem dec_37 {w : Word} (h : fOp w = 0x37) : decodeWord w = fn0 w (decPfL w) := by unfold decodeWord; rw [h]; rfl
theorem dec_3a {w : Word} (h : fOp w = 0x3A) : decodeWord w = fn0 w (decFence w) := by unfold decodeWord; rw [h]; rfl
theorem dec_3c {w : Word} (h : fOp w = 0x3C) : decodeWord w = fn0 w (decWaita w) := by unfold decodeWord; rw [h]; rfl
theorem dec_40 {w : Word} (h : fOp w = 0x40) : decodeWord w = decScfg w := by unfold decodeWord; rw [h]; rfl
theorem dec_41 {w : Word} (h : fOp w = 0x41) : decodeWord w = decScfgL w := by unfold decodeWord; rw [h]; rfl
theorem dec_42 {w : Word} (h : fOp w = 0x42) : decodeWord w = decSctl w := by unfold decodeWord; rw [h]; rfl
theorem dec_44 {w : Word} (h : fOp w = 0x44) : decodeWord w = fn0 w (decSstat w) := by unfold decodeWord; rw [h]; rfl
theorem dec_50 {w : Word} (h : fOp w = 0x50) : decodeWord w = fn0 w (decSend w) := by unfold decodeWord; rw [h]; rfl
theorem dec_52 {w : Word} (h : fOp w = 0x52) : decodeWord w = fn0 w (decSendw w) := by unfold decodeWord; rw [h]; rfl
theorem dec_54 {w : Word} (h : fOp w = 0x54) : decodeWord w = decRat w := by unfold decodeWord; rw [h]; rfl
theorem dec_55 {w : Word} (h : fOp w = 0x55) : decodeWord w = decRatL w := by unfold decodeWord; rw [h]; rfl
theorem dec_56 {w : Word} (h : fOp w = 0x56) : decodeWord w = fn0 w (decQenq w) := by unfold decodeWord; rw [h]; rfl
theorem dec_58 {w : Word} (h : fOp w = 0x58) : decodeWord w = fn0 w (decQdeq w) := by unfold decodeWord; rw [h]; rfl
theorem dec_5a {w : Word} (h : fOp w = 0x5A) : decodeWord w = decCtr w := by unfold decodeWord; rw [h]; rfl
theorem dec_5c {w : Word} (h : fOp w = 0x5C) : decodeWord w = fn0 w (decWtset w) := by unfold decodeWord; rw [h]; rfl
theorem dec_60 {w : Word} (h : fOp w = 0x60) : decodeWord w = fn0 w (dSpawn w .tspawn) := by unfold decodeWord; rw [h]; rfl
theorem dec_66 {w : Word} (h : fOp w = 0x66) : decodeWord w = fn0 w (decMaskw w) := by unfold decodeWord; rw [h]; rfl
theorem dec_68 {w : Word} (h : fOp w = 0x68) : decodeWord w = decBar w := by unfold decodeWord; rw [h]; rfl
theorem dec_6a {w : Word} (h : fOp w = 0x6A) : decodeWord w = fn0 w (decFrz w) := by unfold decodeWord; rw [h]; rfl
theorem dec_6c {w : Word} (h : fOp w = 0x6C) : decodeWord w = decFut w := by unfold decodeWord; rw [h]; rfl
theorem dec_6e {w : Word} (h : fOp w = 0x6E) : decodeWord w = fn0 w (dSpawn w .tcont) := by unfold decodeWord; rw [h]; rfl
theorem dec_70 {w : Word} (h : fOp w = 0x70) : decodeWord w = fn0 w (dGraph w .gcopy) := by unfold decodeWord; rw [h]; rfl
theorem dec_72 {w : Word} (h : fOp w = 0x72) : decodeWord w = fn0 w (decGsend w) := by unfold decodeWord; rw [h]; rfl
theorem dec_74 {w : Word} (h : fOp w = 0x74) : decodeWord w = fn0 w (dGraph w .gcmp) := by unfold decodeWord; rw [h]; rfl
theorem dec_76 {w : Word} (h : fOp w = 0x76) : decodeWord w = fn0 w (dGraph w .ghash) := by unfold decodeWord; rw [h]; rfl
theorem dec_78 {w : Word} (h : fOp w = 0x78) : decodeWord w = fn0 w (dGraph w .gfree) := by unfold decodeWord; rw [h]; rfl
theorem dec_7a {w : Word} (h : fOp w = 0x7A) : decodeWord w = fn0 w (decLmap w) := by unfold decodeWord; rw [h]; rfl
theorem dec_7c {w : Word} (h : fOp w = 0x7C) : decodeWord w = fn0 w (decOalloc w) := by unfold decodeWord; rw [h]; rfl
theorem dec_7e {w : Word} (h : fOp w = 0x7E) : decodeWord w = decObj w := by unfold decodeWord; rw [h]; rfl
theorem dec_80 {w : Word} (h : fOp w = 0x80) : decodeWord w = decWint w := by unfold decodeWord; rw [h]; rfl
theorem dec_81 {w : Word} (h : fOp w = 0x81) : decodeWord w = decWintL w := by unfold decodeWord; rw [h]; rfl
theorem dec_82 {w : Word} (h : fOp w = 0x82) : decodeWord w = decWfp w := by unfold decodeWord; rw [h]; rfl
theorem dec_83 {w : Word} (h : fOp w = 0x83) : decodeWord w = decWfpL w := by unfold decodeWord; rw [h]; rfl
theorem dec_84 {w : Word} (h : fOp w = 0x84) : decodeWord w = fn0 w (decWcmp w) := by unfold decodeWord; rw [h]; rfl
theorem dec_86 {w : Word} (h : fOp w = 0x86) : decodeWord w = fn0 w (decWsel w) := by unfold decodeWord; rw [h]; rfl
theorem dec_88 {w : Word} (h : fOp w = 0x88) : decodeWord w = fn0 w (decWcvt w) := by unfold decodeWord; rw [h]; rfl
theorem dec_8a {w : Word} (h : fOp w = 0x8A) : decodeWord w = fn0 w (decWred w) := by unfold decodeWord; rw [h]; rfl
theorem dec_8c {w : Word} (h : fOp w = 0x8C) : decodeWord w = fn0 w (decWscan w) := by unfold decodeWord; rw [h]; rfl
theorem dec_8e {w : Word} (h : fOp w = 0x8E) : decodeWord w = decWperm w := by unfold decodeWord; rw [h]; rfl
theorem dec_90 {w : Word} (h : fOp w = 0x90) : decodeWord w = fn0 w (decWmovs w) := by unfold decodeWord; rw [h]; rfl
theorem dec_92 {w : Word} (h : fOp w = 0x92) : decodeWord w = fn0 w (decWidx w) := by unfold decodeWord; rw [h]; rfl
theorem dec_94 {w : Word} (h : fOp w = 0x94) : decodeWord w = fn0 w (decKop w) := by unfold decodeWord; rw [h]; rfl
theorem dec_a0 {w : Word} (h : fOp w = 0xA0) : decodeWord w = fn0 w (decWld w) := by unfold decodeWord; rw [h]; rfl
theorem dec_a1 {w : Word} (h : fOp w = 0xA1) : decodeWord w = fn0 w (decWldL w) := by unfold decodeWord; rw [h]; rfl
theorem dec_a2 {w : Word} (h : fOp w = 0xA2) : decodeWord w = fn0 w (decWst w) := by unfold decodeWord; rw [h]; rfl
theorem dec_a3 {w : Word} (h : fOp w = 0xA3) : decodeWord w = fn0 w (decWstL w) := by unfold decodeWord; rw [h]; rfl
theorem dec_a4 {w : Word} (h : fOp w = 0xA4) : decodeWord w = fn0 w (decWgath w) := by unfold decodeWord; rw [h]; rfl
theorem dec_a6 {w : Word} (h : fOp w = 0xA6) : decodeWord w = fn0 w (decWscat w) := by unfold decodeWord; rw [h]; rfl
theorem dec_a8 {w : Word} (h : fOp w = 0xA8) : decodeWord w = fn0 w (decWldf w) := by unfold decodeWord; rw [h]; rfl
theorem dec_aa {w : Word} (h : fOp w = 0xAA) : decodeWord w = fn0 w (decSealst w) := by unfold decodeWord; rw [h]; rfl
theorem dec_ac {w : Word} (h : fOp w = 0xAC) : decodeWord w = decSpill w := by unfold decodeWord; rw [h]; rfl
theorem dec_ae {w : Word} (h : fOp w = 0xAE) : decodeWord w = fn0 w (decDtld w) := by unfold decodeWord; rw [h]; rfl
theorem dec_b0 {w : Word} (h : fOp w = 0xB0) : decodeWord w = fn0 w (decMctx w) := by unfold decodeWord; rw [h]; rfl
theorem dec_b2 {w : Word} (h : fOp w = 0xB2) : decodeWord w = fn0 w (decMldb w) := by unfold decodeWord; rw [h]; rfl
theorem dec_b4 {w : Word} (h : fOp w = 0xB4) : decodeWord w = fn0 w (decMrot w) := by unfold decodeWord; rw [h]; rfl
theorem dec_b6 {w : Word} (h : fOp w = 0xB6) : decodeWord w = fn0 w (dMma w .mma) := by unfold decodeWord; rw [h]; rfl
theorem dec_b8 {w : Word} (h : fOp w = 0xB8) : decodeWord w = fn0 w (dMma w .mrec) := by unfold decodeWord; rw [h]; rfl
theorem dec_ba {w : Word} (h : fOp w = 0xBA) : decodeWord w = fn0 w (decMprog w) := by unfold decodeWord; rw [h]; rfl
theorem dec_bc {w : Word} (h : fOp w = 0xBC) : decodeWord w = decMacc w := by unfold decodeWord; rw [h]; rfl
theorem dec_be {w : Word} (h : fOp w = 0xBE) : decodeWord w = fn0 w (decMwait w) := by unfold decodeWord; rw [h]; rfl
theorem dec_c0 {w : Word} (h : fOp w = 0xC0) : decodeWord w = fn0 w (decEpush w) := by unfold decodeWord; rw [h]; rfl
theorem dec_c2 {w : Word} (h : fOp w = 0xC2) : decodeWord w = fn0 w (decEpop w) := by unfold decodeWord; rw [h]; rfl
theorem dec_c4 {w : Word} (h : fOp w = 0xC4) : decodeWord w = fn0 w (decEstat w) := by unfold decodeWord; rw [h]; rfl
theorem dec_c6 {w : Word} (h : fOp w = 0xC6) : decodeWord w = fn0 w (decFbind w) := by unfold decodeWord; rw [h]; rfl
theorem dec_d0 {w : Word} (h : fOp w = 0xD0) : decodeWord w = fn0 w (decTrap w) := by unfold decodeWord; rw [h]; rfl
theorem dec_d2 {w : Word} (h : fOp w = 0xD2) : decodeWord w = fn0 w (decUpret w) := by unfold decodeWord; rw [h]; rfl
theorem dec_d4 {w : Word} (h : fOp w = 0xD4) : decodeWord w = fn0 w (decSrd w) := by unfold decodeWord; rw [h]; rfl
theorem dec_d6 {w : Word} (h : fOp w = 0xD6) : decodeWord w = fn0 w (decSwr w) := by unfold decodeWord; rw [h]; rfl
theorem dec_d8 {w : Word} (h : fOp w = 0xD8) : decodeWord w = fn0 w (decHresume w) := by unfold decodeWord; rw [h]; rfl
theorem dec_da {w : Word} (h : fOp w = 0xDA) : decodeWord w = fn0 w (decSwin w) := by unfold decodeWord; rw [h]; rfl
theorem dec_dc {w : Word} (h : fOp w = 0xDC) : decodeWord w = decTlb w := by unfold decodeWord; rw [h]; rfl
theorem dec_de {w : Word} (h : fOp w = 0xDE) : decodeWord w = decIdle w := by unfold decodeWord; rw [h]; rfl
theorem dec_09 {w : Word} (h : fOp w = 0x09) : decodeWord w = fn0 w (do
    let d ← dstOf (fD w); let a ← srcOf (fA w)
    need (fB w = 0 && fSz w = 0)
    return .movh d a (fLit w)) := by unfold decodeWord; rw [h]; rfl
theorem dec_22 {w : Word} (h : fOp w = 0x22) : decodeWord w = fn0 w (do
    need (fD w = 0 && fA w = 0 && fB w = 0 && fSz w = 0)
    return .call (fLit w)) := by unfold decodeWord; rw [h]; rfl
theorem dec_24 {w : Word} (h : fOp w = 0x24) : decodeWord w = fn0 w (do
    let a ← srcOf (fA w)
    need (fD w = 0 && fB w = 0 && fSz w = 0 && fC w = 0 && fld w 1 25 = 0)
    return .jmp a (fbit w 0)) := by unfold decodeWord; rw [h]; rfl
theorem dec_26 {w : Word} (h : fOp w = 0x26) : decodeWord w = fn0 w (do
    let d ← gOf (fD w)
    need (fA w = 0 && fB w = 0 && fSz w = 0)
    return .loop d (fLit w)) := by unfold decodeWord; rw [h]; rfl
theorem dec_28 {w : Word} (h : fOp w = 0x28) : decodeWord w = (let z := fld w 0 52 = 0
    match fFn w with
    | 0 => do need z; return .tend
    | 1 => do need z; return .tyield
    | _ => .error .op) := by unfold decodeWord; rw [h]; rfl

end Sys2Proof
end

