-- ==== Sys2Proof/Laws/Frames.lean ====
section
/-! SUPPORT. Frames: a change of one slot leaves all else, and what reading sources and writing destinations change of the slot. -/

set_option Elab.async false

namespace Sys2Proof.Machine

/-! ### One slot changed -/

theorem OnlySlot.refl (s : State) (c i : Nat) : OnlySlot s s c i := ⟨rfl, fun _ _ => rfl, rfl, fun _ _ => rfl⟩

theorem OnlySlot.trans {s t u : State} {c i : Nat} (h : OnlySlot s t c i) (k : OnlySlot t u c i) : OnlySlot s u c i where
  rest := by rw [k.rest, h.rest]
  others j hj := (k.others j hj).trans (h.others j hj)
  shared := by rw [k.shared, h.shared]
  slots j hj := (k.slots j hj).trans (h.slots j hj)

/-- A slot changed in a state is all that changes in it. -/
theorem OnlySlot.modSlot (s : State) (c i : Nat) (f : Slot → Slot) : OnlySlot s (modSlot s c i f) c i where
  rest := rfl
  others _ h := coreOf_modSlot_ne _ _ _ h
  shared := by rw [coreOf_modSlot_self]; rfl
  slots _ h := slotAt_modSlot_slot _ _ _ h

/-- Where only a slot changes, the core that issues and its running slot stay. -/
theorem OnlySlot.cur {s t : State} {c i : Nat} (h : OnlySlot s t c i) : t.cur = s.cur := by rw [h.rest]
theorem OnlySlot.act {s t : State} {i : Nat} (h : OnlySlot s t s.cur i) : actOf t s.cur = actOf s s.cur := by
  unfold actOf; rw [h.shared]
theorem OnlySlot.mem {s t : State} {c i : Nat} (h : OnlySlot s t c i) : t.mem = s.mem := by rw [h.rest]

/-- Where only a slot changes, every byte reads as before: the banks of a slice belong to the core. -/
theorem OnlySlot.rdByte {s t : State} {c i : Nat} (h : OnlySlot s t c i) (pa : Nat) : rdByte t pa = rdByte s pa := by
  have hr : ∀ k, (coreOf t k).rgn = (coreOf s k).rgn := by
    intro k
    by_cases hk : k = c
    · subst hk; rw [h.shared]
    · rw [h.others k hk]
  have hd : t.hdm = s.hdm := by rw [h.rest]
  unfold Machine.rdByte physOf
  rw [h.mem, hd]
  split <;> simp only [hr]

/-! ### What a slot keeps -/

theorem SlotKeeps.refl (sl : Slot) (gs : List GReg) (es : List EReg) (ds : List (Fin 4)) (fl : Bool) : SlotKeeps sl sl gs es ds fl :=
  ⟨rfl, fun _ _ => rfl, fun _ _ => rfl, fun _ _ => rfl, fun _ => rfl⟩

theorem SlotKeeps.trans {a b c : Slot} {gs : List GReg} {es : List EReg} {ds : List (Fin 4)} {fl : Bool} (h : SlotKeeps a b gs es ds fl)
    (k : SlotKeeps b c gs es ds fl) : SlotKeeps a c gs es ds fl where
  rest := by rw [k.rest, h.rest]
  g r hr := (k.g r hr).trans (h.g r hr)
  e r hr := (k.e r hr).trans (h.e r hr)
  d r hr := (k.d r hr).trans (h.d r hr)
  fpst hf := (k.fpst hf).trans (h.fpst hf)

/-- A frame that allows more follows from one that allows less. -/
theorem SlotKeeps.mono {a b : Slot} {gs gs' : List GReg} {es es' : List EReg} {ds ds' : List (Fin 4)} {fl fl' : Bool}
    (h : SlotKeeps a b gs es ds fl) (hg : gs ⊆ gs') (he : es ⊆ es') (hd : ds ⊆ ds') (hf : fl = true → fl' = true) :
    SlotKeeps a b gs' es' ds' fl' where
  rest := h.rest
  g r hr := h.g r fun x => hr (hg x)
  e r hr := h.e r fun x => hr (he x)
  d r hr := h.d r fun x => hr (hd x)
  fpst hl := h.fpst (by cases fl <;> simp_all)

theorem SlotKeeps.setG (sl : Slot) (r : GReg) (v : Word) : SlotKeeps sl (sl.setG r v) [r] [] [] false where
  rest := rfl
  g j hj := by
    have : r.val ≠ j.val := fun h => hj (by simp [Fin.ext h.symm])
    exact Vector.getElem_set_ne r.isLt j.isLt this
  e _ _ := rfl
  d _ _ := rfl
  fpst _ := rfl

theorem SlotKeeps.setE (sl : Slot) (r : EReg) (v : EVal) : SlotKeeps sl (sl.setE r v) [] [r] [] false where
  rest := rfl
  g _ _ := rfl
  e j hj := by
    have : r.val ≠ j.val := fun h => hj (by simp [Fin.ext h.symm])
    exact Vector.getElem_set_ne r.isLt j.isLt this
  d _ _ := rfl
  fpst _ := rfl

theorem SlotKeeps.setD (sl : Slot) (r : Fin 4) (v : Option Stream) : SlotKeeps sl (sl.setD r v) [] [] [r] false where
  rest := rfl
  g _ _ := rfl
  e _ _ := rfl
  d j hj := by
    have : r.val ≠ j.val := fun h => hj (by simp [Fin.ext h.symm])
    exact Vector.getElem_set_ne r.isLt j.isLt this
  fpst _ := rfl

/-- An instruction completed leaves every register and flag. -/
theorem SlotKeeps.completed (sl : Slot) (pc : Word) : SlotKeeps sl { sl.completed with pc := pc } [] [] [] false :=
  ⟨rfl, fun _ _ => rfl, fun _ _ => rfl, fun _ _ => rfl, fun _ => rfl⟩

/-! ### Sources and destinations -/

/-- The frame of an effect on the running slot: nothing else changes, and of the slot only the registers named. -/
def Framed {α : Type} (m : M α) (gs : List GReg) (es : List EReg) (ds : List (Fin 4)) : Prop :=
  ∀ (s t : State) (a : α), actOf s s.cur < 5 → m s = .ok (a, t) → OnlySlot s t s.cur (actOf s s.cur) ∧
    SlotKeeps (slotAt s s.cur (actOf s s.cur)) (slotAt t s.cur (actOf s s.cur)) gs es ds false

theorem Framed.bind {α β : Type} {m : M α} {f : α → M β} {gs gs' : List GReg} {es es' : List EReg} {ds ds' : List (Fin 4)}
    (hm : Framed m gs es ds) (hf : ∀ a, Framed (f a) gs' es' ds') : Framed (m >>= f) (gs ++ gs') (es ++ es') (ds ++ ds') := by
  intro s u b hi h
  obtain ⟨⟨a, t⟩, h1, h2⟩ := (seq_completes ..).1 h
  obtain ⟨o1, k1⟩ := hm s t a hi h1
  have hc := o1.cur
  have ha := o1.act
  obtain ⟨o2, k2⟩ := hf a t u b (by rw [hc, ha]; exact hi) h2
  rw [hc, ha] at o2 k2
  exact ⟨o1.trans o2, (k1.mono (by simp) (by simp) (by simp) id).trans (k2.mono (by simp) (by simp) (by simp) id)⟩

theorem Framed.pure {α : Type} (a : α) : Framed (Pure.pure a : M α) [] [] [] := by
  intro s t b _ h; cases h; exact ⟨.refl .., .refl ..⟩

theorem Framed.modMy {f : Slot → Slot} {gs : List GReg} {es : List EReg} {ds : List (Fin 4)}
    (hf : ∀ sl, SlotKeeps sl (f sl) gs es ds false) : Framed (modMy f) gs es ds := by
  intro s t b hi h
  rw [modMy_run] at h
  cases h
  refine ⟨.modSlot .., ?_⟩
  rw [slotAt_modSlot_self _ _ _ hi]
  exact hf _

/-- A frame that allows more. -/
theorem Framed.mono {α : Type} {m : M α} {gs gs' : List GReg} {es es' : List EReg} {ds ds' : List (Fin 4)} (h : Framed m gs es ds)
    (hg : gs ⊆ gs') (he : es ⊆ es') (hd : ds ⊆ ds') : Framed m gs' es' ds' := fun s t a hi e =>
  ⟨(h s t a hi e).1, (h s t a hi e).2.mono hg he hd id⟩

/-- Two effects in one frame. -/
theorem Framed.seq {α β : Type} {m : M α} {f : α → M β} {gs : List GReg} {es : List EReg} {ds : List (Fin 4)} (hm : Framed m gs es ds)
    (hf : ∀ a, Framed (f a) gs es ds) : Framed (m >>= f) gs es ds :=
  (hm.bind hf).mono (by simp) (by simp) (by simp)

/-- An effect that only looks at the state is in every frame. -/
theorem Framed.look {α : Type} {m : M α} (h : ∀ s, ∃ a, m s = .ok (a, s)) {gs : List GReg} {es : List EReg} {ds : List (Fin 4)} :
    Framed m gs es ds := by
  intro s t a _ e
  obtain ⟨b, hb⟩ := h s
  rw [hb] at e
  cases e
  exact ⟨.refl .., .refl ..⟩

/-- An effect that never completes is in every frame. -/
theorem Framed.never {α : Type} {m : M α} (h : ∀ s, ∃ x, m s = .error x) {gs : List GReg} {es : List EReg} {ds : List (Fin 4)} :
    Framed m gs es ds := by
  intro s t a _ e
  obtain ⟨x, hx⟩ := h s
  rw [hx] at e
  cases e

theorem Framed.pushD (r : Fin 4) (v : Word) : Framed (pushD r v) [] [] [r] := by
  unfold Machine.pushD
  refine .seq (.look fun s => ⟨_, rfl⟩) fun c => .seq (.look fun s => ⟨_, rfl⟩) fun i => .seq (.look fun s => ⟨_, rfl⟩) fun sl => ?_
  repeat' split
  all_goals first
    | exact .never fun s => ⟨_, rfl⟩
    | exact .seq (.look fun s => ⟨_, rfl⟩) fun s0 => .modMy fun sl => .setD sl r _

theorem Framed.popD (r : Fin 4) : Framed (popD r) [] [] [r] := by
  unfold Machine.popD
  refine .seq (.look fun s => ⟨_, rfl⟩) fun c => .seq (.look fun s => ⟨_, rfl⟩) fun i => .seq (.look fun s => ⟨_, rfl⟩) fun sl => ?_
  repeat' split
  all_goals first
    | exact .never fun s => ⟨_, rfl⟩
    | exact .seq (.modMy fun sl => .setD sl r _) fun _ => .look fun s => ⟨_, rfl⟩

/-- Writing a destination changes the register it names. -/
theorem Framed.writeDst (d : Dst) (v : Word) : Framed (writeDst d v) d.gs [] d.ds := by
  cases d with
  | g r => exact .modMy fun sl => .setG sl r v
  | d r => exact .pushD r v
  | zr => exact .pure ()

/-- Fetching a source changes the stream it names. -/
theorem Framed.fetchSrc (x : Src) : Framed (fetchSrc x) [] [] x.ds := by
  unfold Machine.fetchSrc
  refine .seq (.look fun s => ⟨_, rfl⟩) fun s0 => .seq (.look fun s => ⟨_, rfl⟩) fun sl => ?_
  cases x
  all_goals dsimp only
  all_goals repeat' split
  all_goals first
    | exact .popD _
    | exact .never fun s => ⟨_, rfl⟩
    | exact .look fun s => ⟨_, rfl⟩

/-- Emptying sources changes the full/empty registers they name. -/
theorem Framed.emptyE (l : List Src) : Framed (emptyE l) [] (l.flatMap Src.es) [] := by
  induction l with
  | nil => exact .pure ()
  | cons x r ih =>
    cases x
    all_goals first
      | exact ih
      | exact .bind (gs := []) (es := [_]) (ds := []) (.modMy fun sl => .setE sl _ _) fun _ => ih

/-- Reading three sources changes the full/empty registers and the streams they name. -/
theorem Framed.read3 (a b c : Src) : Framed (read3 a b c) [] (a.es ++ b.es ++ c.es) (a.ds ++ b.ds ++ c.ds) := by
  have h := Framed.bind (.fetchSrc a) fun x => Framed.bind (.fetchSrc b) fun y => Framed.bind (.fetchSrc c) fun z =>
    Framed.bind (.emptyE [a, b, c]) fun _ => Framed.pure (x, y, z)
  exact h.mono (by simp) (by simp) (by simp)

/-- Reading two sources. -/
theorem Framed.read2 (a b : Src) : Framed (read2 a b) [] (a.es ++ b.es) (a.ds ++ b.ds) := by
  have h := Framed.bind (.fetchSrc a) fun x => Framed.bind (.fetchSrc b) fun y => Framed.bind (.emptyE [a, b]) fun _ => Framed.pure (x, y)
  exact h.mono (by simp) (by simp) (by simp)

/-- Reading one source. -/
theorem Framed.read1 (a : Src) : Framed (read1 a) [] a.es a.ds := by
  have h := Framed.bind (.fetchSrc a) fun x => Framed.bind (.emptyE [a]) fun _ => Framed.pure x
  exact h.mono (by simp) (by simp) (by simp)

end Sys2Proof.Machine
end

