-- ==== Sys2Proof/Laws/RoundScalar.lean ====
section
/-! SUPPORT. Opcodes below 0x80: the word that the encoder packs decodes to the instruction, for every operand a well-formed term has
(chapters 01 to 18, the encoding of each entry). -/

set_option Elab.async false

namespace Sys2Proof

set_option linter.unusedSimpArgs false

theorem dw_addReg {ww : Word} (sz : Sz) (d : Dst) (a : Src) (b : Src) (hw : ww = packR 2 0 (d.code) (a.code) (b.code) (sz.code) 0 0) : decodeWord ww = .ok (.addReg sz d a b) := by
  have hb_sz := Sz.code_lt sz
  have hb_d := Dst.code_lt d
  have hb_a := Src.code_lt a
  have hb_b := Src.code_lt b
  have F := fieldsR hw (by decide) (by decide) (by omega) (by omega) (by omega) (by omega) (by decide) (by decide)
  have f_0_26 : fld ww 0 26 = 0 := (F.mod 0 26 (by decide)).trans (by omega)
  rw [dec_02 F.op]
  simp [dR3, decArith, fA, fB, fC, fD, fFn, fMod, fSz, f_0_26, F.c, F.sz, F.b, F.a, F.d, F.fn, F.op, gOf, Except.map, need, gUpTo, srcIf, GZ.code_zero, optG, Sz.code_zero, Rm.code_two, bind, Except.bind, pure, Except.pure, srcOf_code, dstOf_code, gzOf_code, rdstOf_code, popOf_code, szOf_code, fszOf_code, rmOf_code, etOf_code, scopeOf_code, modeOf_ord, gOf_val, eOf_val, finOfNat_val, boolNat_eq, BitVec.ofNat_toNat, BitVec.setWidth_eq, fn0, fldB, fbit]

theorem dw_addLit {ww : Word} (sz : Sz) (d : Dst) (a : Src) (imm : BitVec 32) (hw : ww = packL 3 0 (d.code) (a.code) 0 (sz.code) (imm.toNat)) : decodeWord ww = .ok (.addLit sz d a imm) := by
  have hb_sz := Sz.code_lt sz
  have hb_d := Dst.code_lt d
  have hb_a := Src.code_lt a
  have hb_imm := imm.isLt
  have F := fieldsL hw (by decide) (by decide) (by omega) (by omega) (by decide) (by omega) (by omega)
  have f_0_32 : fld ww 0 32 = imm.toNat := (F.lit 0 32 (by decide)).trans (by omega)
  have f_34_6 : fld ww 34 6 = 0 := (F.c 34 6 (by decide) (by decide)).trans (by omega)
  rw [dec_03 F.op]
  simp [dL2, decArithL, fA, fB, fD, fFn, fLit, fSz, f_0_32, F.sz, f_34_6, F.a, F.d, F.fn, F.op, gOf, Except.map, need, gUpTo, srcIf, GZ.code_zero, optG, Sz.code_zero, Rm.code_two, bind, Except.bind, pure, Except.pure, srcOf_code, dstOf_code, gzOf_code, rdstOf_code, popOf_code, szOf_code, fszOf_code, rmOf_code, etOf_code, scopeOf_code, modeOf_ord, gOf_val, eOf_val, finOfNat_val, boolNat_eq, BitVec.ofNat_toNat, BitVec.setWidth_eq, fn0, fldB, fbit]

theorem dw_subReg {ww : Word} (sz : Sz) (d : Dst) (a : Src) (b : Src) (hw : ww = packR 2 1 (d.code) (a.code) (b.code) (sz.code) 0 0) : decodeWord ww = .ok (.subReg sz d a b) := by
  have hb_sz := Sz.code_lt sz
  have hb_d := Dst.code_lt d
  have hb_a := Src.code_lt a
  have hb_b := Src.code_lt b
  have F := fieldsR hw (by decide) (by decide) (by omega) (by omega) (by omega) (by omega) (by decide) (by decide)
  have f_0_26 : fld ww 0 26 = 0 := (F.mod 0 26 (by decide)).trans (by omega)
  rw [dec_02 F.op]
  simp [dR3, decArith, fA, fB, fC, fD, fFn, fMod, fSz, f_0_26, F.c, F.sz, F.b, F.a, F.d, F.fn, F.op, gOf, Except.map, need, gUpTo, srcIf, GZ.code_zero, optG, Sz.code_zero, Rm.code_two, bind, Except.bind, pure, Except.pure, srcOf_code, dstOf_code, gzOf_code, rdstOf_code, popOf_code, szOf_code, fszOf_code, rmOf_code, etOf_code, scopeOf_code, modeOf_ord, gOf_val, eOf_val, finOfNat_val, boolNat_eq, BitVec.ofNat_toNat, BitVec.setWidth_eq, fn0, fldB, fbit]

theorem dw_subLit {ww : Word} (sz : Sz) (d : Dst) (a : Src) (imm : BitVec 32) (hw : ww = packL 3 1 (d.code) (a.code) 0 (sz.code) (imm.toNat)) : decodeWord ww = .ok (.subLit sz d a imm) := by
  have hb_sz := Sz.code_lt sz
  have hb_d := Dst.code_lt d
  have hb_a := Src.code_lt a
  have hb_imm := imm.isLt
  have F := fieldsL hw (by decide) (by decide) (by omega) (by omega) (by decide) (by omega) (by omega)
  have f_0_32 : fld ww 0 32 = imm.toNat := (F.lit 0 32 (by decide)).trans (by omega)
  have f_34_6 : fld ww 34 6 = 0 := (F.c 34 6 (by decide) (by decide)).trans (by omega)
  rw [dec_03 F.op]
  simp [dL2, decArithL, fA, fB, fD, fFn, fLit, fSz, f_0_32, F.sz, f_34_6, F.a, F.d, F.fn, F.op, gOf, Except.map, need, gUpTo, srcIf, GZ.code_zero, optG, Sz.code_zero, Rm.code_two, bind, Except.bind, pure, Except.pure, srcOf_code, dstOf_code, gzOf_code, rdstOf_code, popOf_code, szOf_code, fszOf_code, rmOf_code, etOf_code, scopeOf_code, modeOf_ord, gOf_val, eOf_val, finOfNat_val, boolNat_eq, BitVec.ofNat_toNat, BitVec.setWidth_eq, fn0, fldB, fbit]

theorem dw_mulReg {ww : Word} (sz : Sz) (d : Dst) (a : Src) (b : Src) (hw : ww = packR 2 2 (d.code) (a.code) (b.code) (sz.code) 0 0) : decodeWord ww = .ok (.mulReg sz d a b) := by
  have hb_sz := Sz.code_lt sz
  have hb_d := Dst.code_lt d
  have hb_a := Src.code_lt a
  have hb_b := Src.code_lt b
  have F := fieldsR hw (by decide) (by decide) (by omega) (by omega) (by omega) (by omega) (by decide) (by decide)
  have f_0_26 : fld ww 0 26 = 0 := (F.mod 0 26 (by decide)).trans (by omega)
  rw [dec_02 F.op]
  simp [dR3, decArith, fA, fB, fC, fD, fFn, fMod, fSz, f_0_26, F.c, F.sz, F.b, F.a, F.d, F.fn, F.op, gOf, Except.map, need, gUpTo, srcIf, GZ.code_zero, optG, Sz.code_zero, Rm.code_two, bind, Except.bind, pure, Except.pure, srcOf_code, dstOf_code, gzOf_code, rdstOf_code, popOf_code, szOf_code, fszOf_code, rmOf_code, etOf_code, scopeOf_code, modeOf_ord, gOf_val, eOf_val, finOfNat_val, boolNat_eq, BitVec.ofNat_toNat, BitVec.setWidth_eq, fn0, fldB, fbit]

theorem dw_mulLit {ww : Word} (sz : Sz) (d : Dst) (a : Src) (imm : BitVec 32) (hw : ww = packL 3 2 (d.code) (a.code) 0 (sz.code) (imm.toNat)) : decodeWord ww = .ok (.mulLit sz d a imm) := by
  have hb_sz := Sz.code_lt sz
  have hb_d := Dst.code_lt d
  have hb_a := Src.code_lt a
  have hb_imm := imm.isLt
  have F := fieldsL hw (by decide) (by decide) (by omega) (by omega) (by decide) (by omega) (by omega)
  have f_0_32 : fld ww 0 32 = imm.toNat := (F.lit 0 32 (by decide)).trans (by omega)
  have f_34_6 : fld ww 34 6 = 0 := (F.c 34 6 (by decide) (by decide)).trans (by omega)
  rw [dec_03 F.op]
  simp [dL2, decArithL, fA, fB, fD, fFn, fLit, fSz, f_0_32, F.sz, f_34_6, F.a, F.d, F.fn, F.op, gOf, Except.map, need, gUpTo, srcIf, GZ.code_zero, optG, Sz.code_zero, Rm.code_two, bind, Except.bind, pure, Except.pure, srcOf_code, dstOf_code, gzOf_code, rdstOf_code, popOf_code, szOf_code, fszOf_code, rmOf_code, etOf_code, scopeOf_code, modeOf_ord, gOf_val, eOf_val, finOfNat_val, boolNat_eq, BitVec.ofNat_toNat, BitVec.setWidth_eq, fn0, fldB, fbit]

theorem dw_mulhReg {ww : Word} (sz : Sz) (d : Dst) (a : Src) (b : Src) (hw : ww = packR 2 3 (d.code) (a.code) (b.code) (sz.code) 0 0) : decodeWord ww = .ok (.mulhReg sz d a b) := by
  have hb_sz := Sz.code_lt sz
  have hb_d := Dst.code_lt d
  have hb_a := Src.code_lt a
  have hb_b := Src.code_lt b
  have F := fieldsR hw (by decide) (by decide) (by omega) (by omega) (by omega) (by omega) (by decide) (by decide)
  have f_0_26 : fld ww 0 26 = 0 := (F.mod 0 26 (by decide)).trans (by omega)
  rw [dec_02 F.op]
  simp [dR3, decArith, fA, fB, fC, fD, fFn, fMod, fSz, f_0_26, F.c, F.sz, F.b, F.a, F.d, F.fn, F.op, gOf, Except.map, need, gUpTo, srcIf, GZ.code_zero, optG, Sz.code_zero, Rm.code_two, bind, Except.bind, pure, Except.pure, srcOf_code, dstOf_code, gzOf_code, rdstOf_code, popOf_code, szOf_code, fszOf_code, rmOf_code, etOf_code, scopeOf_code, modeOf_ord, gOf_val, eOf_val, finOfNat_val, boolNat_eq, BitVec.ofNat_toNat, BitVec.setWidth_eq, fn0, fldB, fbit]

theorem dw_mulhLit {ww : Word} (sz : Sz) (d : Dst) (a : Src) (imm : BitVec 32) (hw : ww = packL 3 3 (d.code) (a.code) 0 (sz.code) (imm.toNat)) : decodeWord ww = .ok (.mulhLit sz d a imm) := by
  have hb_sz := Sz.code_lt sz
  have hb_d := Dst.code_lt d
  have hb_a := Src.code_lt a
  have hb_imm := imm.isLt
  have F := fieldsL hw (by decide) (by decide) (by omega) (by omega) (by decide) (by omega) (by omega)
  have f_0_32 : fld ww 0 32 = imm.toNat := (F.lit 0 32 (by decide)).trans (by omega)
  have f_34_6 : fld ww 34 6 = 0 := (F.c 34 6 (by decide) (by decide)).trans (by omega)
  rw [dec_03 F.op]
  simp [dL2, decArithL, fA, fB, fD, fFn, fLit, fSz, f_0_32, F.sz, f_34_6, F.a, F.d, F.fn, F.op, gOf, Except.map, need, gUpTo, srcIf, GZ.code_zero, optG, Sz.code_zero, Rm.code_two, bind, Except.bind, pure, Except.pure, srcOf_code, dstOf_code, gzOf_code, rdstOf_code, popOf_code, szOf_code, fszOf_code, rmOf_code, etOf_code, scopeOf_code, modeOf_ord, gOf_val, eOf_val, finOfNat_val, boolNat_eq, BitVec.ofNat_toNat, BitVec.setWidth_eq, fn0, fldB, fbit]

theorem dw_mulhuReg {ww : Word} (sz : Sz) (d : Dst) (a : Src) (b : Src) (hw : ww = packR 2 4 (d.code) (a.code) (b.code) (sz.code) 0 0) : decodeWord ww = .ok (.mulhuReg sz d a b) := by
  have hb_sz := Sz.code_lt sz
  have hb_d := Dst.code_lt d
  have hb_a := Src.code_lt a
  have hb_b := Src.code_lt b
  have F := fieldsR hw (by decide) (by decide) (by omega) (by omega) (by omega) (by omega) (by decide) (by decide)
  have f_0_26 : fld ww 0 26 = 0 := (F.mod 0 26 (by decide)).trans (by omega)
  rw [dec_02 F.op]
  simp [dR3, decArith, fA, fB, fC, fD, fFn, fMod, fSz, f_0_26, F.c, F.sz, F.b, F.a, F.d, F.fn, F.op, gOf, Except.map, need, gUpTo, srcIf, GZ.code_zero, optG, Sz.code_zero, Rm.code_two, bind, Except.bind, pure, Except.pure, srcOf_code, dstOf_code, gzOf_code, rdstOf_code, popOf_code, szOf_code, fszOf_code, rmOf_code, etOf_code, scopeOf_code, modeOf_ord, gOf_val, eOf_val, finOfNat_val, boolNat_eq, BitVec.ofNat_toNat, BitVec.setWidth_eq, fn0, fldB, fbit]

theorem dw_mulhuLit {ww : Word} (sz : Sz) (d : Dst) (a : Src) (imm : BitVec 32) (hw : ww = packL 3 4 (d.code) (a.code) 0 (sz.code) (imm.toNat)) : decodeWord ww = .ok (.mulhuLit sz d a imm) := by
  have hb_sz := Sz.code_lt sz
  have hb_d := Dst.code_lt d
  have hb_a := Src.code_lt a
  have hb_imm := imm.isLt
  have F := fieldsL hw (by decide) (by decide) (by omega) (by omega) (by decide) (by omega) (by omega)
  have f_0_32 : fld ww 0 32 = imm.toNat := (F.lit 0 32 (by decide)).trans (by omega)
  have f_34_6 : fld ww 34 6 = 0 := (F.c 34 6 (by decide) (by decide)).trans (by omega)
  rw [dec_03 F.op]
  simp [dL2, decArithL, fA, fB, fD, fFn, fLit, fSz, f_0_32, F.sz, f_34_6, F.a, F.d, F.fn, F.op, gOf, Except.map, need, gUpTo, srcIf, GZ.code_zero, optG, Sz.code_zero, Rm.code_two, bind, Except.bind, pure, Except.pure, srcOf_code, dstOf_code, gzOf_code, rdstOf_code, popOf_code, szOf_code, fszOf_code, rmOf_code, etOf_code, scopeOf_code, modeOf_ord, gOf_val, eOf_val, finOfNat_val, boolNat_eq, BitVec.ofNat_toNat, BitVec.setWidth_eq, fn0, fldB, fbit]

theorem dw_divReg {ww : Word} (sz : Sz) (d : Dst) (a : Src) (b : Src) (hw : ww = packR 2 5 (d.code) (a.code) (b.code) (sz.code) 0 0) : decodeWord ww = .ok (.divReg sz d a b) := by
  have hb_sz := Sz.code_lt sz
  have hb_d := Dst.code_lt d
  have hb_a := Src.code_lt a
  have hb_b := Src.code_lt b
  have F := fieldsR hw (by decide) (by decide) (by omega) (by omega) (by omega) (by omega) (by decide) (by decide)
  have f_0_26 : fld ww 0 26 = 0 := (F.mod 0 26 (by decide)).trans (by omega)
  rw [dec_02 F.op]
  simp [dR3, decArith, fA, fB, fC, fD, fFn, fMod, fSz, f_0_26, F.c, F.sz, F.b, F.a, F.d, F.fn, F.op, gOf, Except.map, need, gUpTo, srcIf, GZ.code_zero, optG, Sz.code_zero, Rm.code_two, bind, Except.bind, pure, Except.pure, srcOf_code, dstOf_code, gzOf_code, rdstOf_code, popOf_code, szOf_code, fszOf_code, rmOf_code, etOf_code, scopeOf_code, modeOf_ord, gOf_val, eOf_val, finOfNat_val, boolNat_eq, BitVec.ofNat_toNat, BitVec.setWidth_eq, fn0, fldB, fbit]

theorem dw_divLit {ww : Word} (sz : Sz) (d : Dst) (a : Src) (imm : BitVec 32) (hw : ww = packL 3 5 (d.code) (a.code) 0 (sz.code) (imm.toNat)) : decodeWord ww = .ok (.divLit sz d a imm) := by
  have hb_sz := Sz.code_lt sz
  have hb_d := Dst.code_lt d
  have hb_a := Src.code_lt a
  have hb_imm := imm.isLt
  have F := fieldsL hw (by decide) (by decide) (by omega) (by omega) (by decide) (by omega) (by omega)
  have f_0_32 : fld ww 0 32 = imm.toNat := (F.lit 0 32 (by decide)).trans (by omega)
  have f_34_6 : fld ww 34 6 = 0 := (F.c 34 6 (by decide) (by decide)).trans (by omega)
  rw [dec_03 F.op]
  simp [dL2, decArithL, fA, fB, fD, fFn, fLit, fSz, f_0_32, F.sz, f_34_6, F.a, F.d, F.fn, F.op, gOf, Except.map, need, gUpTo, srcIf, GZ.code_zero, optG, Sz.code_zero, Rm.code_two, bind, Except.bind, pure, Except.pure, srcOf_code, dstOf_code, gzOf_code, rdstOf_code, popOf_code, szOf_code, fszOf_code, rmOf_code, etOf_code, scopeOf_code, modeOf_ord, gOf_val, eOf_val, finOfNat_val, boolNat_eq, BitVec.ofNat_toNat, BitVec.setWidth_eq, fn0, fldB, fbit]

theorem dw_divuReg {ww : Word} (sz : Sz) (d : Dst) (a : Src) (b : Src) (hw : ww = packR 2 6 (d.code) (a.code) (b.code) (sz.code) 0 0) : decodeWord ww = .ok (.divuReg sz d a b) := by
  have hb_sz := Sz.code_lt sz
  have hb_d := Dst.code_lt d
  have hb_a := Src.code_lt a
  have hb_b := Src.code_lt b
  have F := fieldsR hw (by decide) (by decide) (by omega) (by omega) (by omega) (by omega) (by decide) (by decide)
  have f_0_26 : fld ww 0 26 = 0 := (F.mod 0 26 (by decide)).trans (by omega)
  rw [dec_02 F.op]
  simp [dR3, decArith, fA, fB, fC, fD, fFn, fMod, fSz, f_0_26, F.c, F.sz, F.b, F.a, F.d, F.fn, F.op, gOf, Except.map, need, gUpTo, srcIf, GZ.code_zero, optG, Sz.code_zero, Rm.code_two, bind, Except.bind, pure, Except.pure, srcOf_code, dstOf_code, gzOf_code, rdstOf_code, popOf_code, szOf_code, fszOf_code, rmOf_code, etOf_code, scopeOf_code, modeOf_ord, gOf_val, eOf_val, finOfNat_val, boolNat_eq, BitVec.ofNat_toNat, BitVec.setWidth_eq, fn0, fldB, fbit]

theorem dw_divuLit {ww : Word} (sz : Sz) (d : Dst) (a : Src) (imm : BitVec 32) (hw : ww = packL 3 6 (d.code) (a.code) 0 (sz.code) (imm.toNat)) : decodeWord ww = .ok (.divuLit sz d a imm) := by
  have hb_sz := Sz.code_lt sz
  have hb_d := Dst.code_lt d
  have hb_a := Src.code_lt a
  have hb_imm := imm.isLt
  have F := fieldsL hw (by decide) (by decide) (by omega) (by omega) (by decide) (by omega) (by omega)
  have f_0_32 : fld ww 0 32 = imm.toNat := (F.lit 0 32 (by decide)).trans (by omega)
  have f_34_6 : fld ww 34 6 = 0 := (F.c 34 6 (by decide) (by decide)).trans (by omega)
  rw [dec_03 F.op]
  simp [dL2, decArithL, fA, fB, fD, fFn, fLit, fSz, f_0_32, F.sz, f_34_6, F.a, F.d, F.fn, F.op, gOf, Except.map, need, gUpTo, srcIf, GZ.code_zero, optG, Sz.code_zero, Rm.code_two, bind, Except.bind, pure, Except.pure, srcOf_code, dstOf_code, gzOf_code, rdstOf_code, popOf_code, szOf_code, fszOf_code, rmOf_code, etOf_code, scopeOf_code, modeOf_ord, gOf_val, eOf_val, finOfNat_val, boolNat_eq, BitVec.ofNat_toNat, BitVec.setWidth_eq, fn0, fldB, fbit]

theorem dw_remReg {ww : Word} (sz : Sz) (d : Dst) (a : Src) (b : Src) (hw : ww = packR 2 7 (d.code) (a.code) (b.code) (sz.code) 0 0) : decodeWord ww = .ok (.remReg sz d a b) := by
  have hb_sz := Sz.code_lt sz
  have hb_d := Dst.code_lt d
  have hb_a := Src.code_lt a
  have hb_b := Src.code_lt b
  have F := fieldsR hw (by decide) (by decide) (by omega) (by omega) (by omega) (by omega) (by decide) (by decide)
  have f_0_26 : fld ww 0 26 = 0 := (F.mod 0 26 (by decide)).trans (by omega)
  rw [dec_02 F.op]
  simp [dR3, decArith, fA, fB, fC, fD, fFn, fMod, fSz, f_0_26, F.c, F.sz, F.b, F.a, F.d, F.fn, F.op, gOf, Except.map, need, gUpTo, srcIf, GZ.code_zero, optG, Sz.code_zero, Rm.code_two, bind, Except.bind, pure, Except.pure, srcOf_code, dstOf_code, gzOf_code, rdstOf_code, popOf_code, szOf_code, fszOf_code, rmOf_code, etOf_code, scopeOf_code, modeOf_ord, gOf_val, eOf_val, finOfNat_val, boolNat_eq, BitVec.ofNat_toNat, BitVec.setWidth_eq, fn0, fldB, fbit]

theorem dw_remLit {ww : Word} (sz : Sz) (d : Dst) (a : Src) (imm : BitVec 32) (hw : ww = packL 3 7 (d.code) (a.code) 0 (sz.code) (imm.toNat)) : decodeWord ww = .ok (.remLit sz d a imm) := by
  have hb_sz := Sz.code_lt sz
  have hb_d := Dst.code_lt d
  have hb_a := Src.code_lt a
  have hb_imm := imm.isLt
  have F := fieldsL hw (by decide) (by decide) (by omega) (by omega) (by decide) (by omega) (by omega)
  have f_0_32 : fld ww 0 32 = imm.toNat := (F.lit 0 32 (by decide)).trans (by omega)
  have f_34_6 : fld ww 34 6 = 0 := (F.c 34 6 (by decide) (by decide)).trans (by omega)
  rw [dec_03 F.op]
  simp [dL2, decArithL, fA, fB, fD, fFn, fLit, fSz, f_0_32, F.sz, f_34_6, F.a, F.d, F.fn, F.op, gOf, Except.map, need, gUpTo, srcIf, GZ.code_zero, optG, Sz.code_zero, Rm.code_two, bind, Except.bind, pure, Except.pure, srcOf_code, dstOf_code, gzOf_code, rdstOf_code, popOf_code, szOf_code, fszOf_code, rmOf_code, etOf_code, scopeOf_code, modeOf_ord, gOf_val, eOf_val, finOfNat_val, boolNat_eq, BitVec.ofNat_toNat, BitVec.setWidth_eq, fn0, fldB, fbit]

theorem dw_remuReg {ww : Word} (sz : Sz) (d : Dst) (a : Src) (b : Src) (hw : ww = packR 2 8 (d.code) (a.code) (b.code) (sz.code) 0 0) : decodeWord ww = .ok (.remuReg sz d a b) := by
  have hb_sz := Sz.code_lt sz
  have hb_d := Dst.code_lt d
  have hb_a := Src.code_lt a
  have hb_b := Src.code_lt b
  have F := fieldsR hw (by decide) (by decide) (by omega) (by omega) (by omega) (by omega) (by decide) (by decide)
  have f_0_26 : fld ww 0 26 = 0 := (F.mod 0 26 (by decide)).trans (by omega)
  rw [dec_02 F.op]
  simp [dR3, decArith, fA, fB, fC, fD, fFn, fMod, fSz, f_0_26, F.c, F.sz, F.b, F.a, F.d, F.fn, F.op, gOf, Except.map, need, gUpTo, srcIf, GZ.code_zero, optG, Sz.code_zero, Rm.code_two, bind, Except.bind, pure, Except.pure, srcOf_code, dstOf_code, gzOf_code, rdstOf_code, popOf_code, szOf_code, fszOf_code, rmOf_code, etOf_code, scopeOf_code, modeOf_ord, gOf_val, eOf_val, finOfNat_val, boolNat_eq, BitVec.ofNat_toNat, BitVec.setWidth_eq, fn0, fldB, fbit]

theorem dw_remuLit {ww : Word} (sz : Sz) (d : Dst) (a : Src) (imm : BitVec 32) (hw : ww = packL 3 8 (d.code) (a.code) 0 (sz.code) (imm.toNat)) : decodeWord ww = .ok (.remuLit sz d a imm) := by
  have hb_sz := Sz.code_lt sz
  have hb_d := Dst.code_lt d
  have hb_a := Src.code_lt a
  have hb_imm := imm.isLt
  have F := fieldsL hw (by decide) (by decide) (by omega) (by omega) (by decide) (by omega) (by omega)
  have f_0_32 : fld ww 0 32 = imm.toNat := (F.lit 0 32 (by decide)).trans (by omega)
  have f_34_6 : fld ww 34 6 = 0 := (F.c 34 6 (by decide) (by decide)).trans (by omega)
  rw [dec_03 F.op]
  simp [dL2, decArithL, fA, fB, fD, fFn, fLit, fSz, f_0_32, F.sz, f_34_6, F.a, F.d, F.fn, F.op, gOf, Except.map, need, gUpTo, srcIf, GZ.code_zero, optG, Sz.code_zero, Rm.code_two, bind, Except.bind, pure, Except.pure, srcOf_code, dstOf_code, gzOf_code, rdstOf_code, popOf_code, szOf_code, fszOf_code, rmOf_code, etOf_code, scopeOf_code, modeOf_ord, gOf_val, eOf_val, finOfNat_val, boolNat_eq, BitVec.ofNat_toNat, BitVec.setWidth_eq, fn0, fldB, fbit]

theorem dw_minReg {ww : Word} (sz : Sz) (d : Dst) (a : Src) (b : Src) (hw : ww = packR 2 9 (d.code) (a.code) (b.code) (sz.code) 0 0) : decodeWord ww = .ok (.minReg sz d a b) := by
  have hb_sz := Sz.code_lt sz
  have hb_d := Dst.code_lt d
  have hb_a := Src.code_lt a
  have hb_b := Src.code_lt b
  have F := fieldsR hw (by decide) (by decide) (by omega) (by omega) (by omega) (by omega) (by decide) (by decide)
  have f_0_26 : fld ww 0 26 = 0 := (F.mod 0 26 (by decide)).trans (by omega)
  rw [dec_02 F.op]
  simp [dR3, decArith, fA, fB, fC, fD, fFn, fMod, fSz, f_0_26, F.c, F.sz, F.b, F.a, F.d, F.fn, F.op, gOf, Except.map, need, gUpTo, srcIf, GZ.code_zero, optG, Sz.code_zero, Rm.code_two, bind, Except.bind, pure, Except.pure, srcOf_code, dstOf_code, gzOf_code, rdstOf_code, popOf_code, szOf_code, fszOf_code, rmOf_code, etOf_code, scopeOf_code, modeOf_ord, gOf_val, eOf_val, finOfNat_val, boolNat_eq, BitVec.ofNat_toNat, BitVec.setWidth_eq, fn0, fldB, fbit]

theorem dw_minLit {ww : Word} (sz : Sz) (d : Dst) (a : Src) (imm : BitVec 32) (hw : ww = packL 3 9 (d.code) (a.code) 0 (sz.code) (imm.toNat)) : decodeWord ww = .ok (.minLit sz d a imm) := by
  have hb_sz := Sz.code_lt sz
  have hb_d := Dst.code_lt d
  have hb_a := Src.code_lt a
  have hb_imm := imm.isLt
  have F := fieldsL hw (by decide) (by decide) (by omega) (by omega) (by decide) (by omega) (by omega)
  have f_0_32 : fld ww 0 32 = imm.toNat := (F.lit 0 32 (by decide)).trans (by omega)
  have f_34_6 : fld ww 34 6 = 0 := (F.c 34 6 (by decide) (by decide)).trans (by omega)
  rw [dec_03 F.op]
  simp [dL2, decArithL, fA, fB, fD, fFn, fLit, fSz, f_0_32, F.sz, f_34_6, F.a, F.d, F.fn, F.op, gOf, Except.map, need, gUpTo, srcIf, GZ.code_zero, optG, Sz.code_zero, Rm.code_two, bind, Except.bind, pure, Except.pure, srcOf_code, dstOf_code, gzOf_code, rdstOf_code, popOf_code, szOf_code, fszOf_code, rmOf_code, etOf_code, scopeOf_code, modeOf_ord, gOf_val, eOf_val, finOfNat_val, boolNat_eq, BitVec.ofNat_toNat, BitVec.setWidth_eq, fn0, fldB, fbit]

theorem dw_maxReg {ww : Word} (sz : Sz) (d : Dst) (a : Src) (b : Src) (hw : ww = packR 2 10 (d.code) (a.code) (b.code) (sz.code) 0 0) : decodeWord ww = .ok (.maxReg sz d a b) := by
  have hb_sz := Sz.code_lt sz
  have hb_d := Dst.code_lt d
  have hb_a := Src.code_lt a
  have hb_b := Src.code_lt b
  have F := fieldsR hw (by decide) (by decide) (by omega) (by omega) (by omega) (by omega) (by decide) (by decide)
  have f_0_26 : fld ww 0 26 = 0 := (F.mod 0 26 (by decide)).trans (by omega)
  rw [dec_02 F.op]
  simp [dR3, decArith, fA, fB, fC, fD, fFn, fMod, fSz, f_0_26, F.c, F.sz, F.b, F.a, F.d, F.fn, F.op, gOf, Except.map, need, gUpTo, srcIf, GZ.code_zero, optG, Sz.code_zero, Rm.code_two, bind, Except.bind, pure, Except.pure, srcOf_code, dstOf_code, gzOf_code, rdstOf_code, popOf_code, szOf_code, fszOf_code, rmOf_code, etOf_code, scopeOf_code, modeOf_ord, gOf_val, eOf_val, finOfNat_val, boolNat_eq, BitVec.ofNat_toNat, BitVec.setWidth_eq, fn0, fldB, fbit]

theorem dw_maxLit {ww : Word} (sz : Sz) (d : Dst) (a : Src) (imm : BitVec 32) (hw : ww = packL 3 10 (d.code) (a.code) 0 (sz.code) (imm.toNat)) : decodeWord ww = .ok (.maxLit sz d a imm) := by
  have hb_sz := Sz.code_lt sz
  have hb_d := Dst.code_lt d
  have hb_a := Src.code_lt a
  have hb_imm := imm.isLt
  have F := fieldsL hw (by decide) (by decide) (by omega) (by omega) (by decide) (by omega) (by omega)
  have f_0_32 : fld ww 0 32 = imm.toNat := (F.lit 0 32 (by decide)).trans (by omega)
  have f_34_6 : fld ww 34 6 = 0 := (F.c 34 6 (by decide) (by decide)).trans (by omega)
  rw [dec_03 F.op]
  simp [dL2, decArithL, fA, fB, fD, fFn, fLit, fSz, f_0_32, F.sz, f_34_6, F.a, F.d, F.fn, F.op, gOf, Except.map, need, gUpTo, srcIf, GZ.code_zero, optG, Sz.code_zero, Rm.code_two, bind, Except.bind, pure, Except.pure, srcOf_code, dstOf_code, gzOf_code, rdstOf_code, popOf_code, szOf_code, fszOf_code, rmOf_code, etOf_code, scopeOf_code, modeOf_ord, gOf_val, eOf_val, finOfNat_val, boolNat_eq, BitVec.ofNat_toNat, BitVec.setWidth_eq, fn0, fldB, fbit]

theorem dw_minuReg {ww : Word} (sz : Sz) (d : Dst) (a : Src) (b : Src) (hw : ww = packR 2 11 (d.code) (a.code) (b.code) (sz.code) 0 0) : decodeWord ww = .ok (.minuReg sz d a b) := by
  have hb_sz := Sz.code_lt sz
  have hb_d := Dst.code_lt d
  have hb_a := Src.code_lt a
  have hb_b := Src.code_lt b
  have F := fieldsR hw (by decide) (by decide) (by omega) (by omega) (by omega) (by omega) (by decide) (by decide)
  have f_0_26 : fld ww 0 26 = 0 := (F.mod 0 26 (by decide)).trans (by omega)
  rw [dec_02 F.op]
  simp [dR3, decArith, fA, fB, fC, fD, fFn, fMod, fSz, f_0_26, F.c, F.sz, F.b, F.a, F.d, F.fn, F.op, gOf, Except.map, need, gUpTo, srcIf, GZ.code_zero, optG, Sz.code_zero, Rm.code_two, bind, Except.bind, pure, Except.pure, srcOf_code, dstOf_code, gzOf_code, rdstOf_code, popOf_code, szOf_code, fszOf_code, rmOf_code, etOf_code, scopeOf_code, modeOf_ord, gOf_val, eOf_val, finOfNat_val, boolNat_eq, BitVec.ofNat_toNat, BitVec.setWidth_eq, fn0, fldB, fbit]

theorem dw_minuLit {ww : Word} (sz : Sz) (d : Dst) (a : Src) (imm : BitVec 32) (hw : ww = packL 3 11 (d.code) (a.code) 0 (sz.code) (imm.toNat)) : decodeWord ww = .ok (.minuLit sz d a imm) := by
  have hb_sz := Sz.code_lt sz
  have hb_d := Dst.code_lt d
  have hb_a := Src.code_lt a
  have hb_imm := imm.isLt
  have F := fieldsL hw (by decide) (by decide) (by omega) (by omega) (by decide) (by omega) (by omega)
  have f_0_32 : fld ww 0 32 = imm.toNat := (F.lit 0 32 (by decide)).trans (by omega)
  have f_34_6 : fld ww 34 6 = 0 := (F.c 34 6 (by decide) (by decide)).trans (by omega)
  rw [dec_03 F.op]
  simp [dL2, decArithL, fA, fB, fD, fFn, fLit, fSz, f_0_32, F.sz, f_34_6, F.a, F.d, F.fn, F.op, gOf, Except.map, need, gUpTo, srcIf, GZ.code_zero, optG, Sz.code_zero, Rm.code_two, bind, Except.bind, pure, Except.pure, srcOf_code, dstOf_code, gzOf_code, rdstOf_code, popOf_code, szOf_code, fszOf_code, rmOf_code, etOf_code, scopeOf_code, modeOf_ord, gOf_val, eOf_val, finOfNat_val, boolNat_eq, BitVec.ofNat_toNat, BitVec.setWidth_eq, fn0, fldB, fbit]

theorem dw_maxuReg {ww : Word} (sz : Sz) (d : Dst) (a : Src) (b : Src) (hw : ww = packR 2 12 (d.code) (a.code) (b.code) (sz.code) 0 0) : decodeWord ww = .ok (.maxuReg sz d a b) := by
  have hb_sz := Sz.code_lt sz
  have hb_d := Dst.code_lt d
  have hb_a := Src.code_lt a
  have hb_b := Src.code_lt b
  have F := fieldsR hw (by decide) (by decide) (by omega) (by omega) (by omega) (by omega) (by decide) (by decide)
  have f_0_26 : fld ww 0 26 = 0 := (F.mod 0 26 (by decide)).trans (by omega)
  rw [dec_02 F.op]
  simp [dR3, decArith, fA, fB, fC, fD, fFn, fMod, fSz, f_0_26, F.c, F.sz, F.b, F.a, F.d, F.fn, F.op, gOf, Except.map, need, gUpTo, srcIf, GZ.code_zero, optG, Sz.code_zero, Rm.code_two, bind, Except.bind, pure, Except.pure, srcOf_code, dstOf_code, gzOf_code, rdstOf_code, popOf_code, szOf_code, fszOf_code, rmOf_code, etOf_code, scopeOf_code, modeOf_ord, gOf_val, eOf_val, finOfNat_val, boolNat_eq, BitVec.ofNat_toNat, BitVec.setWidth_eq, fn0, fldB, fbit]

theorem dw_maxuLit {ww : Word} (sz : Sz) (d : Dst) (a : Src) (imm : BitVec 32) (hw : ww = packL 3 12 (d.code) (a.code) 0 (sz.code) (imm.toNat)) : decodeWord ww = .ok (.maxuLit sz d a imm) := by
  have hb_sz := Sz.code_lt sz
  have hb_d := Dst.code_lt d
  have hb_a := Src.code_lt a
  have hb_imm := imm.isLt
  have F := fieldsL hw (by decide) (by decide) (by omega) (by omega) (by decide) (by omega) (by omega)
  have f_0_32 : fld ww 0 32 = imm.toNat := (F.lit 0 32 (by decide)).trans (by omega)
  have f_34_6 : fld ww 34 6 = 0 := (F.c 34 6 (by decide) (by decide)).trans (by omega)
  rw [dec_03 F.op]
  simp [dL2, decArithL, fA, fB, fD, fFn, fLit, fSz, f_0_32, F.sz, f_34_6, F.a, F.d, F.fn, F.op, gOf, Except.map, need, gUpTo, srcIf, GZ.code_zero, optG, Sz.code_zero, Rm.code_two, bind, Except.bind, pure, Except.pure, srcOf_code, dstOf_code, gzOf_code, rdstOf_code, popOf_code, szOf_code, fszOf_code, rmOf_code, etOf_code, scopeOf_code, modeOf_ord, gOf_val, eOf_val, finOfNat_val, boolNat_eq, BitVec.ofNat_toNat, BitVec.setWidth_eq, fn0, fldB, fbit]

theorem dw_leaReg {ww : Word} (sz : Sz) (d : Dst) (a : Src) (b : Src) (c : BitVec 6) (hw : ww = packR 2 13 (d.code) (a.code) (b.code) (sz.code) (c.toNat) 0) (hwf : ((c.toNat < 8 : Bool)) = true) : decodeWord ww = .ok (.leaReg sz d a b c) := by
  have hb_sz := Sz.code_lt sz
  have hb_d := Dst.code_lt d
  have hb_a := Src.code_lt a
  have hb_b := Src.code_lt b
  have hb_c := c.isLt
  have F := fieldsR hw (by decide) (by decide) (by omega) (by omega) (by omega) (by omega) (by omega) (by decide)
  have f_0_26 : fld ww 0 26 = 0 := (F.mod 0 26 (by decide)).trans (by omega)
  try simp [← BitVec.toNat_inj, GZ.code_zero] at hwf
  rw [dec_02 F.op]
  simp [dR3, decArith, fA, fB, fC, fD, fFn, fMod, fSz, f_0_26, F.c, F.sz, F.b, F.a, F.d, F.fn, F.op, gOf, Except.map, need, gUpTo, srcIf, GZ.code_zero, optG, Sz.code_zero, Rm.code_two, bind, Except.bind, pure, Except.pure, srcOf_code, dstOf_code, gzOf_code, rdstOf_code, popOf_code, szOf_code, fszOf_code, rmOf_code, etOf_code, scopeOf_code, modeOf_ord, gOf_val, eOf_val, finOfNat_val, boolNat_eq, BitVec.ofNat_toNat, BitVec.setWidth_eq, fn0, fldB, fbit, hwf]

theorem dw_leaLit {ww : Word} (sz : Sz) (d : Dst) (a : Src) (c : BitVec 6) (imm : BitVec 32) (hw : ww = packL 3 13 (d.code) (a.code) (c.toNat) (sz.code) (imm.toNat)) (hwf : ((c.toNat < 8 : Bool)) = true) : decodeWord ww = .ok (.leaLit sz d a c imm) := by
  have hb_sz := Sz.code_lt sz
  have hb_d := Dst.code_lt d
  have hb_a := Src.code_lt a
  have hb_c := c.isLt
  have hb_imm := imm.isLt
  have F := fieldsL hw (by decide) (by decide) (by omega) (by omega) (by omega) (by omega) (by omega)
  have f_0_32 : fld ww 0 32 = imm.toNat := (F.lit 0 32 (by decide)).trans (by omega)
  have f_34_6 : fld ww 34 6 = c.toNat := (F.c 34 6 (by decide) (by decide)).trans (by omega)
  try simp [← BitVec.toNat_inj, GZ.code_zero] at hwf
  rw [dec_03 F.op]
  simp [dL2, decArithL, fA, fB, fD, fFn, fLit, fSz, f_0_32, F.sz, f_34_6, F.a, F.d, F.fn, F.op, gOf, Except.map, need, gUpTo, srcIf, GZ.code_zero, optG, Sz.code_zero, Rm.code_two, bind, Except.bind, pure, Except.pure, srcOf_code, dstOf_code, gzOf_code, rdstOf_code, popOf_code, szOf_code, fszOf_code, rmOf_code, etOf_code, scopeOf_code, modeOf_ord, gOf_val, eOf_val, finOfNat_val, boolNat_eq, BitVec.ofNat_toNat, BitVec.setWidth_eq, fn0, fldB, fbit, hwf]

theorem dw_andReg {ww : Word} (sz : Sz) (d : Dst) (a : Src) (b : Src) (hw : ww = packR 4 0 (d.code) (a.code) (b.code) (sz.code) 0 0) : decodeWord ww = .ok (.andReg sz d a b) := by
  have hb_sz := Sz.code_lt sz
  have hb_d := Dst.code_lt d
  have hb_a := Src.code_lt a
  have hb_b := Src.code_lt b
  have F := fieldsR hw (by decide) (by decide) (by omega) (by omega) (by omega) (by omega) (by decide) (by decide)
  have f_0_26 : fld ww 0 26 = 0 := (F.mod 0 26 (by decide)).trans (by omega)
  rw [dec_04 F.op]
  simp [dR3, dR4, decLogic, fA, fB, fC, fD, fFn, fMod, fSz, f_0_26, F.c, F.sz, F.b, F.a, F.d, F.fn, F.op, gOf, Except.map, need, gUpTo, srcIf, GZ.code_zero, optG, Sz.code_zero, Rm.code_two, bind, Except.bind, pure, Except.pure, srcOf_code, dstOf_code, gzOf_code, rdstOf_code, popOf_code, szOf_code, fszOf_code, rmOf_code, etOf_code, scopeOf_code, modeOf_ord, gOf_val, eOf_val, finOfNat_val, boolNat_eq, BitVec.ofNat_toNat, BitVec.setWidth_eq, fn0, fldB, fbit]

theorem dw_andLit {ww : Word} (sz : Sz) (d : Dst) (a : Src) (imm : BitVec 32) (hw : ww = packL 5 0 (d.code) (a.code) 0 (sz.code) (imm.toNat)) : decodeWord ww = .ok (.andLit sz d a imm) := by
  have hb_sz := Sz.code_lt sz
  have hb_d := Dst.code_lt d
  have hb_a := Src.code_lt a
  have hb_imm := imm.isLt
  have F := fieldsL hw (by decide) (by decide) (by omega) (by omega) (by decide) (by omega) (by omega)
  have f_0_32 : fld ww 0 32 = imm.toNat := (F.lit 0 32 (by decide)).trans (by omega)
  have f_34_6 : fld ww 34 6 = 0 := (F.c 34 6 (by decide) (by decide)).trans (by omega)
  rw [dec_05 F.op]
  simp [dL2, dL3, decLogicL, fA, fB, fD, fFn, fLit, fSz, f_0_32, F.sz, f_34_6, F.a, F.d, F.fn, F.op, gOf, Except.map, need, gUpTo, srcIf, GZ.code_zero, optG, Sz.code_zero, Rm.code_two, bind, Except.bind, pure, Except.pure, srcOf_code, dstOf_code, gzOf_code, rdstOf_code, popOf_code, szOf_code, fszOf_code, rmOf_code, etOf_code, scopeOf_code, modeOf_ord, gOf_val, eOf_val, finOfNat_val, boolNat_eq, BitVec.ofNat_toNat, BitVec.setWidth_eq, fn0, fldB, fbit]

theorem dw_orReg {ww : Word} (sz : Sz) (d : Dst) (a : Src) (b : Src) (hw : ww = packR 4 1 (d.code) (a.code) (b.code) (sz.code) 0 0) : decodeWord ww = .ok (.orReg sz d a b) := by
  have hb_sz := Sz.code_lt sz
  have hb_d := Dst.code_lt d
  have hb_a := Src.code_lt a
  have hb_b := Src.code_lt b
  have F := fieldsR hw (by decide) (by decide) (by omega) (by omega) (by omega) (by omega) (by decide) (by decide)
  have f_0_26 : fld ww 0 26 = 0 := (F.mod 0 26 (by decide)).trans (by omega)
  rw [dec_04 F.op]
  simp [dR3, dR4, decLogic, fA, fB, fC, fD, fFn, fMod, fSz, f_0_26, F.c, F.sz, F.b, F.a, F.d, F.fn, F.op, gOf, Except.map, need, gUpTo, srcIf, GZ.code_zero, optG, Sz.code_zero, Rm.code_two, bind, Except.bind, pure, Except.pure, srcOf_code, dstOf_code, gzOf_code, rdstOf_code, popOf_code, szOf_code, fszOf_code, rmOf_code, etOf_code, scopeOf_code, modeOf_ord, gOf_val, eOf_val, finOfNat_val, boolNat_eq, BitVec.ofNat_toNat, BitVec.setWidth_eq, fn0, fldB, fbit]

theorem dw_orLit {ww : Word} (sz : Sz) (d : Dst) (a : Src) (imm : BitVec 32) (hw : ww = packL 5 1 (d.code) (a.code) 0 (sz.code) (imm.toNat)) : decodeWord ww = .ok (.orLit sz d a imm) := by
  have hb_sz := Sz.code_lt sz
  have hb_d := Dst.code_lt d
  have hb_a := Src.code_lt a
  have hb_imm := imm.isLt
  have F := fieldsL hw (by decide) (by decide) (by omega) (by omega) (by decide) (by omega) (by omega)
  have f_0_32 : fld ww 0 32 = imm.toNat := (F.lit 0 32 (by decide)).trans (by omega)
  have f_34_6 : fld ww 34 6 = 0 := (F.c 34 6 (by decide) (by decide)).trans (by omega)
  rw [dec_05 F.op]
  simp [dL2, dL3, decLogicL, fA, fB, fD, fFn, fLit, fSz, f_0_32, F.sz, f_34_6, F.a, F.d, F.fn, F.op, gOf, Except.map, need, gUpTo, srcIf, GZ.code_zero, optG, Sz.code_zero, Rm.code_two, bind, Except.bind, pure, Except.pure, srcOf_code, dstOf_code, gzOf_code, rdstOf_code, popOf_code, szOf_code, fszOf_code, rmOf_code, etOf_code, scopeOf_code, modeOf_ord, gOf_val, eOf_val, finOfNat_val, boolNat_eq, BitVec.ofNat_toNat, BitVec.setWidth_eq, fn0, fldB, fbit]

theorem dw_xorReg {ww : Word} (sz : Sz) (d : Dst) (a : Src) (b : Src) (hw : ww = packR 4 2 (d.code) (a.code) (b.code) (sz.code) 0 0) : decodeWord ww = .ok (.xorReg sz d a b) := by
  have hb_sz := Sz.code_lt sz
  have hb_d := Dst.code_lt d
  have hb_a := Src.code_lt a
  have hb_b := Src.code_lt b
  have F := fieldsR hw (by decide) (by decide) (by omega) (by omega) (by omega) (by omega) (by decide) (by decide)
  have f_0_26 : fld ww 0 26 = 0 := (F.mod 0 26 (by decide)).trans (by omega)
  rw [dec_04 F.op]
  simp [dR3, dR4, decLogic, fA, fB, fC, fD, fFn, fMod, fSz, f_0_26, F.c, F.sz, F.b, F.a, F.d, F.fn, F.op, gOf, Except.map, need, gUpTo, srcIf, GZ.code_zero, optG, Sz.code_zero, Rm.code_two, bind, Except.bind, pure, Except.pure, srcOf_code, dstOf_code, gzOf_code, rdstOf_code, popOf_code, szOf_code, fszOf_code, rmOf_code, etOf_code, scopeOf_code, modeOf_ord, gOf_val, eOf_val, finOfNat_val, boolNat_eq, BitVec.ofNat_toNat, BitVec.setWidth_eq, fn0, fldB, fbit]

theorem dw_xorLit {ww : Word} (sz : Sz) (d : Dst) (a : Src) (imm : BitVec 32) (hw : ww = packL 5 2 (d.code) (a.code) 0 (sz.code) (imm.toNat)) : decodeWord ww = .ok (.xorLit sz d a imm) := by
  have hb_sz := Sz.code_lt sz
  have hb_d := Dst.code_lt d
  have hb_a := Src.code_lt a
  have hb_imm := imm.isLt
  have F := fieldsL hw (by decide) (by decide) (by omega) (by omega) (by decide) (by omega) (by omega)
  have f_0_32 : fld ww 0 32 = imm.toNat := (F.lit 0 32 (by decide)).trans (by omega)
  have f_34_6 : fld ww 34 6 = 0 := (F.c 34 6 (by decide) (by decide)).trans (by omega)
  rw [dec_05 F.op]
  simp [dL2, dL3, decLogicL, fA, fB, fD, fFn, fLit, fSz, f_0_32, F.sz, f_34_6, F.a, F.d, F.fn, F.op, gOf, Except.map, need, gUpTo, srcIf, GZ.code_zero, optG, Sz.code_zero, Rm.code_two, bind, Except.bind, pure, Except.pure, srcOf_code, dstOf_code, gzOf_code, rdstOf_code, popOf_code, szOf_code, fszOf_code, rmOf_code, etOf_code, scopeOf_code, modeOf_ord, gOf_val, eOf_val, finOfNat_val, boolNat_eq, BitVec.ofNat_toNat, BitVec.setWidth_eq, fn0, fldB, fbit]

theorem dw_andnReg {ww : Word} (sz : Sz) (d : Dst) (a : Src) (b : Src) (hw : ww = packR 4 3 (d.code) (a.code) (b.code) (sz.code) 0 0) : decodeWord ww = .ok (.andnReg sz d a b) := by
  have hb_sz := Sz.code_lt sz
  have hb_d := Dst.code_lt d
  have hb_a := Src.code_lt a
  have hb_b := Src.code_lt b
  have F := fieldsR hw (by decide) (by decide) (by omega) (by omega) (by omega) (by omega) (by decide) (by decide)
  have f_0_26 : fld ww 0 26 = 0 := (F.mod 0 26 (by decide)).trans (by omega)
  rw [dec_04 F.op]
  simp [dR3, dR4, decLogic, fA, fB, fC, fD, fFn, fMod, fSz, f_0_26, F.c, F.sz, F.b, F.a, F.d, F.fn, F.op, gOf, Except.map, need, gUpTo, srcIf, GZ.code_zero, optG, Sz.code_zero, Rm.code_two, bind, Except.bind, pure, Except.pure, srcOf_code, dstOf_code, gzOf_code, rdstOf_code, popOf_code, szOf_code, fszOf_code, rmOf_code, etOf_code, scopeOf_code, modeOf_ord, gOf_val, eOf_val, finOfNat_val, boolNat_eq, BitVec.ofNat_toNat, BitVec.setWidth_eq, fn0, fldB, fbit]

theorem dw_andnLit {ww : Word} (sz : Sz) (d : Dst) (a : Src) (imm : BitVec 32) (hw : ww = packL 5 3 (d.code) (a.code) 0 (sz.code) (imm.toNat)) : decodeWord ww = .ok (.andnLit sz d a imm) := by
  have hb_sz := Sz.code_lt sz
  have hb_d := Dst.code_lt d
  have hb_a := Src.code_lt a
  have hb_imm := imm.isLt
  have F := fieldsL hw (by decide) (by decide) (by omega) (by omega) (by decide) (by omega) (by omega)
  have f_0_32 : fld ww 0 32 = imm.toNat := (F.lit 0 32 (by decide)).trans (by omega)
  have f_34_6 : fld ww 34 6 = 0 := (F.c 34 6 (by decide) (by decide)).trans (by omega)
  rw [dec_05 F.op]
  simp [dL2, dL3, decLogicL, fA, fB, fD, fFn, fLit, fSz, f_0_32, F.sz, f_34_6, F.a, F.d, F.fn, F.op, gOf, Except.map, need, gUpTo, srcIf, GZ.code_zero, optG, Sz.code_zero, Rm.code_two, bind, Except.bind, pure, Except.pure, srcOf_code, dstOf_code, gzOf_code, rdstOf_code, popOf_code, szOf_code, fszOf_code, rmOf_code, etOf_code, scopeOf_code, modeOf_ord, gOf_val, eOf_val, finOfNat_val, boolNat_eq, BitVec.ofNat_toNat, BitVec.setWidth_eq, fn0, fldB, fbit]

theorem dw_ornReg {ww : Word} (sz : Sz) (d : Dst) (a : Src) (b : Src) (hw : ww = packR 4 4 (d.code) (a.code) (b.code) (sz.code) 0 0) : decodeWord ww = .ok (.ornReg sz d a b) := by
  have hb_sz := Sz.code_lt sz
  have hb_d := Dst.code_lt d
  have hb_a := Src.code_lt a
  have hb_b := Src.code_lt b
  have F := fieldsR hw (by decide) (by decide) (by omega) (by omega) (by omega) (by omega) (by decide) (by decide)
  have f_0_26 : fld ww 0 26 = 0 := (F.mod 0 26 (by decide)).trans (by omega)
  rw [dec_04 F.op]
  simp [dR3, dR4, decLogic, fA, fB, fC, fD, fFn, fMod, fSz, f_0_26, F.c, F.sz, F.b, F.a, F.d, F.fn, F.op, gOf, Except.map, need, gUpTo, srcIf, GZ.code_zero, optG, Sz.code_zero, Rm.code_two, bind, Except.bind, pure, Except.pure, srcOf_code, dstOf_code, gzOf_code, rdstOf_code, popOf_code, szOf_code, fszOf_code, rmOf_code, etOf_code, scopeOf_code, modeOf_ord, gOf_val, eOf_val, finOfNat_val, boolNat_eq, BitVec.ofNat_toNat, BitVec.setWidth_eq, fn0, fldB, fbit]

theorem dw_ornLit {ww : Word} (sz : Sz) (d : Dst) (a : Src) (imm : BitVec 32) (hw : ww = packL 5 4 (d.code) (a.code) 0 (sz.code) (imm.toNat)) : decodeWord ww = .ok (.ornLit sz d a imm) := by
  have hb_sz := Sz.code_lt sz
  have hb_d := Dst.code_lt d
  have hb_a := Src.code_lt a
  have hb_imm := imm.isLt
  have F := fieldsL hw (by decide) (by decide) (by omega) (by omega) (by decide) (by omega) (by omega)
  have f_0_32 : fld ww 0 32 = imm.toNat := (F.lit 0 32 (by decide)).trans (by omega)
  have f_34_6 : fld ww 34 6 = 0 := (F.c 34 6 (by decide) (by decide)).trans (by omega)
  rw [dec_05 F.op]
  simp [dL2, dL3, decLogicL, fA, fB, fD, fFn, fLit, fSz, f_0_32, F.sz, f_34_6, F.a, F.d, F.fn, F.op, gOf, Except.map, need, gUpTo, srcIf, GZ.code_zero, optG, Sz.code_zero, Rm.code_two, bind, Except.bind, pure, Except.pure, srcOf_code, dstOf_code, gzOf_code, rdstOf_code, popOf_code, szOf_code, fszOf_code, rmOf_code, etOf_code, scopeOf_code, modeOf_ord, gOf_val, eOf_val, finOfNat_val, boolNat_eq, BitVec.ofNat_toNat, BitVec.setWidth_eq, fn0, fldB, fbit]

theorem dw_shlReg {ww : Word} (sz : Sz) (d : Dst) (a : Src) (b : Src) (hw : ww = packR 4 5 (d.code) (a.code) (b.code) (sz.code) 0 0) : decodeWord ww = .ok (.shlReg sz d a b) := by
  have hb_sz := Sz.code_lt sz
  have hb_d := Dst.code_lt d
  have hb_a := Src.code_lt a
  have hb_b := Src.code_lt b
  have F := fieldsR hw (by decide) (by decide) (by omega) (by omega) (by omega) (by omega) (by decide) (by decide)
  have f_0_26 : fld ww 0 26 = 0 := (F.mod 0 26 (by decide)).trans (by omega)
  rw [dec_04 F.op]
  simp [dR3, dR4, decLogic, fA, fB, fC, fD, fFn, fMod, fSz, f_0_26, F.c, F.sz, F.b, F.a, F.d, F.fn, F.op, gOf, Except.map, need, gUpTo, srcIf, GZ.code_zero, optG, Sz.code_zero, Rm.code_two, bind, Except.bind, pure, Except.pure, srcOf_code, dstOf_code, gzOf_code, rdstOf_code, popOf_code, szOf_code, fszOf_code, rmOf_code, etOf_code, scopeOf_code, modeOf_ord, gOf_val, eOf_val, finOfNat_val, boolNat_eq, BitVec.ofNat_toNat, BitVec.setWidth_eq, fn0, fldB, fbit]

theorem dw_shlLit {ww : Word} (sz : Sz) (d : Dst) (a : Src) (imm : BitVec 32) (hw : ww = packL 5 5 (d.code) (a.code) 0 (sz.code) (imm.toNat)) : decodeWord ww = .ok (.shlLit sz d a imm) := by
  have hb_sz := Sz.code_lt sz
  have hb_d := Dst.code_lt d
  have hb_a := Src.code_lt a
  have hb_imm := imm.isLt
  have F := fieldsL hw (by decide) (by decide) (by omega) (by omega) (by decide) (by omega) (by omega)
  have f_0_32 : fld ww 0 32 = imm.toNat := (F.lit 0 32 (by decide)).trans (by omega)
  have f_34_6 : fld ww 34 6 = 0 := (F.c 34 6 (by decide) (by decide)).trans (by omega)
  rw [dec_05 F.op]
  simp [dL2, dL3, decLogicL, fA, fB, fD, fFn, fLit, fSz, f_0_32, F.sz, f_34_6, F.a, F.d, F.fn, F.op, gOf, Except.map, need, gUpTo, srcIf, GZ.code_zero, optG, Sz.code_zero, Rm.code_two, bind, Except.bind, pure, Except.pure, srcOf_code, dstOf_code, gzOf_code, rdstOf_code, popOf_code, szOf_code, fszOf_code, rmOf_code, etOf_code, scopeOf_code, modeOf_ord, gOf_val, eOf_val, finOfNat_val, boolNat_eq, BitVec.ofNat_toNat, BitVec.setWidth_eq, fn0, fldB, fbit]

theorem dw_shrReg {ww : Word} (sz : Sz) (d : Dst) (a : Src) (b : Src) (hw : ww = packR 4 6 (d.code) (a.code) (b.code) (sz.code) 0 0) : decodeWord ww = .ok (.shrReg sz d a b) := by
  have hb_sz := Sz.code_lt sz
  have hb_d := Dst.code_lt d
  have hb_a := Src.code_lt a
  have hb_b := Src.code_lt b
  have F := fieldsR hw (by decide) (by decide) (by omega) (by omega) (by omega) (by omega) (by decide) (by decide)
  have f_0_26 : fld ww 0 26 = 0 := (F.mod 0 26 (by decide)).trans (by omega)
  rw [dec_04 F.op]
  simp [dR3, dR4, decLogic, fA, fB, fC, fD, fFn, fMod, fSz, f_0_26, F.c, F.sz, F.b, F.a, F.d, F.fn, F.op, gOf, Except.map, need, gUpTo, srcIf, GZ.code_zero, optG, Sz.code_zero, Rm.code_two, bind, Except.bind, pure, Except.pure, srcOf_code, dstOf_code, gzOf_code, rdstOf_code, popOf_code, szOf_code, fszOf_code, rmOf_code, etOf_code, scopeOf_code, modeOf_ord, gOf_val, eOf_val, finOfNat_val, boolNat_eq, BitVec.ofNat_toNat, BitVec.setWidth_eq, fn0, fldB, fbit]

theorem dw_shrLit {ww : Word} (sz : Sz) (d : Dst) (a : Src) (imm : BitVec 32) (hw : ww = packL 5 6 (d.code) (a.code) 0 (sz.code) (imm.toNat)) : decodeWord ww = .ok (.shrLit sz d a imm) := by
  have hb_sz := Sz.code_lt sz
  have hb_d := Dst.code_lt d
  have hb_a := Src.code_lt a
  have hb_imm := imm.isLt
  have F := fieldsL hw (by decide) (by decide) (by omega) (by omega) (by decide) (by omega) (by omega)
  have f_0_32 : fld ww 0 32 = imm.toNat := (F.lit 0 32 (by decide)).trans (by omega)
  have f_34_6 : fld ww 34 6 = 0 := (F.c 34 6 (by decide) (by decide)).trans (by omega)
  rw [dec_05 F.op]
  simp [dL2, dL3, decLogicL, fA, fB, fD, fFn, fLit, fSz, f_0_32, F.sz, f_34_6, F.a, F.d, F.fn, F.op, gOf, Except.map, need, gUpTo, srcIf, GZ.code_zero, optG, Sz.code_zero, Rm.code_two, bind, Except.bind, pure, Except.pure, srcOf_code, dstOf_code, gzOf_code, rdstOf_code, popOf_code, szOf_code, fszOf_code, rmOf_code, etOf_code, scopeOf_code, modeOf_ord, gOf_val, eOf_val, finOfNat_val, boolNat_eq, BitVec.ofNat_toNat, BitVec.setWidth_eq, fn0, fldB, fbit]

theorem dw_sarReg {ww : Word} (sz : Sz) (d : Dst) (a : Src) (b : Src) (hw : ww = packR 4 7 (d.code) (a.code) (b.code) (sz.code) 0 0) : decodeWord ww = .ok (.sarReg sz d a b) := by
  have hb_sz := Sz.code_lt sz
  have hb_d := Dst.code_lt d
  have hb_a := Src.code_lt a
  have hb_b := Src.code_lt b
  have F := fieldsR hw (by decide) (by decide) (by omega) (by omega) (by omega) (by omega) (by decide) (by decide)
  have f_0_26 : fld ww 0 26 = 0 := (F.mod 0 26 (by decide)).trans (by omega)
  rw [dec_04 F.op]
  simp [dR3, dR4, decLogic, fA, fB, fC, fD, fFn, fMod, fSz, f_0_26, F.c, F.sz, F.b, F.a, F.d, F.fn, F.op, gOf, Except.map, need, gUpTo, srcIf, GZ.code_zero, optG, Sz.code_zero, Rm.code_two, bind, Except.bind, pure, Except.pure, srcOf_code, dstOf_code, gzOf_code, rdstOf_code, popOf_code, szOf_code, fszOf_code, rmOf_code, etOf_code, scopeOf_code, modeOf_ord, gOf_val, eOf_val, finOfNat_val, boolNat_eq, BitVec.ofNat_toNat, BitVec.setWidth_eq, fn0, fldB, fbit]

theorem dw_sarLit {ww : Word} (sz : Sz) (d : Dst) (a : Src) (imm : BitVec 32) (hw : ww = packL 5 7 (d.code) (a.code) 0 (sz.code) (imm.toNat)) : decodeWord ww = .ok (.sarLit sz d a imm) := by
  have hb_sz := Sz.code_lt sz
  have hb_d := Dst.code_lt d
  have hb_a := Src.code_lt a
  have hb_imm := imm.isLt
  have F := fieldsL hw (by decide) (by decide) (by omega) (by omega) (by decide) (by omega) (by omega)
  have f_0_32 : fld ww 0 32 = imm.toNat := (F.lit 0 32 (by decide)).trans (by omega)
  have f_34_6 : fld ww 34 6 = 0 := (F.c 34 6 (by decide) (by decide)).trans (by omega)
  rw [dec_05 F.op]
  simp [dL2, dL3, decLogicL, fA, fB, fD, fFn, fLit, fSz, f_0_32, F.sz, f_34_6, F.a, F.d, F.fn, F.op, gOf, Except.map, need, gUpTo, srcIf, GZ.code_zero, optG, Sz.code_zero, Rm.code_two, bind, Except.bind, pure, Except.pure, srcOf_code, dstOf_code, gzOf_code, rdstOf_code, popOf_code, szOf_code, fszOf_code, rmOf_code, etOf_code, scopeOf_code, modeOf_ord, gOf_val, eOf_val, finOfNat_val, boolNat_eq, BitVec.ofNat_toNat, BitVec.setWidth_eq, fn0, fldB, fbit]

theorem dw_rolReg {ww : Word} (sz : Sz) (d : Dst) (a : Src) (b : Src) (hw : ww = packR 4 8 (d.code) (a.code) (b.code) (sz.code) 0 0) : decodeWord ww = .ok (.rolReg sz d a b) := by
  have hb_sz := Sz.code_lt sz
  have hb_d := Dst.code_lt d
  have hb_a := Src.code_lt a
  have hb_b := Src.code_lt b
  have F := fieldsR hw (by decide) (by decide) (by omega) (by omega) (by omega) (by omega) (by decide) (by decide)
  have f_0_26 : fld ww 0 26 = 0 := (F.mod 0 26 (by decide)).trans (by omega)
  rw [dec_04 F.op]
  simp [dR3, dR4, decLogic, fA, fB, fC, fD, fFn, fMod, fSz, f_0_26, F.c, F.sz, F.b, F.a, F.d, F.fn, F.op, gOf, Except.map, need, gUpTo, srcIf, GZ.code_zero, optG, Sz.code_zero, Rm.code_two, bind, Except.bind, pure, Except.pure, srcOf_code, dstOf_code, gzOf_code, rdstOf_code, popOf_code, szOf_code, fszOf_code, rmOf_code, etOf_code, scopeOf_code, modeOf_ord, gOf_val, eOf_val, finOfNat_val, boolNat_eq, BitVec.ofNat_toNat, BitVec.setWidth_eq, fn0, fldB, fbit]

theorem dw_rolLit {ww : Word} (sz : Sz) (d : Dst) (a : Src) (imm : BitVec 32) (hw : ww = packL 5 8 (d.code) (a.code) 0 (sz.code) (imm.toNat)) : decodeWord ww = .ok (.rolLit sz d a imm) := by
  have hb_sz := Sz.code_lt sz
  have hb_d := Dst.code_lt d
  have hb_a := Src.code_lt a
  have hb_imm := imm.isLt
  have F := fieldsL hw (by decide) (by decide) (by omega) (by omega) (by decide) (by omega) (by omega)
  have f_0_32 : fld ww 0 32 = imm.toNat := (F.lit 0 32 (by decide)).trans (by omega)
  have f_34_6 : fld ww 34 6 = 0 := (F.c 34 6 (by decide) (by decide)).trans (by omega)
  rw [dec_05 F.op]
  simp [dL2, dL3, decLogicL, fA, fB, fD, fFn, fLit, fSz, f_0_32, F.sz, f_34_6, F.a, F.d, F.fn, F.op, gOf, Except.map, need, gUpTo, srcIf, GZ.code_zero, optG, Sz.code_zero, Rm.code_two, bind, Except.bind, pure, Except.pure, srcOf_code, dstOf_code, gzOf_code, rdstOf_code, popOf_code, szOf_code, fszOf_code, rmOf_code, etOf_code, scopeOf_code, modeOf_ord, gOf_val, eOf_val, finOfNat_val, boolNat_eq, BitVec.ofNat_toNat, BitVec.setWidth_eq, fn0, fldB, fbit]

theorem dw_rorReg {ww : Word} (sz : Sz) (d : Dst) (a : Src) (b : Src) (hw : ww = packR 4 9 (d.code) (a.code) (b.code) (sz.code) 0 0) : decodeWord ww = .ok (.rorReg sz d a b) := by
  have hb_sz := Sz.code_lt sz
  have hb_d := Dst.code_lt d
  have hb_a := Src.code_lt a
  have hb_b := Src.code_lt b
  have F := fieldsR hw (by decide) (by decide) (by omega) (by omega) (by omega) (by omega) (by decide) (by decide)
  have f_0_26 : fld ww 0 26 = 0 := (F.mod 0 26 (by decide)).trans (by omega)
  rw [dec_04 F.op]
  simp [dR3, dR4, decLogic, fA, fB, fC, fD, fFn, fMod, fSz, f_0_26, F.c, F.sz, F.b, F.a, F.d, F.fn, F.op, gOf, Except.map, need, gUpTo, srcIf, GZ.code_zero, optG, Sz.code_zero, Rm.code_two, bind, Except.bind, pure, Except.pure, srcOf_code, dstOf_code, gzOf_code, rdstOf_code, popOf_code, szOf_code, fszOf_code, rmOf_code, etOf_code, scopeOf_code, modeOf_ord, gOf_val, eOf_val, finOfNat_val, boolNat_eq, BitVec.ofNat_toNat, BitVec.setWidth_eq, fn0, fldB, fbit]

theorem dw_rorLit {ww : Word} (sz : Sz) (d : Dst) (a : Src) (imm : BitVec 32) (hw : ww = packL 5 9 (d.code) (a.code) 0 (sz.code) (imm.toNat)) : decodeWord ww = .ok (.rorLit sz d a imm) := by
  have hb_sz := Sz.code_lt sz
  have hb_d := Dst.code_lt d
  have hb_a := Src.code_lt a
  have hb_imm := imm.isLt
  have F := fieldsL hw (by decide) (by decide) (by omega) (by omega) (by decide) (by omega) (by omega)
  have f_0_32 : fld ww 0 32 = imm.toNat := (F.lit 0 32 (by decide)).trans (by omega)
  have f_34_6 : fld ww 34 6 = 0 := (F.c 34 6 (by decide) (by decide)).trans (by omega)
  rw [dec_05 F.op]
  simp [dL2, dL3, decLogicL, fA, fB, fD, fFn, fLit, fSz, f_0_32, F.sz, f_34_6, F.a, F.d, F.fn, F.op, gOf, Except.map, need, gUpTo, srcIf, GZ.code_zero, optG, Sz.code_zero, Rm.code_two, bind, Except.bind, pure, Except.pure, srcOf_code, dstOf_code, gzOf_code, rdstOf_code, popOf_code, szOf_code, fszOf_code, rmOf_code, etOf_code, scopeOf_code, modeOf_ord, gOf_val, eOf_val, finOfNat_val, boolNat_eq, BitVec.ofNat_toNat, BitVec.setWidth_eq, fn0, fldB, fbit]

theorem dw_fshlReg {ww : Word} (sz : Sz) (d : Dst) (a : Src) (b : Src) (c : Src) (hw : ww = packR 4 10 (d.code) (a.code) (b.code) (sz.code) (c.code) 0) : decodeWord ww = .ok (.fshlReg sz d a b c) := by
  have hb_sz := Sz.code_lt sz
  have hb_d := Dst.code_lt d
  have hb_a := Src.code_lt a
  have hb_b := Src.code_lt b
  have hb_c := Src.code_lt c
  have F := fieldsR hw (by decide) (by decide) (by omega) (by omega) (by omega) (by omega) (by omega) (by decide)
  have f_0_26 : fld ww 0 26 = 0 := (F.mod 0 26 (by decide)).trans (by omega)
  rw [dec_04 F.op]
  simp [dR3, dR4, decLogic, fA, fB, fC, fD, fFn, fMod, fSz, f_0_26, F.c, F.sz, F.b, F.a, F.d, F.fn, F.op, gOf, Except.map, need, gUpTo, srcIf, GZ.code_zero, optG, Sz.code_zero, Rm.code_two, bind, Except.bind, pure, Except.pure, srcOf_code, dstOf_code, gzOf_code, rdstOf_code, popOf_code, szOf_code, fszOf_code, rmOf_code, etOf_code, scopeOf_code, modeOf_ord, gOf_val, eOf_val, finOfNat_val, boolNat_eq, BitVec.ofNat_toNat, BitVec.setWidth_eq, fn0, fldB, fbit]

theorem dw_fshlLit {ww : Word} (sz : Sz) (d : Dst) (a : Src) (imm : BitVec 32) (c : Src) (hw : ww = packL 5 10 (d.code) (a.code) (c.code) (sz.code) (imm.toNat)) : decodeWord ww = .ok (.fshlLit sz d a imm c) := by
  have hb_sz := Sz.code_lt sz
  have hb_d := Dst.code_lt d
  have hb_a := Src.code_lt a
  have hb_imm := imm.isLt
  have hb_c := Src.code_lt c
  have F := fieldsL hw (by decide) (by decide) (by omega) (by omega) (by omega) (by omega) (by omega)
  have f_0_32 : fld ww 0 32 = imm.toNat := (F.lit 0 32 (by decide)).trans (by omega)
  have f_34_6 : fld ww 34 6 = c.code := (F.c 34 6 (by decide) (by decide)).trans (by omega)
  rw [dec_05 F.op]
  simp [dL2, dL3, decLogicL, fA, fB, fD, fFn, fLit, fSz, f_0_32, F.sz, f_34_6, F.a, F.d, F.fn, F.op, gOf, Except.map, need, gUpTo, srcIf, GZ.code_zero, optG, Sz.code_zero, Rm.code_two, bind, Except.bind, pure, Except.pure, srcOf_code, dstOf_code, gzOf_code, rdstOf_code, popOf_code, szOf_code, fszOf_code, rmOf_code, etOf_code, scopeOf_code, modeOf_ord, gOf_val, eOf_val, finOfNat_val, boolNat_eq, BitVec.ofNat_toNat, BitVec.setWidth_eq, fn0, fldB, fbit]

theorem dw_fshrReg {ww : Word} (sz : Sz) (d : Dst) (a : Src) (b : Src) (c : Src) (hw : ww = packR 4 11 (d.code) (a.code) (b.code) (sz.code) (c.code) 0) : decodeWord ww = .ok (.fshrReg sz d a b c) := by
  have hb_sz := Sz.code_lt sz
  have hb_d := Dst.code_lt d
  have hb_a := Src.code_lt a
  have hb_b := Src.code_lt b
  have hb_c := Src.code_lt c
  have F := fieldsR hw (by decide) (by decide) (by omega) (by omega) (by omega) (by omega) (by omega) (by decide)
  have f_0_26 : fld ww 0 26 = 0 := (F.mod 0 26 (by decide)).trans (by omega)
  rw [dec_04 F.op]
  simp [dR3, dR4, decLogic, fA, fB, fC, fD, fFn, fMod, fSz, f_0_26, F.c, F.sz, F.b, F.a, F.d, F.fn, F.op, gOf, Except.map, need, gUpTo, srcIf, GZ.code_zero, optG, Sz.code_zero, Rm.code_two, bind, Except.bind, pure, Except.pure, srcOf_code, dstOf_code, gzOf_code, rdstOf_code, popOf_code, szOf_code, fszOf_code, rmOf_code, etOf_code, scopeOf_code, modeOf_ord, gOf_val, eOf_val, finOfNat_val, boolNat_eq, BitVec.ofNat_toNat, BitVec.setWidth_eq, fn0, fldB, fbit]

theorem dw_fshrLit {ww : Word} (sz : Sz) (d : Dst) (a : Src) (imm : BitVec 32) (c : Src) (hw : ww = packL 5 11 (d.code) (a.code) (c.code) (sz.code) (imm.toNat)) : decodeWord ww = .ok (.fshrLit sz d a imm c) := by
  have hb_sz := Sz.code_lt sz
  have hb_d := Dst.code_lt d
  have hb_a := Src.code_lt a
  have hb_imm := imm.isLt
  have hb_c := Src.code_lt c
  have F := fieldsL hw (by decide) (by decide) (by omega) (by omega) (by omega) (by omega) (by omega)
  have f_0_32 : fld ww 0 32 = imm.toNat := (F.lit 0 32 (by decide)).trans (by omega)
  have f_34_6 : fld ww 34 6 = c.code := (F.c 34 6 (by decide) (by decide)).trans (by omega)
  rw [dec_05 F.op]
  simp [dL2, dL3, decLogicL, fA, fB, fD, fFn, fLit, fSz, f_0_32, F.sz, f_34_6, F.a, F.d, F.fn, F.op, gOf, Except.map, need, gUpTo, srcIf, GZ.code_zero, optG, Sz.code_zero, Rm.code_two, bind, Except.bind, pure, Except.pure, srcOf_code, dstOf_code, gzOf_code, rdstOf_code, popOf_code, szOf_code, fszOf_code, rmOf_code, etOf_code, scopeOf_code, modeOf_ord, gOf_val, eOf_val, finOfNat_val, boolNat_eq, BitVec.ofNat_toNat, BitVec.setWidth_eq, fn0, fldB, fbit]

theorem dw_seqReg {ww : Word} (sz : Sz) (d : Dst) (a : Src) (b : Src) (hw : ww = packR 6 0 (d.code) (a.code) (b.code) (sz.code) 0 0) : decodeWord ww = .ok (.seqReg sz d a b) := by
  have hb_sz := Sz.code_lt sz
  have hb_d := Dst.code_lt d
  have hb_a := Src.code_lt a
  have hb_b := Src.code_lt b
  have F := fieldsR hw (by decide) (by decide) (by omega) (by omega) (by omega) (by omega) (by decide) (by decide)
  have f_0_26 : fld ww 0 26 = 0 := (F.mod 0 26 (by decide)).trans (by omega)
  rw [dec_06 F.op]
  simp [dR3, dR4, decCmp, fA, fB, fC, fD, fFn, fMod, fSz, f_0_26, F.c, F.sz, F.b, F.a, F.d, F.fn, F.op, gOf, Except.map, need, gUpTo, srcIf, GZ.code_zero, optG, Sz.code_zero, Rm.code_two, bind, Except.bind, pure, Except.pure, srcOf_code, dstOf_code, gzOf_code, rdstOf_code, popOf_code, szOf_code, fszOf_code, rmOf_code, etOf_code, scopeOf_code, modeOf_ord, gOf_val, eOf_val, finOfNat_val, boolNat_eq, BitVec.ofNat_toNat, BitVec.setWidth_eq, fn0, fldB, fbit]

theorem dw_seqLit {ww : Word} (sz : Sz) (d : Dst) (a : Src) (imm : BitVec 32) (hw : ww = packL 7 0 (d.code) (a.code) 0 (sz.code) (imm.toNat)) : decodeWord ww = .ok (.seqLit sz d a imm) := by
  have hb_sz := Sz.code_lt sz
  have hb_d := Dst.code_lt d
  have hb_a := Src.code_lt a
  have hb_imm := imm.isLt
  have F := fieldsL hw (by decide) (by decide) (by omega) (by omega) (by decide) (by omega) (by omega)
  have f_0_32 : fld ww 0 32 = imm.toNat := (F.lit 0 32 (by decide)).trans (by omega)
  have f_34_6 : fld ww 34 6 = 0 := (F.c 34 6 (by decide) (by decide)).trans (by omega)
  rw [dec_07 F.op]
  simp [dL2, dL3, decCmpL, fA, fB, fD, fFn, fLit, fSz, f_0_32, F.sz, f_34_6, F.a, F.d, F.fn, F.op, gOf, Except.map, need, gUpTo, srcIf, GZ.code_zero, optG, Sz.code_zero, Rm.code_two, bind, Except.bind, pure, Except.pure, srcOf_code, dstOf_code, gzOf_code, rdstOf_code, popOf_code, szOf_code, fszOf_code, rmOf_code, etOf_code, scopeOf_code, modeOf_ord, gOf_val, eOf_val, finOfNat_val, boolNat_eq, BitVec.ofNat_toNat, BitVec.setWidth_eq, fn0, fldB, fbit]

theorem dw_sneReg {ww : Word} (sz : Sz) (d : Dst) (a : Src) (b : Src) (hw : ww = packR 6 1 (d.code) (a.code) (b.code) (sz.code) 0 0) : decodeWord ww = .ok (.sneReg sz d a b) := by
  have hb_sz := Sz.code_lt sz
  have hb_d := Dst.code_lt d
  have hb_a := Src.code_lt a
  have hb_b := Src.code_lt b
  have F := fieldsR hw (by decide) (by decide) (by omega) (by omega) (by omega) (by omega) (by decide) (by decide)
  have f_0_26 : fld ww 0 26 = 0 := (F.mod 0 26 (by decide)).trans (by omega)
  rw [dec_06 F.op]
  simp [dR3, dR4, decCmp, fA, fB, fC, fD, fFn, fMod, fSz, f_0_26, F.c, F.sz, F.b, F.a, F.d, F.fn, F.op, gOf, Except.map, need, gUpTo, srcIf, GZ.code_zero, optG, Sz.code_zero, Rm.code_two, bind, Except.bind, pure, Except.pure, srcOf_code, dstOf_code, gzOf_code, rdstOf_code, popOf_code, szOf_code, fszOf_code, rmOf_code, etOf_code, scopeOf_code, modeOf_ord, gOf_val, eOf_val, finOfNat_val, boolNat_eq, BitVec.ofNat_toNat, BitVec.setWidth_eq, fn0, fldB, fbit]

theorem dw_sneLit {ww : Word} (sz : Sz) (d : Dst) (a : Src) (imm : BitVec 32) (hw : ww = packL 7 1 (d.code) (a.code) 0 (sz.code) (imm.toNat)) : decodeWord ww = .ok (.sneLit sz d a imm) := by
  have hb_sz := Sz.code_lt sz
  have hb_d := Dst.code_lt d
  have hb_a := Src.code_lt a
  have hb_imm := imm.isLt
  have F := fieldsL hw (by decide) (by decide) (by omega) (by omega) (by decide) (by omega) (by omega)
  have f_0_32 : fld ww 0 32 = imm.toNat := (F.lit 0 32 (by decide)).trans (by omega)
  have f_34_6 : fld ww 34 6 = 0 := (F.c 34 6 (by decide) (by decide)).trans (by omega)
  rw [dec_07 F.op]
  simp [dL2, dL3, decCmpL, fA, fB, fD, fFn, fLit, fSz, f_0_32, F.sz, f_34_6, F.a, F.d, F.fn, F.op, gOf, Except.map, need, gUpTo, srcIf, GZ.code_zero, optG, Sz.code_zero, Rm.code_two, bind, Except.bind, pure, Except.pure, srcOf_code, dstOf_code, gzOf_code, rdstOf_code, popOf_code, szOf_code, fszOf_code, rmOf_code, etOf_code, scopeOf_code, modeOf_ord, gOf_val, eOf_val, finOfNat_val, boolNat_eq, BitVec.ofNat_toNat, BitVec.setWidth_eq, fn0, fldB, fbit]

theorem dw_sltReg {ww : Word} (sz : Sz) (d : Dst) (a : Src) (b : Src) (hw : ww = packR 6 2 (d.code) (a.code) (b.code) (sz.code) 0 0) : decodeWord ww = .ok (.sltReg sz d a b) := by
  have hb_sz := Sz.code_lt sz
  have hb_d := Dst.code_lt d
  have hb_a := Src.code_lt a
  have hb_b := Src.code_lt b
  have F := fieldsR hw (by decide) (by decide) (by omega) (by omega) (by omega) (by omega) (by decide) (by decide)
  have f_0_26 : fld ww 0 26 = 0 := (F.mod 0 26 (by decide)).trans (by omega)
  rw [dec_06 F.op]
  simp [dR3, dR4, decCmp, fA, fB, fC, fD, fFn, fMod, fSz, f_0_26, F.c, F.sz, F.b, F.a, F.d, F.fn, F.op, gOf, Except.map, need, gUpTo, srcIf, GZ.code_zero, optG, Sz.code_zero, Rm.code_two, bind, Except.bind, pure, Except.pure, srcOf_code, dstOf_code, gzOf_code, rdstOf_code, popOf_code, szOf_code, fszOf_code, rmOf_code, etOf_code, scopeOf_code, modeOf_ord, gOf_val, eOf_val, finOfNat_val, boolNat_eq, BitVec.ofNat_toNat, BitVec.setWidth_eq, fn0, fldB, fbit]

theorem dw_sltLit {ww : Word} (sz : Sz) (d : Dst) (a : Src) (imm : BitVec 32) (hw : ww = packL 7 2 (d.code) (a.code) 0 (sz.code) (imm.toNat)) : decodeWord ww = .ok (.sltLit sz d a imm) := by
  have hb_sz := Sz.code_lt sz
  have hb_d := Dst.code_lt d
  have hb_a := Src.code_lt a
  have hb_imm := imm.isLt
  have F := fieldsL hw (by decide) (by decide) (by omega) (by omega) (by decide) (by omega) (by omega)
  have f_0_32 : fld ww 0 32 = imm.toNat := (F.lit 0 32 (by decide)).trans (by omega)
  have f_34_6 : fld ww 34 6 = 0 := (F.c 34 6 (by decide) (by decide)).trans (by omega)
  rw [dec_07 F.op]
  simp [dL2, dL3, decCmpL, fA, fB, fD, fFn, fLit, fSz, f_0_32, F.sz, f_34_6, F.a, F.d, F.fn, F.op, gOf, Except.map, need, gUpTo, srcIf, GZ.code_zero, optG, Sz.code_zero, Rm.code_two, bind, Except.bind, pure, Except.pure, srcOf_code, dstOf_code, gzOf_code, rdstOf_code, popOf_code, szOf_code, fszOf_code, rmOf_code, etOf_code, scopeOf_code, modeOf_ord, gOf_val, eOf_val, finOfNat_val, boolNat_eq, BitVec.ofNat_toNat, BitVec.setWidth_eq, fn0, fldB, fbit]

theorem dw_sltuReg {ww : Word} (sz : Sz) (d : Dst) (a : Src) (b : Src) (hw : ww = packR 6 3 (d.code) (a.code) (b.code) (sz.code) 0 0) : decodeWord ww = .ok (.sltuReg sz d a b) := by
  have hb_sz := Sz.code_lt sz
  have hb_d := Dst.code_lt d
  have hb_a := Src.code_lt a
  have hb_b := Src.code_lt b
  have F := fieldsR hw (by decide) (by decide) (by omega) (by omega) (by omega) (by omega) (by decide) (by decide)
  have f_0_26 : fld ww 0 26 = 0 := (F.mod 0 26 (by decide)).trans (by omega)
  rw [dec_06 F.op]
  simp [dR3, dR4, decCmp, fA, fB, fC, fD, fFn, fMod, fSz, f_0_26, F.c, F.sz, F.b, F.a, F.d, F.fn, F.op, gOf, Except.map, need, gUpTo, srcIf, GZ.code_zero, optG, Sz.code_zero, Rm.code_two, bind, Except.bind, pure, Except.pure, srcOf_code, dstOf_code, gzOf_code, rdstOf_code, popOf_code, szOf_code, fszOf_code, rmOf_code, etOf_code, scopeOf_code, modeOf_ord, gOf_val, eOf_val, finOfNat_val, boolNat_eq, BitVec.ofNat_toNat, BitVec.setWidth_eq, fn0, fldB, fbit]

theorem dw_sltuLit {ww : Word} (sz : Sz) (d : Dst) (a : Src) (imm : BitVec 32) (hw : ww = packL 7 3 (d.code) (a.code) 0 (sz.code) (imm.toNat)) : decodeWord ww = .ok (.sltuLit sz d a imm) := by
  have hb_sz := Sz.code_lt sz
  have hb_d := Dst.code_lt d
  have hb_a := Src.code_lt a
  have hb_imm := imm.isLt
  have F := fieldsL hw (by decide) (by decide) (by omega) (by omega) (by decide) (by omega) (by omega)
  have f_0_32 : fld ww 0 32 = imm.toNat := (F.lit 0 32 (by decide)).trans (by omega)
  have f_34_6 : fld ww 34 6 = 0 := (F.c 34 6 (by decide) (by decide)).trans (by omega)
  rw [dec_07 F.op]
  simp [dL2, dL3, decCmpL, fA, fB, fD, fFn, fLit, fSz, f_0_32, F.sz, f_34_6, F.a, F.d, F.fn, F.op, gOf, Except.map, need, gUpTo, srcIf, GZ.code_zero, optG, Sz.code_zero, Rm.code_two, bind, Except.bind, pure, Except.pure, srcOf_code, dstOf_code, gzOf_code, rdstOf_code, popOf_code, szOf_code, fszOf_code, rmOf_code, etOf_code, scopeOf_code, modeOf_ord, gOf_val, eOf_val, finOfNat_val, boolNat_eq, BitVec.ofNat_toNat, BitVec.setWidth_eq, fn0, fldB, fbit]

theorem dw_sleReg {ww : Word} (sz : Sz) (d : Dst) (a : Src) (b : Src) (hw : ww = packR 6 4 (d.code) (a.code) (b.code) (sz.code) 0 0) : decodeWord ww = .ok (.sleReg sz d a b) := by
  have hb_sz := Sz.code_lt sz
  have hb_d := Dst.code_lt d
  have hb_a := Src.code_lt a
  have hb_b := Src.code_lt b
  have F := fieldsR hw (by decide) (by decide) (by omega) (by omega) (by omega) (by omega) (by decide) (by decide)
  have f_0_26 : fld ww 0 26 = 0 := (F.mod 0 26 (by decide)).trans (by omega)
  rw [dec_06 F.op]
  simp [dR3, dR4, decCmp, fA, fB, fC, fD, fFn, fMod, fSz, f_0_26, F.c, F.sz, F.b, F.a, F.d, F.fn, F.op, gOf, Except.map, need, gUpTo, srcIf, GZ.code_zero, optG, Sz.code_zero, Rm.code_two, bind, Except.bind, pure, Except.pure, srcOf_code, dstOf_code, gzOf_code, rdstOf_code, popOf_code, szOf_code, fszOf_code, rmOf_code, etOf_code, scopeOf_code, modeOf_ord, gOf_val, eOf_val, finOfNat_val, boolNat_eq, BitVec.ofNat_toNat, BitVec.setWidth_eq, fn0, fldB, fbit]

theorem dw_sleLit {ww : Word} (sz : Sz) (d : Dst) (a : Src) (imm : BitVec 32) (hw : ww = packL 7 4 (d.code) (a.code) 0 (sz.code) (imm.toNat)) : decodeWord ww = .ok (.sleLit sz d a imm) := by
  have hb_sz := Sz.code_lt sz
  have hb_d := Dst.code_lt d
  have hb_a := Src.code_lt a
  have hb_imm := imm.isLt
  have F := fieldsL hw (by decide) (by decide) (by omega) (by omega) (by decide) (by omega) (by omega)
  have f_0_32 : fld ww 0 32 = imm.toNat := (F.lit 0 32 (by decide)).trans (by omega)
  have f_34_6 : fld ww 34 6 = 0 := (F.c 34 6 (by decide) (by decide)).trans (by omega)
  rw [dec_07 F.op]
  simp [dL2, dL3, decCmpL, fA, fB, fD, fFn, fLit, fSz, f_0_32, F.sz, f_34_6, F.a, F.d, F.fn, F.op, gOf, Except.map, need, gUpTo, srcIf, GZ.code_zero, optG, Sz.code_zero, Rm.code_two, bind, Except.bind, pure, Except.pure, srcOf_code, dstOf_code, gzOf_code, rdstOf_code, popOf_code, szOf_code, fszOf_code, rmOf_code, etOf_code, scopeOf_code, modeOf_ord, gOf_val, eOf_val, finOfNat_val, boolNat_eq, BitVec.ofNat_toNat, BitVec.setWidth_eq, fn0, fldB, fbit]

theorem dw_sleuReg {ww : Word} (sz : Sz) (d : Dst) (a : Src) (b : Src) (hw : ww = packR 6 5 (d.code) (a.code) (b.code) (sz.code) 0 0) : decodeWord ww = .ok (.sleuReg sz d a b) := by
  have hb_sz := Sz.code_lt sz
  have hb_d := Dst.code_lt d
  have hb_a := Src.code_lt a
  have hb_b := Src.code_lt b
  have F := fieldsR hw (by decide) (by decide) (by omega) (by omega) (by omega) (by omega) (by decide) (by decide)
  have f_0_26 : fld ww 0 26 = 0 := (F.mod 0 26 (by decide)).trans (by omega)
  rw [dec_06 F.op]
  simp [dR3, dR4, decCmp, fA, fB, fC, fD, fFn, fMod, fSz, f_0_26, F.c, F.sz, F.b, F.a, F.d, F.fn, F.op, gOf, Except.map, need, gUpTo, srcIf, GZ.code_zero, optG, Sz.code_zero, Rm.code_two, bind, Except.bind, pure, Except.pure, srcOf_code, dstOf_code, gzOf_code, rdstOf_code, popOf_code, szOf_code, fszOf_code, rmOf_code, etOf_code, scopeOf_code, modeOf_ord, gOf_val, eOf_val, finOfNat_val, boolNat_eq, BitVec.ofNat_toNat, BitVec.setWidth_eq, fn0, fldB, fbit]

theorem dw_sleuLit {ww : Word} (sz : Sz) (d : Dst) (a : Src) (imm : BitVec 32) (hw : ww = packL 7 5 (d.code) (a.code) 0 (sz.code) (imm.toNat)) : decodeWord ww = .ok (.sleuLit sz d a imm) := by
  have hb_sz := Sz.code_lt sz
  have hb_d := Dst.code_lt d
  have hb_a := Src.code_lt a
  have hb_imm := imm.isLt
  have F := fieldsL hw (by decide) (by decide) (by omega) (by omega) (by decide) (by omega) (by omega)
  have f_0_32 : fld ww 0 32 = imm.toNat := (F.lit 0 32 (by decide)).trans (by omega)
  have f_34_6 : fld ww 34 6 = 0 := (F.c 34 6 (by decide) (by decide)).trans (by omega)
  rw [dec_07 F.op]
  simp [dL2, dL3, decCmpL, fA, fB, fD, fFn, fLit, fSz, f_0_32, F.sz, f_34_6, F.a, F.d, F.fn, F.op, gOf, Except.map, need, gUpTo, srcIf, GZ.code_zero, optG, Sz.code_zero, Rm.code_two, bind, Except.bind, pure, Except.pure, srcOf_code, dstOf_code, gzOf_code, rdstOf_code, popOf_code, szOf_code, fszOf_code, rmOf_code, etOf_code, scopeOf_code, modeOf_ord, gOf_val, eOf_val, finOfNat_val, boolNat_eq, BitVec.ofNat_toNat, BitVec.setWidth_eq, fn0, fldB, fbit]

theorem dw_selReg {ww : Word} (sz : Sz) (d : Dst) (a : Src) (b : Src) (c : Src) (hw : ww = packR 6 6 (d.code) (a.code) (b.code) (sz.code) (c.code) 0) : decodeWord ww = .ok (.selReg sz d a b c) := by
  have hb_sz := Sz.code_lt sz
  have hb_d := Dst.code_lt d
  have hb_a := Src.code_lt a
  have hb_b := Src.code_lt b
  have hb_c := Src.code_lt c
  have F := fieldsR hw (by decide) (by decide) (by omega) (by omega) (by omega) (by omega) (by omega) (by decide)
  have f_0_26 : fld ww 0 26 = 0 := (F.mod 0 26 (by decide)).trans (by omega)
  rw [dec_06 F.op]
  simp [dR3, dR4, decCmp, fA, fB, fC, fD, fFn, fMod, fSz, f_0_26, F.c, F.sz, F.b, F.a, F.d, F.fn, F.op, gOf, Except.map, need, gUpTo, srcIf, GZ.code_zero, optG, Sz.code_zero, Rm.code_two, bind, Except.bind, pure, Except.pure, srcOf_code, dstOf_code, gzOf_code, rdstOf_code, popOf_code, szOf_code, fszOf_code, rmOf_code, etOf_code, scopeOf_code, modeOf_ord, gOf_val, eOf_val, finOfNat_val, boolNat_eq, BitVec.ofNat_toNat, BitVec.setWidth_eq, fn0, fldB, fbit]

theorem dw_selLit {ww : Word} (sz : Sz) (d : Dst) (a : Src) (imm : BitVec 32) (c : Src) (hw : ww = packL 7 6 (d.code) (a.code) (c.code) (sz.code) (imm.toNat)) : decodeWord ww = .ok (.selLit sz d a imm c) := by
  have hb_sz := Sz.code_lt sz
  have hb_d := Dst.code_lt d
  have hb_a := Src.code_lt a
  have hb_imm := imm.isLt
  have hb_c := Src.code_lt c
  have F := fieldsL hw (by decide) (by decide) (by omega) (by omega) (by omega) (by omega) (by omega)
  have f_0_32 : fld ww 0 32 = imm.toNat := (F.lit 0 32 (by decide)).trans (by omega)
  have f_34_6 : fld ww 34 6 = c.code := (F.c 34 6 (by decide) (by decide)).trans (by omega)
  rw [dec_07 F.op]
  simp [dL2, dL3, decCmpL, fA, fB, fD, fFn, fLit, fSz, f_0_32, F.sz, f_34_6, F.a, F.d, F.fn, F.op, gOf, Except.map, need, gUpTo, srcIf, GZ.code_zero, optG, Sz.code_zero, Rm.code_two, bind, Except.bind, pure, Except.pure, srcOf_code, dstOf_code, gzOf_code, rdstOf_code, popOf_code, szOf_code, fszOf_code, rmOf_code, etOf_code, scopeOf_code, modeOf_ord, gOf_val, eOf_val, finOfNat_val, boolNat_eq, BitVec.ofNat_toNat, BitVec.setWidth_eq, fn0, fldB, fbit]

theorem dw_clz {ww : Word} (sz : Sz) (d : Dst) (a : Src) (hw : ww = packR 8 0 (d.code) (a.code) 0 (sz.code) 0 0) : decodeWord ww = .ok (.clz sz d a) := by
  have hb_sz := Sz.code_lt sz
  have hb_d := Dst.code_lt d
  have hb_a := Src.code_lt a
  have F := fieldsR hw (by decide) (by decide) (by omega) (by omega) (by decide) (by omega) (by decide) (by decide)
  have f_0_6 : fld ww 0 6 = 0 := (F.mod 0 6 (by decide)).trans (by omega)
  have f_0_26 : fld ww 0 26 = 0 := (F.mod 0 26 (by decide)).trans (by omega)
  have f_6_6 : fld ww 6 6 = 0 := (F.mod 6 6 (by decide)).trans (by omega)
  have f_12_14 : fld ww 12 14 = 0 := (F.mod 12 14 (by decide)).trans (by omega)
  rw [dec_08 F.op]
  simp [dBit1, dExt, decBits, fA, fB, fC, fD, fFn, fMod, fSz, f_0_6, f_0_26, f_6_6, f_12_14, F.c, F.sz, F.b, F.a, F.d, F.fn, F.op, gOf, Except.map, need, gUpTo, srcIf, GZ.code_zero, optG, Sz.code_zero, Rm.code_two, bind, Except.bind, pure, Except.pure, srcOf_code, dstOf_code, gzOf_code, rdstOf_code, popOf_code, szOf_code, fszOf_code, rmOf_code, etOf_code, scopeOf_code, modeOf_ord, gOf_val, eOf_val, finOfNat_val, boolNat_eq, BitVec.ofNat_toNat, BitVec.setWidth_eq, fn0, fldB, fbit]

theorem dw_ctz {ww : Word} (sz : Sz) (d : Dst) (a : Src) (hw : ww = packR 8 1 (d.code) (a.code) 0 (sz.code) 0 0) : decodeWord ww = .ok (.ctz sz d a) := by
  have hb_sz := Sz.code_lt sz
  have hb_d := Dst.code_lt d
  have hb_a := Src.code_lt a
  have F := fieldsR hw (by decide) (by decide) (by omega) (by omega) (by decide) (by omega) (by decide) (by decide)
  have f_0_6 : fld ww 0 6 = 0 := (F.mod 0 6 (by decide)).trans (by omega)
  have f_0_26 : fld ww 0 26 = 0 := (F.mod 0 26 (by decide)).trans (by omega)
  have f_6_6 : fld ww 6 6 = 0 := (F.mod 6 6 (by decide)).trans (by omega)
  have f_12_14 : fld ww 12 14 = 0 := (F.mod 12 14 (by decide)).trans (by omega)
  rw [dec_08 F.op]
  simp [dBit1, dExt, decBits, fA, fB, fC, fD, fFn, fMod, fSz, f_0_6, f_0_26, f_6_6, f_12_14, F.c, F.sz, F.b, F.a, F.d, F.fn, F.op, gOf, Except.map, need, gUpTo, srcIf, GZ.code_zero, optG, Sz.code_zero, Rm.code_two, bind, Except.bind, pure, Except.pure, srcOf_code, dstOf_code, gzOf_code, rdstOf_code, popOf_code, szOf_code, fszOf_code, rmOf_code, etOf_code, scopeOf_code, modeOf_ord, gOf_val, eOf_val, finOfNat_val, boolNat_eq, BitVec.ofNat_toNat, BitVec.setWidth_eq, fn0, fldB, fbit]

theorem dw_popc {ww : Word} (sz : Sz) (d : Dst) (a : Src) (hw : ww = packR 8 2 (d.code) (a.code) 0 (sz.code) 0 0) : decodeWord ww = .ok (.popc sz d a) := by
  have hb_sz := Sz.code_lt sz
  have hb_d := Dst.code_lt d
  have hb_a := Src.code_lt a
  have F := fieldsR hw (by decide) (by decide) (by omega) (by omega) (by decide) (by omega) (by decide) (by decide)
  have f_0_6 : fld ww 0 6 = 0 := (F.mod 0 6 (by decide)).trans (by omega)
  have f_0_26 : fld ww 0 26 = 0 := (F.mod 0 26 (by decide)).trans (by omega)
  have f_6_6 : fld ww 6 6 = 0 := (F.mod 6 6 (by decide)).trans (by omega)
  have f_12_14 : fld ww 12 14 = 0 := (F.mod 12 14 (by decide)).trans (by omega)
  rw [dec_08 F.op]
  simp [dBit1, dExt, decBits, fA, fB, fC, fD, fFn, fMod, fSz, f_0_6, f_0_26, f_6_6, f_12_14, F.c, F.sz, F.b, F.a, F.d, F.fn, F.op, gOf, Except.map, need, gUpTo, srcIf, GZ.code_zero, optG, Sz.code_zero, Rm.code_two, bind, Except.bind, pure, Except.pure, srcOf_code, dstOf_code, gzOf_code, rdstOf_code, popOf_code, szOf_code, fszOf_code, rmOf_code, etOf_code, scopeOf_code, modeOf_ord, gOf_val, eOf_val, finOfNat_val, boolNat_eq, BitVec.ofNat_toNat, BitVec.setWidth_eq, fn0, fldB, fbit]

theorem dw_brev {ww : Word} (sz : Sz) (d : Dst) (a : Src) (hw : ww = packR 8 3 (d.code) (a.code) 0 (sz.code) 0 0) : decodeWord ww = .ok (.brev sz d a) := by
  have hb_sz := Sz.code_lt sz
  have hb_d := Dst.code_lt d
  have hb_a := Src.code_lt a
  have F := fieldsR hw (by decide) (by decide) (by omega) (by omega) (by decide) (by omega) (by decide) (by decide)
  have f_0_6 : fld ww 0 6 = 0 := (F.mod 0 6 (by decide)).trans (by omega)
  have f_0_26 : fld ww 0 26 = 0 := (F.mod 0 26 (by decide)).trans (by omega)
  have f_6_6 : fld ww 6 6 = 0 := (F.mod 6 6 (by decide)).trans (by omega)
  have f_12_14 : fld ww 12 14 = 0 := (F.mod 12 14 (by decide)).trans (by omega)
  rw [dec_08 F.op]
  simp [dBit1, dExt, decBits, fA, fB, fC, fD, fFn, fMod, fSz, f_0_6, f_0_26, f_6_6, f_12_14, F.c, F.sz, F.b, F.a, F.d, F.fn, F.op, gOf, Except.map, need, gUpTo, srcIf, GZ.code_zero, optG, Sz.code_zero, Rm.code_two, bind, Except.bind, pure, Except.pure, srcOf_code, dstOf_code, gzOf_code, rdstOf_code, popOf_code, szOf_code, fszOf_code, rmOf_code, etOf_code, scopeOf_code, modeOf_ord, gOf_val, eOf_val, finOfNat_val, boolNat_eq, BitVec.ofNat_toNat, BitVec.setWidth_eq, fn0, fldB, fbit]

theorem dw_bswap {ww : Word} (sz : Sz) (d : Dst) (a : Src) (hw : ww = packR 8 4 (d.code) (a.code) 0 (sz.code) 0 0) : decodeWord ww = .ok (.bswap sz d a) := by
  have hb_sz := Sz.code_lt sz
  have hb_d := Dst.code_lt d
  have hb_a := Src.code_lt a
  have F := fieldsR hw (by decide) (by decide) (by omega) (by omega) (by decide) (by omega) (by decide) (by decide)
  have f_0_6 : fld ww 0 6 = 0 := (F.mod 0 6 (by decide)).trans (by omega)
  have f_0_26 : fld ww 0 26 = 0 := (F.mod 0 26 (by decide)).trans (by omega)
  have f_6_6 : fld ww 6 6 = 0 := (F.mod 6 6 (by decide)).trans (by omega)
  have f_12_14 : fld ww 12 14 = 0 := (F.mod 12 14 (by decide)).trans (by omega)
  rw [dec_08 F.op]
  simp [dBit1, dExt, decBits, fA, fB, fC, fD, fFn, fMod, fSz, f_0_6, f_0_26, f_6_6, f_12_14, F.c, F.sz, F.b, F.a, F.d, F.fn, F.op, gOf, Except.map, need, gUpTo, srcIf, GZ.code_zero, optG, Sz.code_zero, Rm.code_two, bind, Except.bind, pure, Except.pure, srcOf_code, dstOf_code, gzOf_code, rdstOf_code, popOf_code, szOf_code, fszOf_code, rmOf_code, etOf_code, scopeOf_code, modeOf_ord, gOf_val, eOf_val, finOfNat_val, boolNat_eq, BitVec.ofNat_toNat, BitVec.setWidth_eq, fn0, fldB, fbit]

theorem dw_exts {ww : Word} (sz : Sz) (d : Dst) (a : Src) (pos : BitVec 6) (lenm1 : BitVec 6) (hw : ww = packR 8 5 (d.code) (a.code) 0 (sz.code) 0 ((pos.toNat) * 2 ^ 6 + lenm1.toNat)) (hwf : ((pos.toNat + lenm1.toNat + 1 ≤ wfW sz : Bool)) = true) : decodeWord ww = .ok (.exts sz d a pos lenm1) := by
  have hb_sz := Sz.code_lt sz
  have hb_d := Dst.code_lt d
  have hb_a := Src.code_lt a
  have hb_pos := pos.isLt
  have hb_lenm1 := lenm1.isLt
  have F := fieldsR hw (by decide) (by decide) (by omega) (by omega) (by decide) (by omega) (by decide) (by omega)
  have f_0_6 : fld ww 0 6 = lenm1.toNat := (F.mod 0 6 (by decide)).trans (by omega)
  have f_0_26 : fld ww 0 26 = (pos.toNat) * 64 + lenm1.toNat := (F.mod 0 26 (by decide)).trans (by omega)
  have f_6_6 : fld ww 6 6 = pos.toNat := (F.mod 6 6 (by decide)).trans (by omega)
  have f_12_14 : fld ww 12 14 = 0 := (F.mod 12 14 (by decide)).trans (by omega)
  try simp [← BitVec.toNat_inj, GZ.code_zero] at hwf
  rw [dec_08 F.op]
  simp [dBit1, dExt, decBits, fA, fB, fC, fD, fFn, fMod, fSz, f_0_6, f_0_26, f_6_6, f_12_14, F.c, F.sz, F.b, F.a, F.d, F.fn, F.op, gOf, Except.map, need, gUpTo, srcIf, GZ.code_zero, optG, Sz.code_zero, Rm.code_two, bind, Except.bind, pure, Except.pure, srcOf_code, dstOf_code, gzOf_code, rdstOf_code, popOf_code, szOf_code, fszOf_code, rmOf_code, etOf_code, scopeOf_code, modeOf_ord, gOf_val, eOf_val, finOfNat_val, boolNat_eq, BitVec.ofNat_toNat, BitVec.setWidth_eq, fn0, fldB, fbit, hwf]

theorem dw_extu {ww : Word} (sz : Sz) (d : Dst) (a : Src) (pos : BitVec 6) (lenm1 : BitVec 6) (hw : ww = packR 8 6 (d.code) (a.code) 0 (sz.code) 0 ((pos.toNat) * 2 ^ 6 + lenm1.toNat)) (hwf : ((pos.toNat + lenm1.toNat + 1 ≤ wfW sz : Bool)) = true) : decodeWord ww = .ok (.extu sz d a pos lenm1) := by
  have hb_sz := Sz.code_lt sz
  have hb_d := Dst.code_lt d
  have hb_a := Src.code_lt a
  have hb_pos := pos.isLt
  have hb_lenm1 := lenm1.isLt
  have F := fieldsR hw (by decide) (by decide) (by omega) (by omega) (by decide) (by omega) (by decide) (by omega)
  have f_0_6 : fld ww 0 6 = lenm1.toNat := (F.mod 0 6 (by decide)).trans (by omega)
  have f_0_26 : fld ww 0 26 = (pos.toNat) * 64 + lenm1.toNat := (F.mod 0 26 (by decide)).trans (by omega)
  have f_6_6 : fld ww 6 6 = pos.toNat := (F.mod 6 6 (by decide)).trans (by omega)
  have f_12_14 : fld ww 12 14 = 0 := (F.mod 12 14 (by decide)).trans (by omega)
  try simp [← BitVec.toNat_inj, GZ.code_zero] at hwf
  rw [dec_08 F.op]
  simp [dBit1, dExt, decBits, fA, fB, fC, fD, fFn, fMod, fSz, f_0_6, f_0_26, f_6_6, f_12_14, F.c, F.sz, F.b, F.a, F.d, F.fn, F.op, gOf, Except.map, need, gUpTo, srcIf, GZ.code_zero, optG, Sz.code_zero, Rm.code_two, bind, Except.bind, pure, Except.pure, srcOf_code, dstOf_code, gzOf_code, rdstOf_code, popOf_code, szOf_code, fszOf_code, rmOf_code, etOf_code, scopeOf_code, modeOf_ord, gOf_val, eOf_val, finOfNat_val, boolNat_eq, BitVec.ofNat_toNat, BitVec.setWidth_eq, fn0, fldB, fbit, hwf]

theorem dw_ins {ww : Word} (sz : Sz) (d : Dst) (a : Src) (b : Src) (pos : BitVec 6) (lenm1 : BitVec 6) (hw : ww = packR 8 7 (d.code) (a.code) (b.code) (sz.code) 0 ((pos.toNat) * 2 ^ 6 + lenm1.toNat)) (hwf : ((pos.toNat + lenm1.toNat + 1 ≤ wfW sz : Bool)) = true) : decodeWord ww = .ok (.ins sz d a b pos lenm1) := by
  have hb_sz := Sz.code_lt sz
  have hb_d := Dst.code_lt d
  have hb_a := Src.code_lt a
  have hb_b := Src.code_lt b
  have hb_pos := pos.isLt
  have hb_lenm1 := lenm1.isLt
  have F := fieldsR hw (by decide) (by decide) (by omega) (by omega) (by omega) (by omega) (by decide) (by omega)
  have f_0_6 : fld ww 0 6 = lenm1.toNat := (F.mod 0 6 (by decide)).trans (by omega)
  have f_0_26 : fld ww 0 26 = (pos.toNat) * 64 + lenm1.toNat := (F.mod 0 26 (by decide)).trans (by omega)
  have f_6_6 : fld ww 6 6 = pos.toNat := (F.mod 6 6 (by decide)).trans (by omega)
  have f_12_14 : fld ww 12 14 = 0 := (F.mod 12 14 (by decide)).trans (by omega)
  try simp [← BitVec.toNat_inj, GZ.code_zero] at hwf
  rw [dec_08 F.op]
  simp [dBit1, dExt, decBits, fA, fB, fC, fD, fFn, fMod, fSz, f_0_6, f_0_26, f_6_6, f_12_14, F.c, F.sz, F.b, F.a, F.d, F.fn, F.op, gOf, Except.map, need, gUpTo, srcIf, GZ.code_zero, optG, Sz.code_zero, Rm.code_two, bind, Except.bind, pure, Except.pure, srcOf_code, dstOf_code, gzOf_code, rdstOf_code, popOf_code, szOf_code, fszOf_code, rmOf_code, etOf_code, scopeOf_code, modeOf_ord, gOf_val, eOf_val, finOfNat_val, boolNat_eq, BitVec.ofNat_toNat, BitVec.setWidth_eq, fn0, fldB, fbit, hwf]

theorem dw_sext {ww : Word} (sz : Sz) (d : Dst) (a : Src) (hw : ww = packR 8 8 (d.code) (a.code) 0 (sz.code) 0 0) (hwf : ((sz ≠ .d : Bool)) = true) : decodeWord ww = .ok (.sext sz d a) := by
  have hb_sz := Sz.code_lt sz
  have hb_d := Dst.code_lt d
  have hb_a := Src.code_lt a
  have F := fieldsR hw (by decide) (by decide) (by omega) (by omega) (by decide) (by omega) (by decide) (by decide)
  have f_0_6 : fld ww 0 6 = 0 := (F.mod 0 6 (by decide)).trans (by omega)
  have f_0_26 : fld ww 0 26 = 0 := (F.mod 0 26 (by decide)).trans (by omega)
  have f_6_6 : fld ww 6 6 = 0 := (F.mod 6 6 (by decide)).trans (by omega)
  have f_12_14 : fld ww 12 14 = 0 := (F.mod 12 14 (by decide)).trans (by omega)
  try simp [← BitVec.toNat_inj, GZ.code_zero] at hwf
  rw [dec_08 F.op]
  simp [dBit1, dExt, decBits, fA, fB, fC, fD, fFn, fMod, fSz, f_0_6, f_0_26, f_6_6, f_12_14, F.c, F.sz, F.b, F.a, F.d, F.fn, F.op, gOf, Except.map, need, gUpTo, srcIf, GZ.code_zero, optG, Sz.code_zero, Rm.code_two, bind, Except.bind, pure, Except.pure, srcOf_code, dstOf_code, gzOf_code, rdstOf_code, popOf_code, szOf_code, fszOf_code, rmOf_code, etOf_code, scopeOf_code, modeOf_ord, gOf_val, eOf_val, finOfNat_val, boolNat_eq, BitVec.ofNat_toNat, BitVec.setWidth_eq, fn0, fldB, fbit, hwf]

theorem dw_movh {ww : Word} (d : Dst) (a : Src) (imm : BitVec 32) (hw : ww = packL 9 0 (d.code) (a.code) 0 0 (imm.toNat)) : decodeWord ww = .ok (.movh d a imm) := by
  have hb_d := Dst.code_lt d
  have hb_a := Src.code_lt a
  have hb_imm := imm.isLt
  have F := fieldsL hw (by decide) (by decide) (by omega) (by omega) (by decide) (by decide) (by omega)
  have f_0_32 : fld ww 0 32 = imm.toNat := (F.lit 0 32 (by decide)).trans (by omega)
  have f_34_6 : fld ww 34 6 = 0 := (F.c 34 6 (by decide) (by decide)).trans (by omega)
  rw [dec_09 F.op]
  simp [fA, fB, fD, fFn, fLit, fSz, f_0_32, F.sz, f_34_6, F.a, F.d, F.fn, F.op, gOf, Except.map, need, gUpTo, srcIf, GZ.code_zero, optG, Sz.code_zero, Rm.code_two, bind, Except.bind, pure, Except.pure, srcOf_code, dstOf_code, gzOf_code, rdstOf_code, popOf_code, szOf_code, fszOf_code, rmOf_code, etOf_code, scopeOf_code, modeOf_ord, gOf_val, eOf_val, finOfNat_val, boolNat_eq, BitVec.ofNat_toNat, BitVec.setWidth_eq, fn0, fldB, fbit]

theorem dw_faddReg {ww : Word} (f : FSz) (d : Dst) (a : Src) (b : Src) (rm : Rm) (hw : ww = packR 16 0 (d.code) (a.code) (b.code) (f.code) 0 (rm.code)) (hwf : ((rm ≠ .sr : Bool)) = true) : decodeWord ww = .ok (.faddReg f d a b rm) := by
  have hb_f := FSz.code_lt f
  have hb_d := Dst.code_lt d
  have hb_a := Src.code_lt a
  have hb_b := Src.code_lt b
  have hb_rm := Rm.code_lt rm
  have F := fieldsR hw (by decide) (by decide) (by omega) (by omega) (by omega) (by omega) (by decide) (by omega)
  have f_0_2 : fld ww 0 2 = rm.code := (F.mod 0 2 (by decide)).trans (by omega)
  have f_0_26 : fld ww 0 26 = rm.code := (F.mod 0 26 (by decide)).trans (by omega)
  have f_2_2 : fld ww 2 2 = 0 := (F.mod 2 2 (by decide)).trans (by omega)
  have f_2_24 : fld ww 2 24 = 0 := (F.mod 2 24 (by decide)).trans (by omega)
  have f_4_22 : fld ww 4 22 = 0 := (F.mod 4 22 (by decide)).trans (by omega)
  try simp [← BitVec.toNat_inj, GZ.code_zero] at hwf
  rw [dec_10 F.op]
  simp [dFp3, dFp3n, decFp, fA, fB, fC, fD, fFn, fMod, fSz, f_0_2, f_0_26, f_2_2, f_2_24, f_4_22, F.c, F.sz, F.b, F.a, F.d, F.fn, F.op, gOf, Except.map, need, gUpTo, srcIf, GZ.code_zero, optG, Sz.code_zero, Rm.code_two, bind, Except.bind, pure, Except.pure, srcOf_code, dstOf_code, gzOf_code, rdstOf_code, popOf_code, szOf_code, fszOf_code, rmOf_code, etOf_code, scopeOf_code, modeOf_ord, gOf_val, eOf_val, finOfNat_val, boolNat_eq, BitVec.ofNat_toNat, BitVec.setWidth_eq, fn0, fldB, fbit, hwf]

theorem dw_faddLit {ww : Word} (f : FSz) (d : Dst) (a : Src) (imm : BitVec 32) (hw : ww = packL 17 0 (d.code) (a.code) 0 (f.code) (imm.toNat)) : decodeWord ww = .ok (.faddLit f d a imm) := by
  have hb_f := FSz.code_lt f
  have hb_d := Dst.code_lt d
  have hb_a := Src.code_lt a
  have hb_imm := imm.isLt
  have F := fieldsL hw (by decide) (by decide) (by omega) (by omega) (by decide) (by omega) (by omega)
  have f_0_32 : fld ww 0 32 = imm.toNat := (F.lit 0 32 (by decide)).trans (by omega)
  have f_34_2 : fld ww 34 2 = 0 := (F.c 34 2 (by decide) (by decide)).trans (by omega)
  have f_34_6 : fld ww 34 6 = 0 := (F.c 34 6 (by decide) (by decide)).trans (by omega)
  have f_36_4 : fld ww 36 4 = 0 := (F.c 36 4 (by decide) (by decide)).trans (by omega)
  rw [dec_11 F.op]
  simp [dFpL, decFpL, fA, fB, fD, fFn, fLit, fSz, f_0_32, F.sz, f_34_2, f_34_6, f_36_4, F.a, F.d, F.fn, F.op, gOf, Except.map, need, gUpTo, srcIf, GZ.code_zero, optG, Sz.code_zero, Rm.code_two, bind, Except.bind, pure, Except.pure, srcOf_code, dstOf_code, gzOf_code, rdstOf_code, popOf_code, szOf_code, fszOf_code, rmOf_code, etOf_code, scopeOf_code, modeOf_ord, gOf_val, eOf_val, finOfNat_val, boolNat_eq, BitVec.ofNat_toNat, BitVec.setWidth_eq, fn0, fldB, fbit]

theorem dw_fsubReg {ww : Word} (f : FSz) (d : Dst) (a : Src) (b : Src) (rm : Rm) (hw : ww = packR 16 1 (d.code) (a.code) (b.code) (f.code) 0 (rm.code)) (hwf : ((rm ≠ .sr : Bool)) = true) : decodeWord ww = .ok (.fsubReg f d a b rm) := by
  have hb_f := FSz.code_lt f
  have hb_d := Dst.code_lt d
  have hb_a := Src.code_lt a
  have hb_b := Src.code_lt b
  have hb_rm := Rm.code_lt rm
  have F := fieldsR hw (by decide) (by decide) (by omega) (by omega) (by omega) (by omega) (by decide) (by omega)
  have f_0_2 : fld ww 0 2 = rm.code := (F.mod 0 2 (by decide)).trans (by omega)
  have f_0_26 : fld ww 0 26 = rm.code := (F.mod 0 26 (by decide)).trans (by omega)
  have f_2_2 : fld ww 2 2 = 0 := (F.mod 2 2 (by decide)).trans (by omega)
  have f_2_24 : fld ww 2 24 = 0 := (F.mod 2 24 (by decide)).trans (by omega)
  have f_4_22 : fld ww 4 22 = 0 := (F.mod 4 22 (by decide)).trans (by omega)
  try simp [← BitVec.toNat_inj, GZ.code_zero] at hwf
  rw [dec_10 F.op]
  simp [dFp3, dFp3n, decFp, fA, fB, fC, fD, fFn, fMod, fSz, f_0_2, f_0_26, f_2_2, f_2_24, f_4_22, F.c, F.sz, F.b, F.a, F.d, F.fn, F.op, gOf, Except.map, need, gUpTo, srcIf, GZ.code_zero, optG, Sz.code_zero, Rm.code_two, bind, Except.bind, pure, Except.pure, srcOf_code, dstOf_code, gzOf_code, rdstOf_code, popOf_code, szOf_code, fszOf_code, rmOf_code, etOf_code, scopeOf_code, modeOf_ord, gOf_val, eOf_val, finOfNat_val, boolNat_eq, BitVec.ofNat_toNat, BitVec.setWidth_eq, fn0, fldB, fbit, hwf]

theorem dw_fsubLit {ww : Word} (f : FSz) (d : Dst) (a : Src) (imm : BitVec 32) (hw : ww = packL 17 1 (d.code) (a.code) 0 (f.code) (imm.toNat)) : decodeWord ww = .ok (.fsubLit f d a imm) := by
  have hb_f := FSz.code_lt f
  have hb_d := Dst.code_lt d
  have hb_a := Src.code_lt a
  have hb_imm := imm.isLt
  have F := fieldsL hw (by decide) (by decide) (by omega) (by omega) (by decide) (by omega) (by omega)
  have f_0_32 : fld ww 0 32 = imm.toNat := (F.lit 0 32 (by decide)).trans (by omega)
  have f_34_2 : fld ww 34 2 = 0 := (F.c 34 2 (by decide) (by decide)).trans (by omega)
  have f_34_6 : fld ww 34 6 = 0 := (F.c 34 6 (by decide) (by decide)).trans (by omega)
  have f_36_4 : fld ww 36 4 = 0 := (F.c 36 4 (by decide) (by decide)).trans (by omega)
  rw [dec_11 F.op]
  simp [dFpL, decFpL, fA, fB, fD, fFn, fLit, fSz, f_0_32, F.sz, f_34_2, f_34_6, f_36_4, F.a, F.d, F.fn, F.op, gOf, Except.map, need, gUpTo, srcIf, GZ.code_zero, optG, Sz.code_zero, Rm.code_two, bind, Except.bind, pure, Except.pure, srcOf_code, dstOf_code, gzOf_code, rdstOf_code, popOf_code, szOf_code, fszOf_code, rmOf_code, etOf_code, scopeOf_code, modeOf_ord, gOf_val, eOf_val, finOfNat_val, boolNat_eq, BitVec.ofNat_toNat, BitVec.setWidth_eq, fn0, fldB, fbit]

theorem dw_fmulReg {ww : Word} (f : FSz) (d : Dst) (a : Src) (b : Src) (rm : Rm) (hw : ww = packR 16 2 (d.code) (a.code) (b.code) (f.code) 0 (rm.code)) (hwf : ((rm ≠ .sr : Bool)) = true) : decodeWord ww = .ok (.fmulReg f d a b rm) := by
  have hb_f := FSz.code_lt f
  have hb_d := Dst.code_lt d
  have hb_a := Src.code_lt a
  have hb_b := Src.code_lt b
  have hb_rm := Rm.code_lt rm
  have F := fieldsR hw (by decide) (by decide) (by omega) (by omega) (by omega) (by omega) (by decide) (by omega)
  have f_0_2 : fld ww 0 2 = rm.code := (F.mod 0 2 (by decide)).trans (by omega)
  have f_0_26 : fld ww 0 26 = rm.code := (F.mod 0 26 (by decide)).trans (by omega)
  have f_2_2 : fld ww 2 2 = 0 := (F.mod 2 2 (by decide)).trans (by omega)
  have f_2_24 : fld ww 2 24 = 0 := (F.mod 2 24 (by decide)).trans (by omega)
  have f_4_22 : fld ww 4 22 = 0 := (F.mod 4 22 (by decide)).trans (by omega)
  try simp [← BitVec.toNat_inj, GZ.code_zero] at hwf
  rw [dec_10 F.op]
  simp [dFp3, dFp3n, decFp, fA, fB, fC, fD, fFn, fMod, fSz, f_0_2, f_0_26, f_2_2, f_2_24, f_4_22, F.c, F.sz, F.b, F.a, F.d, F.fn, F.op, gOf, Except.map, need, gUpTo, srcIf, GZ.code_zero, optG, Sz.code_zero, Rm.code_two, bind, Except.bind, pure, Except.pure, srcOf_code, dstOf_code, gzOf_code, rdstOf_code, popOf_code, szOf_code, fszOf_code, rmOf_code, etOf_code, scopeOf_code, modeOf_ord, gOf_val, eOf_val, finOfNat_val, boolNat_eq, BitVec.ofNat_toNat, BitVec.setWidth_eq, fn0, fldB, fbit, hwf]

theorem dw_fmulLit {ww : Word} (f : FSz) (d : Dst) (a : Src) (imm : BitVec 32) (hw : ww = packL 17 2 (d.code) (a.code) 0 (f.code) (imm.toNat)) : decodeWord ww = .ok (.fmulLit f d a imm) := by
  have hb_f := FSz.code_lt f
  have hb_d := Dst.code_lt d
  have hb_a := Src.code_lt a
  have hb_imm := imm.isLt
  have F := fieldsL hw (by decide) (by decide) (by omega) (by omega) (by decide) (by omega) (by omega)
  have f_0_32 : fld ww 0 32 = imm.toNat := (F.lit 0 32 (by decide)).trans (by omega)
  have f_34_2 : fld ww 34 2 = 0 := (F.c 34 2 (by decide) (by decide)).trans (by omega)
  have f_34_6 : fld ww 34 6 = 0 := (F.c 34 6 (by decide) (by decide)).trans (by omega)
  have f_36_4 : fld ww 36 4 = 0 := (F.c 36 4 (by decide) (by decide)).trans (by omega)
  rw [dec_11 F.op]
  simp [dFpL, decFpL, fA, fB, fD, fFn, fLit, fSz, f_0_32, F.sz, f_34_2, f_34_6, f_36_4, F.a, F.d, F.fn, F.op, gOf, Except.map, need, gUpTo, srcIf, GZ.code_zero, optG, Sz.code_zero, Rm.code_two, bind, Except.bind, pure, Except.pure, srcOf_code, dstOf_code, gzOf_code, rdstOf_code, popOf_code, szOf_code, fszOf_code, rmOf_code, etOf_code, scopeOf_code, modeOf_ord, gOf_val, eOf_val, finOfNat_val, boolNat_eq, BitVec.ofNat_toNat, BitVec.setWidth_eq, fn0, fldB, fbit]

theorem dw_fdivReg {ww : Word} (f : FSz) (d : Dst) (a : Src) (b : Src) (rm : Rm) (hw : ww = packR 16 3 (d.code) (a.code) (b.code) (f.code) 0 (rm.code)) (hwf : ((rm ≠ .sr : Bool)) = true) : decodeWord ww = .ok (.fdivReg f d a b rm) := by
  have hb_f := FSz.code_lt f
  have hb_d := Dst.code_lt d
  have hb_a := Src.code_lt a
  have hb_b := Src.code_lt b
  have hb_rm := Rm.code_lt rm
  have F := fieldsR hw (by decide) (by decide) (by omega) (by omega) (by omega) (by omega) (by decide) (by omega)
  have f_0_2 : fld ww 0 2 = rm.code := (F.mod 0 2 (by decide)).trans (by omega)
  have f_0_26 : fld ww 0 26 = rm.code := (F.mod 0 26 (by decide)).trans (by omega)
  have f_2_2 : fld ww 2 2 = 0 := (F.mod 2 2 (by decide)).trans (by omega)
  have f_2_24 : fld ww 2 24 = 0 := (F.mod 2 24 (by decide)).trans (by omega)
  have f_4_22 : fld ww 4 22 = 0 := (F.mod 4 22 (by decide)).trans (by omega)
  try simp [← BitVec.toNat_inj, GZ.code_zero] at hwf
  rw [dec_10 F.op]
  simp [dFp3, dFp3n, decFp, fA, fB, fC, fD, fFn, fMod, fSz, f_0_2, f_0_26, f_2_2, f_2_24, f_4_22, F.c, F.sz, F.b, F.a, F.d, F.fn, F.op, gOf, Except.map, need, gUpTo, srcIf, GZ.code_zero, optG, Sz.code_zero, Rm.code_two, bind, Except.bind, pure, Except.pure, srcOf_code, dstOf_code, gzOf_code, rdstOf_code, popOf_code, szOf_code, fszOf_code, rmOf_code, etOf_code, scopeOf_code, modeOf_ord, gOf_val, eOf_val, finOfNat_val, boolNat_eq, BitVec.ofNat_toNat, BitVec.setWidth_eq, fn0, fldB, fbit, hwf]

theorem dw_fdivLit {ww : Word} (f : FSz) (d : Dst) (a : Src) (imm : BitVec 32) (hw : ww = packL 17 3 (d.code) (a.code) 0 (f.code) (imm.toNat)) : decodeWord ww = .ok (.fdivLit f d a imm) := by
  have hb_f := FSz.code_lt f
  have hb_d := Dst.code_lt d
  have hb_a := Src.code_lt a
  have hb_imm := imm.isLt
  have F := fieldsL hw (by decide) (by decide) (by omega) (by omega) (by decide) (by omega) (by omega)
  have f_0_32 : fld ww 0 32 = imm.toNat := (F.lit 0 32 (by decide)).trans (by omega)
  have f_34_2 : fld ww 34 2 = 0 := (F.c 34 2 (by decide) (by decide)).trans (by omega)
  have f_34_6 : fld ww 34 6 = 0 := (F.c 34 6 (by decide) (by decide)).trans (by omega)
  have f_36_4 : fld ww 36 4 = 0 := (F.c 36 4 (by decide) (by decide)).trans (by omega)
  rw [dec_11 F.op]
  simp [dFpL, decFpL, fA, fB, fD, fFn, fLit, fSz, f_0_32, F.sz, f_34_2, f_34_6, f_36_4, F.a, F.d, F.fn, F.op, gOf, Except.map, need, gUpTo, srcIf, GZ.code_zero, optG, Sz.code_zero, Rm.code_two, bind, Except.bind, pure, Except.pure, srcOf_code, dstOf_code, gzOf_code, rdstOf_code, popOf_code, szOf_code, fszOf_code, rmOf_code, etOf_code, scopeOf_code, modeOf_ord, gOf_val, eOf_val, finOfNat_val, boolNat_eq, BitVec.ofNat_toNat, BitVec.setWidth_eq, fn0, fldB, fbit]

theorem dw_fsqrt {ww : Word} (f : FSz) (d : Dst) (a : Src) (rm : Rm) (hw : ww = packR 16 4 (d.code) (a.code) 0 (f.code) 0 (rm.code)) (hwf : ((rm ≠ .sr : Bool)) = true) : decodeWord ww = .ok (.fsqrt f d a rm) := by
  have hb_f := FSz.code_lt f
  have hb_d := Dst.code_lt d
  have hb_a := Src.code_lt a
  have hb_rm := Rm.code_lt rm
  have F := fieldsR hw (by decide) (by decide) (by omega) (by omega) (by decide) (by omega) (by decide) (by omega)
  have f_0_2 : fld ww 0 2 = rm.code := (F.mod 0 2 (by decide)).trans (by omega)
  have f_0_26 : fld ww 0 26 = rm.code := (F.mod 0 26 (by decide)).trans (by omega)
  have f_2_2 : fld ww 2 2 = 0 := (F.mod 2 2 (by decide)).trans (by omega)
  have f_2_24 : fld ww 2 24 = 0 := (F.mod 2 24 (by decide)).trans (by omega)
  have f_4_22 : fld ww 4 22 = 0 := (F.mod 4 22 (by decide)).trans (by omega)
  try simp [← BitVec.toNat_inj, GZ.code_zero] at hwf
  rw [dec_10 F.op]
  simp [dFp3, dFp3n, decFp, fA, fB, fC, fD, fFn, fMod, fSz, f_0_2, f_0_26, f_2_2, f_2_24, f_4_22, F.c, F.sz, F.b, F.a, F.d, F.fn, F.op, gOf, Except.map, need, gUpTo, srcIf, GZ.code_zero, optG, Sz.code_zero, Rm.code_two, bind, Except.bind, pure, Except.pure, srcOf_code, dstOf_code, gzOf_code, rdstOf_code, popOf_code, szOf_code, fszOf_code, rmOf_code, etOf_code, scopeOf_code, modeOf_ord, gOf_val, eOf_val, finOfNat_val, boolNat_eq, BitVec.ofNat_toNat, BitVec.setWidth_eq, fn0, fldB, fbit, hwf]

theorem dw_fmaReg {ww : Word} (f : FSz) (d : Dst) (a : Src) (b : Src) (c : Src) (rm : Rm) (hw : ww = packR 16 5 (d.code) (a.code) (b.code) (f.code) (c.code) (rm.code)) (hwf : ((rm ≠ .sr : Bool)) = true) : decodeWord ww = .ok (.fmaReg f d a b c rm) := by
  have hb_f := FSz.code_lt f
  have hb_d := Dst.code_lt d
  have hb_a := Src.code_lt a
  have hb_b := Src.code_lt b
  have hb_c := Src.code_lt c
  have hb_rm := Rm.code_lt rm
  have F := fieldsR hw (by decide) (by decide) (by omega) (by omega) (by omega) (by omega) (by omega) (by omega)
  have f_0_2 : fld ww 0 2 = rm.code := (F.mod 0 2 (by decide)).trans (by omega)
  have f_0_26 : fld ww 0 26 = rm.code := (F.mod 0 26 (by decide)).trans (by omega)
  have f_2_2 : fld ww 2 2 = 0 := (F.mod 2 2 (by decide)).trans (by omega)
  have f_2_24 : fld ww 2 24 = 0 := (F.mod 2 24 (by decide)).trans (by omega)
  have f_4_22 : fld ww 4 22 = 0 := (F.mod 4 22 (by decide)).trans (by omega)
  try simp [← BitVec.toNat_inj, GZ.code_zero] at hwf
  rw [dec_10 F.op]
  simp [dFp3, dFp3n, decFp, fA, fB, fC, fD, fFn, fMod, fSz, f_0_2, f_0_26, f_2_2, f_2_24, f_4_22, F.c, F.sz, F.b, F.a, F.d, F.fn, F.op, gOf, Except.map, need, gUpTo, srcIf, GZ.code_zero, optG, Sz.code_zero, Rm.code_two, bind, Except.bind, pure, Except.pure, srcOf_code, dstOf_code, gzOf_code, rdstOf_code, popOf_code, szOf_code, fszOf_code, rmOf_code, etOf_code, scopeOf_code, modeOf_ord, gOf_val, eOf_val, finOfNat_val, boolNat_eq, BitVec.ofNat_toNat, BitVec.setWidth_eq, fn0, fldB, fbit, hwf]

theorem dw_fmaLit {ww : Word} (f : FSz) (d : Dst) (a : Src) (imm : BitVec 32) (c : Src) (hw : ww = packL 17 5 (d.code) (a.code) (c.code) (f.code) (imm.toNat)) : decodeWord ww = .ok (.fmaLit f d a imm c) := by
  have hb_f := FSz.code_lt f
  have hb_d := Dst.code_lt d
  have hb_a := Src.code_lt a
  have hb_imm := imm.isLt
  have hb_c := Src.code_lt c
  have F := fieldsL hw (by decide) (by decide) (by omega) (by omega) (by omega) (by omega) (by omega)
  have f_0_32 : fld ww 0 32 = imm.toNat := (F.lit 0 32 (by decide)).trans (by omega)
  have f_34_6 : fld ww 34 6 = c.code := (F.c 34 6 (by decide) (by decide)).trans (by omega)
  rw [dec_11 F.op]
  simp [dFpL, decFpL, fA, fB, fD, fFn, fLit, fSz, f_0_32, F.sz, f_34_6, F.a, F.d, F.fn, F.op, gOf, Except.map, need, gUpTo, srcIf, GZ.code_zero, optG, Sz.code_zero, Rm.code_two, bind, Except.bind, pure, Except.pure, srcOf_code, dstOf_code, gzOf_code, rdstOf_code, popOf_code, szOf_code, fszOf_code, rmOf_code, etOf_code, scopeOf_code, modeOf_ord, gOf_val, eOf_val, finOfNat_val, boolNat_eq, BitVec.ofNat_toNat, BitVec.setWidth_eq, fn0, fldB, fbit]

theorem dw_fminReg {ww : Word} (f : FSz) (d : Dst) (a : Src) (b : Src) (hw : ww = packR 16 6 (d.code) (a.code) (b.code) (f.code) 0 0) : decodeWord ww = .ok (.fminReg f d a b) := by
  have hb_f := FSz.code_lt f
  have hb_d := Dst.code_lt d
  have hb_a := Src.code_lt a
  have hb_b := Src.code_lt b
  have F := fieldsR hw (by decide) (by decide) (by omega) (by omega) (by omega) (by omega) (by decide) (by decide)
  have f_0_2 : fld ww 0 2 = 0 := (F.mod 0 2 (by decide)).trans (by omega)
  have f_0_26 : fld ww 0 26 = 0 := (F.mod 0 26 (by decide)).trans (by omega)
  have f_2_2 : fld ww 2 2 = 0 := (F.mod 2 2 (by decide)).trans (by omega)
  have f_2_24 : fld ww 2 24 = 0 := (F.mod 2 24 (by decide)).trans (by omega)
  have f_4_22 : fld ww 4 22 = 0 := (F.mod 4 22 (by decide)).trans (by omega)
  rw [dec_10 F.op]
  simp [dFp3, dFp3n, decFp, fA, fB, fC, fD, fFn, fMod, fSz, f_0_2, f_0_26, f_2_2, f_2_24, f_4_22, F.c, F.sz, F.b, F.a, F.d, F.fn, F.op, gOf, Except.map, need, gUpTo, srcIf, GZ.code_zero, optG, Sz.code_zero, Rm.code_two, bind, Except.bind, pure, Except.pure, srcOf_code, dstOf_code, gzOf_code, rdstOf_code, popOf_code, szOf_code, fszOf_code, rmOf_code, etOf_code, scopeOf_code, modeOf_ord, gOf_val, eOf_val, finOfNat_val, boolNat_eq, BitVec.ofNat_toNat, BitVec.setWidth_eq, fn0, fldB, fbit]

theorem dw_fminLit {ww : Word} (f : FSz) (d : Dst) (a : Src) (imm : BitVec 32) (hw : ww = packL 17 6 (d.code) (a.code) 0 (f.code) (imm.toNat)) : decodeWord ww = .ok (.fminLit f d a imm) := by
  have hb_f := FSz.code_lt f
  have hb_d := Dst.code_lt d
  have hb_a := Src.code_lt a
  have hb_imm := imm.isLt
  have F := fieldsL hw (by decide) (by decide) (by omega) (by omega) (by decide) (by omega) (by omega)
  have f_0_32 : fld ww 0 32 = imm.toNat := (F.lit 0 32 (by decide)).trans (by omega)
  have f_34_2 : fld ww 34 2 = 0 := (F.c 34 2 (by decide) (by decide)).trans (by omega)
  have f_34_6 : fld ww 34 6 = 0 := (F.c 34 6 (by decide) (by decide)).trans (by omega)
  have f_36_4 : fld ww 36 4 = 0 := (F.c 36 4 (by decide) (by decide)).trans (by omega)
  rw [dec_11 F.op]
  simp [dFpL, decFpL, fA, fB, fD, fFn, fLit, fSz, f_0_32, F.sz, f_34_2, f_34_6, f_36_4, F.a, F.d, F.fn, F.op, gOf, Except.map, need, gUpTo, srcIf, GZ.code_zero, optG, Sz.code_zero, Rm.code_two, bind, Except.bind, pure, Except.pure, srcOf_code, dstOf_code, gzOf_code, rdstOf_code, popOf_code, szOf_code, fszOf_code, rmOf_code, etOf_code, scopeOf_code, modeOf_ord, gOf_val, eOf_val, finOfNat_val, boolNat_eq, BitVec.ofNat_toNat, BitVec.setWidth_eq, fn0, fldB, fbit]

theorem dw_fmaxReg {ww : Word} (f : FSz) (d : Dst) (a : Src) (b : Src) (hw : ww = packR 16 7 (d.code) (a.code) (b.code) (f.code) 0 0) : decodeWord ww = .ok (.fmaxReg f d a b) := by
  have hb_f := FSz.code_lt f
  have hb_d := Dst.code_lt d
  have hb_a := Src.code_lt a
  have hb_b := Src.code_lt b
  have F := fieldsR hw (by decide) (by decide) (by omega) (by omega) (by omega) (by omega) (by decide) (by decide)
  have f_0_2 : fld ww 0 2 = 0 := (F.mod 0 2 (by decide)).trans (by omega)
  have f_0_26 : fld ww 0 26 = 0 := (F.mod 0 26 (by decide)).trans (by omega)
  have f_2_2 : fld ww 2 2 = 0 := (F.mod 2 2 (by decide)).trans (by omega)
  have f_2_24 : fld ww 2 24 = 0 := (F.mod 2 24 (by decide)).trans (by omega)
  have f_4_22 : fld ww 4 22 = 0 := (F.mod 4 22 (by decide)).trans (by omega)
  rw [dec_10 F.op]
  simp [dFp3, dFp3n, decFp, fA, fB, fC, fD, fFn, fMod, fSz, f_0_2, f_0_26, f_2_2, f_2_24, f_4_22, F.c, F.sz, F.b, F.a, F.d, F.fn, F.op, gOf, Except.map, need, gUpTo, srcIf, GZ.code_zero, optG, Sz.code_zero, Rm.code_two, bind, Except.bind, pure, Except.pure, srcOf_code, dstOf_code, gzOf_code, rdstOf_code, popOf_code, szOf_code, fszOf_code, rmOf_code, etOf_code, scopeOf_code, modeOf_ord, gOf_val, eOf_val, finOfNat_val, boolNat_eq, BitVec.ofNat_toNat, BitVec.setWidth_eq, fn0, fldB, fbit]

theorem dw_fmaxLit {ww : Word} (f : FSz) (d : Dst) (a : Src) (imm : BitVec 32) (hw : ww = packL 17 7 (d.code) (a.code) 0 (f.code) (imm.toNat)) : decodeWord ww = .ok (.fmaxLit f d a imm) := by
  have hb_f := FSz.code_lt f
  have hb_d := Dst.code_lt d
  have hb_a := Src.code_lt a
  have hb_imm := imm.isLt
  have F := fieldsL hw (by decide) (by decide) (by omega) (by omega) (by decide) (by omega) (by omega)
  have f_0_32 : fld ww 0 32 = imm.toNat := (F.lit 0 32 (by decide)).trans (by omega)
  have f_34_2 : fld ww 34 2 = 0 := (F.c 34 2 (by decide) (by decide)).trans (by omega)
  have f_34_6 : fld ww 34 6 = 0 := (F.c 34 6 (by decide) (by decide)).trans (by omega)
  have f_36_4 : fld ww 36 4 = 0 := (F.c 36 4 (by decide) (by decide)).trans (by omega)
  rw [dec_11 F.op]
  simp [dFpL, decFpL, fA, fB, fD, fFn, fLit, fSz, f_0_32, F.sz, f_34_2, f_34_6, f_36_4, F.a, F.d, F.fn, F.op, gOf, Except.map, need, gUpTo, srcIf, GZ.code_zero, optG, Sz.code_zero, Rm.code_two, bind, Except.bind, pure, Except.pure, srcOf_code, dstOf_code, gzOf_code, rdstOf_code, popOf_code, szOf_code, fszOf_code, rmOf_code, etOf_code, scopeOf_code, modeOf_ord, gOf_val, eOf_val, finOfNat_val, boolNat_eq, BitVec.ofNat_toNat, BitVec.setWidth_eq, fn0, fldB, fbit]

theorem dw_fsgnjReg {ww : Word} (f : FSz) (d : Dst) (a : Src) (b : Src) (sgn : BitVec 2) (hw : ww = packR 16 8 (d.code) (a.code) (b.code) (f.code) 0 ((sgn.toNat) * 2 ^ 2)) (hwf : ((sgn ≠ 3 : Bool)) = true) : decodeWord ww = .ok (.fsgnjReg f d a b sgn) := by
  have hb_f := FSz.code_lt f
  have hb_d := Dst.code_lt d
  have hb_a := Src.code_lt a
  have hb_b := Src.code_lt b
  have hb_sgn := sgn.isLt
  have F := fieldsR hw (by decide) (by decide) (by omega) (by omega) (by omega) (by omega) (by decide) (by omega)
  have f_0_2 : fld ww 0 2 = 0 := (F.mod 0 2 (by decide)).trans (by omega)
  have f_0_26 : fld ww 0 26 = (sgn.toNat) * 4 := (F.mod 0 26 (by decide)).trans (by omega)
  have f_2_2 : fld ww 2 2 = sgn.toNat := (F.mod 2 2 (by decide)).trans (by omega)
  have f_2_24 : fld ww 2 24 = sgn.toNat := (F.mod 2 24 (by decide)).trans (by omega)
  have f_4_22 : fld ww 4 22 = 0 := (F.mod 4 22 (by decide)).trans (by omega)
  try simp [← BitVec.toNat_inj, GZ.code_zero] at hwf
  rw [dec_10 F.op]
  simp [dFp3, dFp3n, decFp, fA, fB, fC, fD, fFn, fMod, fSz, f_0_2, f_0_26, f_2_2, f_2_24, f_4_22, F.c, F.sz, F.b, F.a, F.d, F.fn, F.op, gOf, Except.map, need, gUpTo, srcIf, GZ.code_zero, optG, Sz.code_zero, Rm.code_two, bind, Except.bind, pure, Except.pure, srcOf_code, dstOf_code, gzOf_code, rdstOf_code, popOf_code, szOf_code, fszOf_code, rmOf_code, etOf_code, scopeOf_code, modeOf_ord, gOf_val, eOf_val, finOfNat_val, boolNat_eq, BitVec.ofNat_toNat, BitVec.setWidth_eq, fn0, fldB, fbit, hwf]

theorem dw_fsgnjLit {ww : Word} (f : FSz) (d : Dst) (a : Src) (imm : BitVec 32) (sgn : BitVec 2) (hw : ww = packL 17 8 (d.code) (a.code) (sgn.toNat) (f.code) (imm.toNat)) (hwf : ((sgn ≠ 3 : Bool)) = true) : decodeWord ww = .ok (.fsgnjLit f d a imm sgn) := by
  have hb_f := FSz.code_lt f
  have hb_d := Dst.code_lt d
  have hb_a := Src.code_lt a
  have hb_imm := imm.isLt
  have hb_sgn := sgn.isLt
  have F := fieldsL hw (by decide) (by decide) (by omega) (by omega) (by omega) (by omega) (by omega)
  have f_0_32 : fld ww 0 32 = imm.toNat := (F.lit 0 32 (by decide)).trans (by omega)
  have f_34_2 : fld ww 34 2 = sgn.toNat := (F.c 34 2 (by decide) (by decide)).trans (by omega)
  have f_34_6 : fld ww 34 6 = sgn.toNat := (F.c 34 6 (by decide) (by decide)).trans (by omega)
  have f_36_4 : fld ww 36 4 = 0 := (F.c 36 4 (by decide) (by decide)).trans (by omega)
  try simp [← BitVec.toNat_inj, GZ.code_zero] at hwf
  rw [dec_11 F.op]
  simp [dFpL, decFpL, fA, fB, fD, fFn, fLit, fSz, f_0_32, F.sz, f_34_2, f_34_6, f_36_4, F.a, F.d, F.fn, F.op, gOf, Except.map, need, gUpTo, srcIf, GZ.code_zero, optG, Sz.code_zero, Rm.code_two, bind, Except.bind, pure, Except.pure, srcOf_code, dstOf_code, gzOf_code, rdstOf_code, popOf_code, szOf_code, fszOf_code, rmOf_code, etOf_code, scopeOf_code, modeOf_ord, gOf_val, eOf_val, finOfNat_val, boolNat_eq, BitVec.ofNat_toNat, BitVec.setWidth_eq, fn0, fldB, fbit, hwf]

theorem dw_feqReg {ww : Word} (f : FSz) (d : Dst) (a : Src) (b : Src) (hw : ww = packR 16 9 (d.code) (a.code) (b.code) (f.code) 0 0) : decodeWord ww = .ok (.feqReg f d a b) := by
  have hb_f := FSz.code_lt f
  have hb_d := Dst.code_lt d
  have hb_a := Src.code_lt a
  have hb_b := Src.code_lt b
  have F := fieldsR hw (by decide) (by decide) (by omega) (by omega) (by omega) (by omega) (by decide) (by decide)
  have f_0_2 : fld ww 0 2 = 0 := (F.mod 0 2 (by decide)).trans (by omega)
  have f_0_26 : fld ww 0 26 = 0 := (F.mod 0 26 (by decide)).trans (by omega)
  have f_2_2 : fld ww 2 2 = 0 := (F.mod 2 2 (by decide)).trans (by omega)
  have f_2_24 : fld ww 2 24 = 0 := (F.mod 2 24 (by decide)).trans (by omega)
  have f_4_22 : fld ww 4 22 = 0 := (F.mod 4 22 (by decide)).trans (by omega)
  rw [dec_10 F.op]
  simp [dFp3, dFp3n, decFp, fA, fB, fC, fD, fFn, fMod, fSz, f_0_2, f_0_26, f_2_2, f_2_24, f_4_22, F.c, F.sz, F.b, F.a, F.d, F.fn, F.op, gOf, Except.map, need, gUpTo, srcIf, GZ.code_zero, optG, Sz.code_zero, Rm.code_two, bind, Except.bind, pure, Except.pure, srcOf_code, dstOf_code, gzOf_code, rdstOf_code, popOf_code, szOf_code, fszOf_code, rmOf_code, etOf_code, scopeOf_code, modeOf_ord, gOf_val, eOf_val, finOfNat_val, boolNat_eq, BitVec.ofNat_toNat, BitVec.setWidth_eq, fn0, fldB, fbit]

theorem dw_feqLit {ww : Word} (f : FSz) (d : Dst) (a : Src) (imm : BitVec 32) (hw : ww = packL 17 9 (d.code) (a.code) 0 (f.code) (imm.toNat)) : decodeWord ww = .ok (.feqLit f d a imm) := by
  have hb_f := FSz.code_lt f
  have hb_d := Dst.code_lt d
  have hb_a := Src.code_lt a
  have hb_imm := imm.isLt
  have F := fieldsL hw (by decide) (by decide) (by omega) (by omega) (by decide) (by omega) (by omega)
  have f_0_32 : fld ww 0 32 = imm.toNat := (F.lit 0 32 (by decide)).trans (by omega)
  have f_34_2 : fld ww 34 2 = 0 := (F.c 34 2 (by decide) (by decide)).trans (by omega)
  have f_34_6 : fld ww 34 6 = 0 := (F.c 34 6 (by decide) (by decide)).trans (by omega)
  have f_36_4 : fld ww 36 4 = 0 := (F.c 36 4 (by decide) (by decide)).trans (by omega)
  rw [dec_11 F.op]
  simp [dFpL, decFpL, fA, fB, fD, fFn, fLit, fSz, f_0_32, F.sz, f_34_2, f_34_6, f_36_4, F.a, F.d, F.fn, F.op, gOf, Except.map, need, gUpTo, srcIf, GZ.code_zero, optG, Sz.code_zero, Rm.code_two, bind, Except.bind, pure, Except.pure, srcOf_code, dstOf_code, gzOf_code, rdstOf_code, popOf_code, szOf_code, fszOf_code, rmOf_code, etOf_code, scopeOf_code, modeOf_ord, gOf_val, eOf_val, finOfNat_val, boolNat_eq, BitVec.ofNat_toNat, BitVec.setWidth_eq, fn0, fldB, fbit]

theorem dw_fltReg {ww : Word} (f : FSz) (d : Dst) (a : Src) (b : Src) (hw : ww = packR 16 10 (d.code) (a.code) (b.code) (f.code) 0 0) : decodeWord ww = .ok (.fltReg f d a b) := by
  have hb_f := FSz.code_lt f
  have hb_d := Dst.code_lt d
  have hb_a := Src.code_lt a
  have hb_b := Src.code_lt b
  have F := fieldsR hw (by decide) (by decide) (by omega) (by omega) (by omega) (by omega) (by decide) (by decide)
  have f_0_2 : fld ww 0 2 = 0 := (F.mod 0 2 (by decide)).trans (by omega)
  have f_0_26 : fld ww 0 26 = 0 := (F.mod 0 26 (by decide)).trans (by omega)
  have f_2_2 : fld ww 2 2 = 0 := (F.mod 2 2 (by decide)).trans (by omega)
  have f_2_24 : fld ww 2 24 = 0 := (F.mod 2 24 (by decide)).trans (by omega)
  have f_4_22 : fld ww 4 22 = 0 := (F.mod 4 22 (by decide)).trans (by omega)
  rw [dec_10 F.op]
  simp [dFp3, dFp3n, decFp, fA, fB, fC, fD, fFn, fMod, fSz, f_0_2, f_0_26, f_2_2, f_2_24, f_4_22, F.c, F.sz, F.b, F.a, F.d, F.fn, F.op, gOf, Except.map, need, gUpTo, srcIf, GZ.code_zero, optG, Sz.code_zero, Rm.code_two, bind, Except.bind, pure, Except.pure, srcOf_code, dstOf_code, gzOf_code, rdstOf_code, popOf_code, szOf_code, fszOf_code, rmOf_code, etOf_code, scopeOf_code, modeOf_ord, gOf_val, eOf_val, finOfNat_val, boolNat_eq, BitVec.ofNat_toNat, BitVec.setWidth_eq, fn0, fldB, fbit]

theorem dw_fltLit {ww : Word} (f : FSz) (d : Dst) (a : Src) (imm : BitVec 32) (hw : ww = packL 17 10 (d.code) (a.code) 0 (f.code) (imm.toNat)) : decodeWord ww = .ok (.fltLit f d a imm) := by
  have hb_f := FSz.code_lt f
  have hb_d := Dst.code_lt d
  have hb_a := Src.code_lt a
  have hb_imm := imm.isLt
  have F := fieldsL hw (by decide) (by decide) (by omega) (by omega) (by decide) (by omega) (by omega)
  have f_0_32 : fld ww 0 32 = imm.toNat := (F.lit 0 32 (by decide)).trans (by omega)
  have f_34_2 : fld ww 34 2 = 0 := (F.c 34 2 (by decide) (by decide)).trans (by omega)
  have f_34_6 : fld ww 34 6 = 0 := (F.c 34 6 (by decide) (by decide)).trans (by omega)
  have f_36_4 : fld ww 36 4 = 0 := (F.c 36 4 (by decide) (by decide)).trans (by omega)
  rw [dec_11 F.op]
  simp [dFpL, decFpL, fA, fB, fD, fFn, fLit, fSz, f_0_32, F.sz, f_34_2, f_34_6, f_36_4, F.a, F.d, F.fn, F.op, gOf, Except.map, need, gUpTo, srcIf, GZ.code_zero, optG, Sz.code_zero, Rm.code_two, bind, Except.bind, pure, Except.pure, srcOf_code, dstOf_code, gzOf_code, rdstOf_code, popOf_code, szOf_code, fszOf_code, rmOf_code, etOf_code, scopeOf_code, modeOf_ord, gOf_val, eOf_val, finOfNat_val, boolNat_eq, BitVec.ofNat_toNat, BitVec.setWidth_eq, fn0, fldB, fbit]

theorem dw_fleReg {ww : Word} (f : FSz) (d : Dst) (a : Src) (b : Src) (hw : ww = packR 16 11 (d.code) (a.code) (b.code) (f.code) 0 0) : decodeWord ww = .ok (.fleReg f d a b) := by
  have hb_f := FSz.code_lt f
  have hb_d := Dst.code_lt d
  have hb_a := Src.code_lt a
  have hb_b := Src.code_lt b
  have F := fieldsR hw (by decide) (by decide) (by omega) (by omega) (by omega) (by omega) (by decide) (by decide)
  have f_0_2 : fld ww 0 2 = 0 := (F.mod 0 2 (by decide)).trans (by omega)
  have f_0_26 : fld ww 0 26 = 0 := (F.mod 0 26 (by decide)).trans (by omega)
  have f_2_2 : fld ww 2 2 = 0 := (F.mod 2 2 (by decide)).trans (by omega)
  have f_2_24 : fld ww 2 24 = 0 := (F.mod 2 24 (by decide)).trans (by omega)
  have f_4_22 : fld ww 4 22 = 0 := (F.mod 4 22 (by decide)).trans (by omega)
  rw [dec_10 F.op]
  simp [dFp3, dFp3n, decFp, fA, fB, fC, fD, fFn, fMod, fSz, f_0_2, f_0_26, f_2_2, f_2_24, f_4_22, F.c, F.sz, F.b, F.a, F.d, F.fn, F.op, gOf, Except.map, need, gUpTo, srcIf, GZ.code_zero, optG, Sz.code_zero, Rm.code_two, bind, Except.bind, pure, Except.pure, srcOf_code, dstOf_code, gzOf_code, rdstOf_code, popOf_code, szOf_code, fszOf_code, rmOf_code, etOf_code, scopeOf_code, modeOf_ord, gOf_val, eOf_val, finOfNat_val, boolNat_eq, BitVec.ofNat_toNat, BitVec.setWidth_eq, fn0, fldB, fbit]

theorem dw_fleLit {ww : Word} (f : FSz) (d : Dst) (a : Src) (imm : BitVec 32) (hw : ww = packL 17 11 (d.code) (a.code) 0 (f.code) (imm.toNat)) : decodeWord ww = .ok (.fleLit f d a imm) := by
  have hb_f := FSz.code_lt f
  have hb_d := Dst.code_lt d
  have hb_a := Src.code_lt a
  have hb_imm := imm.isLt
  have F := fieldsL hw (by decide) (by decide) (by omega) (by omega) (by decide) (by omega) (by omega)
  have f_0_32 : fld ww 0 32 = imm.toNat := (F.lit 0 32 (by decide)).trans (by omega)
  have f_34_2 : fld ww 34 2 = 0 := (F.c 34 2 (by decide) (by decide)).trans (by omega)
  have f_34_6 : fld ww 34 6 = 0 := (F.c 34 6 (by decide) (by decide)).trans (by omega)
  have f_36_4 : fld ww 36 4 = 0 := (F.c 36 4 (by decide) (by decide)).trans (by omega)
  rw [dec_11 F.op]
  simp [dFpL, decFpL, fA, fB, fD, fFn, fLit, fSz, f_0_32, F.sz, f_34_2, f_34_6, f_36_4, F.a, F.d, F.fn, F.op, gOf, Except.map, need, gUpTo, srcIf, GZ.code_zero, optG, Sz.code_zero, Rm.code_two, bind, Except.bind, pure, Except.pure, srcOf_code, dstOf_code, gzOf_code, rdstOf_code, popOf_code, szOf_code, fszOf_code, rmOf_code, etOf_code, scopeOf_code, modeOf_ord, gOf_val, eOf_val, finOfNat_val, boolNat_eq, BitVec.ofNat_toNat, BitVec.setWidth_eq, fn0, fldB, fbit]

theorem dw_fclass {ww : Word} (f : FSz) (d : Dst) (a : Src) (hw : ww = packR 16 12 (d.code) (a.code) 0 (f.code) 0 0) : decodeWord ww = .ok (.fclass f d a) := by
  have hb_f := FSz.code_lt f
  have hb_d := Dst.code_lt d
  have hb_a := Src.code_lt a
  have F := fieldsR hw (by decide) (by decide) (by omega) (by omega) (by decide) (by omega) (by decide) (by decide)
  have f_0_2 : fld ww 0 2 = 0 := (F.mod 0 2 (by decide)).trans (by omega)
  have f_0_26 : fld ww 0 26 = 0 := (F.mod 0 26 (by decide)).trans (by omega)
  have f_2_2 : fld ww 2 2 = 0 := (F.mod 2 2 (by decide)).trans (by omega)
  have f_2_24 : fld ww 2 24 = 0 := (F.mod 2 24 (by decide)).trans (by omega)
  have f_4_22 : fld ww 4 22 = 0 := (F.mod 4 22 (by decide)).trans (by omega)
  rw [dec_10 F.op]
  simp [dFp3, dFp3n, decFp, fA, fB, fC, fD, fFn, fMod, fSz, f_0_2, f_0_26, f_2_2, f_2_24, f_4_22, F.c, F.sz, F.b, F.a, F.d, F.fn, F.op, gOf, Except.map, need, gUpTo, srcIf, GZ.code_zero, optG, Sz.code_zero, Rm.code_two, bind, Except.bind, pure, Except.pure, srcOf_code, dstOf_code, gzOf_code, rdstOf_code, popOf_code, szOf_code, fszOf_code, rmOf_code, etOf_code, scopeOf_code, modeOf_ord, gOf_val, eOf_val, finOfNat_val, boolNat_eq, BitVec.ofNat_toNat, BitVec.setWidth_eq, fn0, fldB, fbit]

theorem dw_fcvt {ww : Word} (d : Dst) (a : Src) (di : BitVec 2) (si : BitVec 2) (sat : Bool) (rm : Rm) (sf : BitVec 5) (df : BitVec 5) (hw : ww = packR 18 0 (d.code) (a.code) 0 0 0 ((di.toNat) * 2 ^ 18 + (si.toNat) * 2 ^ 16 + (sat.toNat) * 2 ^ 15 + (rm.code) * 2 ^ 13 + (sf.toNat) * 2 ^ 5 + df.toNat)) (hwf : ((di ≠ 3 && si ≠ 3 && (if di = 0 then wfFmt df true true else df = 0) && (if si = 0 then wfFmt sf false true else sf = 0) : Bool)) = true) : decodeWord ww = .ok (.fcvt d a di si sat rm sf df) := by
  have hb_d := Dst.code_lt d
  have hb_a := Src.code_lt a
  have hb_di := di.isLt
  have hb_si := si.isLt
  have hb_sat := Bool.toNat_lt sat
  have hb_rm := Rm.code_lt rm
  have hb_sf := sf.isLt
  have hb_df := df.isLt
  have F := fieldsR hw (by decide) (by decide) (by omega) (by omega) (by decide) (by decide) (by decide) (by omega)
  have f_0_5 : fld ww 0 5 = df.toNat := (F.mod 0 5 (by decide)).trans (by omega)
  have f_5_5 : fld ww 5 5 = sf.toNat := (F.mod 5 5 (by decide)).trans (by omega)
  have f_10_3 : fld ww 10 3 = 0 := (F.mod 10 3 (by decide)).trans (by omega)
  have f_13_2 : fld ww 13 2 = rm.code := (F.mod 13 2 (by decide)).trans (by omega)
  have f_15_1 : fld ww 15 1 = sat.toNat := (F.mod 15 1 (by decide)).trans (by omega)
  have f_16_2 : fld ww 16 2 = si.toNat := (F.mod 16 2 (by decide)).trans (by omega)
  have f_18_2 : fld ww 18 2 = di.toNat := (F.mod 18 2 (by decide)).trans (by omega)
  have f_20_6 : fld ww 20 6 = 0 := (F.mod 20 6 (by decide)).trans (by omega)
  try simp [← BitVec.toNat_inj, GZ.code_zero] at hwf
  rw [dec_12 F.op]
  simp [decFcvt, fA, fB, fC, fD, fFn, fSz, f_0_5, f_5_5, f_10_3, f_13_2, f_15_1, f_16_2, f_18_2, f_20_6, F.c, F.sz, F.b, F.a, F.d, F.fn, F.op, gOf, Except.map, need, gUpTo, srcIf, GZ.code_zero, optG, Sz.code_zero, Rm.code_two, bind, Except.bind, pure, Except.pure, srcOf_code, dstOf_code, gzOf_code, rdstOf_code, popOf_code, szOf_code, fszOf_code, rmOf_code, etOf_code, scopeOf_code, modeOf_ord, gOf_val, eOf_val, finOfNat_val, boolNat_eq, BitVec.ofNat_toNat, BitVec.setWidth_eq, fn0, fldB, fbit, hwf]

theorem dw_beq {ww : Word} (sz : Sz) (a : Src) (c : Src) (off : BitVec 32) (hw : ww = packL 32 0 0 (a.code) (c.code) (sz.code) (off.toNat)) : decodeWord ww = .ok (.beq sz a c off) := by
  have hb_sz := Sz.code_lt sz
  have hb_a := Src.code_lt a
  have hb_c := Src.code_lt c
  have hb_off := off.isLt
  have F := fieldsL hw (by decide) (by decide) (by decide) (by omega) (by omega) (by omega) (by omega)
  have f_0_32 : fld ww 0 32 = off.toNat := (F.lit 0 32 (by decide)).trans (by omega)
  have f_34_6 : fld ww 34 6 = c.code := (F.c 34 6 (by decide) (by decide)).trans (by omega)
  rw [dec_20 F.op]
  simp [dBr, decBranch, fA, fB, fD, fFn, fLit, fSz, f_0_32, F.sz, f_34_6, F.a, F.d, F.fn, F.op, gOf, Except.map, need, gUpTo, srcIf, GZ.code_zero, optG, Sz.code_zero, Rm.code_two, bind, Except.bind, pure, Except.pure, srcOf_code, dstOf_code, gzOf_code, rdstOf_code, popOf_code, szOf_code, fszOf_code, rmOf_code, etOf_code, scopeOf_code, modeOf_ord, gOf_val, eOf_val, finOfNat_val, boolNat_eq, BitVec.ofNat_toNat, BitVec.setWidth_eq, fn0, fldB, fbit]

theorem dw_bne {ww : Word} (sz : Sz) (a : Src) (c : Src) (off : BitVec 32) (hw : ww = packL 32 1 0 (a.code) (c.code) (sz.code) (off.toNat)) : decodeWord ww = .ok (.bne sz a c off) := by
  have hb_sz := Sz.code_lt sz
  have hb_a := Src.code_lt a
  have hb_c := Src.code_lt c
  have hb_off := off.isLt
  have F := fieldsL hw (by decide) (by decide) (by decide) (by omega) (by omega) (by omega) (by omega)
  have f_0_32 : fld ww 0 32 = off.toNat := (F.lit 0 32 (by decide)).trans (by omega)
  have f_34_6 : fld ww 34 6 = c.code := (F.c 34 6 (by decide) (by decide)).trans (by omega)
  rw [dec_20 F.op]
  simp [dBr, decBranch, fA, fB, fD, fFn, fLit, fSz, f_0_32, F.sz, f_34_6, F.a, F.d, F.fn, F.op, gOf, Except.map, need, gUpTo, srcIf, GZ.code_zero, optG, Sz.code_zero, Rm.code_two, bind, Except.bind, pure, Except.pure, srcOf_code, dstOf_code, gzOf_code, rdstOf_code, popOf_code, szOf_code, fszOf_code, rmOf_code, etOf_code, scopeOf_code, modeOf_ord, gOf_val, eOf_val, finOfNat_val, boolNat_eq, BitVec.ofNat_toNat, BitVec.setWidth_eq, fn0, fldB, fbit]

theorem dw_blt {ww : Word} (sz : Sz) (a : Src) (c : Src) (off : BitVec 32) (hw : ww = packL 32 2 0 (a.code) (c.code) (sz.code) (off.toNat)) : decodeWord ww = .ok (.blt sz a c off) := by
  have hb_sz := Sz.code_lt sz
  have hb_a := Src.code_lt a
  have hb_c := Src.code_lt c
  have hb_off := off.isLt
  have F := fieldsL hw (by decide) (by decide) (by decide) (by omega) (by omega) (by omega) (by omega)
  have f_0_32 : fld ww 0 32 = off.toNat := (F.lit 0 32 (by decide)).trans (by omega)
  have f_34_6 : fld ww 34 6 = c.code := (F.c 34 6 (by decide) (by decide)).trans (by omega)
  rw [dec_20 F.op]
  simp [dBr, decBranch, fA, fB, fD, fFn, fLit, fSz, f_0_32, F.sz, f_34_6, F.a, F.d, F.fn, F.op, gOf, Except.map, need, gUpTo, srcIf, GZ.code_zero, optG, Sz.code_zero, Rm.code_two, bind, Except.bind, pure, Except.pure, srcOf_code, dstOf_code, gzOf_code, rdstOf_code, popOf_code, szOf_code, fszOf_code, rmOf_code, etOf_code, scopeOf_code, modeOf_ord, gOf_val, eOf_val, finOfNat_val, boolNat_eq, BitVec.ofNat_toNat, BitVec.setWidth_eq, fn0, fldB, fbit]

theorem dw_bge {ww : Word} (sz : Sz) (a : Src) (c : Src) (off : BitVec 32) (hw : ww = packL 32 3 0 (a.code) (c.code) (sz.code) (off.toNat)) : decodeWord ww = .ok (.bge sz a c off) := by
  have hb_sz := Sz.code_lt sz
  have hb_a := Src.code_lt a
  have hb_c := Src.code_lt c
  have hb_off := off.isLt
  have F := fieldsL hw (by decide) (by decide) (by decide) (by omega) (by omega) (by omega) (by omega)
  have f_0_32 : fld ww 0 32 = off.toNat := (F.lit 0 32 (by decide)).trans (by omega)
  have f_34_6 : fld ww 34 6 = c.code := (F.c 34 6 (by decide) (by decide)).trans (by omega)
  rw [dec_20 F.op]
  simp [dBr, decBranch, fA, fB, fD, fFn, fLit, fSz, f_0_32, F.sz, f_34_6, F.a, F.d, F.fn, F.op, gOf, Except.map, need, gUpTo, srcIf, GZ.code_zero, optG, Sz.code_zero, Rm.code_two, bind, Except.bind, pure, Except.pure, srcOf_code, dstOf_code, gzOf_code, rdstOf_code, popOf_code, szOf_code, fszOf_code, rmOf_code, etOf_code, scopeOf_code, modeOf_ord, gOf_val, eOf_val, finOfNat_val, boolNat_eq, BitVec.ofNat_toNat, BitVec.setWidth_eq, fn0, fldB, fbit]

theorem dw_bltu {ww : Word} (sz : Sz) (a : Src) (c : Src) (off : BitVec 32) (hw : ww = packL 32 4 0 (a.code) (c.code) (sz.code) (off.toNat)) : decodeWord ww = .ok (.bltu sz a c off) := by
  have hb_sz := Sz.code_lt sz
  have hb_a := Src.code_lt a
  have hb_c := Src.code_lt c
  have hb_off := off.isLt
  have F := fieldsL hw (by decide) (by decide) (by decide) (by omega) (by omega) (by omega) (by omega)
  have f_0_32 : fld ww 0 32 = off.toNat := (F.lit 0 32 (by decide)).trans (by omega)
  have f_34_6 : fld ww 34 6 = c.code := (F.c 34 6 (by decide) (by decide)).trans (by omega)
  rw [dec_20 F.op]
  simp [dBr, decBranch, fA, fB, fD, fFn, fLit, fSz, f_0_32, F.sz, f_34_6, F.a, F.d, F.fn, F.op, gOf, Except.map, need, gUpTo, srcIf, GZ.code_zero, optG, Sz.code_zero, Rm.code_two, bind, Except.bind, pure, Except.pure, srcOf_code, dstOf_code, gzOf_code, rdstOf_code, popOf_code, szOf_code, fszOf_code, rmOf_code, etOf_code, scopeOf_code, modeOf_ord, gOf_val, eOf_val, finOfNat_val, boolNat_eq, BitVec.ofNat_toNat, BitVec.setWidth_eq, fn0, fldB, fbit]

theorem dw_bgeu {ww : Word} (sz : Sz) (a : Src) (c : Src) (off : BitVec 32) (hw : ww = packL 32 5 0 (a.code) (c.code) (sz.code) (off.toNat)) : decodeWord ww = .ok (.bgeu sz a c off) := by
  have hb_sz := Sz.code_lt sz
  have hb_a := Src.code_lt a
  have hb_c := Src.code_lt c
  have hb_off := off.isLt
  have F := fieldsL hw (by decide) (by decide) (by decide) (by omega) (by omega) (by omega) (by omega)
  have f_0_32 : fld ww 0 32 = off.toNat := (F.lit 0 32 (by decide)).trans (by omega)
  have f_34_6 : fld ww 34 6 = c.code := (F.c 34 6 (by decide) (by decide)).trans (by omega)
  rw [dec_20 F.op]
  simp [dBr, decBranch, fA, fB, fD, fFn, fLit, fSz, f_0_32, F.sz, f_34_6, F.a, F.d, F.fn, F.op, gOf, Except.map, need, gUpTo, srcIf, GZ.code_zero, optG, Sz.code_zero, Rm.code_two, bind, Except.bind, pure, Except.pure, srcOf_code, dstOf_code, gzOf_code, rdstOf_code, popOf_code, szOf_code, fszOf_code, rmOf_code, etOf_code, scopeOf_code, modeOf_ord, gOf_val, eOf_val, finOfNat_val, boolNat_eq, BitVec.ofNat_toNat, BitVec.setWidth_eq, fn0, fldB, fbit]

theorem dw_b {ww : Word} (off : BitVec 32) (hw : ww = packL 32 6 0 0 0 0 (off.toNat)) : decodeWord ww = .ok (.b off) := by
  have hb_off := off.isLt
  have F := fieldsL hw (by decide) (by decide) (by decide) (by decide) (by decide) (by decide) (by omega)
  have f_0_32 : fld ww 0 32 = off.toNat := (F.lit 0 32 (by decide)).trans (by omega)
  have f_34_6 : fld ww 34 6 = 0 := (F.c 34 6 (by decide) (by decide)).trans (by omega)
  rw [dec_20 F.op]
  simp [dBr, decBranch, fA, fB, fD, fFn, fLit, fSz, f_0_32, F.sz, f_34_6, F.a, F.d, F.fn, F.op, gOf, Except.map, need, gUpTo, srcIf, GZ.code_zero, optG, Sz.code_zero, Rm.code_two, bind, Except.bind, pure, Except.pure, srcOf_code, dstOf_code, gzOf_code, rdstOf_code, popOf_code, szOf_code, fszOf_code, rmOf_code, etOf_code, scopeOf_code, modeOf_ord, gOf_val, eOf_val, finOfNat_val, boolNat_eq, BitVec.ofNat_toNat, BitVec.setWidth_eq, fn0, fldB, fbit]

theorem dw_call {ww : Word} (off : BitVec 32) (hw : ww = packL 34 0 0 0 0 0 (off.toNat)) : decodeWord ww = .ok (.call off) := by
  have hb_off := off.isLt
  have F := fieldsL hw (by decide) (by decide) (by decide) (by decide) (by decide) (by decide) (by omega)
  have f_0_32 : fld ww 0 32 = off.toNat := (F.lit 0 32 (by decide)).trans (by omega)
  have f_34_6 : fld ww 34 6 = 0 := (F.c 34 6 (by decide) (by decide)).trans (by omega)
  rw [dec_22 F.op]
  simp [fA, fB, fD, fFn, fLit, fSz, f_0_32, F.sz, f_34_6, F.a, F.d, F.fn, F.op, gOf, Except.map, need, gUpTo, srcIf, GZ.code_zero, optG, Sz.code_zero, Rm.code_two, bind, Except.bind, pure, Except.pure, srcOf_code, dstOf_code, gzOf_code, rdstOf_code, popOf_code, szOf_code, fszOf_code, rmOf_code, etOf_code, scopeOf_code, modeOf_ord, gOf_val, eOf_val, finOfNat_val, boolNat_eq, BitVec.ofNat_toNat, BitVec.setWidth_eq, fn0, fldB, fbit]

theorem dw_jmp {ww : Word} (a : Src) (link : Bool) (hw : ww = packR 36 0 0 (a.code) 0 0 0 (link.toNat)) : decodeWord ww = .ok (.jmp a link) := by
  have hb_a := Src.code_lt a
  have hb_link := Bool.toNat_lt link
  have F := fieldsR hw (by decide) (by decide) (by decide) (by omega) (by decide) (by decide) (by decide) (by omega)
  have f_0_1 : fld ww 0 1 = link.toNat := (F.mod 0 1 (by decide)).trans (by omega)
  have f_1_25 : fld ww 1 25 = 0 := (F.mod 1 25 (by decide)).trans (by omega)
  rw [dec_24 F.op]
  simp [fA, fB, fC, fD, fFn, fSz, f_0_1, f_1_25, F.c, F.sz, F.b, F.a, F.d, F.fn, F.op, gOf, Except.map, need, gUpTo, srcIf, GZ.code_zero, optG, Sz.code_zero, Rm.code_two, bind, Except.bind, pure, Except.pure, srcOf_code, dstOf_code, gzOf_code, rdstOf_code, popOf_code, szOf_code, fszOf_code, rmOf_code, etOf_code, scopeOf_code, modeOf_ord, gOf_val, eOf_val, finOfNat_val, boolNat_eq, BitVec.ofNat_toNat, BitVec.setWidth_eq, fn0, fldB, fbit]

theorem dw_loop {ww : Word} (d : GReg) (off : BitVec 32) (hw : ww = packL 38 0 (d.val) 0 0 0 (off.toNat)) : decodeWord ww = .ok (.loop d off) := by
  have hb_d := d.isLt
  have hb_off := off.isLt
  have F := fieldsL hw (by decide) (by decide) (by omega) (by decide) (by decide) (by decide) (by omega)
  have f_0_32 : fld ww 0 32 = off.toNat := (F.lit 0 32 (by decide)).trans (by omega)
  have f_34_6 : fld ww 34 6 = 0 := (F.c 34 6 (by decide) (by decide)).trans (by omega)
  rw [dec_26 F.op]
  simp [fA, fB, fD, fFn, fLit, fSz, f_0_32, F.sz, f_34_6, F.a, F.d, F.fn, F.op, gOf, Except.map, need, gUpTo, srcIf, GZ.code_zero, optG, Sz.code_zero, Rm.code_two, bind, Except.bind, pure, Except.pure, srcOf_code, dstOf_code, gzOf_code, rdstOf_code, popOf_code, szOf_code, fszOf_code, rmOf_code, etOf_code, scopeOf_code, modeOf_ord, gOf_val, eOf_val, finOfNat_val, boolNat_eq, BitVec.ofNat_toNat, BitVec.setWidth_eq, fn0, fldB, fbit]

theorem dw_tend {ww : Word} (hw : ww = packR 40 0 0 0 0 0 0 0) : decodeWord ww = .ok (.tend ) := by
  have F := fieldsR hw (by decide) (by decide) (by decide) (by decide) (by decide) (by decide) (by decide) (by decide)
  have ht := hw ▸ packR_toNat (op := 40) (fn := 0) (d := 0) (a := 0) (b := 0) (sz := 0) (c := 0) (mod := 0) (by decide) (by decide) (by decide) (by decide) (by decide) (by decide) (by decide) (by decide)
  have f_0_52 : fld ww 0 52 = 0 := by rw [fld, ht]; omega
  rw [dec_28 F.op]
  simp [fFn, f_0_52, F.fn, F.op, gOf, Except.map, need, gUpTo, srcIf, GZ.code_zero, optG, Sz.code_zero, Rm.code_two, bind, Except.bind, pure, Except.pure, srcOf_code, dstOf_code, gzOf_code, rdstOf_code, popOf_code, szOf_code, fszOf_code, rmOf_code, etOf_code, scopeOf_code, modeOf_ord, gOf_val, eOf_val, finOfNat_val, boolNat_eq, BitVec.ofNat_toNat, BitVec.setWidth_eq, fn0, fldB, fbit]

theorem dw_tyield {ww : Word} (hw : ww = packR 40 1 0 0 0 0 0 0) : decodeWord ww = .ok (.tyield ) := by
  have F := fieldsR hw (by decide) (by decide) (by decide) (by decide) (by decide) (by decide) (by decide) (by decide)
  have ht := hw ▸ packR_toNat (op := 40) (fn := 1) (d := 0) (a := 0) (b := 0) (sz := 0) (c := 0) (mod := 0) (by decide) (by decide) (by decide) (by decide) (by decide) (by decide) (by decide) (by decide)
  have f_0_52 : fld ww 0 52 = 0 := by rw [fld, ht]; omega
  rw [dec_28 F.op]
  simp [fFn, f_0_52, F.fn, F.op, gOf, Except.map, need, gUpTo, srcIf, GZ.code_zero, optG, Sz.code_zero, Rm.code_two, bind, Except.bind, pure, Except.pure, srcOf_code, dstOf_code, gzOf_code, rdstOf_code, popOf_code, szOf_code, fszOf_code, rmOf_code, etOf_code, scopeOf_code, modeOf_ord, gOf_val, eOf_val, finOfNat_val, boolNat_eq, BitVec.ofNat_toNat, BitVec.setWidth_eq, fn0, fldB, fbit]

theorem dw_ldReg {ww : Word} (sz : Sz) (d : Dst) (a : Src) (b : Src) (m : Mode) (scl : BitVec 3) (sx : Bool) (hw : ww = packR 48 0 (d.code) (a.code) (b.code) (sz.code) 0 ((m.spc.toNat) * 2 ^ 25 + (m.ord.toNat) * 2 ^ 23 + (scl.toNat) * 2 ^ 20 + (sx.toNat) * 2 ^ 19)) (hwf : ((!(sx && sz = .d) : Bool)) = true) : decodeWord ww = .ok (.ldReg sz d a b m scl sx) := by
  have hb_sz := Sz.code_lt sz
  have hb_d := Dst.code_lt d
  have hb_a := Src.code_lt a
  have hb_b := Src.code_lt b
  have hb_m1 := Bool.toNat_lt m.spc
  have hb_m2 := Bool.toNat_lt m.ord
  have hb_scl := scl.isLt
  have hb_sx := Bool.toNat_lt sx
  have F := fieldsR hw (by decide) (by decide) (by omega) (by omega) (by omega) (by omega) (by decide) (by omega)
  have f_0_19 : fld ww 0 19 = 0 := (F.mod 0 19 (by decide)).trans (by omega)
  have f_19_1 : fld ww 19 1 = sx.toNat := (F.mod 19 1 (by decide)).trans (by omega)
  have f_20_3 : fld ww 20 3 = scl.toNat := (F.mod 20 3 (by decide)).trans (by omega)
  have f_23_2 : fld ww 23 2 = m.ord.toNat := (F.mod 23 2 (by decide)).trans (by omega)
  have f_25_1 : fld ww 25 1 = m.spc.toNat := (F.mod 25 1 (by decide)).trans (by omega)
  try simp [← BitVec.toNat_inj, GZ.code_zero] at hwf
  rw [dec_30 F.op]
  simp [dModeR, decLd, fA, fB, fC, fD, fFn, fSz, f_0_19, f_19_1, f_20_3, f_23_2, f_25_1, F.c, F.sz, F.b, F.a, F.d, F.fn, F.op, gOf, Except.map, need, gUpTo, srcIf, GZ.code_zero, optG, Sz.code_zero, Rm.code_two, bind, Except.bind, pure, Except.pure, srcOf_code, dstOf_code, gzOf_code, rdstOf_code, popOf_code, szOf_code, fszOf_code, rmOf_code, etOf_code, scopeOf_code, modeOf_ord, gOf_val, eOf_val, finOfNat_val, boolNat_eq, BitVec.ofNat_toNat, BitVec.setWidth_eq, fn0, fldB, fbit, hwf]

theorem dw_ldLit {ww : Word} (sz : Sz) (d : Dst) (a : Src) (m : Mode) (sx : Bool) (off : BitVec 32) (hw : ww = packL 49 0 (d.code) (a.code) ((m.spc.toNat) * 2 ^ 5 + (m.ord.toNat) * 2 ^ 3 + (sx.toNat) * 2 ^ 2) (sz.code) (off.toNat)) (hwf : ((!(sx && sz = .d) : Bool)) = true) : decodeWord ww = .ok (.ldLit sz d a m sx off) := by
  have hb_sz := Sz.code_lt sz
  have hb_d := Dst.code_lt d
  have hb_a := Src.code_lt a
  have hb_m1 := Bool.toNat_lt m.spc
  have hb_m2 := Bool.toNat_lt m.ord
  have hb_sx := Bool.toNat_lt sx
  have hb_off := off.isLt
  have F := fieldsL hw (by decide) (by decide) (by omega) (by omega) (by omega) (by omega) (by omega)
  have f_0_32 : fld ww 0 32 = off.toNat := (F.lit 0 32 (by decide)).trans (by omega)
  have f_34_2 : fld ww 34 2 = 0 := (F.c 34 2 (by decide) (by decide)).trans (by omega)
  have f_36_1 : fld ww 36 1 = sx.toNat := (F.c 36 1 (by decide) (by decide)).trans (by omega)
  have f_37_2 : fld ww 37 2 = m.ord.toNat := (F.c 37 2 (by decide) (by decide)).trans (by omega)
  have f_39_1 : fld ww 39 1 = m.spc.toNat := (F.c 39 1 (by decide) (by decide)).trans (by omega)
  try simp [← BitVec.toNat_inj, GZ.code_zero] at hwf
  rw [dec_31 F.op]
  simp [dModeL, decLdL, fA, fD, fFn, fLit, fSz, f_0_32, F.sz, f_34_2, f_36_1, f_37_2, f_39_1, F.a, F.d, F.fn, F.op, gOf, Except.map, need, gUpTo, srcIf, GZ.code_zero, optG, Sz.code_zero, Rm.code_two, bind, Except.bind, pure, Except.pure, srcOf_code, dstOf_code, gzOf_code, rdstOf_code, popOf_code, szOf_code, fszOf_code, rmOf_code, etOf_code, scopeOf_code, modeOf_ord, gOf_val, eOf_val, finOfNat_val, boolNat_eq, BitVec.ofNat_toNat, BitVec.setWidth_eq, fn0, fldB, fbit, hwf]

theorem dw_stReg {ww : Word} (sz : Sz) (v : Src) (a : Src) (b : Src) (m : Mode) (scl : BitVec 3) (hw : ww = packR 50 0 (v.code) (a.code) (b.code) (sz.code) 0 ((m.spc.toNat) * 2 ^ 25 + (m.ord.toNat) * 2 ^ 23 + (scl.toNat) * 2 ^ 20)) (hwf : ((wfData v : Bool)) = true) : decodeWord ww = .ok (.stReg sz v a b m scl) := by
  have hb_sz := Sz.code_lt sz
  have hb_v := Src.code_lt v
  have hb_a := Src.code_lt a
  have hb_b := Src.code_lt b
  have hb_m1 := Bool.toNat_lt m.spc
  have hb_m2 := Bool.toNat_lt m.ord
  have hb_scl := scl.isLt
  have F := fieldsR hw (by decide) (by decide) (by omega) (by omega) (by omega) (by omega) (by decide) (by omega)
  have f_0_19 : fld ww 0 19 = 0 := (F.mod 0 19 (by decide)).trans (by omega)
  have f_19_1 : fld ww 19 1 = 0 := (F.mod 19 1 (by decide)).trans (by omega)
  have f_20_3 : fld ww 20 3 = scl.toNat := (F.mod 20 3 (by decide)).trans (by omega)
  have f_23_2 : fld ww 23 2 = m.ord.toNat := (F.mod 23 2 (by decide)).trans (by omega)
  have f_25_1 : fld ww 25 1 = m.spc.toNat := (F.mod 25 1 (by decide)).trans (by omega)
  try simp [← BitVec.toNat_inj, GZ.code_zero] at hwf
  rw [dec_32 F.op]
  simp [dModeR, dataOf, decSt, fA, fB, fC, fD, fFn, fSz, f_0_19, f_19_1, f_20_3, f_23_2, f_25_1, F.c, F.sz, F.b, F.a, F.d, F.fn, F.op, gOf, Except.map, need, gUpTo, srcIf, GZ.code_zero, optG, Sz.code_zero, Rm.code_two, bind, Except.bind, pure, Except.pure, srcOf_code, dstOf_code, gzOf_code, rdstOf_code, popOf_code, szOf_code, fszOf_code, rmOf_code, etOf_code, scopeOf_code, modeOf_ord, gOf_val, eOf_val, finOfNat_val, boolNat_eq, BitVec.ofNat_toNat, BitVec.setWidth_eq, fn0, fldB, fbit, hwf]

theorem dw_stLit {ww : Word} (sz : Sz) (v : Src) (a : Src) (m : Mode) (off : BitVec 32) (hw : ww = packL 51 0 (v.code) (a.code) ((m.spc.toNat) * 2 ^ 5 + (m.ord.toNat) * 2 ^ 3) (sz.code) (off.toNat)) (hwf : ((wfData v : Bool)) = true) : decodeWord ww = .ok (.stLit sz v a m off) := by
  have hb_sz := Sz.code_lt sz
  have hb_v := Src.code_lt v
  have hb_a := Src.code_lt a
  have hb_m1 := Bool.toNat_lt m.spc
  have hb_m2 := Bool.toNat_lt m.ord
  have hb_off := off.isLt
  have F := fieldsL hw (by decide) (by decide) (by omega) (by omega) (by omega) (by omega) (by omega)
  have f_0_32 : fld ww 0 32 = off.toNat := (F.lit 0 32 (by decide)).trans (by omega)
  have f_34_2 : fld ww 34 2 = 0 := (F.c 34 2 (by decide) (by decide)).trans (by omega)
  have f_36_1 : fld ww 36 1 = 0 := (F.c 36 1 (by decide) (by decide)).trans (by omega)
  have f_37_2 : fld ww 37 2 = m.ord.toNat := (F.c 37 2 (by decide) (by decide)).trans (by omega)
  have f_39_1 : fld ww 39 1 = m.spc.toNat := (F.c 39 1 (by decide) (by decide)).trans (by omega)
  try simp [← BitVec.toNat_inj, GZ.code_zero] at hwf
  rw [dec_33 F.op]
  simp [dModeL, dataOf, decStL, fA, fD, fFn, fLit, fSz, f_0_32, F.sz, f_34_2, f_36_1, f_37_2, f_39_1, F.a, F.d, F.fn, F.op, gOf, Except.map, need, gUpTo, srcIf, GZ.code_zero, optG, Sz.code_zero, Rm.code_two, bind, Except.bind, pure, Except.pure, srcOf_code, dstOf_code, gzOf_code, rdstOf_code, popOf_code, szOf_code, fszOf_code, rmOf_code, etOf_code, scopeOf_code, modeOf_ord, gOf_val, eOf_val, finOfNat_val, boolNat_eq, BitVec.ofNat_toNat, BitVec.setWidth_eq, fn0, fldB, fbit, hwf]

theorem dw_ldnReg {ww : Word} (d : Dst) (a : Src) (b : Src) (m : Mode) (sx : Bool) (hw : ww = packR 52 0 (d.code) (a.code) (b.code) 0 0 ((m.spc.toNat) * 2 ^ 25 + (m.ord.toNat) * 2 ^ 23 + (sx.toNat) * 2 ^ 19)) : decodeWord ww = .ok (.ldnReg d a b m sx) := by
  have hb_d := Dst.code_lt d
  have hb_a := Src.code_lt a
  have hb_b := Src.code_lt b
  have hb_m1 := Bool.toNat_lt m.spc
  have hb_m2 := Bool.toNat_lt m.ord
  have hb_sx := Bool.toNat_lt sx
  have F := fieldsR hw (by decide) (by decide) (by omega) (by omega) (by omega) (by decide) (by decide) (by omega)
  have f_0_19 : fld ww 0 19 = 0 := (F.mod 0 19 (by decide)).trans (by omega)
  have f_19_1 : fld ww 19 1 = sx.toNat := (F.mod 19 1 (by decide)).trans (by omega)
  have f_20_3 : fld ww 20 3 = 0 := (F.mod 20 3 (by decide)).trans (by omega)
  have f_23_2 : fld ww 23 2 = m.ord.toNat := (F.mod 23 2 (by decide)).trans (by omega)
  have f_25_1 : fld ww 25 1 = m.spc.toNat := (F.mod 25 1 (by decide)).trans (by omega)
  rw [dec_34 F.op]
  simp [dModeR, dataOf, decNib, fA, fB, fC, fD, fFn, fSz, f_0_19, f_19_1, f_20_3, f_23_2, f_25_1, F.c, F.sz, F.b, F.a, F.d, F.fn, F.op, gOf, Except.map, need, gUpTo, srcIf, GZ.code_zero, optG, Sz.code_zero, Rm.code_two, bind, Except.bind, pure, Except.pure, srcOf_code, dstOf_code, gzOf_code, rdstOf_code, popOf_code, szOf_code, fszOf_code, rmOf_code, etOf_code, scopeOf_code, modeOf_ord, gOf_val, eOf_val, finOfNat_val, boolNat_eq, BitVec.ofNat_toNat, BitVec.setWidth_eq, fn0, fldB, fbit]

theorem dw_ldnLit {ww : Word} (d : Dst) (a : Src) (m : Mode) (sx : Bool) (idx : BitVec 32) (hw : ww = packL 53 0 (d.code) (a.code) ((m.spc.toNat) * 2 ^ 5 + (m.ord.toNat) * 2 ^ 3 + (sx.toNat) * 2 ^ 2) 0 (idx.toNat)) : decodeWord ww = .ok (.ldnLit d a m sx idx) := by
  have hb_d := Dst.code_lt d
  have hb_a := Src.code_lt a
  have hb_m1 := Bool.toNat_lt m.spc
  have hb_m2 := Bool.toNat_lt m.ord
  have hb_sx := Bool.toNat_lt sx
  have hb_idx := idx.isLt
  have F := fieldsL hw (by decide) (by decide) (by omega) (by omega) (by omega) (by decide) (by omega)
  have f_0_32 : fld ww 0 32 = idx.toNat := (F.lit 0 32 (by decide)).trans (by omega)
  have f_34_2 : fld ww 34 2 = 0 := (F.c 34 2 (by decide) (by decide)).trans (by omega)
  have f_36_1 : fld ww 36 1 = sx.toNat := (F.c 36 1 (by decide) (by decide)).trans (by omega)
  have f_37_2 : fld ww 37 2 = m.ord.toNat := (F.c 37 2 (by decide) (by decide)).trans (by omega)
  have f_39_1 : fld ww 39 1 = m.spc.toNat := (F.c 39 1 (by decide) (by decide)).trans (by omega)
  rw [dec_35 F.op]
  simp [dModeL, dataOf, decNibL, fA, fD, fFn, fLit, fSz, f_0_32, F.sz, f_34_2, f_36_1, f_37_2, f_39_1, F.a, F.d, F.fn, F.op, gOf, Except.map, need, gUpTo, srcIf, GZ.code_zero, optG, Sz.code_zero, Rm.code_two, bind, Except.bind, pure, Except.pure, srcOf_code, dstOf_code, gzOf_code, rdstOf_code, popOf_code, szOf_code, fszOf_code, rmOf_code, etOf_code, scopeOf_code, modeOf_ord, gOf_val, eOf_val, finOfNat_val, boolNat_eq, BitVec.ofNat_toNat, BitVec.setWidth_eq, fn0, fldB, fbit]

theorem dw_stnReg {ww : Word} (v : Src) (a : Src) (b : Src) (m : Mode) (hw : ww = packR 52 1 (v.code) (a.code) (b.code) 0 0 ((m.spc.toNat) * 2 ^ 25 + (m.ord.toNat) * 2 ^ 23)) (hwf : ((wfData v : Bool)) = true) : decodeWord ww = .ok (.stnReg v a b m) := by
  have hb_v := Src.code_lt v
  have hb_a := Src.code_lt a
  have hb_b := Src.code_lt b
  have hb_m1 := Bool.toNat_lt m.spc
  have hb_m2 := Bool.toNat_lt m.ord
  have F := fieldsR hw (by decide) (by decide) (by omega) (by omega) (by omega) (by decide) (by decide) (by omega)
  have f_0_19 : fld ww 0 19 = 0 := (F.mod 0 19 (by decide)).trans (by omega)
  have f_19_1 : fld ww 19 1 = 0 := (F.mod 19 1 (by decide)).trans (by omega)
  have f_20_3 : fld ww 20 3 = 0 := (F.mod 20 3 (by decide)).trans (by omega)
  have f_23_2 : fld ww 23 2 = m.ord.toNat := (F.mod 23 2 (by decide)).trans (by omega)
  have f_25_1 : fld ww 25 1 = m.spc.toNat := (F.mod 25 1 (by decide)).trans (by omega)
  try simp [← BitVec.toNat_inj, GZ.code_zero] at hwf
  rw [dec_34 F.op]
  simp [dModeR, dataOf, decNib, fA, fB, fC, fD, fFn, fSz, f_0_19, f_19_1, f_20_3, f_23_2, f_25_1, F.c, F.sz, F.b, F.a, F.d, F.fn, F.op, gOf, Except.map, need, gUpTo, srcIf, GZ.code_zero, optG, Sz.code_zero, Rm.code_two, bind, Except.bind, pure, Except.pure, srcOf_code, dstOf_code, gzOf_code, rdstOf_code, popOf_code, szOf_code, fszOf_code, rmOf_code, etOf_code, scopeOf_code, modeOf_ord, gOf_val, eOf_val, finOfNat_val, boolNat_eq, BitVec.ofNat_toNat, BitVec.setWidth_eq, fn0, fldB, fbit, hwf]

theorem dw_stnLit {ww : Word} (v : Src) (a : Src) (m : Mode) (idx : BitVec 32) (hw : ww = packL 53 1 (v.code) (a.code) ((m.spc.toNat) * 2 ^ 5 + (m.ord.toNat) * 2 ^ 3) 0 (idx.toNat)) (hwf : ((wfData v : Bool)) = true) : decodeWord ww = .ok (.stnLit v a m idx) := by
  have hb_v := Src.code_lt v
  have hb_a := Src.code_lt a
  have hb_m1 := Bool.toNat_lt m.spc
  have hb_m2 := Bool.toNat_lt m.ord
  have hb_idx := idx.isLt
  have F := fieldsL hw (by decide) (by decide) (by omega) (by omega) (by omega) (by decide) (by omega)
  have f_0_32 : fld ww 0 32 = idx.toNat := (F.lit 0 32 (by decide)).trans (by omega)
  have f_34_2 : fld ww 34 2 = 0 := (F.c 34 2 (by decide) (by decide)).trans (by omega)
  have f_36_1 : fld ww 36 1 = 0 := (F.c 36 1 (by decide) (by decide)).trans (by omega)
  have f_37_2 : fld ww 37 2 = m.ord.toNat := (F.c 37 2 (by decide) (by decide)).trans (by omega)
  have f_39_1 : fld ww 39 1 = m.spc.toNat := (F.c 39 1 (by decide) (by decide)).trans (by omega)
  try simp [← BitVec.toNat_inj, GZ.code_zero] at hwf
  rw [dec_35 F.op]
  simp [dModeL, dataOf, decNibL, fA, fD, fFn, fLit, fSz, f_0_32, F.sz, f_34_2, f_36_1, f_37_2, f_39_1, F.a, F.d, F.fn, F.op, gOf, Except.map, need, gUpTo, srcIf, GZ.code_zero, optG, Sz.code_zero, Rm.code_two, bind, Except.bind, pure, Except.pure, srcOf_code, dstOf_code, gzOf_code, rdstOf_code, popOf_code, szOf_code, fszOf_code, rmOf_code, etOf_code, scopeOf_code, modeOf_ord, gOf_val, eOf_val, finOfNat_val, boolNat_eq, BitVec.ofNat_toNat, BitVec.setWidth_eq, fn0, fldB, fbit, hwf]

theorem dw_pfReg {ww : Word} (a : Src) (b : Src) (spc : Bool) (scl : BitVec 3) (hw : ww = packR 54 0 0 (a.code) (b.code) 0 0 ((spc.toNat) * 2 ^ 25 + (scl.toNat) * 2 ^ 20)) : decodeWord ww = .ok (.pfReg a b spc scl) := by
  have hb_a := Src.code_lt a
  have hb_b := Src.code_lt b
  have hb_spc := Bool.toNat_lt spc
  have hb_scl := scl.isLt
  have F := fieldsR hw (by decide) (by decide) (by decide) (by omega) (by omega) (by decide) (by decide) (by omega)
  have f_0_20 : fld ww 0 20 = 0 := (F.mod 0 20 (by decide)).trans (by omega)
  have f_20_3 : fld ww 20 3 = scl.toNat := (F.mod 20 3 (by decide)).trans (by omega)
  have f_23_2 : fld ww 23 2 = 0 := (F.mod 23 2 (by decide)).trans (by omega)
  have f_25_1 : fld ww 25 1 = spc.toNat := (F.mod 25 1 (by decide)).trans (by omega)
  rw [dec_36 F.op]
  simp [decPf, fA, fB, fC, fD, fFn, fSz, f_0_20, f_20_3, f_23_2, f_25_1, F.c, F.sz, F.b, F.a, F.d, F.fn, F.op, gOf, Except.map, need, gUpTo, srcIf, GZ.code_zero, optG, Sz.code_zero, Rm.code_two, bind, Except.bind, pure, Except.pure, srcOf_code, dstOf_code, gzOf_code, rdstOf_code, popOf_code, szOf_code, fszOf_code, rmOf_code, etOf_code, scopeOf_code, modeOf_ord, gOf_val, eOf_val, finOfNat_val, boolNat_eq, BitVec.ofNat_toNat, BitVec.setWidth_eq, fn0, fldB, fbit]

theorem dw_pfLit {ww : Word} (a : Src) (spc : Bool) (off : BitVec 32) (hw : ww = packL 55 0 0 (a.code) ((spc.toNat) * 2 ^ 5) 0 (off.toNat)) : decodeWord ww = .ok (.pfLit a spc off) := by
  have hb_a := Src.code_lt a
  have hb_spc := Bool.toNat_lt spc
  have hb_off := off.isLt
  have F := fieldsL hw (by decide) (by decide) (by decide) (by omega) (by omega) (by decide) (by omega)
  have f_0_32 : fld ww 0 32 = off.toNat := (F.lit 0 32 (by decide)).trans (by omega)
  have f_34_5 : fld ww 34 5 = 0 := (F.c 34 5 (by decide) (by decide)).trans (by omega)
  have f_39_1 : fld ww 39 1 = spc.toNat := (F.c 39 1 (by decide) (by decide)).trans (by omega)
  rw [dec_37 F.op]
  simp [decPfL, fA, fD, fFn, fLit, fSz, f_0_32, F.sz, f_34_5, f_39_1, F.a, F.d, F.fn, F.op, gOf, Except.map, need, gUpTo, srcIf, GZ.code_zero, optG, Sz.code_zero, Rm.code_two, bind, Except.bind, pure, Except.pure, srcOf_code, dstOf_code, gzOf_code, rdstOf_code, popOf_code, szOf_code, fszOf_code, rmOf_code, etOf_code, scopeOf_code, modeOf_ord, gOf_val, eOf_val, finOfNat_val, boolNat_eq, BitVec.ofNat_toNat, BitVec.setWidth_eq, fn0, fldB, fbit]

theorem dw_fence {ww : Word} (kind : FenceKind) (scope : Scope) (hw : ww = packR 58 0 0 0 0 0 0 ((kind.code) * 2 ^ 3 + scope.code)) : decodeWord ww = .ok (.fence kind scope) := by
  have hb_kind := FenceKind.code_lt kind
  have hb_scope := Scope.code_lt scope
  have F := fieldsR hw (by decide) (by decide) (by decide) (by decide) (by decide) (by decide) (by decide) (by omega)
  have f_0_3 : fld ww 0 3 = scope.code := (F.mod 0 3 (by decide)).trans (by omega)
  have f_3_2 : fld ww 3 2 = kind.code := (F.mod 3 2 (by decide)).trans (by omega)
  have f_5_21 : fld ww 5 21 = 0 := (F.mod 5 21 (by decide)).trans (by omega)
  rw [dec_3a F.op]
  cases kind <;> cases scope <;> simp [decFence, fA, fB, fC, fD, fFn, fSz, f_0_3, f_3_2, f_5_21, F.c, F.sz, F.b, F.a, F.d, F.fn, F.op, gOf, Except.map, need, gUpTo, srcIf, GZ.code_zero, optG, Sz.code_zero, Rm.code_two, bind, Except.bind, pure, Except.pure, srcOf_code, dstOf_code, gzOf_code, rdstOf_code, popOf_code, szOf_code, fszOf_code, rmOf_code, etOf_code, scopeOf_code, modeOf_ord, gOf_val, eOf_val, finOfNat_val, boolNat_eq, BitVec.ofNat_toNat, BitVec.setWidth_eq, fn0, fldB, fbit, Scope.code, scopeOf, FenceKind.code]

theorem dw_waita {ww : Word} (sz : Sz) (d : GZ) (a : GZ) (b : GZ) (c : GZ) (m : Mode) (hw : ww = packR 60 0 (d.code) (a.code) (b.code) (sz.code) (c.code) ((m.spc.toNat) * 2 ^ 25 + (m.ord.toNat) * 2 ^ 23)) : decodeWord ww = .ok (.waita sz d a b c m) := by
  have hb_sz := Sz.code_lt sz
  have hb_d := GZ.code_lt d
  have hb_a := GZ.code_lt a
  have hb_b := GZ.code_lt b
  have hb_c := GZ.code_lt c
  have hb_m1 := Bool.toNat_lt m.spc
  have hb_m2 := Bool.toNat_lt m.ord
  have F := fieldsR hw (by decide) (by decide) (by omega) (by omega) (by omega) (by omega) (by omega) (by omega)
  have f_0_23 : fld ww 0 23 = 0 := (F.mod 0 23 (by decide)).trans (by omega)
  have f_23_2 : fld ww 23 2 = m.ord.toNat := (F.mod 23 2 (by decide)).trans (by omega)
  have f_25_1 : fld ww 25 1 = m.spc.toNat := (F.mod 25 1 (by decide)).trans (by omega)
  rw [dec_3c F.op]
  simp [decWaita, fA, fB, fC, fD, fFn, fSz, f_0_23, f_23_2, f_25_1, F.c, F.sz, F.b, F.a, F.d, F.fn, F.op, gOf, Except.map, need, gUpTo, srcIf, GZ.code_zero, optG, Sz.code_zero, Rm.code_two, bind, Except.bind, pure, Except.pure, srcOf_code, dstOf_code, gzOf_code, rdstOf_code, popOf_code, szOf_code, fszOf_code, rmOf_code, etOf_code, scopeOf_code, modeOf_ord, gOf_val, eOf_val, finOfNat_val, boolNat_eq, BitVec.ofNat_toNat, BitVec.setWidth_eq, fn0, fldB, fbit]

theorem dw_scfgFillReg {ww : Word} (sz : Sz) (a : GReg) (spc : Bool) (sx : Bool) (strm : Fin 4) (hw : ww = packR 64 0 0 (a.val) 0 (sz.code) 0 ((spc.toNat) * 2 ^ 25 + (sx.toNat) * 2 ^ 19 + strm.val)) (hwf : ((a.val ≤ 20 && !(sx && sz = .d) : Bool)) = true) : decodeWord ww = .ok (.scfgFillReg sz a spc sx strm) := by
  have hb_sz := Sz.code_lt sz
  have hb_a := a.isLt
  have hb_spc := Bool.toNat_lt spc
  have hb_sx := Bool.toNat_lt sx
  have hb_strm := strm.isLt
  have F := fieldsR hw (by decide) (by decide) (by decide) (by omega) (by decide) (by omega) (by decide) (by omega)
  have f_0_2 : fld ww 0 2 = strm.val := (F.mod 0 2 (by decide)).trans (by omega)
  have f_2_17 : fld ww 2 17 = 0 := (F.mod 2 17 (by decide)).trans (by omega)
  have f_2_23 : fld ww 2 23 = (sx.toNat) * 131072 := (F.mod 2 23 (by decide)).trans (by omega)
  have f_19_1 : fld ww 19 1 = sx.toNat := (F.mod 19 1 (by decide)).trans (by omega)
  have f_20_5 : fld ww 20 5 = 0 := (F.mod 20 5 (by decide)).trans (by omega)
  have f_25_1 : fld ww 25 1 = spc.toNat := (F.mod 25 1 (by decide)).trans (by omega)
  try simp [← BitVec.toNat_inj, GZ.code_zero] at hwf
  rw [dec_40 F.op]
  simp [decScfg, fA, fB, fC, fD, fFn, fSz, f_0_2, f_2_17, f_2_23, f_19_1, f_20_5, f_25_1, F.c, F.sz, F.b, F.a, F.d, F.fn, F.op, gOf, Except.map, need, gUpTo, srcIf, GZ.code_zero, optG, Sz.code_zero, Rm.code_two, bind, Except.bind, pure, Except.pure, srcOf_code, dstOf_code, gzOf_code, rdstOf_code, popOf_code, szOf_code, fszOf_code, rmOf_code, etOf_code, scopeOf_code, modeOf_ord, gOf_val, eOf_val, finOfNat_val, boolNat_eq, BitVec.ofNat_toNat, BitVec.setWidth_eq, fn0, fldB, fbit, hwf]

theorem dw_scfgFillLit {ww : Word} (sz : Sz) (a : GReg) (spc : Bool) (sx : Bool) (strm : Fin 4) (n0 : BitVec 32) (hw : ww = packL 65 0 0 (a.val) ((spc.toNat) * 2 ^ 5 + (sx.toNat) * 2 ^ 2 + strm.val) (sz.code) (n0.toNat)) (hwf : ((!(sx && sz = .d) : Bool)) = true) : decodeWord ww = .ok (.scfgFillLit sz a spc sx strm n0) := by
  have hb_sz := Sz.code_lt sz
  have hb_a := a.isLt
  have hb_spc := Bool.toNat_lt spc
  have hb_sx := Bool.toNat_lt sx
  have hb_strm := strm.isLt
  have hb_n0 := n0.isLt
  have F := fieldsL hw (by decide) (by decide) (by decide) (by omega) (by omega) (by omega) (by omega)
  have f_0_32 : fld ww 0 32 = n0.toNat := (F.lit 0 32 (by decide)).trans (by omega)
  have f_34_2 : fld ww 34 2 = strm.val := (F.c 34 2 (by decide) (by decide)).trans (by omega)
  have f_36_1 : fld ww 36 1 = sx.toNat := (F.c 36 1 (by decide) (by decide)).trans (by omega)
  have f_36_3 : fld ww 36 3 = sx.toNat := (F.c 36 3 (by decide) (by decide)).trans (by omega)
  have f_37_2 : fld ww 37 2 = 0 := (F.c 37 2 (by decide) (by decide)).trans (by omega)
  have f_39_1 : fld ww 39 1 = spc.toNat := (F.c 39 1 (by decide) (by decide)).trans (by omega)
  try simp [← BitVec.toNat_inj, GZ.code_zero] at hwf
  rw [dec_41 F.op]
  simp [decScfgL, fA, fD, fFn, fLit, fSz, f_0_32, F.sz, f_34_2, f_36_1, f_36_3, f_37_2, f_39_1, F.a, F.d, F.fn, F.op, gOf, Except.map, need, gUpTo, srcIf, GZ.code_zero, optG, Sz.code_zero, Rm.code_two, bind, Except.bind, pure, Except.pure, srcOf_code, dstOf_code, gzOf_code, rdstOf_code, popOf_code, szOf_code, fszOf_code, rmOf_code, etOf_code, scopeOf_code, modeOf_ord, gOf_val, eOf_val, finOfNat_val, boolNat_eq, BitVec.ofNat_toNat, BitVec.setWidth_eq, fn0, fldB, fbit, hwf]

theorem dw_scfgDrainReg {ww : Word} (sz : Sz) (a : GReg) (spc : Bool) (strm : Fin 4) (hw : ww = packR 64 1 0 (a.val) 0 (sz.code) 0 ((spc.toNat) * 2 ^ 25 + strm.val)) (hwf : ((a.val ≤ 20 : Bool)) = true) : decodeWord ww = .ok (.scfgDrainReg sz a spc strm) := by
  have hb_sz := Sz.code_lt sz
  have hb_a := a.isLt
  have hb_spc := Bool.toNat_lt spc
  have hb_strm := strm.isLt
  have F := fieldsR hw (by decide) (by decide) (by decide) (by omega) (by decide) (by omega) (by decide) (by omega)
  have f_0_2 : fld ww 0 2 = strm.val := (F.mod 0 2 (by decide)).trans (by omega)
  have f_2_17 : fld ww 2 17 = 0 := (F.mod 2 17 (by decide)).trans (by omega)
  have f_2_23 : fld ww 2 23 = 0 := (F.mod 2 23 (by decide)).trans (by omega)
  have f_19_1 : fld ww 19 1 = 0 := (F.mod 19 1 (by decide)).trans (by omega)
  have f_20_5 : fld ww 20 5 = 0 := (F.mod 20 5 (by decide)).trans (by omega)
  have f_25_1 : fld ww 25 1 = spc.toNat := (F.mod 25 1 (by decide)).trans (by omega)
  try simp [← BitVec.toNat_inj, GZ.code_zero] at hwf
  rw [dec_40 F.op]
  simp [decScfg, fA, fB, fC, fD, fFn, fSz, f_0_2, f_2_17, f_2_23, f_19_1, f_20_5, f_25_1, F.c, F.sz, F.b, F.a, F.d, F.fn, F.op, gOf, Except.map, need, gUpTo, srcIf, GZ.code_zero, optG, Sz.code_zero, Rm.code_two, bind, Except.bind, pure, Except.pure, srcOf_code, dstOf_code, gzOf_code, rdstOf_code, popOf_code, szOf_code, fszOf_code, rmOf_code, etOf_code, scopeOf_code, modeOf_ord, gOf_val, eOf_val, finOfNat_val, boolNat_eq, BitVec.ofNat_toNat, BitVec.setWidth_eq, fn0, fldB, fbit, hwf]

theorem dw_scfgDrainLit {ww : Word} (sz : Sz) (a : GReg) (spc : Bool) (strm : Fin 4) (n0 : BitVec 32) (hw : ww = packL 65 1 0 (a.val) ((spc.toNat) * 2 ^ 5 + strm.val) (sz.code) (n0.toNat)) : decodeWord ww = .ok (.scfgDrainLit sz a spc strm n0) := by
  have hb_sz := Sz.code_lt sz
  have hb_a := a.isLt
  have hb_spc := Bool.toNat_lt spc
  have hb_strm := strm.isLt
  have hb_n0 := n0.isLt
  have F := fieldsL hw (by decide) (by decide) (by decide) (by omega) (by omega) (by omega) (by omega)
  have f_0_32 : fld ww 0 32 = n0.toNat := (F.lit 0 32 (by decide)).trans (by omega)
  have f_34_2 : fld ww 34 2 = strm.val := (F.c 34 2 (by decide) (by decide)).trans (by omega)
  have f_36_1 : fld ww 36 1 = 0 := (F.c 36 1 (by decide) (by decide)).trans (by omega)
  have f_36_3 : fld ww 36 3 = 0 := (F.c 36 3 (by decide) (by decide)).trans (by omega)
  have f_37_2 : fld ww 37 2 = 0 := (F.c 37 2 (by decide) (by decide)).trans (by omega)
  have f_39_1 : fld ww 39 1 = spc.toNat := (F.c 39 1 (by decide) (by decide)).trans (by omega)
  rw [dec_41 F.op]
  simp [decScfgL, fA, fD, fFn, fLit, fSz, f_0_32, F.sz, f_34_2, f_36_1, f_36_3, f_37_2, f_39_1, F.a, F.d, F.fn, F.op, gOf, Except.map, need, gUpTo, srcIf, GZ.code_zero, optG, Sz.code_zero, Rm.code_two, bind, Except.bind, pure, Except.pure, srcOf_code, dstOf_code, gzOf_code, rdstOf_code, popOf_code, szOf_code, fszOf_code, rmOf_code, etOf_code, scopeOf_code, modeOf_ord, gOf_val, eOf_val, finOfNat_val, boolNat_eq, BitVec.ofNat_toNat, BitVec.setWidth_eq, fn0, fldB, fbit]

theorem dw_sctlEnd {ww : Word} (strm : Fin 4) (hw : ww = packR 66 0 0 0 0 0 0 (strm.val)) : decodeWord ww = .ok (.sctlEnd strm) := by
  have hb_strm := strm.isLt
  have F := fieldsR hw (by decide) (by decide) (by decide) (by decide) (by decide) (by decide) (by decide) (by omega)
  have f_0_2 : fld ww 0 2 = strm.val := (F.mod 0 2 (by decide)).trans (by omega)
  have f_2_24 : fld ww 2 24 = 0 := (F.mod 2 24 (by decide)).trans (by omega)
  rw [dec_42 F.op]
  simp [decSctl, fA, fB, fC, fD, fFn, fSz, f_0_2, f_2_24, F.c, F.sz, F.b, F.a, F.d, F.fn, F.op, gOf, Except.map, need, gUpTo, srcIf, GZ.code_zero, optG, Sz.code_zero, Rm.code_two, bind, Except.bind, pure, Except.pure, srcOf_code, dstOf_code, gzOf_code, rdstOf_code, popOf_code, szOf_code, fszOf_code, rmOf_code, etOf_code, scopeOf_code, modeOf_ord, gOf_val, eOf_val, finOfNat_val, boolNat_eq, BitVec.ofNat_toNat, BitVec.setWidth_eq, fn0, fldB, fbit]

theorem dw_sctlFlush {ww : Word} (strm : Fin 4) (hw : ww = packR 66 1 0 0 0 0 0 (strm.val)) : decodeWord ww = .ok (.sctlFlush strm) := by
  have hb_strm := strm.isLt
  have F := fieldsR hw (by decide) (by decide) (by decide) (by decide) (by decide) (by decide) (by decide) (by omega)
  have f_0_2 : fld ww 0 2 = strm.val := (F.mod 0 2 (by decide)).trans (by omega)
  have f_2_24 : fld ww 2 24 = 0 := (F.mod 2 24 (by decide)).trans (by omega)
  rw [dec_42 F.op]
  simp [decSctl, fA, fB, fC, fD, fFn, fSz, f_0_2, f_2_24, F.c, F.sz, F.b, F.a, F.d, F.fn, F.op, gOf, Except.map, need, gUpTo, srcIf, GZ.code_zero, optG, Sz.code_zero, Rm.code_two, bind, Except.bind, pure, Except.pure, srcOf_code, dstOf_code, gzOf_code, rdstOf_code, popOf_code, szOf_code, fszOf_code, rmOf_code, etOf_code, scopeOf_code, modeOf_ord, gOf_val, eOf_val, finOfNat_val, boolNat_eq, BitVec.ofNat_toNat, BitVec.setWidth_eq, fn0, fldB, fbit]

theorem dw_sstat {ww : Word} (d : GZ) (strm : Fin 4) (hw : ww = packR 68 0 (d.code) 0 0 0 0 (strm.val)) : decodeWord ww = .ok (.sstat d strm) := by
  have hb_d := GZ.code_lt d
  have hb_strm := strm.isLt
  have F := fieldsR hw (by decide) (by decide) (by omega) (by decide) (by decide) (by decide) (by decide) (by omega)
  have f_0_2 : fld ww 0 2 = strm.val := (F.mod 0 2 (by decide)).trans (by omega)
  have f_2_24 : fld ww 2 24 = 0 := (F.mod 2 24 (by decide)).trans (by omega)
  rw [dec_44 F.op]
  simp [decSstat, fA, fB, fC, fD, fFn, fSz, f_0_2, f_2_24, F.c, F.sz, F.b, F.a, F.d, F.fn, F.op, gOf, Except.map, need, gUpTo, srcIf, GZ.code_zero, optG, Sz.code_zero, Rm.code_two, bind, Except.bind, pure, Except.pure, srcOf_code, dstOf_code, gzOf_code, rdstOf_code, popOf_code, szOf_code, fszOf_code, rmOf_code, etOf_code, scopeOf_code, modeOf_ord, gOf_val, eOf_val, finOfNat_val, boolNat_eq, BitVec.ofNat_toNat, BitVec.setWidth_eq, fn0, fldB, fbit]

theorem dw_send {ww : Word} (a : Src) (b : GReg) (rel : Bool) (hc : Bool) (nw : BitVec 3) (hn : BitVec 10) (hw : ww = packR 80 0 0 (a.code) (b.val) 0 0 ((rel.toNat) * 2 ^ 14 + (hc.toNat) * 2 ^ 13 + (nw.toNat) * 2 ^ 10 + hn.toNat)) (hwf : ((wfHandle a && nw.toNat ≤ 6 && b.val + nw.toNat ≤ 24 && (nw ≠ 0 || b = 0) : Bool)) = true) : decodeWord ww = .ok (.send a b rel hc nw hn) := by
  have hb_a := Src.code_lt a
  have hb_b := b.isLt
  have hb_rel := Bool.toNat_lt rel
  have hb_hc := Bool.toNat_lt hc
  have hb_nw := nw.isLt
  have hb_hn := hn.isLt
  have F := fieldsR hw (by decide) (by decide) (by decide) (by omega) (by omega) (by decide) (by decide) (by omega)
  have f_0_10 : fld ww 0 10 = hn.toNat := (F.mod 0 10 (by decide)).trans (by omega)
  have f_10_3 : fld ww 10 3 = nw.toNat := (F.mod 10 3 (by decide)).trans (by omega)
  have f_13_1 : fld ww 13 1 = hc.toNat := (F.mod 13 1 (by decide)).trans (by omega)
  have f_14_1 : fld ww 14 1 = rel.toNat := (F.mod 14 1 (by decide)).trans (by omega)
  have f_15_11 : fld ww 15 11 = 0 := (F.mod 15 11 (by decide)).trans (by omega)
  try simp [← BitVec.toNat_inj, GZ.code_zero] at hwf
  rw [dec_50 F.op]
  simp [decSend, fA, fB, fC, fD, fFn, fSz, f_0_10, f_10_3, f_13_1, f_14_1, f_15_11, F.c, F.sz, F.b, F.a, F.d, F.fn, F.op, gOf, Except.map, need, gUpTo, srcIf, GZ.code_zero, optG, Sz.code_zero, Rm.code_two, bind, Except.bind, pure, Except.pure, srcOf_code, dstOf_code, gzOf_code, rdstOf_code, popOf_code, szOf_code, fszOf_code, rmOf_code, etOf_code, scopeOf_code, modeOf_ord, gOf_val, eOf_val, finOfNat_val, boolNat_eq, BitVec.ofNat_toNat, BitVec.setWidth_eq, fn0, fldB, fbit, hwf, show ¬ nw.toNat = 7 by omega]

theorem dw_sendw {ww : Word} (a : Src) (b : GReg) (c : GZ) (nw : BitVec 3) (ce : Bool) (cn : BitVec 6) (hw : ww = packR 82 0 0 (a.code) (b.val) 0 (c.code) (nw.toNat + (ce.toNat) * 2 ^ 3 + (cn.toNat) * 2 ^ 4)) (hwf : ((wfHandle a && nw.toNat ≤ 6 && b.val + nw.toNat ≤ 24 && (nw ≠ 0 || b = 0) && (ce || cn = 0) : Bool)) = true) : decodeWord ww = .ok (.sendw a b c nw ce cn) := by
  have hb_a := Src.code_lt a
  have hb_b := b.isLt
  have hb_c := GZ.code_lt c
  have hb_nw := nw.isLt
  have hb_ce := Bool.toNat_lt ce
  have hb_cn := cn.isLt
  have F := fieldsR hw (by decide) (by decide) (by decide) (by omega) (by omega) (by decide) (by omega) (by omega)
  have f_0_3 : fld ww 0 3 = nw.toNat := (F.mod 0 3 (by decide)).trans (by omega)
  have f_3_1 : fld ww 3 1 = ce.toNat := (F.mod 3 1 (by decide)).trans (by omega)
  have f_4_6 : fld ww 4 6 = cn.toNat := (F.mod 4 6 (by decide)).trans (by omega)
  have f_10_16 : fld ww 10 16 = 0 := (F.mod 10 16 (by decide)).trans (by omega)
  try simp [← BitVec.toNat_inj, GZ.code_zero] at hwf
  rw [dec_52 F.op]
  simp [decSendw, fA, fB, fC, fD, fFn, fSz, f_0_3, f_3_1, f_4_6, f_10_16, F.c, F.sz, F.b, F.a, F.d, F.fn, F.op, gOf, Except.map, need, gUpTo, srcIf, GZ.code_zero, optG, Sz.code_zero, Rm.code_two, bind, Except.bind, pure, Except.pure, srcOf_code, dstOf_code, gzOf_code, rdstOf_code, popOf_code, szOf_code, fszOf_code, rmOf_code, etOf_code, scopeOf_code, modeOf_ord, gOf_val, eOf_val, finOfNat_val, boolNat_eq, BitVec.ofNat_toNat, BitVec.setWidth_eq, fn0, fldB, fbit, hwf, show ¬ nw.toNat = 7 by omega]

theorem dw_rataddReg {ww : Word} (w : FSz) (d : RDst) (a : GReg) (b : Src) (m : Mode) (hw : ww = packR 84 0 (d.code) (a.val) (b.code) (w.code) 0 ((m.spc.toNat) * 2 ^ 25 + (m.ord.toNat) * 2 ^ 23)) : decodeWord ww = .ok (.rataddReg w d a b m) := by
  have hb_w := FSz.code_lt w
  have hb_d := RDst.code_lt d
  have hb_a := a.isLt
  have hb_b := Src.code_lt b
  have hb_m1 := Bool.toNat_lt m.spc
  have hb_m2 := Bool.toNat_lt m.ord
  have F := fieldsR hw (by decide) (by decide) (by omega) (by omega) (by omega) (by omega) (by decide) (by omega)
  have f_0_23 : fld ww 0 23 = 0 := (F.mod 0 23 (by decide)).trans (by omega)
  have f_23_2 : fld ww 23 2 = m.ord.toNat := (F.mod 23 2 (by decide)).trans (by omega)
  have f_25_1 : fld ww 25 1 = m.spc.toNat := (F.mod 25 1 (by decide)).trans (by omega)
  rw [dec_54 F.op]
  simp [dRat, decRat, fA, fB, fC, fD, fFn, fSz, f_0_23, f_23_2, f_25_1, F.c, F.sz, F.b, F.a, F.d, F.fn, F.op, gOf, Except.map, need, gUpTo, srcIf, GZ.code_zero, optG, Sz.code_zero, Rm.code_two, bind, Except.bind, pure, Except.pure, srcOf_code, dstOf_code, gzOf_code, rdstOf_code, popOf_code, szOf_code, fszOf_code, rmOf_code, etOf_code, scopeOf_code, modeOf_ord, gOf_val, eOf_val, finOfNat_val, boolNat_eq, BitVec.ofNat_toNat, BitVec.setWidth_eq, fn0, fldB, fbit]

theorem dw_rataddLit {ww : Word} (w : FSz) (d : RDst) (a : GReg) (imm : BitVec 32) (m : Mode) (hw : ww = packL 85 0 (d.code) (a.val) ((m.spc.toNat) * 2 ^ 5 + (m.ord.toNat) * 2 ^ 3) (w.code) (imm.toNat)) : decodeWord ww = .ok (.rataddLit w d a imm m) := by
  have hb_w := FSz.code_lt w
  have hb_d := RDst.code_lt d
  have hb_a := a.isLt
  have hb_imm := imm.isLt
  have hb_m1 := Bool.toNat_lt m.spc
  have hb_m2 := Bool.toNat_lt m.ord
  have F := fieldsL hw (by decide) (by decide) (by omega) (by omega) (by omega) (by omega) (by omega)
  have f_0_32 : fld ww 0 32 = imm.toNat := (F.lit 0 32 (by decide)).trans (by omega)
  have f_34_3 : fld ww 34 3 = 0 := (F.c 34 3 (by decide) (by decide)).trans (by omega)
  have f_37_2 : fld ww 37 2 = m.ord.toNat := (F.c 37 2 (by decide) (by decide)).trans (by omega)
  have f_39_1 : fld ww 39 1 = m.spc.toNat := (F.c 39 1 (by decide) (by decide)).trans (by omega)
  rw [dec_55 F.op]
  simp [dRatL, decRatL, fA, fD, fFn, fLit, fSz, f_0_32, F.sz, f_34_3, f_37_2, f_39_1, F.a, F.d, F.fn, F.op, gOf, Except.map, need, gUpTo, srcIf, GZ.code_zero, optG, Sz.code_zero, Rm.code_two, bind, Except.bind, pure, Except.pure, srcOf_code, dstOf_code, gzOf_code, rdstOf_code, popOf_code, szOf_code, fszOf_code, rmOf_code, etOf_code, scopeOf_code, modeOf_ord, gOf_val, eOf_val, finOfNat_val, boolNat_eq, BitVec.ofNat_toNat, BitVec.setWidth_eq, fn0, fldB, fbit]

theorem dw_ratfaddReg {ww : Word} (w : FSz) (d : RDst) (a : GReg) (b : Src) (m : Mode) (hw : ww = packR 84 1 (d.code) (a.val) (b.code) (w.code) 0 ((m.spc.toNat) * 2 ^ 25 + (m.ord.toNat) * 2 ^ 23)) : decodeWord ww = .ok (.ratfaddReg w d a b m) := by
  have hb_w := FSz.code_lt w
  have hb_d := RDst.code_lt d
  have hb_a := a.isLt
  have hb_b := Src.code_lt b
  have hb_m1 := Bool.toNat_lt m.spc
  have hb_m2 := Bool.toNat_lt m.ord
  have F := fieldsR hw (by decide) (by decide) (by omega) (by omega) (by omega) (by omega) (by decide) (by omega)
  have f_0_23 : fld ww 0 23 = 0 := (F.mod 0 23 (by decide)).trans (by omega)
  have f_23_2 : fld ww 23 2 = m.ord.toNat := (F.mod 23 2 (by decide)).trans (by omega)
  have f_25_1 : fld ww 25 1 = m.spc.toNat := (F.mod 25 1 (by decide)).trans (by omega)
  rw [dec_54 F.op]
  simp [dRat, decRat, fA, fB, fC, fD, fFn, fSz, f_0_23, f_23_2, f_25_1, F.c, F.sz, F.b, F.a, F.d, F.fn, F.op, gOf, Except.map, need, gUpTo, srcIf, GZ.code_zero, optG, Sz.code_zero, Rm.code_two, bind, Except.bind, pure, Except.pure, srcOf_code, dstOf_code, gzOf_code, rdstOf_code, popOf_code, szOf_code, fszOf_code, rmOf_code, etOf_code, scopeOf_code, modeOf_ord, gOf_val, eOf_val, finOfNat_val, boolNat_eq, BitVec.ofNat_toNat, BitVec.setWidth_eq, fn0, fldB, fbit]

theorem dw_ratfaddLit {ww : Word} (w : FSz) (d : RDst) (a : GReg) (imm : BitVec 32) (m : Mode) (hw : ww = packL 85 1 (d.code) (a.val) ((m.spc.toNat) * 2 ^ 5 + (m.ord.toNat) * 2 ^ 3) (w.code) (imm.toNat)) : decodeWord ww = .ok (.ratfaddLit w d a imm m) := by
  have hb_w := FSz.code_lt w
  have hb_d := RDst.code_lt d
  have hb_a := a.isLt
  have hb_imm := imm.isLt
  have hb_m1 := Bool.toNat_lt m.spc
  have hb_m2 := Bool.toNat_lt m.ord
  have F := fieldsL hw (by decide) (by decide) (by omega) (by omega) (by omega) (by omega) (by omega)
  have f_0_32 : fld ww 0 32 = imm.toNat := (F.lit 0 32 (by decide)).trans (by omega)
  have f_34_3 : fld ww 34 3 = 0 := (F.c 34 3 (by decide) (by decide)).trans (by omega)
  have f_37_2 : fld ww 37 2 = m.ord.toNat := (F.c 37 2 (by decide) (by decide)).trans (by omega)
  have f_39_1 : fld ww 39 1 = m.spc.toNat := (F.c 39 1 (by decide) (by decide)).trans (by omega)
  rw [dec_55 F.op]
  simp [dRatL, decRatL, fA, fD, fFn, fLit, fSz, f_0_32, F.sz, f_34_3, f_37_2, f_39_1, F.a, F.d, F.fn, F.op, gOf, Except.map, need, gUpTo, srcIf, GZ.code_zero, optG, Sz.code_zero, Rm.code_two, bind, Except.bind, pure, Except.pure, srcOf_code, dstOf_code, gzOf_code, rdstOf_code, popOf_code, szOf_code, fszOf_code, rmOf_code, etOf_code, scopeOf_code, modeOf_ord, gOf_val, eOf_val, finOfNat_val, boolNat_eq, BitVec.ofNat_toNat, BitVec.setWidth_eq, fn0, fldB, fbit]

theorem dw_ratfaddsReg {ww : Word} (w : FSz) (d : RDst) (a : GReg) (b : Src) (m : Mode) (hw : ww = packR 84 2 (d.code) (a.val) (b.code) (w.code) 0 ((m.spc.toNat) * 2 ^ 25 + (m.ord.toNat) * 2 ^ 23)) : decodeWord ww = .ok (.ratfaddsReg w d a b m) := by
  have hb_w := FSz.code_lt w
  have hb_d := RDst.code_lt d
  have hb_a := a.isLt
  have hb_b := Src.code_lt b
  have hb_m1 := Bool.toNat_lt m.spc
  have hb_m2 := Bool.toNat_lt m.ord
  have F := fieldsR hw (by decide) (by decide) (by omega) (by omega) (by omega) (by omega) (by decide) (by omega)
  have f_0_23 : fld ww 0 23 = 0 := (F.mod 0 23 (by decide)).trans (by omega)
  have f_23_2 : fld ww 23 2 = m.ord.toNat := (F.mod 23 2 (by decide)).trans (by omega)
  have f_25_1 : fld ww 25 1 = m.spc.toNat := (F.mod 25 1 (by decide)).trans (by omega)
  rw [dec_54 F.op]
  simp [dRat, decRat, fA, fB, fC, fD, fFn, fSz, f_0_23, f_23_2, f_25_1, F.c, F.sz, F.b, F.a, F.d, F.fn, F.op, gOf, Except.map, need, gUpTo, srcIf, GZ.code_zero, optG, Sz.code_zero, Rm.code_two, bind, Except.bind, pure, Except.pure, srcOf_code, dstOf_code, gzOf_code, rdstOf_code, popOf_code, szOf_code, fszOf_code, rmOf_code, etOf_code, scopeOf_code, modeOf_ord, gOf_val, eOf_val, finOfNat_val, boolNat_eq, BitVec.ofNat_toNat, BitVec.setWidth_eq, fn0, fldB, fbit]

theorem dw_ratfaddsLit {ww : Word} (w : FSz) (d : RDst) (a : GReg) (imm : BitVec 32) (m : Mode) (hw : ww = packL 85 2 (d.code) (a.val) ((m.spc.toNat) * 2 ^ 5 + (m.ord.toNat) * 2 ^ 3) (w.code) (imm.toNat)) : decodeWord ww = .ok (.ratfaddsLit w d a imm m) := by
  have hb_w := FSz.code_lt w
  have hb_d := RDst.code_lt d
  have hb_a := a.isLt
  have hb_imm := imm.isLt
  have hb_m1 := Bool.toNat_lt m.spc
  have hb_m2 := Bool.toNat_lt m.ord
  have F := fieldsL hw (by decide) (by decide) (by omega) (by omega) (by omega) (by omega) (by omega)
  have f_0_32 : fld ww 0 32 = imm.toNat := (F.lit 0 32 (by decide)).trans (by omega)
  have f_34_3 : fld ww 34 3 = 0 := (F.c 34 3 (by decide) (by decide)).trans (by omega)
  have f_37_2 : fld ww 37 2 = m.ord.toNat := (F.c 37 2 (by decide) (by decide)).trans (by omega)
  have f_39_1 : fld ww 39 1 = m.spc.toNat := (F.c 39 1 (by decide) (by decide)).trans (by omega)
  rw [dec_55 F.op]
  simp [dRatL, decRatL, fA, fD, fFn, fLit, fSz, f_0_32, F.sz, f_34_3, f_37_2, f_39_1, F.a, F.d, F.fn, F.op, gOf, Except.map, need, gUpTo, srcIf, GZ.code_zero, optG, Sz.code_zero, Rm.code_two, bind, Except.bind, pure, Except.pure, srcOf_code, dstOf_code, gzOf_code, rdstOf_code, popOf_code, szOf_code, fszOf_code, rmOf_code, etOf_code, scopeOf_code, modeOf_ord, gOf_val, eOf_val, finOfNat_val, boolNat_eq, BitVec.ofNat_toNat, BitVec.setWidth_eq, fn0, fldB, fbit]

theorem dw_ratmaxReg {ww : Word} (w : FSz) (d : RDst) (a : GReg) (b : Src) (m : Mode) (hw : ww = packR 84 3 (d.code) (a.val) (b.code) (w.code) 0 ((m.spc.toNat) * 2 ^ 25 + (m.ord.toNat) * 2 ^ 23)) : decodeWord ww = .ok (.ratmaxReg w d a b m) := by
  have hb_w := FSz.code_lt w
  have hb_d := RDst.code_lt d
  have hb_a := a.isLt
  have hb_b := Src.code_lt b
  have hb_m1 := Bool.toNat_lt m.spc
  have hb_m2 := Bool.toNat_lt m.ord
  have F := fieldsR hw (by decide) (by decide) (by omega) (by omega) (by omega) (by omega) (by decide) (by omega)
  have f_0_23 : fld ww 0 23 = 0 := (F.mod 0 23 (by decide)).trans (by omega)
  have f_23_2 : fld ww 23 2 = m.ord.toNat := (F.mod 23 2 (by decide)).trans (by omega)
  have f_25_1 : fld ww 25 1 = m.spc.toNat := (F.mod 25 1 (by decide)).trans (by omega)
  rw [dec_54 F.op]
  simp [dRat, decRat, fA, fB, fC, fD, fFn, fSz, f_0_23, f_23_2, f_25_1, F.c, F.sz, F.b, F.a, F.d, F.fn, F.op, gOf, Except.map, need, gUpTo, srcIf, GZ.code_zero, optG, Sz.code_zero, Rm.code_two, bind, Except.bind, pure, Except.pure, srcOf_code, dstOf_code, gzOf_code, rdstOf_code, popOf_code, szOf_code, fszOf_code, rmOf_code, etOf_code, scopeOf_code, modeOf_ord, gOf_val, eOf_val, finOfNat_val, boolNat_eq, BitVec.ofNat_toNat, BitVec.setWidth_eq, fn0, fldB, fbit]

theorem dw_ratmaxLit {ww : Word} (w : FSz) (d : RDst) (a : GReg) (imm : BitVec 32) (m : Mode) (hw : ww = packL 85 3 (d.code) (a.val) ((m.spc.toNat) * 2 ^ 5 + (m.ord.toNat) * 2 ^ 3) (w.code) (imm.toNat)) : decodeWord ww = .ok (.ratmaxLit w d a imm m) := by
  have hb_w := FSz.code_lt w
  have hb_d := RDst.code_lt d
  have hb_a := a.isLt
  have hb_imm := imm.isLt
  have hb_m1 := Bool.toNat_lt m.spc
  have hb_m2 := Bool.toNat_lt m.ord
  have F := fieldsL hw (by decide) (by decide) (by omega) (by omega) (by omega) (by omega) (by omega)
  have f_0_32 : fld ww 0 32 = imm.toNat := (F.lit 0 32 (by decide)).trans (by omega)
  have f_34_3 : fld ww 34 3 = 0 := (F.c 34 3 (by decide) (by decide)).trans (by omega)
  have f_37_2 : fld ww 37 2 = m.ord.toNat := (F.c 37 2 (by decide) (by decide)).trans (by omega)
  have f_39_1 : fld ww 39 1 = m.spc.toNat := (F.c 39 1 (by decide) (by decide)).trans (by omega)
  rw [dec_55 F.op]
  simp [dRatL, decRatL, fA, fD, fFn, fLit, fSz, f_0_32, F.sz, f_34_3, f_37_2, f_39_1, F.a, F.d, F.fn, F.op, gOf, Except.map, need, gUpTo, srcIf, GZ.code_zero, optG, Sz.code_zero, Rm.code_two, bind, Except.bind, pure, Except.pure, srcOf_code, dstOf_code, gzOf_code, rdstOf_code, popOf_code, szOf_code, fszOf_code, rmOf_code, etOf_code, scopeOf_code, modeOf_ord, gOf_val, eOf_val, finOfNat_val, boolNat_eq, BitVec.ofNat_toNat, BitVec.setWidth_eq, fn0, fldB, fbit]

theorem dw_ratminReg {ww : Word} (w : FSz) (d : RDst) (a : GReg) (b : Src) (m : Mode) (hw : ww = packR 84 4 (d.code) (a.val) (b.code) (w.code) 0 ((m.spc.toNat) * 2 ^ 25 + (m.ord.toNat) * 2 ^ 23)) : decodeWord ww = .ok (.ratminReg w d a b m) := by
  have hb_w := FSz.code_lt w
  have hb_d := RDst.code_lt d
  have hb_a := a.isLt
  have hb_b := Src.code_lt b
  have hb_m1 := Bool.toNat_lt m.spc
  have hb_m2 := Bool.toNat_lt m.ord
  have F := fieldsR hw (by decide) (by decide) (by omega) (by omega) (by omega) (by omega) (by decide) (by omega)
  have f_0_23 : fld ww 0 23 = 0 := (F.mod 0 23 (by decide)).trans (by omega)
  have f_23_2 : fld ww 23 2 = m.ord.toNat := (F.mod 23 2 (by decide)).trans (by omega)
  have f_25_1 : fld ww 25 1 = m.spc.toNat := (F.mod 25 1 (by decide)).trans (by omega)
  rw [dec_54 F.op]
  simp [dRat, decRat, fA, fB, fC, fD, fFn, fSz, f_0_23, f_23_2, f_25_1, F.c, F.sz, F.b, F.a, F.d, F.fn, F.op, gOf, Except.map, need, gUpTo, srcIf, GZ.code_zero, optG, Sz.code_zero, Rm.code_two, bind, Except.bind, pure, Except.pure, srcOf_code, dstOf_code, gzOf_code, rdstOf_code, popOf_code, szOf_code, fszOf_code, rmOf_code, etOf_code, scopeOf_code, modeOf_ord, gOf_val, eOf_val, finOfNat_val, boolNat_eq, BitVec.ofNat_toNat, BitVec.setWidth_eq, fn0, fldB, fbit]

theorem dw_ratminLit {ww : Word} (w : FSz) (d : RDst) (a : GReg) (imm : BitVec 32) (m : Mode) (hw : ww = packL 85 4 (d.code) (a.val) ((m.spc.toNat) * 2 ^ 5 + (m.ord.toNat) * 2 ^ 3) (w.code) (imm.toNat)) : decodeWord ww = .ok (.ratminLit w d a imm m) := by
  have hb_w := FSz.code_lt w
  have hb_d := RDst.code_lt d
  have hb_a := a.isLt
  have hb_imm := imm.isLt
  have hb_m1 := Bool.toNat_lt m.spc
  have hb_m2 := Bool.toNat_lt m.ord
  have F := fieldsL hw (by decide) (by decide) (by omega) (by omega) (by omega) (by omega) (by omega)
  have f_0_32 : fld ww 0 32 = imm.toNat := (F.lit 0 32 (by decide)).trans (by omega)
  have f_34_3 : fld ww 34 3 = 0 := (F.c 34 3 (by decide) (by decide)).trans (by omega)
  have f_37_2 : fld ww 37 2 = m.ord.toNat := (F.c 37 2 (by decide) (by decide)).trans (by omega)
  have f_39_1 : fld ww 39 1 = m.spc.toNat := (F.c 39 1 (by decide) (by decide)).trans (by omega)
  rw [dec_55 F.op]
  simp [dRatL, decRatL, fA, fD, fFn, fLit, fSz, f_0_32, F.sz, f_34_3, f_37_2, f_39_1, F.a, F.d, F.fn, F.op, gOf, Except.map, need, gUpTo, srcIf, GZ.code_zero, optG, Sz.code_zero, Rm.code_two, bind, Except.bind, pure, Except.pure, srcOf_code, dstOf_code, gzOf_code, rdstOf_code, popOf_code, szOf_code, fszOf_code, rmOf_code, etOf_code, scopeOf_code, modeOf_ord, gOf_val, eOf_val, finOfNat_val, boolNat_eq, BitVec.ofNat_toNat, BitVec.setWidth_eq, fn0, fldB, fbit]

theorem dw_ratswpReg {ww : Word} (w : FSz) (d : RDst) (a : GReg) (b : Src) (m : Mode) (hw : ww = packR 84 5 (d.code) (a.val) (b.code) (w.code) 0 ((m.spc.toNat) * 2 ^ 25 + (m.ord.toNat) * 2 ^ 23)) : decodeWord ww = .ok (.ratswpReg w d a b m) := by
  have hb_w := FSz.code_lt w
  have hb_d := RDst.code_lt d
  have hb_a := a.isLt
  have hb_b := Src.code_lt b
  have hb_m1 := Bool.toNat_lt m.spc
  have hb_m2 := Bool.toNat_lt m.ord
  have F := fieldsR hw (by decide) (by decide) (by omega) (by omega) (by omega) (by omega) (by decide) (by omega)
  have f_0_23 : fld ww 0 23 = 0 := (F.mod 0 23 (by decide)).trans (by omega)
  have f_23_2 : fld ww 23 2 = m.ord.toNat := (F.mod 23 2 (by decide)).trans (by omega)
  have f_25_1 : fld ww 25 1 = m.spc.toNat := (F.mod 25 1 (by decide)).trans (by omega)
  rw [dec_54 F.op]
  simp [dRat, decRat, fA, fB, fC, fD, fFn, fSz, f_0_23, f_23_2, f_25_1, F.c, F.sz, F.b, F.a, F.d, F.fn, F.op, gOf, Except.map, need, gUpTo, srcIf, GZ.code_zero, optG, Sz.code_zero, Rm.code_two, bind, Except.bind, pure, Except.pure, srcOf_code, dstOf_code, gzOf_code, rdstOf_code, popOf_code, szOf_code, fszOf_code, rmOf_code, etOf_code, scopeOf_code, modeOf_ord, gOf_val, eOf_val, finOfNat_val, boolNat_eq, BitVec.ofNat_toNat, BitVec.setWidth_eq, fn0, fldB, fbit]

theorem dw_ratswpLit {ww : Word} (w : FSz) (d : RDst) (a : GReg) (imm : BitVec 32) (m : Mode) (hw : ww = packL 85 5 (d.code) (a.val) ((m.spc.toNat) * 2 ^ 5 + (m.ord.toNat) * 2 ^ 3) (w.code) (imm.toNat)) : decodeWord ww = .ok (.ratswpLit w d a imm m) := by
  have hb_w := FSz.code_lt w
  have hb_d := RDst.code_lt d
  have hb_a := a.isLt
  have hb_imm := imm.isLt
  have hb_m1 := Bool.toNat_lt m.spc
  have hb_m2 := Bool.toNat_lt m.ord
  have F := fieldsL hw (by decide) (by decide) (by omega) (by omega) (by omega) (by omega) (by omega)
  have f_0_32 : fld ww 0 32 = imm.toNat := (F.lit 0 32 (by decide)).trans (by omega)
  have f_34_3 : fld ww 34 3 = 0 := (F.c 34 3 (by decide) (by decide)).trans (by omega)
  have f_37_2 : fld ww 37 2 = m.ord.toNat := (F.c 37 2 (by decide) (by decide)).trans (by omega)
  have f_39_1 : fld ww 39 1 = m.spc.toNat := (F.c 39 1 (by decide) (by decide)).trans (by omega)
  rw [dec_55 F.op]
  simp [dRatL, decRatL, fA, fD, fFn, fLit, fSz, f_0_32, F.sz, f_34_3, f_37_2, f_39_1, F.a, F.d, F.fn, F.op, gOf, Except.map, need, gUpTo, srcIf, GZ.code_zero, optG, Sz.code_zero, Rm.code_two, bind, Except.bind, pure, Except.pure, srcOf_code, dstOf_code, gzOf_code, rdstOf_code, popOf_code, szOf_code, fszOf_code, rmOf_code, etOf_code, scopeOf_code, modeOf_ord, gOf_val, eOf_val, finOfNat_val, boolNat_eq, BitVec.ofNat_toNat, BitVec.setWidth_eq, fn0, fldB, fbit]

theorem dw_ratcas {ww : Word} (w : FSz) (d : RDst) (a : GReg) (b : Src) (c : GReg) (m : Mode) (hw : ww = packR 84 6 (d.code) (a.val) (b.code) (w.code) (c.val) ((m.spc.toNat) * 2 ^ 25 + (m.ord.toNat) * 2 ^ 23)) : decodeWord ww = .ok (.ratcas w d a b c m) := by
  have hb_w := FSz.code_lt w
  have hb_d := RDst.code_lt d
  have hb_a := a.isLt
  have hb_b := Src.code_lt b
  have hb_c := c.isLt
  have hb_m1 := Bool.toNat_lt m.spc
  have hb_m2 := Bool.toNat_lt m.ord
  have F := fieldsR hw (by decide) (by decide) (by omega) (by omega) (by omega) (by omega) (by omega) (by omega)
  have f_0_23 : fld ww 0 23 = 0 := (F.mod 0 23 (by decide)).trans (by omega)
  have f_23_2 : fld ww 23 2 = m.ord.toNat := (F.mod 23 2 (by decide)).trans (by omega)
  have f_25_1 : fld ww 25 1 = m.spc.toNat := (F.mod 25 1 (by decide)).trans (by omega)
  rw [dec_54 F.op]
  simp [dRat, decRat, fA, fB, fC, fD, fFn, fSz, f_0_23, f_23_2, f_25_1, F.c, F.sz, F.b, F.a, F.d, F.fn, F.op, gOf, Except.map, need, gUpTo, srcIf, GZ.code_zero, optG, Sz.code_zero, Rm.code_two, bind, Except.bind, pure, Except.pure, srcOf_code, dstOf_code, gzOf_code, rdstOf_code, popOf_code, szOf_code, fszOf_code, rmOf_code, etOf_code, scopeOf_code, modeOf_ord, gOf_val, eOf_val, finOfNat_val, boolNat_eq, BitVec.ofNat_toNat, BitVec.setWidth_eq, fn0, fldB, fbit]

theorem dw_ratandReg {ww : Word} (w : FSz) (d : RDst) (a : GReg) (b : Src) (m : Mode) (hw : ww = packR 84 7 (d.code) (a.val) (b.code) (w.code) 0 ((m.spc.toNat) * 2 ^ 25 + (m.ord.toNat) * 2 ^ 23)) : decodeWord ww = .ok (.ratandReg w d a b m) := by
  have hb_w := FSz.code_lt w
  have hb_d := RDst.code_lt d
  have hb_a := a.isLt
  have hb_b := Src.code_lt b
  have hb_m1 := Bool.toNat_lt m.spc
  have hb_m2 := Bool.toNat_lt m.ord
  have F := fieldsR hw (by decide) (by decide) (by omega) (by omega) (by omega) (by omega) (by decide) (by omega)
  have f_0_23 : fld ww 0 23 = 0 := (F.mod 0 23 (by decide)).trans (by omega)
  have f_23_2 : fld ww 23 2 = m.ord.toNat := (F.mod 23 2 (by decide)).trans (by omega)
  have f_25_1 : fld ww 25 1 = m.spc.toNat := (F.mod 25 1 (by decide)).trans (by omega)
  rw [dec_54 F.op]
  simp [dRat, decRat, fA, fB, fC, fD, fFn, fSz, f_0_23, f_23_2, f_25_1, F.c, F.sz, F.b, F.a, F.d, F.fn, F.op, gOf, Except.map, need, gUpTo, srcIf, GZ.code_zero, optG, Sz.code_zero, Rm.code_two, bind, Except.bind, pure, Except.pure, srcOf_code, dstOf_code, gzOf_code, rdstOf_code, popOf_code, szOf_code, fszOf_code, rmOf_code, etOf_code, scopeOf_code, modeOf_ord, gOf_val, eOf_val, finOfNat_val, boolNat_eq, BitVec.ofNat_toNat, BitVec.setWidth_eq, fn0, fldB, fbit]

theorem dw_ratandLit {ww : Word} (w : FSz) (d : RDst) (a : GReg) (imm : BitVec 32) (m : Mode) (hw : ww = packL 85 7 (d.code) (a.val) ((m.spc.toNat) * 2 ^ 5 + (m.ord.toNat) * 2 ^ 3) (w.code) (imm.toNat)) : decodeWord ww = .ok (.ratandLit w d a imm m) := by
  have hb_w := FSz.code_lt w
  have hb_d := RDst.code_lt d
  have hb_a := a.isLt
  have hb_imm := imm.isLt
  have hb_m1 := Bool.toNat_lt m.spc
  have hb_m2 := Bool.toNat_lt m.ord
  have F := fieldsL hw (by decide) (by decide) (by omega) (by omega) (by omega) (by omega) (by omega)
  have f_0_32 : fld ww 0 32 = imm.toNat := (F.lit 0 32 (by decide)).trans (by omega)
  have f_34_3 : fld ww 34 3 = 0 := (F.c 34 3 (by decide) (by decide)).trans (by omega)
  have f_37_2 : fld ww 37 2 = m.ord.toNat := (F.c 37 2 (by decide) (by decide)).trans (by omega)
  have f_39_1 : fld ww 39 1 = m.spc.toNat := (F.c 39 1 (by decide) (by decide)).trans (by omega)
  rw [dec_55 F.op]
  simp [dRatL, decRatL, fA, fD, fFn, fLit, fSz, f_0_32, F.sz, f_34_3, f_37_2, f_39_1, F.a, F.d, F.fn, F.op, gOf, Except.map, need, gUpTo, srcIf, GZ.code_zero, optG, Sz.code_zero, Rm.code_two, bind, Except.bind, pure, Except.pure, srcOf_code, dstOf_code, gzOf_code, rdstOf_code, popOf_code, szOf_code, fszOf_code, rmOf_code, etOf_code, scopeOf_code, modeOf_ord, gOf_val, eOf_val, finOfNat_val, boolNat_eq, BitVec.ofNat_toNat, BitVec.setWidth_eq, fn0, fldB, fbit]

theorem dw_ratorReg {ww : Word} (w : FSz) (d : RDst) (a : GReg) (b : Src) (m : Mode) (hw : ww = packR 84 8 (d.code) (a.val) (b.code) (w.code) 0 ((m.spc.toNat) * 2 ^ 25 + (m.ord.toNat) * 2 ^ 23)) : decodeWord ww = .ok (.ratorReg w d a b m) := by
  have hb_w := FSz.code_lt w
  have hb_d := RDst.code_lt d
  have hb_a := a.isLt
  have hb_b := Src.code_lt b
  have hb_m1 := Bool.toNat_lt m.spc
  have hb_m2 := Bool.toNat_lt m.ord
  have F := fieldsR hw (by decide) (by decide) (by omega) (by omega) (by omega) (by omega) (by decide) (by omega)
  have f_0_23 : fld ww 0 23 = 0 := (F.mod 0 23 (by decide)).trans (by omega)
  have f_23_2 : fld ww 23 2 = m.ord.toNat := (F.mod 23 2 (by decide)).trans (by omega)
  have f_25_1 : fld ww 25 1 = m.spc.toNat := (F.mod 25 1 (by decide)).trans (by omega)
  rw [dec_54 F.op]
  simp [dRat, decRat, fA, fB, fC, fD, fFn, fSz, f_0_23, f_23_2, f_25_1, F.c, F.sz, F.b, F.a, F.d, F.fn, F.op, gOf, Except.map, need, gUpTo, srcIf, GZ.code_zero, optG, Sz.code_zero, Rm.code_two, bind, Except.bind, pure, Except.pure, srcOf_code, dstOf_code, gzOf_code, rdstOf_code, popOf_code, szOf_code, fszOf_code, rmOf_code, etOf_code, scopeOf_code, modeOf_ord, gOf_val, eOf_val, finOfNat_val, boolNat_eq, BitVec.ofNat_toNat, BitVec.setWidth_eq, fn0, fldB, fbit]

theorem dw_ratorLit {ww : Word} (w : FSz) (d : RDst) (a : GReg) (imm : BitVec 32) (m : Mode) (hw : ww = packL 85 8 (d.code) (a.val) ((m.spc.toNat) * 2 ^ 5 + (m.ord.toNat) * 2 ^ 3) (w.code) (imm.toNat)) : decodeWord ww = .ok (.ratorLit w d a imm m) := by
  have hb_w := FSz.code_lt w
  have hb_d := RDst.code_lt d
  have hb_a := a.isLt
  have hb_imm := imm.isLt
  have hb_m1 := Bool.toNat_lt m.spc
  have hb_m2 := Bool.toNat_lt m.ord
  have F := fieldsL hw (by decide) (by decide) (by omega) (by omega) (by omega) (by omega) (by omega)
  have f_0_32 : fld ww 0 32 = imm.toNat := (F.lit 0 32 (by decide)).trans (by omega)
  have f_34_3 : fld ww 34 3 = 0 := (F.c 34 3 (by decide) (by decide)).trans (by omega)
  have f_37_2 : fld ww 37 2 = m.ord.toNat := (F.c 37 2 (by decide) (by decide)).trans (by omega)
  have f_39_1 : fld ww 39 1 = m.spc.toNat := (F.c 39 1 (by decide) (by decide)).trans (by omega)
  rw [dec_55 F.op]
  simp [dRatL, decRatL, fA, fD, fFn, fLit, fSz, f_0_32, F.sz, f_34_3, f_37_2, f_39_1, F.a, F.d, F.fn, F.op, gOf, Except.map, need, gUpTo, srcIf, GZ.code_zero, optG, Sz.code_zero, Rm.code_two, bind, Except.bind, pure, Except.pure, srcOf_code, dstOf_code, gzOf_code, rdstOf_code, popOf_code, szOf_code, fszOf_code, rmOf_code, etOf_code, scopeOf_code, modeOf_ord, gOf_val, eOf_val, finOfNat_val, boolNat_eq, BitVec.ofNat_toNat, BitVec.setWidth_eq, fn0, fldB, fbit]

theorem dw_ratxorReg {ww : Word} (w : FSz) (d : RDst) (a : GReg) (b : Src) (m : Mode) (hw : ww = packR 84 9 (d.code) (a.val) (b.code) (w.code) 0 ((m.spc.toNat) * 2 ^ 25 + (m.ord.toNat) * 2 ^ 23)) : decodeWord ww = .ok (.ratxorReg w d a b m) := by
  have hb_w := FSz.code_lt w
  have hb_d := RDst.code_lt d
  have hb_a := a.isLt
  have hb_b := Src.code_lt b
  have hb_m1 := Bool.toNat_lt m.spc
  have hb_m2 := Bool.toNat_lt m.ord
  have F := fieldsR hw (by decide) (by decide) (by omega) (by omega) (by omega) (by omega) (by decide) (by omega)
  have f_0_23 : fld ww 0 23 = 0 := (F.mod 0 23 (by decide)).trans (by omega)
  have f_23_2 : fld ww 23 2 = m.ord.toNat := (F.mod 23 2 (by decide)).trans (by omega)
  have f_25_1 : fld ww 25 1 = m.spc.toNat := (F.mod 25 1 (by decide)).trans (by omega)
  rw [dec_54 F.op]
  simp [dRat, decRat, fA, fB, fC, fD, fFn, fSz, f_0_23, f_23_2, f_25_1, F.c, F.sz, F.b, F.a, F.d, F.fn, F.op, gOf, Except.map, need, gUpTo, srcIf, GZ.code_zero, optG, Sz.code_zero, Rm.code_two, bind, Except.bind, pure, Except.pure, srcOf_code, dstOf_code, gzOf_code, rdstOf_code, popOf_code, szOf_code, fszOf_code, rmOf_code, etOf_code, scopeOf_code, modeOf_ord, gOf_val, eOf_val, finOfNat_val, boolNat_eq, BitVec.ofNat_toNat, BitVec.setWidth_eq, fn0, fldB, fbit]

theorem dw_ratxorLit {ww : Word} (w : FSz) (d : RDst) (a : GReg) (imm : BitVec 32) (m : Mode) (hw : ww = packL 85 9 (d.code) (a.val) ((m.spc.toNat) * 2 ^ 5 + (m.ord.toNat) * 2 ^ 3) (w.code) (imm.toNat)) : decodeWord ww = .ok (.ratxorLit w d a imm m) := by
  have hb_w := FSz.code_lt w
  have hb_d := RDst.code_lt d
  have hb_a := a.isLt
  have hb_imm := imm.isLt
  have hb_m1 := Bool.toNat_lt m.spc
  have hb_m2 := Bool.toNat_lt m.ord
  have F := fieldsL hw (by decide) (by decide) (by omega) (by omega) (by omega) (by omega) (by omega)
  have f_0_32 : fld ww 0 32 = imm.toNat := (F.lit 0 32 (by decide)).trans (by omega)
  have f_34_3 : fld ww 34 3 = 0 := (F.c 34 3 (by decide) (by decide)).trans (by omega)
  have f_37_2 : fld ww 37 2 = m.ord.toNat := (F.c 37 2 (by decide) (by decide)).trans (by omega)
  have f_39_1 : fld ww 39 1 = m.spc.toNat := (F.c 39 1 (by decide) (by decide)).trans (by omega)
  rw [dec_55 F.op]
  simp [dRatL, decRatL, fA, fD, fFn, fLit, fSz, f_0_32, F.sz, f_34_3, f_37_2, f_39_1, F.a, F.d, F.fn, F.op, gOf, Except.map, need, gUpTo, srcIf, GZ.code_zero, optG, Sz.code_zero, Rm.code_two, bind, Except.bind, pure, Except.pure, srcOf_code, dstOf_code, gzOf_code, rdstOf_code, popOf_code, szOf_code, fszOf_code, rmOf_code, etOf_code, scopeOf_code, modeOf_ord, gOf_val, eOf_val, finOfNat_val, boolNat_eq, BitVec.ofNat_toNat, BitVec.setWidth_eq, fn0, fldB, fbit]

theorem dw_qenq {ww : Word} (d : RDst) (a : GReg) (b : GReg) (m : Mode) (nw : BitVec 4) (hw : ww = packR 86 0 (d.code) (a.val) (b.val) 0 0 ((m.spc.toNat) * 2 ^ 25 + (m.ord.toNat) * 2 ^ 23 + nw.toNat)) (hwf : ((1 ≤ nw.toNat && nw.toNat ≤ 8 && b.val + nw.toNat ≤ 24 : Bool)) = true) : decodeWord ww = .ok (.qenq d a b m nw) := by
  have hb_d := RDst.code_lt d
  have hb_a := a.isLt
  have hb_b := b.isLt
  have hb_m1 := Bool.toNat_lt m.spc
  have hb_m2 := Bool.toNat_lt m.ord
  have hb_nw := nw.isLt
  have F := fieldsR hw (by decide) (by decide) (by omega) (by omega) (by omega) (by decide) (by decide) (by omega)
  have f_0_4 : fld ww 0 4 = nw.toNat := (F.mod 0 4 (by decide)).trans (by omega)
  have f_4_19 : fld ww 4 19 = 0 := (F.mod 4 19 (by decide)).trans (by omega)
  have f_23_2 : fld ww 23 2 = m.ord.toNat := (F.mod 23 2 (by decide)).trans (by omega)
  have f_25_1 : fld ww 25 1 = m.spc.toNat := (F.mod 25 1 (by decide)).trans (by omega)
  try simp [← BitVec.toNat_inj, GZ.code_zero] at hwf
  rw [dec_56 F.op]
  simp [decQenq, fA, fB, fC, fD, fFn, fSz, f_0_4, f_4_19, f_23_2, f_25_1, F.c, F.sz, F.b, F.a, F.d, F.fn, F.op, gOf, Except.map, need, gUpTo, srcIf, GZ.code_zero, optG, Sz.code_zero, Rm.code_two, bind, Except.bind, pure, Except.pure, srcOf_code, dstOf_code, gzOf_code, rdstOf_code, popOf_code, szOf_code, fszOf_code, rmOf_code, etOf_code, scopeOf_code, modeOf_ord, gOf_val, eOf_val, finOfNat_val, boolNat_eq, BitVec.ofNat_toNat, BitVec.setWidth_eq, fn0, fldB, fbit, hwf]

theorem dw_qdeq {ww : Word} (d : GReg) (a : GReg) (m : Mode) (nw : BitVec 4) (hw : ww = packR 88 0 (d.val) (a.val) 0 0 0 ((m.spc.toNat) * 2 ^ 25 + (m.ord.toNat) * 2 ^ 23 + nw.toNat)) (hwf : ((1 ≤ nw.toNat && nw.toNat ≤ 8 && d.val + nw.toNat + 1 ≤ 24 : Bool)) = true) : decodeWord ww = .ok (.qdeq d a m nw) := by
  have hb_d := d.isLt
  have hb_a := a.isLt
  have hb_m1 := Bool.toNat_lt m.spc
  have hb_m2 := Bool.toNat_lt m.ord
  have hb_nw := nw.isLt
  have F := fieldsR hw (by decide) (by decide) (by omega) (by omega) (by decide) (by decide) (by decide) (by omega)
  have f_0_4 : fld ww 0 4 = nw.toNat := (F.mod 0 4 (by decide)).trans (by omega)
  have f_4_19 : fld ww 4 19 = 0 := (F.mod 4 19 (by decide)).trans (by omega)
  have f_23_2 : fld ww 23 2 = m.ord.toNat := (F.mod 23 2 (by decide)).trans (by omega)
  have f_25_1 : fld ww 25 1 = m.spc.toNat := (F.mod 25 1 (by decide)).trans (by omega)
  try simp [← BitVec.toNat_inj, GZ.code_zero] at hwf
  rw [dec_58 F.op]
  simp [decQdeq, fA, fB, fC, fD, fFn, fSz, f_0_4, f_4_19, f_23_2, f_25_1, F.c, F.sz, F.b, F.a, F.d, F.fn, F.op, gOf, Except.map, need, gUpTo, srcIf, GZ.code_zero, optG, Sz.code_zero, Rm.code_two, bind, Except.bind, pure, Except.pure, srcOf_code, dstOf_code, gzOf_code, rdstOf_code, popOf_code, szOf_code, fszOf_code, rmOf_code, etOf_code, scopeOf_code, modeOf_ord, gOf_val, eOf_val, finOfNat_val, boolNat_eq, BitVec.ofNat_toNat, BitVec.setWidth_eq, fn0, fldB, fbit, hwf]

theorem dw_ctrset {ww : Word} (a : Src) (b : GZ) (cn : BitVec 6) (hw : ww = packR 90 0 0 (a.code) (b.code) 0 0 (cn.toNat)) : decodeWord ww = .ok (.ctrset a b cn) := by
  have hb_a := Src.code_lt a
  have hb_b := GZ.code_lt b
  have hb_cn := cn.isLt
  have F := fieldsR hw (by decide) (by decide) (by decide) (by omega) (by omega) (by decide) (by decide) (by omega)
  have f_0_6 : fld ww 0 6 = cn.toNat := (F.mod 0 6 (by decide)).trans (by omega)
  have f_6_20 : fld ww 6 20 = 0 := (F.mod 6 20 (by decide)).trans (by omega)
  rw [dec_5a F.op]
  simp [decCtr, fA, fB, fC, fD, fFn, fSz, f_0_6, f_6_20, F.c, F.sz, F.b, F.a, F.d, F.fn, F.op, gOf, Except.map, need, gUpTo, srcIf, GZ.code_zero, optG, Sz.code_zero, Rm.code_two, bind, Except.bind, pure, Except.pure, srcOf_code, dstOf_code, gzOf_code, rdstOf_code, popOf_code, szOf_code, fszOf_code, rmOf_code, etOf_code, scopeOf_code, modeOf_ord, gOf_val, eOf_val, finOfNat_val, boolNat_eq, BitVec.ofNat_toNat, BitVec.setWidth_eq, fn0, fldB, fbit]

theorem dw_ctradd {ww : Word} (d : GZ) (a : Src) (b : GZ) (cn : BitVec 6) (hw : ww = packR 90 1 (d.code) (a.code) (b.code) 0 0 (cn.toNat)) : decodeWord ww = .ok (.ctradd d a b cn) := by
  have hb_d := GZ.code_lt d
  have hb_a := Src.code_lt a
  have hb_b := GZ.code_lt b
  have hb_cn := cn.isLt
  have F := fieldsR hw (by decide) (by decide) (by omega) (by omega) (by omega) (by decide) (by decide) (by omega)
  have f_0_6 : fld ww 0 6 = cn.toNat := (F.mod 0 6 (by decide)).trans (by omega)
  have f_6_20 : fld ww 6 20 = 0 := (F.mod 6 20 (by decide)).trans (by omega)
  rw [dec_5a F.op]
  simp [decCtr, fA, fB, fC, fD, fFn, fSz, f_0_6, f_6_20, F.c, F.sz, F.b, F.a, F.d, F.fn, F.op, gOf, Except.map, need, gUpTo, srcIf, GZ.code_zero, optG, Sz.code_zero, Rm.code_two, bind, Except.bind, pure, Except.pure, srcOf_code, dstOf_code, gzOf_code, rdstOf_code, popOf_code, szOf_code, fszOf_code, rmOf_code, etOf_code, scopeOf_code, modeOf_ord, gOf_val, eOf_val, finOfNat_val, boolNat_eq, BitVec.ofNat_toNat, BitVec.setWidth_eq, fn0, fldB, fbit]

theorem dw_ctrrd {ww : Word} (d : GReg) (b : GZ) (cn : BitVec 6) (hw : ww = packR 90 2 (d.val) 0 (b.code) 0 0 (cn.toNat)) : decodeWord ww = .ok (.ctrrd d b cn) := by
  have hb_d := d.isLt
  have hb_b := GZ.code_lt b
  have hb_cn := cn.isLt
  have F := fieldsR hw (by decide) (by decide) (by omega) (by decide) (by omega) (by decide) (by decide) (by omega)
  have f_0_6 : fld ww 0 6 = cn.toNat := (F.mod 0 6 (by decide)).trans (by omega)
  have f_6_20 : fld ww 6 20 = 0 := (F.mod 6 20 (by decide)).trans (by omega)
  rw [dec_5a F.op]
  simp [decCtr, fA, fB, fC, fD, fFn, fSz, f_0_6, f_6_20, F.c, F.sz, F.b, F.a, F.d, F.fn, F.op, gOf, Except.map, need, gUpTo, srcIf, GZ.code_zero, optG, Sz.code_zero, Rm.code_two, bind, Except.bind, pure, Except.pure, srcOf_code, dstOf_code, gzOf_code, rdstOf_code, popOf_code, szOf_code, fszOf_code, rmOf_code, etOf_code, scopeOf_code, modeOf_ord, gOf_val, eOf_val, finOfNat_val, boolNat_eq, BitVec.ofNat_toNat, BitVec.setWidth_eq, fn0, fldB, fbit]

theorem dw_wtset {ww : Word} (d : GZ) (a : GZ) (b : GReg) (c : GZ) (ge : Bool) (cn : BitVec 6) (hw : ww = packR 92 0 (d.code) (a.code) (b.val) 0 (c.code) ((ge.toNat) * 2 ^ 6 + cn.toNat)) (hwf : ((b.val ≤ 22 : Bool)) = true) : decodeWord ww = .ok (.wtset d a b c ge cn) := by
  have hb_d := GZ.code_lt d
  have hb_a := GZ.code_lt a
  have hb_b := b.isLt
  have hb_c := GZ.code_lt c
  have hb_ge := Bool.toNat_lt ge
  have hb_cn := cn.isLt
  have F := fieldsR hw (by decide) (by decide) (by omega) (by omega) (by omega) (by decide) (by omega) (by omega)
  have f_0_6 : fld ww 0 6 = cn.toNat := (F.mod 0 6 (by decide)).trans (by omega)
  have f_0_7 : fld ww 0 7 = (ge.toNat) * 64 + cn.toNat := (F.mod 0 7 (by decide)).trans (by omega)
  have f_6_1 : fld ww 6 1 = ge.toNat := (F.mod 6 1 (by decide)).trans (by omega)
  have f_7_1 : fld ww 7 1 = 0 := (F.mod 7 1 (by decide)).trans (by omega)
  have f_8_18 : fld ww 8 18 = 0 := (F.mod 8 18 (by decide)).trans (by omega)
  try simp [← BitVec.toNat_inj, GZ.code_zero] at hwf
  rw [dec_5c F.op]
  simp [decWtset, fA, fB, fC, fD, fFn, fSz, f_0_6, f_0_7, f_6_1, f_7_1, f_8_18, F.c, F.sz, F.b, F.a, F.d, F.fn, F.op, gOf, Except.map, need, gUpTo, srcIf, GZ.code_zero, optG, Sz.code_zero, Rm.code_two, bind, Except.bind, pure, Except.pure, srcOf_code, dstOf_code, gzOf_code, rdstOf_code, popOf_code, szOf_code, fszOf_code, rmOf_code, etOf_code, scopeOf_code, modeOf_ord, gOf_val, eOf_val, finOfNat_val, boolNat_eq, BitVec.ofNat_toNat, BitVec.setWidth_eq, fn0, fldB, fbit, hwf]

theorem dw_wtclr {ww : Word} (d : GZ) (a : GReg) (hw : ww = packR 92 0 (d.code) (a.val) 0 0 0 128) : decodeWord ww = .ok (.wtclr d a) := by
  have hb_d := GZ.code_lt d
  have hb_a := a.isLt
  have F := fieldsR hw (by decide) (by decide) (by omega) (by omega) (by decide) (by decide) (by decide) (by decide)
  have f_0_6 : fld ww 0 6 = 0 := (F.mod 0 6 (by decide)).trans (by omega)
  have f_0_7 : fld ww 0 7 = 0 := (F.mod 0 7 (by decide)).trans (by omega)
  have f_6_1 : fld ww 6 1 = 0 := (F.mod 6 1 (by decide)).trans (by omega)
  have f_7_1 : fld ww 7 1 = 1 := (F.mod 7 1 (by decide)).trans (by omega)
  have f_8_18 : fld ww 8 18 = 0 := (F.mod 8 18 (by decide)).trans (by omega)
  rw [dec_5c F.op]
  simp [decWtset, fA, fB, fC, fD, fFn, fSz, f_0_6, f_0_7, f_6_1, f_7_1, f_8_18, F.c, F.sz, F.b, F.a, F.d, F.fn, F.op, gOf, Except.map, need, gUpTo, srcIf, GZ.code_zero, optG, Sz.code_zero, Rm.code_two, bind, Except.bind, pure, Except.pure, srcOf_code, dstOf_code, gzOf_code, rdstOf_code, popOf_code, szOf_code, fszOf_code, rmOf_code, etOf_code, scopeOf_code, modeOf_ord, gOf_val, eOf_val, finOfNat_val, boolNat_eq, BitVec.ofNat_toNat, BitVec.setWidth_eq, fn0, fldB, fbit]

theorem dw_tspawn {ww : Word} (a : GReg) (b : Src) (rel : Bool) (hw : ww = packR 96 0 0 (a.val) (b.code) 0 0 (rel.toNat)) (hwf : ((a.val ≤ 22 && wfRank b : Bool)) = true) : decodeWord ww = .ok (.tspawn a b rel) := by
  have hb_a := a.isLt
  have hb_b := Src.code_lt b
  have hb_rel := Bool.toNat_lt rel
  have F := fieldsR hw (by decide) (by decide) (by decide) (by omega) (by omega) (by decide) (by decide) (by omega)
  have f_0_1 : fld ww 0 1 = rel.toNat := (F.mod 0 1 (by decide)).trans (by omega)
  have f_1_25 : fld ww 1 25 = 0 := (F.mod 1 25 (by decide)).trans (by omega)
  try simp [← BitVec.toNat_inj, GZ.code_zero] at hwf
  rw [dec_60 F.op]
  simp [dSpawn, fA, fB, fC, fD, fFn, fSz, f_0_1, f_1_25, F.c, F.sz, F.b, F.a, F.d, F.fn, F.op, gOf, Except.map, need, gUpTo, srcIf, GZ.code_zero, optG, Sz.code_zero, Rm.code_two, bind, Except.bind, pure, Except.pure, srcOf_code, dstOf_code, gzOf_code, rdstOf_code, popOf_code, szOf_code, fszOf_code, rmOf_code, etOf_code, scopeOf_code, modeOf_ord, gOf_val, eOf_val, finOfNat_val, boolNat_eq, BitVec.ofNat_toNat, BitVec.setWidth_eq, fn0, fldB, fbit, hwf]

theorem dw_tcont {ww : Word} (a : GReg) (b : Src) (rel : Bool) (hw : ww = packR 110 0 0 (a.val) (b.code) 0 0 (rel.toNat)) (hwf : ((a.val ≤ 22 && wfRank b : Bool)) = true) : decodeWord ww = .ok (.tcont a b rel) := by
  have hb_a := a.isLt
  have hb_b := Src.code_lt b
  have hb_rel := Bool.toNat_lt rel
  have F := fieldsR hw (by decide) (by decide) (by decide) (by omega) (by omega) (by decide) (by decide) (by omega)
  have f_0_1 : fld ww 0 1 = rel.toNat := (F.mod 0 1 (by decide)).trans (by omega)
  have f_1_25 : fld ww 1 25 = 0 := (F.mod 1 25 (by decide)).trans (by omega)
  try simp [← BitVec.toNat_inj, GZ.code_zero] at hwf
  rw [dec_6e F.op]
  simp [dSpawn, fA, fB, fC, fD, fFn, fSz, f_0_1, f_1_25, F.c, F.sz, F.b, F.a, F.d, F.fn, F.op, gOf, Except.map, need, gUpTo, srcIf, GZ.code_zero, optG, Sz.code_zero, Rm.code_two, bind, Except.bind, pure, Except.pure, srcOf_code, dstOf_code, gzOf_code, rdstOf_code, popOf_code, szOf_code, fszOf_code, rmOf_code, etOf_code, scopeOf_code, modeOf_ord, gOf_val, eOf_val, finOfNat_val, boolNat_eq, BitVec.ofNat_toNat, BitVec.setWidth_eq, fn0, fldB, fbit, hwf]

theorem dw_maskw {ww : Word} (n : BitVec 5) (hw : ww = packL 102 0 0 0 0 0 (n.toNat)) (hwf : ((n.toNat ≤ 16 : Bool)) = true) : decodeWord ww = .ok (.maskw n) := by
  have hb_n := n.isLt
  have F := fieldsL hw (by decide) (by decide) (by decide) (by decide) (by decide) (by decide) (by omega)
  have f_0_5 : fld ww 0 5 = n.toNat := (F.lit 0 5 (by decide)).trans (by omega)
  have f_0_32 : fld ww 0 32 = n.toNat := (F.lit 0 32 (by decide)).trans (by omega)
  have f_34_6 : fld ww 34 6 = 0 := (F.c 34 6 (by decide) (by decide)).trans (by omega)
  try simp [← BitVec.toNat_inj, GZ.code_zero] at hwf
  rw [dec_66 F.op]
  simp [decMaskw, fA, fB, fD, fFn, fSz, f_0_5, f_0_32, F.sz, f_34_6, F.a, F.d, F.fn, F.op, gOf, Except.map, need, gUpTo, srcIf, GZ.code_zero, optG, Sz.code_zero, Rm.code_two, bind, Except.bind, pure, Except.pure, srcOf_code, dstOf_code, gzOf_code, rdstOf_code, popOf_code, szOf_code, fszOf_code, rmOf_code, etOf_code, scopeOf_code, modeOf_ord, gOf_val, eOf_val, finOfNat_val, boolNat_eq, BitVec.ofNat_toNat, BitVec.setWidth_eq, fn0, fldB, fbit, hwf]

theorem dw_bararrive_N {ww : Word} (d : GZ) (scope : Scope) (hw : ww = packR 104 0 (d.code) 0 0 0 0 (scope.code)) (hwf : ((scope ≠ .sys && (false == (scope == .core)) : Bool)) = true) : decodeWord ww = .ok (.bararrive d none scope) := by
  have hb_d := GZ.code_lt d
  have hb_scope := Scope.code_lt scope
  have F := fieldsR hw (by decide) (by decide) (by omega) (by decide) (by decide) (by decide) (by decide) (by omega)
  have f_0_3 : fld ww 0 3 = scope.code := (F.mod 0 3 (by decide)).trans (by omega)
  have f_3_1 : fld ww 3 1 = 0 := (F.mod 3 1 (by decide)).trans (by omega)
  have f_4_1 : fld ww 4 1 = 0 := (F.mod 4 1 (by decide)).trans (by omega)
  have f_5_20 : fld ww 5 20 = 0 := (F.mod 5 20 (by decide)).trans (by omega)
  have f_5_21 : fld ww 5 21 = 0 := (F.mod 5 21 (by decide)).trans (by omega)
  have f_25_1 : fld ww 25 1 = 0 := (F.mod 25 1 (by decide)).trans (by omega)
  try simp [← BitVec.toNat_inj, GZ.code_zero] at hwf
  rw [dec_68 F.op]
  cases scope <;> try simp at hwf
  all_goals simp [decBar, fA, fB, fC, fD, fFn, fSz, f_0_3, f_3_1, f_4_1, f_5_20, f_5_21, f_25_1, F.c, F.sz, F.b, F.a, F.d, F.fn, F.op, gOf, Except.map, need, gUpTo, srcIf, GZ.code_zero, optG, Sz.code_zero, Rm.code_two, bind, Except.bind, pure, Except.pure, srcOf_code, dstOf_code, gzOf_code, rdstOf_code, popOf_code, szOf_code, fszOf_code, rmOf_code, etOf_code, scopeOf_code, modeOf_ord, gOf_val, eOf_val, finOfNat_val, boolNat_eq, BitVec.ofNat_toNat, BitVec.setWidth_eq, fn0, fldB, fbit, scopeOf, Scope.code]

theorem dw_bararrive_S {ww : Word} (d : GZ) (b : GReg) (scope : Scope) (hw : ww = packR 104 0 (d.code) 0 (b.val) 0 0 (scope.code)) (hwf : ((scope ≠ .sys && (true == (scope == .core)) : Bool)) = true) : decodeWord ww = .ok (.bararrive d (some b) scope) := by
  have hb_d := GZ.code_lt d
  have hb_b := b.isLt
  have hb_scope := Scope.code_lt scope
  have F := fieldsR hw (by decide) (by decide) (by omega) (by decide) (by omega) (by decide) (by decide) (by omega)
  have f_0_3 : fld ww 0 3 = scope.code := (F.mod 0 3 (by decide)).trans (by omega)
  have f_3_1 : fld ww 3 1 = 0 := (F.mod 3 1 (by decide)).trans (by omega)
  have f_4_1 : fld ww 4 1 = 0 := (F.mod 4 1 (by decide)).trans (by omega)
  have f_5_20 : fld ww 5 20 = 0 := (F.mod 5 20 (by decide)).trans (by omega)
  have f_5_21 : fld ww 5 21 = 0 := (F.mod 5 21 (by decide)).trans (by omega)
  have f_25_1 : fld ww 25 1 = 0 := (F.mod 25 1 (by decide)).trans (by omega)
  try simp [← BitVec.toNat_inj, GZ.code_zero] at hwf
  rw [dec_68 F.op]
  cases scope <;> try simp at hwf
  all_goals simp [decBar, fA, fB, fC, fD, fFn, fSz, f_0_3, f_3_1, f_4_1, f_5_20, f_5_21, f_25_1, F.c, F.sz, F.b, F.a, F.d, F.fn, F.op, gOf, Except.map, need, gUpTo, srcIf, GZ.code_zero, optG, Sz.code_zero, Rm.code_two, bind, Except.bind, pure, Except.pure, srcOf_code, dstOf_code, gzOf_code, rdstOf_code, popOf_code, szOf_code, fszOf_code, rmOf_code, etOf_code, scopeOf_code, modeOf_ord, gOf_val, eOf_val, finOfNat_val, boolNat_eq, BitVec.ofNat_toNat, BitVec.setWidth_eq, fn0, fldB, fbit, scopeOf, Scope.code]

theorem dw_barwait {ww : Word} (d : GZ) (b : GReg) (scope : Scope) (hw : ww = packR 104 1 (d.code) 0 (b.val) 0 0 (scope.code)) (hwf : ((scope ≠ .sys : Bool)) = true) : decodeWord ww = .ok (.barwait d b scope) := by
  have hb_d := GZ.code_lt d
  have hb_b := b.isLt
  have hb_scope := Scope.code_lt scope
  have F := fieldsR hw (by decide) (by decide) (by omega) (by decide) (by omega) (by decide) (by decide) (by omega)
  have f_0_3 : fld ww 0 3 = scope.code := (F.mod 0 3 (by decide)).trans (by omega)
  have f_3_1 : fld ww 3 1 = 0 := (F.mod 3 1 (by decide)).trans (by omega)
  have f_4_1 : fld ww 4 1 = 0 := (F.mod 4 1 (by decide)).trans (by omega)
  have f_5_20 : fld ww 5 20 = 0 := (F.mod 5 20 (by decide)).trans (by omega)
  have f_5_21 : fld ww 5 21 = 0 := (F.mod 5 21 (by decide)).trans (by omega)
  have f_25_1 : fld ww 25 1 = 0 := (F.mod 25 1 (by decide)).trans (by omega)
  try simp [← BitVec.toNat_inj, GZ.code_zero] at hwf
  rw [dec_68 F.op]
  cases scope <;> try simp at hwf
  all_goals simp [decBar, fA, fB, fC, fD, fFn, fSz, f_0_3, f_3_1, f_4_1, f_5_20, f_5_21, f_25_1, F.c, F.sz, F.b, F.a, F.d, F.fn, F.op, gOf, Except.map, need, gUpTo, srcIf, GZ.code_zero, optG, Sz.code_zero, Rm.code_two, bind, Except.bind, pure, Except.pure, srcOf_code, dstOf_code, gzOf_code, rdstOf_code, popOf_code, szOf_code, fszOf_code, rmOf_code, etOf_code, scopeOf_code, modeOf_ord, gOf_val, eOf_val, finOfNat_val, boolNat_eq, BitVec.ofNat_toNat, BitVec.setWidth_eq, fn0, fldB, fbit, scopeOf, Scope.code]

theorem dw_barsync_N {ww : Word} (d : GZ) (scope : Scope) (hw : ww = packR 104 2 (d.code) 0 0 0 0 (scope.code)) (hwf : ((scope ≠ .sys && (false == (scope == .core)) : Bool)) = true) : decodeWord ww = .ok (.barsync d none scope) := by
  have hb_d := GZ.code_lt d
  have hb_scope := Scope.code_lt scope
  have F := fieldsR hw (by decide) (by decide) (by omega) (by decide) (by decide) (by decide) (by decide) (by omega)
  have f_0_3 : fld ww 0 3 = scope.code := (F.mod 0 3 (by decide)).trans (by omega)
  have f_3_1 : fld ww 3 1 = 0 := (F.mod 3 1 (by decide)).trans (by omega)
  have f_4_1 : fld ww 4 1 = 0 := (F.mod 4 1 (by decide)).trans (by omega)
  have f_5_20 : fld ww 5 20 = 0 := (F.mod 5 20 (by decide)).trans (by omega)
  have f_5_21 : fld ww 5 21 = 0 := (F.mod 5 21 (by decide)).trans (by omega)
  have f_25_1 : fld ww 25 1 = 0 := (F.mod 25 1 (by decide)).trans (by omega)
  try simp [← BitVec.toNat_inj, GZ.code_zero] at hwf
  rw [dec_68 F.op]
  cases scope <;> try simp at hwf
  all_goals simp [decBar, fA, fB, fC, fD, fFn, fSz, f_0_3, f_3_1, f_4_1, f_5_20, f_5_21, f_25_1, F.c, F.sz, F.b, F.a, F.d, F.fn, F.op, gOf, Except.map, need, gUpTo, srcIf, GZ.code_zero, optG, Sz.code_zero, Rm.code_two, bind, Except.bind, pure, Except.pure, srcOf_code, dstOf_code, gzOf_code, rdstOf_code, popOf_code, szOf_code, fszOf_code, rmOf_code, etOf_code, scopeOf_code, modeOf_ord, gOf_val, eOf_val, finOfNat_val, boolNat_eq, BitVec.ofNat_toNat, BitVec.setWidth_eq, fn0, fldB, fbit, scopeOf, Scope.code]

theorem dw_barsync_S {ww : Word} (d : GZ) (b : GReg) (scope : Scope) (hw : ww = packR 104 2 (d.code) 0 (b.val) 0 0 (scope.code)) (hwf : ((scope ≠ .sys && (true == (scope == .core)) : Bool)) = true) : decodeWord ww = .ok (.barsync d (some b) scope) := by
  have hb_d := GZ.code_lt d
  have hb_b := b.isLt
  have hb_scope := Scope.code_lt scope
  have F := fieldsR hw (by decide) (by decide) (by omega) (by decide) (by omega) (by decide) (by decide) (by omega)
  have f_0_3 : fld ww 0 3 = scope.code := (F.mod 0 3 (by decide)).trans (by omega)
  have f_3_1 : fld ww 3 1 = 0 := (F.mod 3 1 (by decide)).trans (by omega)
  have f_4_1 : fld ww 4 1 = 0 := (F.mod 4 1 (by decide)).trans (by omega)
  have f_5_20 : fld ww 5 20 = 0 := (F.mod 5 20 (by decide)).trans (by omega)
  have f_5_21 : fld ww 5 21 = 0 := (F.mod 5 21 (by decide)).trans (by omega)
  have f_25_1 : fld ww 25 1 = 0 := (F.mod 25 1 (by decide)).trans (by omega)
  try simp [← BitVec.toNat_inj, GZ.code_zero] at hwf
  rw [dec_68 F.op]
  cases scope <;> try simp at hwf
  all_goals simp [decBar, fA, fB, fC, fD, fFn, fSz, f_0_3, f_3_1, f_4_1, f_5_20, f_5_21, f_25_1, F.c, F.sz, F.b, F.a, F.d, F.fn, F.op, gOf, Except.map, need, gUpTo, srcIf, GZ.code_zero, optG, Sz.code_zero, Rm.code_two, bind, Except.bind, pure, Except.pure, srcOf_code, dstOf_code, gzOf_code, rdstOf_code, popOf_code, szOf_code, fszOf_code, rmOf_code, etOf_code, scopeOf_code, modeOf_ord, gOf_val, eOf_val, finOfNat_val, boolNat_eq, BitVec.ofNat_toNat, BitVec.setWidth_eq, fn0, fldB, fbit, scopeOf, Scope.code]

theorem dw_bararriveMem {ww : Word} (d : GZ) (a : GReg) (spc : Bool) (scope : Scope) (hw : ww = packR 104 0 (d.code) (a.val) 0 0 0 ((spc.toNat) * 2 ^ 25 + (1) * 2 ^ 4 + scope.code)) : decodeWord ww = .ok (.bararriveMem d a spc scope) := by
  have hb_d := GZ.code_lt d
  have hb_a := a.isLt
  have hb_spc := Bool.toNat_lt spc
  have hb_scope := Scope.code_lt scope
  have F := fieldsR hw (by decide) (by decide) (by omega) (by omega) (by decide) (by decide) (by decide) (by omega)
  have f_0_3 : fld ww 0 3 = scope.code := (F.mod 0 3 (by decide)).trans (by omega)
  have f_3_1 : fld ww 3 1 = 0 := (F.mod 3 1 (by decide)).trans (by omega)
  have f_4_1 : fld ww 4 1 = 1 := (F.mod 4 1 (by decide)).trans (by omega)
  have f_5_20 : fld ww 5 20 = 0 := (F.mod 5 20 (by decide)).trans (by omega)
  have f_5_21 : fld ww 5 21 = (spc.toNat) * 1048576 := (F.mod 5 21 (by decide)).trans (by omega)
  have f_25_1 : fld ww 25 1 = spc.toNat := (F.mod 25 1 (by decide)).trans (by omega)
  rw [dec_68 F.op]
  simp [decBar, fA, fB, fC, fD, fFn, fSz, f_0_3, f_3_1, f_4_1, f_5_20, f_5_21, f_25_1, F.c, F.sz, F.b, F.a, F.d, F.fn, F.op, gOf, Except.map, need, gUpTo, srcIf, GZ.code_zero, optG, Sz.code_zero, Rm.code_two, bind, Except.bind, pure, Except.pure, srcOf_code, dstOf_code, gzOf_code, rdstOf_code, popOf_code, szOf_code, fszOf_code, rmOf_code, etOf_code, scopeOf_code, modeOf_ord, gOf_val, eOf_val, finOfNat_val, boolNat_eq, BitVec.ofNat_toNat, BitVec.setWidth_eq, fn0, fldB, fbit]

theorem dw_barwaitMem {ww : Word} (d : GZ) (a : GReg) (b : GReg) (spc : Bool) (scope : Scope) (hw : ww = packR 104 1 (d.code) (a.val) (b.val) 0 0 ((spc.toNat) * 2 ^ 25 + (1) * 2 ^ 4 + scope.code)) : decodeWord ww = .ok (.barwaitMem d a b spc scope) := by
  have hb_d := GZ.code_lt d
  have hb_a := a.isLt
  have hb_b := b.isLt
  have hb_spc := Bool.toNat_lt spc
  have hb_scope := Scope.code_lt scope
  have F := fieldsR hw (by decide) (by decide) (by omega) (by omega) (by omega) (by decide) (by decide) (by omega)
  have f_0_3 : fld ww 0 3 = scope.code := (F.mod 0 3 (by decide)).trans (by omega)
  have f_3_1 : fld ww 3 1 = 0 := (F.mod 3 1 (by decide)).trans (by omega)
  have f_4_1 : fld ww 4 1 = 1 := (F.mod 4 1 (by decide)).trans (by omega)
  have f_5_20 : fld ww 5 20 = 0 := (F.mod 5 20 (by decide)).trans (by omega)
  have f_5_21 : fld ww 5 21 = (spc.toNat) * 1048576 := (F.mod 5 21 (by decide)).trans (by omega)
  have f_25_1 : fld ww 25 1 = spc.toNat := (F.mod 25 1 (by decide)).trans (by omega)
  rw [dec_68 F.op]
  simp [decBar, fA, fB, fC, fD, fFn, fSz, f_0_3, f_3_1, f_4_1, f_5_20, f_5_21, f_25_1, F.c, F.sz, F.b, F.a, F.d, F.fn, F.op, gOf, Except.map, need, gUpTo, srcIf, GZ.code_zero, optG, Sz.code_zero, Rm.code_two, bind, Except.bind, pure, Except.pure, srcOf_code, dstOf_code, gzOf_code, rdstOf_code, popOf_code, szOf_code, fszOf_code, rmOf_code, etOf_code, scopeOf_code, modeOf_ord, gOf_val, eOf_val, finOfNat_val, boolNat_eq, BitVec.ofNat_toNat, BitVec.setWidth_eq, fn0, fldB, fbit]

theorem dw_barsyncMem {ww : Word} (d : GZ) (a : GReg) (spc : Bool) (scope : Scope) (hw : ww = packR 104 2 (d.code) (a.val) 0 0 0 ((spc.toNat) * 2 ^ 25 + (1) * 2 ^ 4 + scope.code)) : decodeWord ww = .ok (.barsyncMem d a spc scope) := by
  have hb_d := GZ.code_lt d
  have hb_a := a.isLt
  have hb_spc := Bool.toNat_lt spc
  have hb_scope := Scope.code_lt scope
  have F := fieldsR hw (by decide) (by decide) (by omega) (by omega) (by decide) (by decide) (by decide) (by omega)
  have f_0_3 : fld ww 0 3 = scope.code := (F.mod 0 3 (by decide)).trans (by omega)
  have f_3_1 : fld ww 3 1 = 0 := (F.mod 3 1 (by decide)).trans (by omega)
  have f_4_1 : fld ww 4 1 = 1 := (F.mod 4 1 (by decide)).trans (by omega)
  have f_5_20 : fld ww 5 20 = 0 := (F.mod 5 20 (by decide)).trans (by omega)
  have f_5_21 : fld ww 5 21 = (spc.toNat) * 1048576 := (F.mod 5 21 (by decide)).trans (by omega)
  have f_25_1 : fld ww 25 1 = spc.toNat := (F.mod 25 1 (by decide)).trans (by omega)
  rw [dec_68 F.op]
  simp [decBar, fA, fB, fC, fD, fFn, fSz, f_0_3, f_3_1, f_4_1, f_5_20, f_5_21, f_25_1, F.c, F.sz, F.b, F.a, F.d, F.fn, F.op, gOf, Except.map, need, gUpTo, srcIf, GZ.code_zero, optG, Sz.code_zero, Rm.code_two, bind, Except.bind, pure, Except.pure, srcOf_code, dstOf_code, gzOf_code, rdstOf_code, popOf_code, szOf_code, fszOf_code, rmOf_code, etOf_code, scopeOf_code, modeOf_ord, gOf_val, eOf_val, finOfNat_val, boolNat_eq, BitVec.ofNat_toNat, BitVec.setWidth_eq, fn0, fldB, fbit]

theorem dw_frz_N {ww : Word} (a : Src) (hw : ww = packR 106 0 0 (a.code) 0 0 0 0) (hwf : ((wfCount a : Bool)) = true) : decodeWord ww = .ok (.frz a none) := by
  have hb_a := Src.code_lt a
  have F := fieldsR hw (by decide) (by decide) (by decide) (by omega) (by decide) (by decide) (by decide) (by decide)
  have f_0_1 : fld ww 0 1 = 0 := (F.mod 0 1 (by decide)).trans (by omega)
  have f_1_25 : fld ww 1 25 = 0 := (F.mod 1 25 (by decide)).trans (by omega)
  try simp [← BitVec.toNat_inj, GZ.code_zero] at hwf
  rw [dec_6a F.op]
  simp [decFrz, fA, fB, fC, fD, fFn, fSz, f_0_1, f_1_25, F.c, F.sz, F.b, F.a, F.d, F.fn, F.op, gOf, Except.map, need, gUpTo, srcIf, GZ.code_zero, optG, Sz.code_zero, Rm.code_two, bind, Except.bind, pure, Except.pure, srcOf_code, dstOf_code, gzOf_code, rdstOf_code, popOf_code, szOf_code, fszOf_code, rmOf_code, etOf_code, scopeOf_code, modeOf_ord, gOf_val, eOf_val, finOfNat_val, boolNat_eq, BitVec.ofNat_toNat, BitVec.setWidth_eq, fn0, fldB, fbit, hwf]

theorem dw_frz_S {ww : Word} (a : Src) (b : GReg) (hw : ww = packR 106 0 0 (a.code) (b.val) 0 0 1) (hwf : ((wfCount a : Bool)) = true) : decodeWord ww = .ok (.frz a (some b)) := by
  have hb_a := Src.code_lt a
  have hb_b := b.isLt
  have F := fieldsR hw (by decide) (by decide) (by decide) (by omega) (by omega) (by decide) (by decide) (by decide)
  have f_0_1 : fld ww 0 1 = 1 := (F.mod 0 1 (by decide)).trans (by omega)
  have f_1_25 : fld ww 1 25 = 0 := (F.mod 1 25 (by decide)).trans (by omega)
  try simp [← BitVec.toNat_inj, GZ.code_zero] at hwf
  rw [dec_6a F.op]
  simp [decFrz, fA, fB, fC, fD, fFn, fSz, f_0_1, f_1_25, F.c, F.sz, F.b, F.a, F.d, F.fn, F.op, gOf, Except.map, need, gUpTo, srcIf, GZ.code_zero, optG, Sz.code_zero, Rm.code_two, bind, Except.bind, pure, Except.pure, srcOf_code, dstOf_code, gzOf_code, rdstOf_code, popOf_code, szOf_code, fszOf_code, rmOf_code, etOf_code, scopeOf_code, modeOf_ord, gOf_val, eOf_val, finOfNat_val, boolNat_eq, BitVec.ofNat_toNat, BitVec.setWidth_eq, fn0, fldB, fbit, hwf]

theorem dw_futreg {ww : Word} (d : GZ) (a : GReg) (b : GReg) (spc : Bool) (hw : ww = packR 108 0 (d.code) (a.val) (b.val) 0 0 ((spc.toNat) * 2 ^ 25)) : decodeWord ww = .ok (.futreg d a b spc) := by
  have hb_d := GZ.code_lt d
  have hb_a := a.isLt
  have hb_b := b.isLt
  have hb_spc := Bool.toNat_lt spc
  have F := fieldsR hw (by decide) (by decide) (by omega) (by omega) (by omega) (by decide) (by decide) (by omega)
  have f_0_1 : fld ww 0 1 = 0 := (F.mod 0 1 (by decide)).trans (by omega)
  have f_0_25 : fld ww 0 25 = 0 := (F.mod 0 25 (by decide)).trans (by omega)
  have f_1_24 : fld ww 1 24 = 0 := (F.mod 1 24 (by decide)).trans (by omega)
  have f_25_1 : fld ww 25 1 = spc.toNat := (F.mod 25 1 (by decide)).trans (by omega)
  rw [dec_6c F.op]
  simp [decFut, fA, fB, fC, fD, fFn, fSz, f_0_1, f_0_25, f_1_24, f_25_1, F.c, F.sz, F.b, F.a, F.d, F.fn, F.op, gOf, Except.map, need, gUpTo, srcIf, GZ.code_zero, optG, Sz.code_zero, Rm.code_two, bind, Except.bind, pure, Except.pure, srcOf_code, dstOf_code, gzOf_code, rdstOf_code, popOf_code, szOf_code, fszOf_code, rmOf_code, etOf_code, scopeOf_code, modeOf_ord, gOf_val, eOf_val, finOfNat_val, boolNat_eq, BitVec.ofNat_toNat, BitVec.setWidth_eq, fn0, fldB, fbit]

theorem dw_futset {ww : Word} (a : GReg) (b : GZ) (spc : Bool) (psn : Bool) (hw : ww = packR 108 1 0 (a.val) (b.code) 0 0 ((spc.toNat) * 2 ^ 25 + psn.toNat)) (hwf : ((!psn || b = .g 0 : Bool)) = true) : decodeWord ww = .ok (.futset a b spc psn) := by
  have hb_a := a.isLt
  have hb_b := GZ.code_lt b
  have hb_spc := Bool.toNat_lt spc
  have hb_psn := Bool.toNat_lt psn
  have F := fieldsR hw (by decide) (by decide) (by decide) (by omega) (by omega) (by decide) (by decide) (by omega)
  have f_0_1 : fld ww 0 1 = psn.toNat := (F.mod 0 1 (by decide)).trans (by omega)
  have f_0_25 : fld ww 0 25 = psn.toNat := (F.mod 0 25 (by decide)).trans (by omega)
  have f_1_24 : fld ww 1 24 = 0 := (F.mod 1 24 (by decide)).trans (by omega)
  have f_25_1 : fld ww 25 1 = spc.toNat := (F.mod 25 1 (by decide)).trans (by omega)
  try simp [← BitVec.toNat_inj, GZ.code_zero] at hwf
  rw [dec_6c F.op]
  simp [decFut, fA, fB, fC, fD, fFn, fSz, f_0_1, f_0_25, f_1_24, f_25_1, F.c, F.sz, F.b, F.a, F.d, F.fn, F.op, gOf, Except.map, need, gUpTo, srcIf, GZ.code_zero, optG, Sz.code_zero, Rm.code_two, bind, Except.bind, pure, Except.pure, srcOf_code, dstOf_code, gzOf_code, rdstOf_code, popOf_code, szOf_code, fszOf_code, rmOf_code, etOf_code, scopeOf_code, modeOf_ord, gOf_val, eOf_val, finOfNat_val, boolNat_eq, BitVec.ofNat_toNat, BitVec.setWidth_eq, fn0, fldB, fbit, hwf]

theorem dw_futget {ww : Word} (d : GReg) (a : GReg) (spc : Bool) (hw : ww = packR 108 2 (d.val) (a.val) 0 0 0 ((spc.toNat) * 2 ^ 25)) : decodeWord ww = .ok (.futget d a spc) := by
  have hb_d := d.isLt
  have hb_a := a.isLt
  have hb_spc := Bool.toNat_lt spc
  have F := fieldsR hw (by decide) (by decide) (by omega) (by omega) (by decide) (by decide) (by decide) (by omega)
  have f_0_1 : fld ww 0 1 = 0 := (F.mod 0 1 (by decide)).trans (by omega)
  have f_0_25 : fld ww 0 25 = 0 := (F.mod 0 25 (by decide)).trans (by omega)
  have f_1_24 : fld ww 1 24 = 0 := (F.mod 1 24 (by decide)).trans (by omega)
  have f_25_1 : fld ww 25 1 = spc.toNat := (F.mod 25 1 (by decide)).trans (by omega)
  rw [dec_6c F.op]
  simp [decFut, fA, fB, fC, fD, fFn, fSz, f_0_1, f_0_25, f_1_24, f_25_1, F.c, F.sz, F.b, F.a, F.d, F.fn, F.op, gOf, Except.map, need, gUpTo, srcIf, GZ.code_zero, optG, Sz.code_zero, Rm.code_two, bind, Except.bind, pure, Except.pure, srcOf_code, dstOf_code, gzOf_code, rdstOf_code, popOf_code, szOf_code, fszOf_code, rmOf_code, etOf_code, scopeOf_code, modeOf_ord, gOf_val, eOf_val, finOfNat_val, boolNat_eq, BitVec.ofNat_toNat, BitVec.setWidth_eq, fn0, fldB, fbit]

theorem dw_futreset {ww : Word} (d : GZ) (a : GReg) (spc : Bool) (hw : ww = packR 108 3 (d.code) (a.val) 0 0 0 ((spc.toNat) * 2 ^ 25)) : decodeWord ww = .ok (.futreset d a spc) := by
  have hb_d := GZ.code_lt d
  have hb_a := a.isLt
  have hb_spc := Bool.toNat_lt spc
  have F := fieldsR hw (by decide) (by decide) (by omega) (by omega) (by decide) (by decide) (by decide) (by omega)
  have f_0_1 : fld ww 0 1 = 0 := (F.mod 0 1 (by decide)).trans (by omega)
  have f_0_25 : fld ww 0 25 = 0 := (F.mod 0 25 (by decide)).trans (by omega)
  have f_1_24 : fld ww 1 24 = 0 := (F.mod 1 24 (by decide)).trans (by omega)
  have f_25_1 : fld ww 25 1 = spc.toNat := (F.mod 25 1 (by decide)).trans (by omega)
  rw [dec_6c F.op]
  simp [decFut, fA, fB, fC, fD, fFn, fSz, f_0_1, f_0_25, f_1_24, f_25_1, F.c, F.sz, F.b, F.a, F.d, F.fn, F.op, gOf, Except.map, need, gUpTo, srcIf, GZ.code_zero, optG, Sz.code_zero, Rm.code_two, bind, Except.bind, pure, Except.pure, srcOf_code, dstOf_code, gzOf_code, rdstOf_code, popOf_code, szOf_code, fszOf_code, rmOf_code, etOf_code, scopeOf_code, modeOf_ord, gOf_val, eOf_val, finOfNat_val, boolNat_eq, BitVec.ofNat_toNat, BitVec.setWidth_eq, fn0, fldB, fbit]

theorem dw_gcopy {ww : Word} (d : GZ) (a : GReg) (hw : ww = packR 112 0 (d.code) (a.val) 0 0 0 0) : decodeWord ww = .ok (.gcopy d a) := by
  have hb_d := GZ.code_lt d
  have hb_a := a.isLt
  have F := fieldsR hw (by decide) (by decide) (by omega) (by omega) (by decide) (by decide) (by decide) (by decide)
  have f_0_26 : fld ww 0 26 = 0 := (F.mod 0 26 (by decide)).trans (by omega)
  rw [dec_70 F.op]
  simp [dGraph, fA, fB, fC, fD, fFn, fMod, fSz, f_0_26, F.c, F.sz, F.b, F.a, F.d, F.fn, F.op, gOf, Except.map, need, gUpTo, srcIf, GZ.code_zero, optG, Sz.code_zero, Rm.code_two, bind, Except.bind, pure, Except.pure, srcOf_code, dstOf_code, gzOf_code, rdstOf_code, popOf_code, szOf_code, fszOf_code, rmOf_code, etOf_code, scopeOf_code, modeOf_ord, gOf_val, eOf_val, finOfNat_val, boolNat_eq, BitVec.ofNat_toNat, BitVec.setWidth_eq, fn0, fldB, fbit]

theorem dw_gsend {ww : Word} (d : GZ) (a : GReg) (b : Src) (hw : ww = packR 114 0 (d.code) (a.val) (b.code) 0 0 0) (hwf : ((wfHandle b : Bool)) = true) : decodeWord ww = .ok (.gsend d a b) := by
  have hb_d := GZ.code_lt d
  have hb_a := a.isLt
  have hb_b := Src.code_lt b
  have F := fieldsR hw (by decide) (by decide) (by omega) (by omega) (by omega) (by decide) (by decide) (by decide)
  have f_0_26 : fld ww 0 26 = 0 := (F.mod 0 26 (by decide)).trans (by omega)
  try simp [← BitVec.toNat_inj, GZ.code_zero] at hwf
  rw [dec_72 F.op]
  simp [decGsend, fA, fB, fC, fD, fFn, fMod, fSz, f_0_26, F.c, F.sz, F.b, F.a, F.d, F.fn, F.op, gOf, Except.map, need, gUpTo, srcIf, GZ.code_zero, optG, Sz.code_zero, Rm.code_two, bind, Except.bind, pure, Except.pure, srcOf_code, dstOf_code, gzOf_code, rdstOf_code, popOf_code, szOf_code, fszOf_code, rmOf_code, etOf_code, scopeOf_code, modeOf_ord, gOf_val, eOf_val, finOfNat_val, boolNat_eq, BitVec.ofNat_toNat, BitVec.setWidth_eq, fn0, fldB, fbit, hwf]

theorem dw_gcmp {ww : Word} (d : GZ) (a : GReg) (hw : ww = packR 116 0 (d.code) (a.val) 0 0 0 0) : decodeWord ww = .ok (.gcmp d a) := by
  have hb_d := GZ.code_lt d
  have hb_a := a.isLt
  have F := fieldsR hw (by decide) (by decide) (by omega) (by omega) (by decide) (by decide) (by decide) (by decide)
  have f_0_26 : fld ww 0 26 = 0 := (F.mod 0 26 (by decide)).trans (by omega)
  rw [dec_74 F.op]
  simp [dGraph, fA, fB, fC, fD, fFn, fMod, fSz, f_0_26, F.c, F.sz, F.b, F.a, F.d, F.fn, F.op, gOf, Except.map, need, gUpTo, srcIf, GZ.code_zero, optG, Sz.code_zero, Rm.code_two, bind, Except.bind, pure, Except.pure, srcOf_code, dstOf_code, gzOf_code, rdstOf_code, popOf_code, szOf_code, fszOf_code, rmOf_code, etOf_code, scopeOf_code, modeOf_ord, gOf_val, eOf_val, finOfNat_val, boolNat_eq, BitVec.ofNat_toNat, BitVec.setWidth_eq, fn0, fldB, fbit]

theorem dw_ghash {ww : Word} (d : GZ) (a : GReg) (hw : ww = packR 118 0 (d.code) (a.val) 0 0 0 0) : decodeWord ww = .ok (.ghash d a) := by
  have hb_d := GZ.code_lt d
  have hb_a := a.isLt
  have F := fieldsR hw (by decide) (by decide) (by omega) (by omega) (by decide) (by decide) (by decide) (by decide)
  have f_0_26 : fld ww 0 26 = 0 := (F.mod 0 26 (by decide)).trans (by omega)
  rw [dec_76 F.op]
  simp [dGraph, fA, fB, fC, fD, fFn, fMod, fSz, f_0_26, F.c, F.sz, F.b, F.a, F.d, F.fn, F.op, gOf, Except.map, need, gUpTo, srcIf, GZ.code_zero, optG, Sz.code_zero, Rm.code_two, bind, Except.bind, pure, Except.pure, srcOf_code, dstOf_code, gzOf_code, rdstOf_code, popOf_code, szOf_code, fszOf_code, rmOf_code, etOf_code, scopeOf_code, modeOf_ord, gOf_val, eOf_val, finOfNat_val, boolNat_eq, BitVec.ofNat_toNat, BitVec.setWidth_eq, fn0, fldB, fbit]

theorem dw_gfree {ww : Word} (d : GZ) (a : GReg) (hw : ww = packR 120 0 (d.code) (a.val) 0 0 0 0) : decodeWord ww = .ok (.gfree d a) := by
  have hb_d := GZ.code_lt d
  have hb_a := a.isLt
  have F := fieldsR hw (by decide) (by decide) (by omega) (by omega) (by decide) (by decide) (by decide) (by decide)
  have f_0_26 : fld ww 0 26 = 0 := (F.mod 0 26 (by decide)).trans (by omega)
  rw [dec_78 F.op]
  simp [dGraph, fA, fB, fC, fD, fFn, fMod, fSz, f_0_26, F.c, F.sz, F.b, F.a, F.d, F.fn, F.op, gOf, Except.map, need, gUpTo, srcIf, GZ.code_zero, optG, Sz.code_zero, Rm.code_two, bind, Except.bind, pure, Except.pure, srcOf_code, dstOf_code, gzOf_code, rdstOf_code, popOf_code, szOf_code, fszOf_code, rmOf_code, etOf_code, scopeOf_code, modeOf_ord, gOf_val, eOf_val, finOfNat_val, boolNat_eq, BitVec.ofNat_toNat, BitVec.setWidth_eq, fn0, fldB, fbit]

theorem dw_lmap {ww : Word} (d : GReg) (a : GReg) (b : GReg) (hw : ww = packR 122 0 (d.val) (a.val) (b.val) 0 0 0) (hwf : ((d.val ≤ 22 && b.val ≤ 21 : Bool)) = true) : decodeWord ww = .ok (.lmap d a b) := by
  have hb_d := d.isLt
  have hb_a := a.isLt
  have hb_b := b.isLt
  have F := fieldsR hw (by decide) (by decide) (by omega) (by omega) (by omega) (by decide) (by decide) (by decide)
  have f_0_26 : fld ww 0 26 = 0 := (F.mod 0 26 (by decide)).trans (by omega)
  try simp [← BitVec.toNat_inj, GZ.code_zero] at hwf
  rw [dec_7a F.op]
  simp [decLmap, fA, fB, fC, fD, fFn, fMod, fSz, f_0_26, F.c, F.sz, F.b, F.a, F.d, F.fn, F.op, gOf, Except.map, need, gUpTo, srcIf, GZ.code_zero, optG, Sz.code_zero, Rm.code_two, bind, Except.bind, pure, Except.pure, srcOf_code, dstOf_code, gzOf_code, rdstOf_code, popOf_code, szOf_code, fszOf_code, rmOf_code, etOf_code, scopeOf_code, modeOf_ord, gOf_val, eOf_val, finOfNat_val, boolNat_eq, BitVec.ofNat_toNat, BitVec.setWidth_eq, fn0, fldB, fbit, hwf]

theorem dw_oalloc {ww : Word} (d : GReg) (a : GReg) (b : GZ) (c : GZ) (hw : ww = packR 124 0 (d.val) (a.val) (b.code) 0 (c.code) 0) : decodeWord ww = .ok (.oalloc d a b c) := by
  have hb_d := d.isLt
  have hb_a := a.isLt
  have hb_b := GZ.code_lt b
  have hb_c := GZ.code_lt c
  have F := fieldsR hw (by decide) (by decide) (by omega) (by omega) (by omega) (by decide) (by omega) (by decide)
  have f_0_26 : fld ww 0 26 = 0 := (F.mod 0 26 (by decide)).trans (by omega)
  rw [dec_7c F.op]
  simp [decOalloc, fA, fB, fC, fD, fFn, fMod, fSz, f_0_26, F.c, F.sz, F.b, F.a, F.d, F.fn, F.op, gOf, Except.map, need, gUpTo, srcIf, GZ.code_zero, optG, Sz.code_zero, Rm.code_two, bind, Except.bind, pure, Except.pure, srcOf_code, dstOf_code, gzOf_code, rdstOf_code, popOf_code, szOf_code, fszOf_code, rmOf_code, etOf_code, scopeOf_code, modeOf_ord, gOf_val, eOf_val, finOfNat_val, boolNat_eq, BitVec.ofNat_toNat, BitVec.setWidth_eq, fn0, fldB, fbit]

theorem dw_objldw {ww : Word} (d : GZ) (a : GReg) (b : GZ) (acq : Bool) (idx : BitVec 23) (hw : ww = packR 126 0 (d.code) (a.val) (b.code) 0 0 ((acq.toNat) * 2 ^ 23 + idx.toNat)) : decodeWord ww = .ok (.objldw d a b acq idx) := by
  have hb_d := GZ.code_lt d
  have hb_a := a.isLt
  have hb_b := GZ.code_lt b
  have hb_acq := Bool.toNat_lt acq
  have hb_idx := idx.isLt
  have F := fieldsR hw (by decide) (by decide) (by omega) (by omega) (by omega) (by decide) (by decide) (by omega)
  have f_0_23 : fld ww 0 23 = idx.toNat := (F.mod 0 23 (by decide)).trans (by omega)
  have f_0_26 : fld ww 0 26 = (acq.toNat) * 8388608 + idx.toNat := (F.mod 0 26 (by decide)).trans (by omega)
  have f_23_2 : fld ww 23 2 = acq.toNat := (F.mod 23 2 (by decide)).trans (by omega)
  have f_25_1 : fld ww 25 1 = 0 := (F.mod 25 1 (by decide)).trans (by omega)
  rw [dec_7e F.op]
  cases acq <;> simp [dGraph, decObj, fA, fB, fC, fD, fFn, fMod, fSz, f_0_23, f_0_26, f_23_2, f_25_1, F.c, F.sz, F.b, F.a, F.d, F.fn, F.op, gOf, Except.map, need, gUpTo, srcIf, GZ.code_zero, optG, Sz.code_zero, Rm.code_two, bind, Except.bind, pure, Except.pure, srcOf_code, dstOf_code, gzOf_code, rdstOf_code, popOf_code, szOf_code, fszOf_code, rmOf_code, etOf_code, scopeOf_code, modeOf_ord, gOf_val, eOf_val, finOfNat_val, boolNat_eq, BitVec.ofNat_toNat, BitVec.setWidth_eq, fn0, fldB, fbit]

theorem dw_objstw {ww : Word} (v : GZ) (a : GReg) (b : GZ) (rel : Bool) (idx : BitVec 23) (hw : ww = packR 126 1 (v.code) (a.val) (b.code) 0 0 ((rel.toNat) * 2 ^ 23 + idx.toNat)) : decodeWord ww = .ok (.objstw v a b rel idx) := by
  have hb_v := GZ.code_lt v
  have hb_a := a.isLt
  have hb_b := GZ.code_lt b
  have hb_rel := Bool.toNat_lt rel
  have hb_idx := idx.isLt
  have F := fieldsR hw (by decide) (by decide) (by omega) (by omega) (by omega) (by decide) (by decide) (by omega)
  have f_0_23 : fld ww 0 23 = idx.toNat := (F.mod 0 23 (by decide)).trans (by omega)
  have f_0_26 : fld ww 0 26 = (rel.toNat) * 8388608 + idx.toNat := (F.mod 0 26 (by decide)).trans (by omega)
  have f_23_2 : fld ww 23 2 = rel.toNat := (F.mod 23 2 (by decide)).trans (by omega)
  have f_25_1 : fld ww 25 1 = 0 := (F.mod 25 1 (by decide)).trans (by omega)
  rw [dec_7e F.op]
  cases rel <;> simp [dGraph, decObj, fA, fB, fC, fD, fFn, fMod, fSz, f_0_23, f_0_26, f_23_2, f_25_1, F.c, F.sz, F.b, F.a, F.d, F.fn, F.op, gOf, Except.map, need, gUpTo, srcIf, GZ.code_zero, optG, Sz.code_zero, Rm.code_two, bind, Except.bind, pure, Except.pure, srcOf_code, dstOf_code, gzOf_code, rdstOf_code, popOf_code, szOf_code, fszOf_code, rmOf_code, etOf_code, scopeOf_code, modeOf_ord, gOf_val, eOf_val, finOfNat_val, boolNat_eq, BitVec.ofNat_toNat, BitVec.setWidth_eq, fn0, fldB, fbit]

theorem dw_objtype {ww : Word} (d : GZ) (a : GReg) (hw : ww = packR 126 2 (d.code) (a.val) 0 0 0 0) : decodeWord ww = .ok (.objtype d a) := by
  have hb_d := GZ.code_lt d
  have hb_a := a.isLt
  have F := fieldsR hw (by decide) (by decide) (by omega) (by omega) (by decide) (by decide) (by decide) (by decide)
  have f_0_23 : fld ww 0 23 = 0 := (F.mod 0 23 (by decide)).trans (by omega)
  have f_0_26 : fld ww 0 26 = 0 := (F.mod 0 26 (by decide)).trans (by omega)
  have f_23_2 : fld ww 23 2 = 0 := (F.mod 23 2 (by decide)).trans (by omega)
  have f_25_1 : fld ww 25 1 = 0 := (F.mod 25 1 (by decide)).trans (by omega)
  rw [dec_7e F.op]
  simp [dGraph, decObj, fA, fB, fC, fD, fFn, fMod, fSz, f_0_23, f_0_26, f_23_2, f_25_1, F.c, F.sz, F.b, F.a, F.d, F.fn, F.op, gOf, Except.map, need, gUpTo, srcIf, GZ.code_zero, optG, Sz.code_zero, Rm.code_two, bind, Except.bind, pure, Except.pure, srcOf_code, dstOf_code, gzOf_code, rdstOf_code, popOf_code, szOf_code, fszOf_code, rmOf_code, etOf_code, scopeOf_code, modeOf_ord, gOf_val, eOf_val, finOfNat_val, boolNat_eq, BitVec.ofNat_toNat, BitVec.setWidth_eq, fn0, fldB, fbit]

theorem dw_objlen {ww : Word} (d : GZ) (a : GReg) (hw : ww = packR 126 3 (d.code) (a.val) 0 0 0 0) : decodeWord ww = .ok (.objlen d a) := by
  have hb_d := GZ.code_lt d
  have hb_a := a.isLt
  have F := fieldsR hw (by decide) (by decide) (by omega) (by omega) (by decide) (by decide) (by decide) (by decide)
  have f_0_23 : fld ww 0 23 = 0 := (F.mod 0 23 (by decide)).trans (by omega)
  have f_0_26 : fld ww 0 26 = 0 := (F.mod 0 26 (by decide)).trans (by omega)
  have f_23_2 : fld ww 23 2 = 0 := (F.mod 23 2 (by decide)).trans (by omega)
  have f_25_1 : fld ww 25 1 = 0 := (F.mod 25 1 (by decide)).trans (by omega)
  rw [dec_7e F.op]
  simp [dGraph, decObj, fA, fB, fC, fD, fFn, fMod, fSz, f_0_23, f_0_26, f_23_2, f_25_1, F.c, F.sz, F.b, F.a, F.d, F.fn, F.op, gOf, Except.map, need, gUpTo, srcIf, GZ.code_zero, optG, Sz.code_zero, Rm.code_two, bind, Except.bind, pure, Except.pure, srcOf_code, dstOf_code, gzOf_code, rdstOf_code, popOf_code, szOf_code, fszOf_code, rmOf_code, etOf_code, scopeOf_code, modeOf_ord, gOf_val, eOf_val, finOfNat_val, boolNat_eq, BitVec.ofNat_toNat, BitVec.setWidth_eq, fn0, fldB, fbit]

end Sys2Proof
end

