-- ==== Sys2Proof/Laws/RoundUnit.lean ====
section
/-! SUPPORT. Opcodes from 0x80: the word that the encoder packs decodes to the instruction, for every operand a well-formed term has
(chapters 01 to 18, the encoding of each entry). -/

set_option Elab.async false

namespace Sys2Proof

set_option linter.unusedSimpArgs false

theorem dw_waddReg_r {ww : Word} (et : Et) (wd : WReg) (wa : WReg) (r : WReg) (k : KReg) (kz : Bool) (hw : ww = packW 128 0 (wd.val) (wa.val) (r.val) (k.val) kz (et.code) 0 0 0) (hwf : ((etInt et : Bool)) = true) : decodeWord ww = .ok (.waddReg et wd wa (.reg r) k kz) := by
  have hb_et := Et.code_lt et
  have hb_wd := wd.isLt
  have hb_wa := wa.isLt
  have hb_r := r.isLt
  have hb_k := k.isLt
  have hb_kz := Bool.toNat_lt kz
  have F := fieldsW hw (by decide) (by decide) (by omega) (by omega) (by omega) (by omega) (by omega) (by decide) (by decide) (by decide)
  have f_0_26 : fld ww 0 26 = 0 := (F.mod 0 26 (by decide)).trans (by omega)
  try simp [← BitVec.toNat_inj, GZ.code_zero] at hwf
  rw [dec_80 F.op]
  simp [dOpnd, dWI, decWint, fEt, fFn, fG, fK, fKZ, fMod, fS, fWA, fWB, fWD, f_0_26, F.g, F.s, F.et, F.kz, F.k, F.wb, F.wa, F.wd, F.fn, F.op, gOf, Except.map, need, gUpTo, srcIf, GZ.code_zero, optG, Sz.code_zero, Rm.code_two, bind, Except.bind, pure, Except.pure, srcOf_code, dstOf_code, gzOf_code, rdstOf_code, popOf_code, szOf_code, fszOf_code, rmOf_code, etOf_code, scopeOf_code, modeOf_ord, gOf_val, eOf_val, finOfNat_val, boolNat_eq, BitVec.ofNat_toNat, BitVec.setWidth_eq, fn0, fldB, fbit, hwf]

theorem dw_waddReg_b {ww : Word} (et : Et) (wd : WReg) (wa : WReg) (g : Src) (k : KReg) (kz : Bool) (hw : ww = packW 128 0 (wd.val) (wa.val) 0 (k.val) kz (et.code) 1 (g.code) 0) (hwf : ((etInt et : Bool)) = true) : decodeWord ww = .ok (.waddReg et wd wa (.bcast g) k kz) := by
  have hb_et := Et.code_lt et
  have hb_wd := wd.isLt
  have hb_wa := wa.isLt
  have hb_g := Src.code_lt g
  have hb_k := k.isLt
  have hb_kz := Bool.toNat_lt kz
  have F := fieldsW hw (by decide) (by decide) (by omega) (by omega) (by decide) (by omega) (by omega) (by decide) (by omega) (by decide)
  have f_0_26 : fld ww 0 26 = 0 := (F.mod 0 26 (by decide)).trans (by omega)
  try simp [← BitVec.toNat_inj, GZ.code_zero] at hwf
  rw [dec_80 F.op]
  simp [dOpnd, dWI, decWint, fEt, fFn, fG, fK, fKZ, fMod, fS, fWA, fWB, fWD, f_0_26, F.g, F.s, F.et, F.kz, F.k, F.wb, F.wa, F.wd, F.fn, F.op, gOf, Except.map, need, gUpTo, srcIf, GZ.code_zero, optG, Sz.code_zero, Rm.code_two, bind, Except.bind, pure, Except.pure, srcOf_code, dstOf_code, gzOf_code, rdstOf_code, popOf_code, szOf_code, fszOf_code, rmOf_code, etOf_code, scopeOf_code, modeOf_ord, gOf_val, eOf_val, finOfNat_val, boolNat_eq, BitVec.ofNat_toNat, BitVec.setWidth_eq, fn0, fldB, fbit, hwf]

theorem dw_waddReg_l {ww : Word} (et : Et) (wd : WReg) (wa : WReg) (k : KReg) (kz : Bool) (hw : ww = packW 128 0 (wd.val) (wa.val) 0 (k.val) kz (et.code) 2 0 0) (hwf : ((etInt et : Bool)) = true) : decodeWord ww = .ok (.waddReg et wd wa .lane k kz) := by
  have hb_et := Et.code_lt et
  have hb_wd := wd.isLt
  have hb_wa := wa.isLt
  have hb_k := k.isLt
  have hb_kz := Bool.toNat_lt kz
  have F := fieldsW hw (by decide) (by decide) (by omega) (by omega) (by decide) (by omega) (by omega) (by decide) (by decide) (by decide)
  have f_0_26 : fld ww 0 26 = 0 := (F.mod 0 26 (by decide)).trans (by omega)
  try simp [← BitVec.toNat_inj, GZ.code_zero] at hwf
  rw [dec_80 F.op]
  simp [dOpnd, dWI, decWint, fEt, fFn, fG, fK, fKZ, fMod, fS, fWA, fWB, fWD, f_0_26, F.g, F.s, F.et, F.kz, F.k, F.wb, F.wa, F.wd, F.fn, F.op, gOf, Except.map, need, gUpTo, srcIf, GZ.code_zero, optG, Sz.code_zero, Rm.code_two, bind, Except.bind, pure, Except.pure, srcOf_code, dstOf_code, gzOf_code, rdstOf_code, popOf_code, szOf_code, fszOf_code, rmOf_code, etOf_code, scopeOf_code, modeOf_ord, gOf_val, eOf_val, finOfNat_val, boolNat_eq, BitVec.ofNat_toNat, BitVec.setWidth_eq, fn0, fldB, fbit, hwf]

theorem dw_waddLit {ww : Word} (et : Et) (wd : WReg) (wa : WReg) (imm : BitVec 32) (k : KReg) (kz : Bool) (hw : ww = packWL 129 0 (wd.val) (wa.val) (k.val) kz (et.code) (imm.toNat)) (hwf : ((etInt et : Bool)) = true) : decodeWord ww = .ok (.waddLit et wd wa imm k kz) := by
  have hb_et := Et.code_lt et
  have hb_wd := wd.isLt
  have hb_wa := wa.isLt
  have hb_imm := imm.isLt
  have hb_k := k.isLt
  have hb_kz := Bool.toNat_lt kz
  have F := fieldsWL hw (by decide) (by decide) (by omega) (by omega) (by omega) (by omega) (by omega)
  have f_0_32 : fld ww 0 32 = imm.toNat := (F.lit 0 32 (by decide)).trans (by omega)
  try simp [← BitVec.toNat_inj, GZ.code_zero] at hwf
  rw [dec_81 F.op]
  simp [dLitForm, dWIL, decWintL, fEt, fFn, fK, fKZ, fLit, fS, fWA, fWD, f_0_32, F.s, F.et, F.kz, F.k, F.wb, F.wa, F.wd, F.fn, F.op, gOf, Except.map, need, gUpTo, srcIf, GZ.code_zero, optG, Sz.code_zero, Rm.code_two, bind, Except.bind, pure, Except.pure, srcOf_code, dstOf_code, gzOf_code, rdstOf_code, popOf_code, szOf_code, fszOf_code, rmOf_code, etOf_code, scopeOf_code, modeOf_ord, gOf_val, eOf_val, finOfNat_val, boolNat_eq, BitVec.ofNat_toNat, BitVec.setWidth_eq, fn0, fldB, fbit, hwf]

theorem dw_wsubReg_r {ww : Word} (et : Et) (wd : WReg) (wa : WReg) (r : WReg) (k : KReg) (kz : Bool) (hw : ww = packW 128 1 (wd.val) (wa.val) (r.val) (k.val) kz (et.code) 0 0 0) (hwf : ((etInt et : Bool)) = true) : decodeWord ww = .ok (.wsubReg et wd wa (.reg r) k kz) := by
  have hb_et := Et.code_lt et
  have hb_wd := wd.isLt
  have hb_wa := wa.isLt
  have hb_r := r.isLt
  have hb_k := k.isLt
  have hb_kz := Bool.toNat_lt kz
  have F := fieldsW hw (by decide) (by decide) (by omega) (by omega) (by omega) (by omega) (by omega) (by decide) (by decide) (by decide)
  have f_0_26 : fld ww 0 26 = 0 := (F.mod 0 26 (by decide)).trans (by omega)
  try simp [← BitVec.toNat_inj, GZ.code_zero] at hwf
  rw [dec_80 F.op]
  simp [dOpnd, dWI, decWint, fEt, fFn, fG, fK, fKZ, fMod, fS, fWA, fWB, fWD, f_0_26, F.g, F.s, F.et, F.kz, F.k, F.wb, F.wa, F.wd, F.fn, F.op, gOf, Except.map, need, gUpTo, srcIf, GZ.code_zero, optG, Sz.code_zero, Rm.code_two, bind, Except.bind, pure, Except.pure, srcOf_code, dstOf_code, gzOf_code, rdstOf_code, popOf_code, szOf_code, fszOf_code, rmOf_code, etOf_code, scopeOf_code, modeOf_ord, gOf_val, eOf_val, finOfNat_val, boolNat_eq, BitVec.ofNat_toNat, BitVec.setWidth_eq, fn0, fldB, fbit, hwf]

theorem dw_wsubReg_b {ww : Word} (et : Et) (wd : WReg) (wa : WReg) (g : Src) (k : KReg) (kz : Bool) (hw : ww = packW 128 1 (wd.val) (wa.val) 0 (k.val) kz (et.code) 1 (g.code) 0) (hwf : ((etInt et : Bool)) = true) : decodeWord ww = .ok (.wsubReg et wd wa (.bcast g) k kz) := by
  have hb_et := Et.code_lt et
  have hb_wd := wd.isLt
  have hb_wa := wa.isLt
  have hb_g := Src.code_lt g
  have hb_k := k.isLt
  have hb_kz := Bool.toNat_lt kz
  have F := fieldsW hw (by decide) (by decide) (by omega) (by omega) (by decide) (by omega) (by omega) (by decide) (by omega) (by decide)
  have f_0_26 : fld ww 0 26 = 0 := (F.mod 0 26 (by decide)).trans (by omega)
  try simp [← BitVec.toNat_inj, GZ.code_zero] at hwf
  rw [dec_80 F.op]
  simp [dOpnd, dWI, decWint, fEt, fFn, fG, fK, fKZ, fMod, fS, fWA, fWB, fWD, f_0_26, F.g, F.s, F.et, F.kz, F.k, F.wb, F.wa, F.wd, F.fn, F.op, gOf, Except.map, need, gUpTo, srcIf, GZ.code_zero, optG, Sz.code_zero, Rm.code_two, bind, Except.bind, pure, Except.pure, srcOf_code, dstOf_code, gzOf_code, rdstOf_code, popOf_code, szOf_code, fszOf_code, rmOf_code, etOf_code, scopeOf_code, modeOf_ord, gOf_val, eOf_val, finOfNat_val, boolNat_eq, BitVec.ofNat_toNat, BitVec.setWidth_eq, fn0, fldB, fbit, hwf]

theorem dw_wsubReg_l {ww : Word} (et : Et) (wd : WReg) (wa : WReg) (k : KReg) (kz : Bool) (hw : ww = packW 128 1 (wd.val) (wa.val) 0 (k.val) kz (et.code) 2 0 0) (hwf : ((etInt et : Bool)) = true) : decodeWord ww = .ok (.wsubReg et wd wa .lane k kz) := by
  have hb_et := Et.code_lt et
  have hb_wd := wd.isLt
  have hb_wa := wa.isLt
  have hb_k := k.isLt
  have hb_kz := Bool.toNat_lt kz
  have F := fieldsW hw (by decide) (by decide) (by omega) (by omega) (by decide) (by omega) (by omega) (by decide) (by decide) (by decide)
  have f_0_26 : fld ww 0 26 = 0 := (F.mod 0 26 (by decide)).trans (by omega)
  try simp [← BitVec.toNat_inj, GZ.code_zero] at hwf
  rw [dec_80 F.op]
  simp [dOpnd, dWI, decWint, fEt, fFn, fG, fK, fKZ, fMod, fS, fWA, fWB, fWD, f_0_26, F.g, F.s, F.et, F.kz, F.k, F.wb, F.wa, F.wd, F.fn, F.op, gOf, Except.map, need, gUpTo, srcIf, GZ.code_zero, optG, Sz.code_zero, Rm.code_two, bind, Except.bind, pure, Except.pure, srcOf_code, dstOf_code, gzOf_code, rdstOf_code, popOf_code, szOf_code, fszOf_code, rmOf_code, etOf_code, scopeOf_code, modeOf_ord, gOf_val, eOf_val, finOfNat_val, boolNat_eq, BitVec.ofNat_toNat, BitVec.setWidth_eq, fn0, fldB, fbit, hwf]

theorem dw_wsubLit {ww : Word} (et : Et) (wd : WReg) (wa : WReg) (imm : BitVec 32) (k : KReg) (kz : Bool) (hw : ww = packWL 129 1 (wd.val) (wa.val) (k.val) kz (et.code) (imm.toNat)) (hwf : ((etInt et : Bool)) = true) : decodeWord ww = .ok (.wsubLit et wd wa imm k kz) := by
  have hb_et := Et.code_lt et
  have hb_wd := wd.isLt
  have hb_wa := wa.isLt
  have hb_imm := imm.isLt
  have hb_k := k.isLt
  have hb_kz := Bool.toNat_lt kz
  have F := fieldsWL hw (by decide) (by decide) (by omega) (by omega) (by omega) (by omega) (by omega)
  have f_0_32 : fld ww 0 32 = imm.toNat := (F.lit 0 32 (by decide)).trans (by omega)
  try simp [← BitVec.toNat_inj, GZ.code_zero] at hwf
  rw [dec_81 F.op]
  simp [dLitForm, dWIL, decWintL, fEt, fFn, fK, fKZ, fLit, fS, fWA, fWD, f_0_32, F.s, F.et, F.kz, F.k, F.wb, F.wa, F.wd, F.fn, F.op, gOf, Except.map, need, gUpTo, srcIf, GZ.code_zero, optG, Sz.code_zero, Rm.code_two, bind, Except.bind, pure, Except.pure, srcOf_code, dstOf_code, gzOf_code, rdstOf_code, popOf_code, szOf_code, fszOf_code, rmOf_code, etOf_code, scopeOf_code, modeOf_ord, gOf_val, eOf_val, finOfNat_val, boolNat_eq, BitVec.ofNat_toNat, BitVec.setWidth_eq, fn0, fldB, fbit, hwf]

theorem dw_wmulReg_r {ww : Word} (et : Et) (wd : WReg) (wa : WReg) (r : WReg) (k : KReg) (kz : Bool) (hw : ww = packW 128 2 (wd.val) (wa.val) (r.val) (k.val) kz (et.code) 0 0 0) (hwf : ((etInt et : Bool)) = true) : decodeWord ww = .ok (.wmulReg et wd wa (.reg r) k kz) := by
  have hb_et := Et.code_lt et
  have hb_wd := wd.isLt
  have hb_wa := wa.isLt
  have hb_r := r.isLt
  have hb_k := k.isLt
  have hb_kz := Bool.toNat_lt kz
  have F := fieldsW hw (by decide) (by decide) (by omega) (by omega) (by omega) (by omega) (by omega) (by decide) (by decide) (by decide)
  have f_0_26 : fld ww 0 26 = 0 := (F.mod 0 26 (by decide)).trans (by omega)
  try simp [← BitVec.toNat_inj, GZ.code_zero] at hwf
  rw [dec_80 F.op]
  simp [dOpnd, dWI, decWint, fEt, fFn, fG, fK, fKZ, fMod, fS, fWA, fWB, fWD, f_0_26, F.g, F.s, F.et, F.kz, F.k, F.wb, F.wa, F.wd, F.fn, F.op, gOf, Except.map, need, gUpTo, srcIf, GZ.code_zero, optG, Sz.code_zero, Rm.code_two, bind, Except.bind, pure, Except.pure, srcOf_code, dstOf_code, gzOf_code, rdstOf_code, popOf_code, szOf_code, fszOf_code, rmOf_code, etOf_code, scopeOf_code, modeOf_ord, gOf_val, eOf_val, finOfNat_val, boolNat_eq, BitVec.ofNat_toNat, BitVec.setWidth_eq, fn0, fldB, fbit, hwf]

theorem dw_wmulReg_b {ww : Word} (et : Et) (wd : WReg) (wa : WReg) (g : Src) (k : KReg) (kz : Bool) (hw : ww = packW 128 2 (wd.val) (wa.val) 0 (k.val) kz (et.code) 1 (g.code) 0) (hwf : ((etInt et : Bool)) = true) : decodeWord ww = .ok (.wmulReg et wd wa (.bcast g) k kz) := by
  have hb_et := Et.code_lt et
  have hb_wd := wd.isLt
  have hb_wa := wa.isLt
  have hb_g := Src.code_lt g
  have hb_k := k.isLt
  have hb_kz := Bool.toNat_lt kz
  have F := fieldsW hw (by decide) (by decide) (by omega) (by omega) (by decide) (by omega) (by omega) (by decide) (by omega) (by decide)
  have f_0_26 : fld ww 0 26 = 0 := (F.mod 0 26 (by decide)).trans (by omega)
  try simp [← BitVec.toNat_inj, GZ.code_zero] at hwf
  rw [dec_80 F.op]
  simp [dOpnd, dWI, decWint, fEt, fFn, fG, fK, fKZ, fMod, fS, fWA, fWB, fWD, f_0_26, F.g, F.s, F.et, F.kz, F.k, F.wb, F.wa, F.wd, F.fn, F.op, gOf, Except.map, need, gUpTo, srcIf, GZ.code_zero, optG, Sz.code_zero, Rm.code_two, bind, Except.bind, pure, Except.pure, srcOf_code, dstOf_code, gzOf_code, rdstOf_code, popOf_code, szOf_code, fszOf_code, rmOf_code, etOf_code, scopeOf_code, modeOf_ord, gOf_val, eOf_val, finOfNat_val, boolNat_eq, BitVec.ofNat_toNat, BitVec.setWidth_eq, fn0, fldB, fbit, hwf]

theorem dw_wmulReg_l {ww : Word} (et : Et) (wd : WReg) (wa : WReg) (k : KReg) (kz : Bool) (hw : ww = packW 128 2 (wd.val) (wa.val) 0 (k.val) kz (et.code) 2 0 0) (hwf : ((etInt et : Bool)) = true) : decodeWord ww = .ok (.wmulReg et wd wa .lane k kz) := by
  have hb_et := Et.code_lt et
  have hb_wd := wd.isLt
  have hb_wa := wa.isLt
  have hb_k := k.isLt
  have hb_kz := Bool.toNat_lt kz
  have F := fieldsW hw (by decide) (by decide) (by omega) (by omega) (by decide) (by omega) (by omega) (by decide) (by decide) (by decide)
  have f_0_26 : fld ww 0 26 = 0 := (F.mod 0 26 (by decide)).trans (by omega)
  try simp [← BitVec.toNat_inj, GZ.code_zero] at hwf
  rw [dec_80 F.op]
  simp [dOpnd, dWI, decWint, fEt, fFn, fG, fK, fKZ, fMod, fS, fWA, fWB, fWD, f_0_26, F.g, F.s, F.et, F.kz, F.k, F.wb, F.wa, F.wd, F.fn, F.op, gOf, Except.map, need, gUpTo, srcIf, GZ.code_zero, optG, Sz.code_zero, Rm.code_two, bind, Except.bind, pure, Except.pure, srcOf_code, dstOf_code, gzOf_code, rdstOf_code, popOf_code, szOf_code, fszOf_code, rmOf_code, etOf_code, scopeOf_code, modeOf_ord, gOf_val, eOf_val, finOfNat_val, boolNat_eq, BitVec.ofNat_toNat, BitVec.setWidth_eq, fn0, fldB, fbit, hwf]

theorem dw_wmulLit {ww : Word} (et : Et) (wd : WReg) (wa : WReg) (imm : BitVec 32) (k : KReg) (kz : Bool) (hw : ww = packWL 129 2 (wd.val) (wa.val) (k.val) kz (et.code) (imm.toNat)) (hwf : ((etInt et : Bool)) = true) : decodeWord ww = .ok (.wmulLit et wd wa imm k kz) := by
  have hb_et := Et.code_lt et
  have hb_wd := wd.isLt
  have hb_wa := wa.isLt
  have hb_imm := imm.isLt
  have hb_k := k.isLt
  have hb_kz := Bool.toNat_lt kz
  have F := fieldsWL hw (by decide) (by decide) (by omega) (by omega) (by omega) (by omega) (by omega)
  have f_0_32 : fld ww 0 32 = imm.toNat := (F.lit 0 32 (by decide)).trans (by omega)
  try simp [← BitVec.toNat_inj, GZ.code_zero] at hwf
  rw [dec_81 F.op]
  simp [dLitForm, dWIL, decWintL, fEt, fFn, fK, fKZ, fLit, fS, fWA, fWD, f_0_32, F.s, F.et, F.kz, F.k, F.wb, F.wa, F.wd, F.fn, F.op, gOf, Except.map, need, gUpTo, srcIf, GZ.code_zero, optG, Sz.code_zero, Rm.code_two, bind, Except.bind, pure, Except.pure, srcOf_code, dstOf_code, gzOf_code, rdstOf_code, popOf_code, szOf_code, fszOf_code, rmOf_code, etOf_code, scopeOf_code, modeOf_ord, gOf_val, eOf_val, finOfNat_val, boolNat_eq, BitVec.ofNat_toNat, BitVec.setWidth_eq, fn0, fldB, fbit, hwf]

theorem dw_wminReg_r {ww : Word} (et : Et) (wd : WReg) (wa : WReg) (r : WReg) (k : KReg) (kz : Bool) (hw : ww = packW 128 3 (wd.val) (wa.val) (r.val) (k.val) kz (et.code) 0 0 0) (hwf : ((etInt et : Bool)) = true) : decodeWord ww = .ok (.wminReg et wd wa (.reg r) k kz) := by
  have hb_et := Et.code_lt et
  have hb_wd := wd.isLt
  have hb_wa := wa.isLt
  have hb_r := r.isLt
  have hb_k := k.isLt
  have hb_kz := Bool.toNat_lt kz
  have F := fieldsW hw (by decide) (by decide) (by omega) (by omega) (by omega) (by omega) (by omega) (by decide) (by decide) (by decide)
  have f_0_26 : fld ww 0 26 = 0 := (F.mod 0 26 (by decide)).trans (by omega)
  try simp [← BitVec.toNat_inj, GZ.code_zero] at hwf
  rw [dec_80 F.op]
  simp [dOpnd, dWI, decWint, fEt, fFn, fG, fK, fKZ, fMod, fS, fWA, fWB, fWD, f_0_26, F.g, F.s, F.et, F.kz, F.k, F.wb, F.wa, F.wd, F.fn, F.op, gOf, Except.map, need, gUpTo, srcIf, GZ.code_zero, optG, Sz.code_zero, Rm.code_two, bind, Except.bind, pure, Except.pure, srcOf_code, dstOf_code, gzOf_code, rdstOf_code, popOf_code, szOf_code, fszOf_code, rmOf_code, etOf_code, scopeOf_code, modeOf_ord, gOf_val, eOf_val, finOfNat_val, boolNat_eq, BitVec.ofNat_toNat, BitVec.setWidth_eq, fn0, fldB, fbit, hwf]

theorem dw_wminReg_b {ww : Word} (et : Et) (wd : WReg) (wa : WReg) (g : Src) (k : KReg) (kz : Bool) (hw : ww = packW 128 3 (wd.val) (wa.val) 0 (k.val) kz (et.code) 1 (g.code) 0) (hwf : ((etInt et : Bool)) = true) : decodeWord ww = .ok (.wminReg et wd wa (.bcast g) k kz) := by
  have hb_et := Et.code_lt et
  have hb_wd := wd.isLt
  have hb_wa := wa.isLt
  have hb_g := Src.code_lt g
  have hb_k := k.isLt
  have hb_kz := Bool.toNat_lt kz
  have F := fieldsW hw (by decide) (by decide) (by omega) (by omega) (by decide) (by omega) (by omega) (by decide) (by omega) (by decide)
  have f_0_26 : fld ww 0 26 = 0 := (F.mod 0 26 (by decide)).trans (by omega)
  try simp [← BitVec.toNat_inj, GZ.code_zero] at hwf
  rw [dec_80 F.op]
  simp [dOpnd, dWI, decWint, fEt, fFn, fG, fK, fKZ, fMod, fS, fWA, fWB, fWD, f_0_26, F.g, F.s, F.et, F.kz, F.k, F.wb, F.wa, F.wd, F.fn, F.op, gOf, Except.map, need, gUpTo, srcIf, GZ.code_zero, optG, Sz.code_zero, Rm.code_two, bind, Except.bind, pure, Except.pure, srcOf_code, dstOf_code, gzOf_code, rdstOf_code, popOf_code, szOf_code, fszOf_code, rmOf_code, etOf_code, scopeOf_code, modeOf_ord, gOf_val, eOf_val, finOfNat_val, boolNat_eq, BitVec.ofNat_toNat, BitVec.setWidth_eq, fn0, fldB, fbit, hwf]

theorem dw_wminReg_l {ww : Word} (et : Et) (wd : WReg) (wa : WReg) (k : KReg) (kz : Bool) (hw : ww = packW 128 3 (wd.val) (wa.val) 0 (k.val) kz (et.code) 2 0 0) (hwf : ((etInt et : Bool)) = true) : decodeWord ww = .ok (.wminReg et wd wa .lane k kz) := by
  have hb_et := Et.code_lt et
  have hb_wd := wd.isLt
  have hb_wa := wa.isLt
  have hb_k := k.isLt
  have hb_kz := Bool.toNat_lt kz
  have F := fieldsW hw (by decide) (by decide) (by omega) (by omega) (by decide) (by omega) (by omega) (by decide) (by decide) (by decide)
  have f_0_26 : fld ww 0 26 = 0 := (F.mod 0 26 (by decide)).trans (by omega)
  try simp [← BitVec.toNat_inj, GZ.code_zero] at hwf
  rw [dec_80 F.op]
  simp [dOpnd, dWI, decWint, fEt, fFn, fG, fK, fKZ, fMod, fS, fWA, fWB, fWD, f_0_26, F.g, F.s, F.et, F.kz, F.k, F.wb, F.wa, F.wd, F.fn, F.op, gOf, Except.map, need, gUpTo, srcIf, GZ.code_zero, optG, Sz.code_zero, Rm.code_two, bind, Except.bind, pure, Except.pure, srcOf_code, dstOf_code, gzOf_code, rdstOf_code, popOf_code, szOf_code, fszOf_code, rmOf_code, etOf_code, scopeOf_code, modeOf_ord, gOf_val, eOf_val, finOfNat_val, boolNat_eq, BitVec.ofNat_toNat, BitVec.setWidth_eq, fn0, fldB, fbit, hwf]

theorem dw_wminLit {ww : Word} (et : Et) (wd : WReg) (wa : WReg) (imm : BitVec 32) (k : KReg) (kz : Bool) (hw : ww = packWL 129 3 (wd.val) (wa.val) (k.val) kz (et.code) (imm.toNat)) (hwf : ((etInt et : Bool)) = true) : decodeWord ww = .ok (.wminLit et wd wa imm k kz) := by
  have hb_et := Et.code_lt et
  have hb_wd := wd.isLt
  have hb_wa := wa.isLt
  have hb_imm := imm.isLt
  have hb_k := k.isLt
  have hb_kz := Bool.toNat_lt kz
  have F := fieldsWL hw (by decide) (by decide) (by omega) (by omega) (by omega) (by omega) (by omega)
  have f_0_32 : fld ww 0 32 = imm.toNat := (F.lit 0 32 (by decide)).trans (by omega)
  try simp [← BitVec.toNat_inj, GZ.code_zero] at hwf
  rw [dec_81 F.op]
  simp [dLitForm, dWIL, decWintL, fEt, fFn, fK, fKZ, fLit, fS, fWA, fWD, f_0_32, F.s, F.et, F.kz, F.k, F.wb, F.wa, F.wd, F.fn, F.op, gOf, Except.map, need, gUpTo, srcIf, GZ.code_zero, optG, Sz.code_zero, Rm.code_two, bind, Except.bind, pure, Except.pure, srcOf_code, dstOf_code, gzOf_code, rdstOf_code, popOf_code, szOf_code, fszOf_code, rmOf_code, etOf_code, scopeOf_code, modeOf_ord, gOf_val, eOf_val, finOfNat_val, boolNat_eq, BitVec.ofNat_toNat, BitVec.setWidth_eq, fn0, fldB, fbit, hwf]

theorem dw_wmaxReg_r {ww : Word} (et : Et) (wd : WReg) (wa : WReg) (r : WReg) (k : KReg) (kz : Bool) (hw : ww = packW 128 4 (wd.val) (wa.val) (r.val) (k.val) kz (et.code) 0 0 0) (hwf : ((etInt et : Bool)) = true) : decodeWord ww = .ok (.wmaxReg et wd wa (.reg r) k kz) := by
  have hb_et := Et.code_lt et
  have hb_wd := wd.isLt
  have hb_wa := wa.isLt
  have hb_r := r.isLt
  have hb_k := k.isLt
  have hb_kz := Bool.toNat_lt kz
  have F := fieldsW hw (by decide) (by decide) (by omega) (by omega) (by omega) (by omega) (by omega) (by decide) (by decide) (by decide)
  have f_0_26 : fld ww 0 26 = 0 := (F.mod 0 26 (by decide)).trans (by omega)
  try simp [← BitVec.toNat_inj, GZ.code_zero] at hwf
  rw [dec_80 F.op]
  simp [dOpnd, dWI, decWint, fEt, fFn, fG, fK, fKZ, fMod, fS, fWA, fWB, fWD, f_0_26, F.g, F.s, F.et, F.kz, F.k, F.wb, F.wa, F.wd, F.fn, F.op, gOf, Except.map, need, gUpTo, srcIf, GZ.code_zero, optG, Sz.code_zero, Rm.code_two, bind, Except.bind, pure, Except.pure, srcOf_code, dstOf_code, gzOf_code, rdstOf_code, popOf_code, szOf_code, fszOf_code, rmOf_code, etOf_code, scopeOf_code, modeOf_ord, gOf_val, eOf_val, finOfNat_val, boolNat_eq, BitVec.ofNat_toNat, BitVec.setWidth_eq, fn0, fldB, fbit, hwf]

theorem dw_wmaxReg_b {ww : Word} (et : Et) (wd : WReg) (wa : WReg) (g : Src) (k : KReg) (kz : Bool) (hw : ww = packW 128 4 (wd.val) (wa.val) 0 (k.val) kz (et.code) 1 (g.code) 0) (hwf : ((etInt et : Bool)) = true) : decodeWord ww = .ok (.wmaxReg et wd wa (.bcast g) k kz) := by
  have hb_et := Et.code_lt et
  have hb_wd := wd.isLt
  have hb_wa := wa.isLt
  have hb_g := Src.code_lt g
  have hb_k := k.isLt
  have hb_kz := Bool.toNat_lt kz
  have F := fieldsW hw (by decide) (by decide) (by omega) (by omega) (by decide) (by omega) (by omega) (by decide) (by omega) (by decide)
  have f_0_26 : fld ww 0 26 = 0 := (F.mod 0 26 (by decide)).trans (by omega)
  try simp [← BitVec.toNat_inj, GZ.code_zero] at hwf
  rw [dec_80 F.op]
  simp [dOpnd, dWI, decWint, fEt, fFn, fG, fK, fKZ, fMod, fS, fWA, fWB, fWD, f_0_26, F.g, F.s, F.et, F.kz, F.k, F.wb, F.wa, F.wd, F.fn, F.op, gOf, Except.map, need, gUpTo, srcIf, GZ.code_zero, optG, Sz.code_zero, Rm.code_two, bind, Except.bind, pure, Except.pure, srcOf_code, dstOf_code, gzOf_code, rdstOf_code, popOf_code, szOf_code, fszOf_code, rmOf_code, etOf_code, scopeOf_code, modeOf_ord, gOf_val, eOf_val, finOfNat_val, boolNat_eq, BitVec.ofNat_toNat, BitVec.setWidth_eq, fn0, fldB, fbit, hwf]

theorem dw_wmaxReg_l {ww : Word} (et : Et) (wd : WReg) (wa : WReg) (k : KReg) (kz : Bool) (hw : ww = packW 128 4 (wd.val) (wa.val) 0 (k.val) kz (et.code) 2 0 0) (hwf : ((etInt et : Bool)) = true) : decodeWord ww = .ok (.wmaxReg et wd wa .lane k kz) := by
  have hb_et := Et.code_lt et
  have hb_wd := wd.isLt
  have hb_wa := wa.isLt
  have hb_k := k.isLt
  have hb_kz := Bool.toNat_lt kz
  have F := fieldsW hw (by decide) (by decide) (by omega) (by omega) (by decide) (by omega) (by omega) (by decide) (by decide) (by decide)
  have f_0_26 : fld ww 0 26 = 0 := (F.mod 0 26 (by decide)).trans (by omega)
  try simp [← BitVec.toNat_inj, GZ.code_zero] at hwf
  rw [dec_80 F.op]
  simp [dOpnd, dWI, decWint, fEt, fFn, fG, fK, fKZ, fMod, fS, fWA, fWB, fWD, f_0_26, F.g, F.s, F.et, F.kz, F.k, F.wb, F.wa, F.wd, F.fn, F.op, gOf, Except.map, need, gUpTo, srcIf, GZ.code_zero, optG, Sz.code_zero, Rm.code_two, bind, Except.bind, pure, Except.pure, srcOf_code, dstOf_code, gzOf_code, rdstOf_code, popOf_code, szOf_code, fszOf_code, rmOf_code, etOf_code, scopeOf_code, modeOf_ord, gOf_val, eOf_val, finOfNat_val, boolNat_eq, BitVec.ofNat_toNat, BitVec.setWidth_eq, fn0, fldB, fbit, hwf]

theorem dw_wmaxLit {ww : Word} (et : Et) (wd : WReg) (wa : WReg) (imm : BitVec 32) (k : KReg) (kz : Bool) (hw : ww = packWL 129 4 (wd.val) (wa.val) (k.val) kz (et.code) (imm.toNat)) (hwf : ((etInt et : Bool)) = true) : decodeWord ww = .ok (.wmaxLit et wd wa imm k kz) := by
  have hb_et := Et.code_lt et
  have hb_wd := wd.isLt
  have hb_wa := wa.isLt
  have hb_imm := imm.isLt
  have hb_k := k.isLt
  have hb_kz := Bool.toNat_lt kz
  have F := fieldsWL hw (by decide) (by decide) (by omega) (by omega) (by omega) (by omega) (by omega)
  have f_0_32 : fld ww 0 32 = imm.toNat := (F.lit 0 32 (by decide)).trans (by omega)
  try simp [← BitVec.toNat_inj, GZ.code_zero] at hwf
  rw [dec_81 F.op]
  simp [dLitForm, dWIL, decWintL, fEt, fFn, fK, fKZ, fLit, fS, fWA, fWD, f_0_32, F.s, F.et, F.kz, F.k, F.wb, F.wa, F.wd, F.fn, F.op, gOf, Except.map, need, gUpTo, srcIf, GZ.code_zero, optG, Sz.code_zero, Rm.code_two, bind, Except.bind, pure, Except.pure, srcOf_code, dstOf_code, gzOf_code, rdstOf_code, popOf_code, szOf_code, fszOf_code, rmOf_code, etOf_code, scopeOf_code, modeOf_ord, gOf_val, eOf_val, finOfNat_val, boolNat_eq, BitVec.ofNat_toNat, BitVec.setWidth_eq, fn0, fldB, fbit, hwf]

theorem dw_wminuReg_r {ww : Word} (et : Et) (wd : WReg) (wa : WReg) (r : WReg) (k : KReg) (kz : Bool) (hw : ww = packW 128 5 (wd.val) (wa.val) (r.val) (k.val) kz (et.code) 0 0 0) (hwf : ((etInt et : Bool)) = true) : decodeWord ww = .ok (.wminuReg et wd wa (.reg r) k kz) := by
  have hb_et := Et.code_lt et
  have hb_wd := wd.isLt
  have hb_wa := wa.isLt
  have hb_r := r.isLt
  have hb_k := k.isLt
  have hb_kz := Bool.toNat_lt kz
  have F := fieldsW hw (by decide) (by decide) (by omega) (by omega) (by omega) (by omega) (by omega) (by decide) (by decide) (by decide)
  have f_0_26 : fld ww 0 26 = 0 := (F.mod 0 26 (by decide)).trans (by omega)
  try simp [← BitVec.toNat_inj, GZ.code_zero] at hwf
  rw [dec_80 F.op]
  simp [dOpnd, dWI, decWint, fEt, fFn, fG, fK, fKZ, fMod, fS, fWA, fWB, fWD, f_0_26, F.g, F.s, F.et, F.kz, F.k, F.wb, F.wa, F.wd, F.fn, F.op, gOf, Except.map, need, gUpTo, srcIf, GZ.code_zero, optG, Sz.code_zero, Rm.code_two, bind, Except.bind, pure, Except.pure, srcOf_code, dstOf_code, gzOf_code, rdstOf_code, popOf_code, szOf_code, fszOf_code, rmOf_code, etOf_code, scopeOf_code, modeOf_ord, gOf_val, eOf_val, finOfNat_val, boolNat_eq, BitVec.ofNat_toNat, BitVec.setWidth_eq, fn0, fldB, fbit, hwf]

theorem dw_wminuReg_b {ww : Word} (et : Et) (wd : WReg) (wa : WReg) (g : Src) (k : KReg) (kz : Bool) (hw : ww = packW 128 5 (wd.val) (wa.val) 0 (k.val) kz (et.code) 1 (g.code) 0) (hwf : ((etInt et : Bool)) = true) : decodeWord ww = .ok (.wminuReg et wd wa (.bcast g) k kz) := by
  have hb_et := Et.code_lt et
  have hb_wd := wd.isLt
  have hb_wa := wa.isLt
  have hb_g := Src.code_lt g
  have hb_k := k.isLt
  have hb_kz := Bool.toNat_lt kz
  have F := fieldsW hw (by decide) (by decide) (by omega) (by omega) (by decide) (by omega) (by omega) (by decide) (by omega) (by decide)
  have f_0_26 : fld ww 0 26 = 0 := (F.mod 0 26 (by decide)).trans (by omega)
  try simp [← BitVec.toNat_inj, GZ.code_zero] at hwf
  rw [dec_80 F.op]
  simp [dOpnd, dWI, decWint, fEt, fFn, fG, fK, fKZ, fMod, fS, fWA, fWB, fWD, f_0_26, F.g, F.s, F.et, F.kz, F.k, F.wb, F.wa, F.wd, F.fn, F.op, gOf, Except.map, need, gUpTo, srcIf, GZ.code_zero, optG, Sz.code_zero, Rm.code_two, bind, Except.bind, pure, Except.pure, srcOf_code, dstOf_code, gzOf_code, rdstOf_code, popOf_code, szOf_code, fszOf_code, rmOf_code, etOf_code, scopeOf_code, modeOf_ord, gOf_val, eOf_val, finOfNat_val, boolNat_eq, BitVec.ofNat_toNat, BitVec.setWidth_eq, fn0, fldB, fbit, hwf]

theorem dw_wminuReg_l {ww : Word} (et : Et) (wd : WReg) (wa : WReg) (k : KReg) (kz : Bool) (hw : ww = packW 128 5 (wd.val) (wa.val) 0 (k.val) kz (et.code) 2 0 0) (hwf : ((etInt et : Bool)) = true) : decodeWord ww = .ok (.wminuReg et wd wa .lane k kz) := by
  have hb_et := Et.code_lt et
  have hb_wd := wd.isLt
  have hb_wa := wa.isLt
  have hb_k := k.isLt
  have hb_kz := Bool.toNat_lt kz
  have F := fieldsW hw (by decide) (by decide) (by omega) (by omega) (by decide) (by omega) (by omega) (by decide) (by decide) (by decide)
  have f_0_26 : fld ww 0 26 = 0 := (F.mod 0 26 (by decide)).trans (by omega)
  try simp [← BitVec.toNat_inj, GZ.code_zero] at hwf
  rw [dec_80 F.op]
  simp [dOpnd, dWI, decWint, fEt, fFn, fG, fK, fKZ, fMod, fS, fWA, fWB, fWD, f_0_26, F.g, F.s, F.et, F.kz, F.k, F.wb, F.wa, F.wd, F.fn, F.op, gOf, Except.map, need, gUpTo, srcIf, GZ.code_zero, optG, Sz.code_zero, Rm.code_two, bind, Except.bind, pure, Except.pure, srcOf_code, dstOf_code, gzOf_code, rdstOf_code, popOf_code, szOf_code, fszOf_code, rmOf_code, etOf_code, scopeOf_code, modeOf_ord, gOf_val, eOf_val, finOfNat_val, boolNat_eq, BitVec.ofNat_toNat, BitVec.setWidth_eq, fn0, fldB, fbit, hwf]

theorem dw_wminuLit {ww : Word} (et : Et) (wd : WReg) (wa : WReg) (imm : BitVec 32) (k : KReg) (kz : Bool) (hw : ww = packWL 129 5 (wd.val) (wa.val) (k.val) kz (et.code) (imm.toNat)) (hwf : ((etInt et : Bool)) = true) : decodeWord ww = .ok (.wminuLit et wd wa imm k kz) := by
  have hb_et := Et.code_lt et
  have hb_wd := wd.isLt
  have hb_wa := wa.isLt
  have hb_imm := imm.isLt
  have hb_k := k.isLt
  have hb_kz := Bool.toNat_lt kz
  have F := fieldsWL hw (by decide) (by decide) (by omega) (by omega) (by omega) (by omega) (by omega)
  have f_0_32 : fld ww 0 32 = imm.toNat := (F.lit 0 32 (by decide)).trans (by omega)
  try simp [← BitVec.toNat_inj, GZ.code_zero] at hwf
  rw [dec_81 F.op]
  simp [dLitForm, dWIL, decWintL, fEt, fFn, fK, fKZ, fLit, fS, fWA, fWD, f_0_32, F.s, F.et, F.kz, F.k, F.wb, F.wa, F.wd, F.fn, F.op, gOf, Except.map, need, gUpTo, srcIf, GZ.code_zero, optG, Sz.code_zero, Rm.code_two, bind, Except.bind, pure, Except.pure, srcOf_code, dstOf_code, gzOf_code, rdstOf_code, popOf_code, szOf_code, fszOf_code, rmOf_code, etOf_code, scopeOf_code, modeOf_ord, gOf_val, eOf_val, finOfNat_val, boolNat_eq, BitVec.ofNat_toNat, BitVec.setWidth_eq, fn0, fldB, fbit, hwf]

theorem dw_wmaxuReg_r {ww : Word} (et : Et) (wd : WReg) (wa : WReg) (r : WReg) (k : KReg) (kz : Bool) (hw : ww = packW 128 6 (wd.val) (wa.val) (r.val) (k.val) kz (et.code) 0 0 0) (hwf : ((etInt et : Bool)) = true) : decodeWord ww = .ok (.wmaxuReg et wd wa (.reg r) k kz) := by
  have hb_et := Et.code_lt et
  have hb_wd := wd.isLt
  have hb_wa := wa.isLt
  have hb_r := r.isLt
  have hb_k := k.isLt
  have hb_kz := Bool.toNat_lt kz
  have F := fieldsW hw (by decide) (by decide) (by omega) (by omega) (by omega) (by omega) (by omega) (by decide) (by decide) (by decide)
  have f_0_26 : fld ww 0 26 = 0 := (F.mod 0 26 (by decide)).trans (by omega)
  try simp [← BitVec.toNat_inj, GZ.code_zero] at hwf
  rw [dec_80 F.op]
  simp [dOpnd, dWI, decWint, fEt, fFn, fG, fK, fKZ, fMod, fS, fWA, fWB, fWD, f_0_26, F.g, F.s, F.et, F.kz, F.k, F.wb, F.wa, F.wd, F.fn, F.op, gOf, Except.map, need, gUpTo, srcIf, GZ.code_zero, optG, Sz.code_zero, Rm.code_two, bind, Except.bind, pure, Except.pure, srcOf_code, dstOf_code, gzOf_code, rdstOf_code, popOf_code, szOf_code, fszOf_code, rmOf_code, etOf_code, scopeOf_code, modeOf_ord, gOf_val, eOf_val, finOfNat_val, boolNat_eq, BitVec.ofNat_toNat, BitVec.setWidth_eq, fn0, fldB, fbit, hwf]

theorem dw_wmaxuReg_b {ww : Word} (et : Et) (wd : WReg) (wa : WReg) (g : Src) (k : KReg) (kz : Bool) (hw : ww = packW 128 6 (wd.val) (wa.val) 0 (k.val) kz (et.code) 1 (g.code) 0) (hwf : ((etInt et : Bool)) = true) : decodeWord ww = .ok (.wmaxuReg et wd wa (.bcast g) k kz) := by
  have hb_et := Et.code_lt et
  have hb_wd := wd.isLt
  have hb_wa := wa.isLt
  have hb_g := Src.code_lt g
  have hb_k := k.isLt
  have hb_kz := Bool.toNat_lt kz
  have F := fieldsW hw (by decide) (by decide) (by omega) (by omega) (by decide) (by omega) (by omega) (by decide) (by omega) (by decide)
  have f_0_26 : fld ww 0 26 = 0 := (F.mod 0 26 (by decide)).trans (by omega)
  try simp [← BitVec.toNat_inj, GZ.code_zero] at hwf
  rw [dec_80 F.op]
  simp [dOpnd, dWI, decWint, fEt, fFn, fG, fK, fKZ, fMod, fS, fWA, fWB, fWD, f_0_26, F.g, F.s, F.et, F.kz, F.k, F.wb, F.wa, F.wd, F.fn, F.op, gOf, Except.map, need, gUpTo, srcIf, GZ.code_zero, optG, Sz.code_zero, Rm.code_two, bind, Except.bind, pure, Except.pure, srcOf_code, dstOf_code, gzOf_code, rdstOf_code, popOf_code, szOf_code, fszOf_code, rmOf_code, etOf_code, scopeOf_code, modeOf_ord, gOf_val, eOf_val, finOfNat_val, boolNat_eq, BitVec.ofNat_toNat, BitVec.setWidth_eq, fn0, fldB, fbit, hwf]

theorem dw_wmaxuReg_l {ww : Word} (et : Et) (wd : WReg) (wa : WReg) (k : KReg) (kz : Bool) (hw : ww = packW 128 6 (wd.val) (wa.val) 0 (k.val) kz (et.code) 2 0 0) (hwf : ((etInt et : Bool)) = true) : decodeWord ww = .ok (.wmaxuReg et wd wa .lane k kz) := by
  have hb_et := Et.code_lt et
  have hb_wd := wd.isLt
  have hb_wa := wa.isLt
  have hb_k := k.isLt
  have hb_kz := Bool.toNat_lt kz
  have F := fieldsW hw (by decide) (by decide) (by omega) (by omega) (by decide) (by omega) (by omega) (by decide) (by decide) (by decide)
  have f_0_26 : fld ww 0 26 = 0 := (F.mod 0 26 (by decide)).trans (by omega)
  try simp [← BitVec.toNat_inj, GZ.code_zero] at hwf
  rw [dec_80 F.op]
  simp [dOpnd, dWI, decWint, fEt, fFn, fG, fK, fKZ, fMod, fS, fWA, fWB, fWD, f_0_26, F.g, F.s, F.et, F.kz, F.k, F.wb, F.wa, F.wd, F.fn, F.op, gOf, Except.map, need, gUpTo, srcIf, GZ.code_zero, optG, Sz.code_zero, Rm.code_two, bind, Except.bind, pure, Except.pure, srcOf_code, dstOf_code, gzOf_code, rdstOf_code, popOf_code, szOf_code, fszOf_code, rmOf_code, etOf_code, scopeOf_code, modeOf_ord, gOf_val, eOf_val, finOfNat_val, boolNat_eq, BitVec.ofNat_toNat, BitVec.setWidth_eq, fn0, fldB, fbit, hwf]

theorem dw_wmaxuLit {ww : Word} (et : Et) (wd : WReg) (wa : WReg) (imm : BitVec 32) (k : KReg) (kz : Bool) (hw : ww = packWL 129 6 (wd.val) (wa.val) (k.val) kz (et.code) (imm.toNat)) (hwf : ((etInt et : Bool)) = true) : decodeWord ww = .ok (.wmaxuLit et wd wa imm k kz) := by
  have hb_et := Et.code_lt et
  have hb_wd := wd.isLt
  have hb_wa := wa.isLt
  have hb_imm := imm.isLt
  have hb_k := k.isLt
  have hb_kz := Bool.toNat_lt kz
  have F := fieldsWL hw (by decide) (by decide) (by omega) (by omega) (by omega) (by omega) (by omega)
  have f_0_32 : fld ww 0 32 = imm.toNat := (F.lit 0 32 (by decide)).trans (by omega)
  try simp [← BitVec.toNat_inj, GZ.code_zero] at hwf
  rw [dec_81 F.op]
  simp [dLitForm, dWIL, decWintL, fEt, fFn, fK, fKZ, fLit, fS, fWA, fWD, f_0_32, F.s, F.et, F.kz, F.k, F.wb, F.wa, F.wd, F.fn, F.op, gOf, Except.map, need, gUpTo, srcIf, GZ.code_zero, optG, Sz.code_zero, Rm.code_two, bind, Except.bind, pure, Except.pure, srcOf_code, dstOf_code, gzOf_code, rdstOf_code, popOf_code, szOf_code, fszOf_code, rmOf_code, etOf_code, scopeOf_code, modeOf_ord, gOf_val, eOf_val, finOfNat_val, boolNat_eq, BitVec.ofNat_toNat, BitVec.setWidth_eq, fn0, fldB, fbit, hwf]

theorem dw_wandReg_r {ww : Word} (et : Et) (wd : WReg) (wa : WReg) (r : WReg) (k : KReg) (kz : Bool) (hw : ww = packW 128 7 (wd.val) (wa.val) (r.val) (k.val) kz (et.code) 0 0 0) (hwf : ((etInt et : Bool)) = true) : decodeWord ww = .ok (.wandReg et wd wa (.reg r) k kz) := by
  have hb_et := Et.code_lt et
  have hb_wd := wd.isLt
  have hb_wa := wa.isLt
  have hb_r := r.isLt
  have hb_k := k.isLt
  have hb_kz := Bool.toNat_lt kz
  have F := fieldsW hw (by decide) (by decide) (by omega) (by omega) (by omega) (by omega) (by omega) (by decide) (by decide) (by decide)
  have f_0_26 : fld ww 0 26 = 0 := (F.mod 0 26 (by decide)).trans (by omega)
  try simp [← BitVec.toNat_inj, GZ.code_zero] at hwf
  rw [dec_80 F.op]
  simp [dOpnd, dWI, decWint, fEt, fFn, fG, fK, fKZ, fMod, fS, fWA, fWB, fWD, f_0_26, F.g, F.s, F.et, F.kz, F.k, F.wb, F.wa, F.wd, F.fn, F.op, gOf, Except.map, need, gUpTo, srcIf, GZ.code_zero, optG, Sz.code_zero, Rm.code_two, bind, Except.bind, pure, Except.pure, srcOf_code, dstOf_code, gzOf_code, rdstOf_code, popOf_code, szOf_code, fszOf_code, rmOf_code, etOf_code, scopeOf_code, modeOf_ord, gOf_val, eOf_val, finOfNat_val, boolNat_eq, BitVec.ofNat_toNat, BitVec.setWidth_eq, fn0, fldB, fbit, hwf]

theorem dw_wandReg_b {ww : Word} (et : Et) (wd : WReg) (wa : WReg) (g : Src) (k : KReg) (kz : Bool) (hw : ww = packW 128 7 (wd.val) (wa.val) 0 (k.val) kz (et.code) 1 (g.code) 0) (hwf : ((etInt et : Bool)) = true) : decodeWord ww = .ok (.wandReg et wd wa (.bcast g) k kz) := by
  have hb_et := Et.code_lt et
  have hb_wd := wd.isLt
  have hb_wa := wa.isLt
  have hb_g := Src.code_lt g
  have hb_k := k.isLt
  have hb_kz := Bool.toNat_lt kz
  have F := fieldsW hw (by decide) (by decide) (by omega) (by omega) (by decide) (by omega) (by omega) (by decide) (by omega) (by decide)
  have f_0_26 : fld ww 0 26 = 0 := (F.mod 0 26 (by decide)).trans (by omega)
  try simp [← BitVec.toNat_inj, GZ.code_zero] at hwf
  rw [dec_80 F.op]
  simp [dOpnd, dWI, decWint, fEt, fFn, fG, fK, fKZ, fMod, fS, fWA, fWB, fWD, f_0_26, F.g, F.s, F.et, F.kz, F.k, F.wb, F.wa, F.wd, F.fn, F.op, gOf, Except.map, need, gUpTo, srcIf, GZ.code_zero, optG, Sz.code_zero, Rm.code_two, bind, Except.bind, pure, Except.pure, srcOf_code, dstOf_code, gzOf_code, rdstOf_code, popOf_code, szOf_code, fszOf_code, rmOf_code, etOf_code, scopeOf_code, modeOf_ord, gOf_val, eOf_val, finOfNat_val, boolNat_eq, BitVec.ofNat_toNat, BitVec.setWidth_eq, fn0, fldB, fbit, hwf]

theorem dw_wandReg_l {ww : Word} (et : Et) (wd : WReg) (wa : WReg) (k : KReg) (kz : Bool) (hw : ww = packW 128 7 (wd.val) (wa.val) 0 (k.val) kz (et.code) 2 0 0) (hwf : ((etInt et : Bool)) = true) : decodeWord ww = .ok (.wandReg et wd wa .lane k kz) := by
  have hb_et := Et.code_lt et
  have hb_wd := wd.isLt
  have hb_wa := wa.isLt
  have hb_k := k.isLt
  have hb_kz := Bool.toNat_lt kz
  have F := fieldsW hw (by decide) (by decide) (by omega) (by omega) (by decide) (by omega) (by omega) (by decide) (by decide) (by decide)
  have f_0_26 : fld ww 0 26 = 0 := (F.mod 0 26 (by decide)).trans (by omega)
  try simp [← BitVec.toNat_inj, GZ.code_zero] at hwf
  rw [dec_80 F.op]
  simp [dOpnd, dWI, decWint, fEt, fFn, fG, fK, fKZ, fMod, fS, fWA, fWB, fWD, f_0_26, F.g, F.s, F.et, F.kz, F.k, F.wb, F.wa, F.wd, F.fn, F.op, gOf, Except.map, need, gUpTo, srcIf, GZ.code_zero, optG, Sz.code_zero, Rm.code_two, bind, Except.bind, pure, Except.pure, srcOf_code, dstOf_code, gzOf_code, rdstOf_code, popOf_code, szOf_code, fszOf_code, rmOf_code, etOf_code, scopeOf_code, modeOf_ord, gOf_val, eOf_val, finOfNat_val, boolNat_eq, BitVec.ofNat_toNat, BitVec.setWidth_eq, fn0, fldB, fbit, hwf]

theorem dw_wandLit {ww : Word} (et : Et) (wd : WReg) (wa : WReg) (imm : BitVec 32) (k : KReg) (kz : Bool) (hw : ww = packWL 129 7 (wd.val) (wa.val) (k.val) kz (et.code) (imm.toNat)) (hwf : ((etInt et : Bool)) = true) : decodeWord ww = .ok (.wandLit et wd wa imm k kz) := by
  have hb_et := Et.code_lt et
  have hb_wd := wd.isLt
  have hb_wa := wa.isLt
  have hb_imm := imm.isLt
  have hb_k := k.isLt
  have hb_kz := Bool.toNat_lt kz
  have F := fieldsWL hw (by decide) (by decide) (by omega) (by omega) (by omega) (by omega) (by omega)
  have f_0_32 : fld ww 0 32 = imm.toNat := (F.lit 0 32 (by decide)).trans (by omega)
  try simp [← BitVec.toNat_inj, GZ.code_zero] at hwf
  rw [dec_81 F.op]
  simp [dLitForm, dWIL, decWintL, fEt, fFn, fK, fKZ, fLit, fS, fWA, fWD, f_0_32, F.s, F.et, F.kz, F.k, F.wb, F.wa, F.wd, F.fn, F.op, gOf, Except.map, need, gUpTo, srcIf, GZ.code_zero, optG, Sz.code_zero, Rm.code_two, bind, Except.bind, pure, Except.pure, srcOf_code, dstOf_code, gzOf_code, rdstOf_code, popOf_code, szOf_code, fszOf_code, rmOf_code, etOf_code, scopeOf_code, modeOf_ord, gOf_val, eOf_val, finOfNat_val, boolNat_eq, BitVec.ofNat_toNat, BitVec.setWidth_eq, fn0, fldB, fbit, hwf]

theorem dw_worReg_r {ww : Word} (et : Et) (wd : WReg) (wa : WReg) (r : WReg) (k : KReg) (kz : Bool) (hw : ww = packW 128 8 (wd.val) (wa.val) (r.val) (k.val) kz (et.code) 0 0 0) (hwf : ((etInt et : Bool)) = true) : decodeWord ww = .ok (.worReg et wd wa (.reg r) k kz) := by
  have hb_et := Et.code_lt et
  have hb_wd := wd.isLt
  have hb_wa := wa.isLt
  have hb_r := r.isLt
  have hb_k := k.isLt
  have hb_kz := Bool.toNat_lt kz
  have F := fieldsW hw (by decide) (by decide) (by omega) (by omega) (by omega) (by omega) (by omega) (by decide) (by decide) (by decide)
  have f_0_26 : fld ww 0 26 = 0 := (F.mod 0 26 (by decide)).trans (by omega)
  try simp [← BitVec.toNat_inj, GZ.code_zero] at hwf
  rw [dec_80 F.op]
  simp [dOpnd, dWI, decWint, fEt, fFn, fG, fK, fKZ, fMod, fS, fWA, fWB, fWD, f_0_26, F.g, F.s, F.et, F.kz, F.k, F.wb, F.wa, F.wd, F.fn, F.op, gOf, Except.map, need, gUpTo, srcIf, GZ.code_zero, optG, Sz.code_zero, Rm.code_two, bind, Except.bind, pure, Except.pure, srcOf_code, dstOf_code, gzOf_code, rdstOf_code, popOf_code, szOf_code, fszOf_code, rmOf_code, etOf_code, scopeOf_code, modeOf_ord, gOf_val, eOf_val, finOfNat_val, boolNat_eq, BitVec.ofNat_toNat, BitVec.setWidth_eq, fn0, fldB, fbit, hwf]

theorem dw_worReg_b {ww : Word} (et : Et) (wd : WReg) (wa : WReg) (g : Src) (k : KReg) (kz : Bool) (hw : ww = packW 128 8 (wd.val) (wa.val) 0 (k.val) kz (et.code) 1 (g.code) 0) (hwf : ((etInt et : Bool)) = true) : decodeWord ww = .ok (.worReg et wd wa (.bcast g) k kz) := by
  have hb_et := Et.code_lt et
  have hb_wd := wd.isLt
  have hb_wa := wa.isLt
  have hb_g := Src.code_lt g
  have hb_k := k.isLt
  have hb_kz := Bool.toNat_lt kz
  have F := fieldsW hw (by decide) (by decide) (by omega) (by omega) (by decide) (by omega) (by omega) (by decide) (by omega) (by decide)
  have f_0_26 : fld ww 0 26 = 0 := (F.mod 0 26 (by decide)).trans (by omega)
  try simp [← BitVec.toNat_inj, GZ.code_zero] at hwf
  rw [dec_80 F.op]
  simp [dOpnd, dWI, decWint, fEt, fFn, fG, fK, fKZ, fMod, fS, fWA, fWB, fWD, f_0_26, F.g, F.s, F.et, F.kz, F.k, F.wb, F.wa, F.wd, F.fn, F.op, gOf, Except.map, need, gUpTo, srcIf, GZ.code_zero, optG, Sz.code_zero, Rm.code_two, bind, Except.bind, pure, Except.pure, srcOf_code, dstOf_code, gzOf_code, rdstOf_code, popOf_code, szOf_code, fszOf_code, rmOf_code, etOf_code, scopeOf_code, modeOf_ord, gOf_val, eOf_val, finOfNat_val, boolNat_eq, BitVec.ofNat_toNat, BitVec.setWidth_eq, fn0, fldB, fbit, hwf]

theorem dw_worReg_l {ww : Word} (et : Et) (wd : WReg) (wa : WReg) (k : KReg) (kz : Bool) (hw : ww = packW 128 8 (wd.val) (wa.val) 0 (k.val) kz (et.code) 2 0 0) (hwf : ((etInt et : Bool)) = true) : decodeWord ww = .ok (.worReg et wd wa .lane k kz) := by
  have hb_et := Et.code_lt et
  have hb_wd := wd.isLt
  have hb_wa := wa.isLt
  have hb_k := k.isLt
  have hb_kz := Bool.toNat_lt kz
  have F := fieldsW hw (by decide) (by decide) (by omega) (by omega) (by decide) (by omega) (by omega) (by decide) (by decide) (by decide)
  have f_0_26 : fld ww 0 26 = 0 := (F.mod 0 26 (by decide)).trans (by omega)
  try simp [← BitVec.toNat_inj, GZ.code_zero] at hwf
  rw [dec_80 F.op]
  simp [dOpnd, dWI, decWint, fEt, fFn, fG, fK, fKZ, fMod, fS, fWA, fWB, fWD, f_0_26, F.g, F.s, F.et, F.kz, F.k, F.wb, F.wa, F.wd, F.fn, F.op, gOf, Except.map, need, gUpTo, srcIf, GZ.code_zero, optG, Sz.code_zero, Rm.code_two, bind, Except.bind, pure, Except.pure, srcOf_code, dstOf_code, gzOf_code, rdstOf_code, popOf_code, szOf_code, fszOf_code, rmOf_code, etOf_code, scopeOf_code, modeOf_ord, gOf_val, eOf_val, finOfNat_val, boolNat_eq, BitVec.ofNat_toNat, BitVec.setWidth_eq, fn0, fldB, fbit, hwf]

theorem dw_worLit {ww : Word} (et : Et) (wd : WReg) (wa : WReg) (imm : BitVec 32) (k : KReg) (kz : Bool) (hw : ww = packWL 129 8 (wd.val) (wa.val) (k.val) kz (et.code) (imm.toNat)) (hwf : ((etInt et : Bool)) = true) : decodeWord ww = .ok (.worLit et wd wa imm k kz) := by
  have hb_et := Et.code_lt et
  have hb_wd := wd.isLt
  have hb_wa := wa.isLt
  have hb_imm := imm.isLt
  have hb_k := k.isLt
  have hb_kz := Bool.toNat_lt kz
  have F := fieldsWL hw (by decide) (by decide) (by omega) (by omega) (by omega) (by omega) (by omega)
  have f_0_32 : fld ww 0 32 = imm.toNat := (F.lit 0 32 (by decide)).trans (by omega)
  try simp [← BitVec.toNat_inj, GZ.code_zero] at hwf
  rw [dec_81 F.op]
  simp [dLitForm, dWIL, decWintL, fEt, fFn, fK, fKZ, fLit, fS, fWA, fWD, f_0_32, F.s, F.et, F.kz, F.k, F.wb, F.wa, F.wd, F.fn, F.op, gOf, Except.map, need, gUpTo, srcIf, GZ.code_zero, optG, Sz.code_zero, Rm.code_two, bind, Except.bind, pure, Except.pure, srcOf_code, dstOf_code, gzOf_code, rdstOf_code, popOf_code, szOf_code, fszOf_code, rmOf_code, etOf_code, scopeOf_code, modeOf_ord, gOf_val, eOf_val, finOfNat_val, boolNat_eq, BitVec.ofNat_toNat, BitVec.setWidth_eq, fn0, fldB, fbit, hwf]

theorem dw_wxorReg_r {ww : Word} (et : Et) (wd : WReg) (wa : WReg) (r : WReg) (k : KReg) (kz : Bool) (hw : ww = packW 128 9 (wd.val) (wa.val) (r.val) (k.val) kz (et.code) 0 0 0) (hwf : ((etInt et : Bool)) = true) : decodeWord ww = .ok (.wxorReg et wd wa (.reg r) k kz) := by
  have hb_et := Et.code_lt et
  have hb_wd := wd.isLt
  have hb_wa := wa.isLt
  have hb_r := r.isLt
  have hb_k := k.isLt
  have hb_kz := Bool.toNat_lt kz
  have F := fieldsW hw (by decide) (by decide) (by omega) (by omega) (by omega) (by omega) (by omega) (by decide) (by decide) (by decide)
  have f_0_26 : fld ww 0 26 = 0 := (F.mod 0 26 (by decide)).trans (by omega)
  try simp [← BitVec.toNat_inj, GZ.code_zero] at hwf
  rw [dec_80 F.op]
  simp [dOpnd, dWI, decWint, fEt, fFn, fG, fK, fKZ, fMod, fS, fWA, fWB, fWD, f_0_26, F.g, F.s, F.et, F.kz, F.k, F.wb, F.wa, F.wd, F.fn, F.op, gOf, Except.map, need, gUpTo, srcIf, GZ.code_zero, optG, Sz.code_zero, Rm.code_two, bind, Except.bind, pure, Except.pure, srcOf_code, dstOf_code, gzOf_code, rdstOf_code, popOf_code, szOf_code, fszOf_code, rmOf_code, etOf_code, scopeOf_code, modeOf_ord, gOf_val, eOf_val, finOfNat_val, boolNat_eq, BitVec.ofNat_toNat, BitVec.setWidth_eq, fn0, fldB, fbit, hwf]

theorem dw_wxorReg_b {ww : Word} (et : Et) (wd : WReg) (wa : WReg) (g : Src) (k : KReg) (kz : Bool) (hw : ww = packW 128 9 (wd.val) (wa.val) 0 (k.val) kz (et.code) 1 (g.code) 0) (hwf : ((etInt et : Bool)) = true) : decodeWord ww = .ok (.wxorReg et wd wa (.bcast g) k kz) := by
  have hb_et := Et.code_lt et
  have hb_wd := wd.isLt
  have hb_wa := wa.isLt
  have hb_g := Src.code_lt g
  have hb_k := k.isLt
  have hb_kz := Bool.toNat_lt kz
  have F := fieldsW hw (by decide) (by decide) (by omega) (by omega) (by decide) (by omega) (by omega) (by decide) (by omega) (by decide)
  have f_0_26 : fld ww 0 26 = 0 := (F.mod 0 26 (by decide)).trans (by omega)
  try simp [← BitVec.toNat_inj, GZ.code_zero] at hwf
  rw [dec_80 F.op]
  simp [dOpnd, dWI, decWint, fEt, fFn, fG, fK, fKZ, fMod, fS, fWA, fWB, fWD, f_0_26, F.g, F.s, F.et, F.kz, F.k, F.wb, F.wa, F.wd, F.fn, F.op, gOf, Except.map, need, gUpTo, srcIf, GZ.code_zero, optG, Sz.code_zero, Rm.code_two, bind, Except.bind, pure, Except.pure, srcOf_code, dstOf_code, gzOf_code, rdstOf_code, popOf_code, szOf_code, fszOf_code, rmOf_code, etOf_code, scopeOf_code, modeOf_ord, gOf_val, eOf_val, finOfNat_val, boolNat_eq, BitVec.ofNat_toNat, BitVec.setWidth_eq, fn0, fldB, fbit, hwf]

theorem dw_wxorReg_l {ww : Word} (et : Et) (wd : WReg) (wa : WReg) (k : KReg) (kz : Bool) (hw : ww = packW 128 9 (wd.val) (wa.val) 0 (k.val) kz (et.code) 2 0 0) (hwf : ((etInt et : Bool)) = true) : decodeWord ww = .ok (.wxorReg et wd wa .lane k kz) := by
  have hb_et := Et.code_lt et
  have hb_wd := wd.isLt
  have hb_wa := wa.isLt
  have hb_k := k.isLt
  have hb_kz := Bool.toNat_lt kz
  have F := fieldsW hw (by decide) (by decide) (by omega) (by omega) (by decide) (by omega) (by omega) (by decide) (by decide) (by decide)
  have f_0_26 : fld ww 0 26 = 0 := (F.mod 0 26 (by decide)).trans (by omega)
  try simp [← BitVec.toNat_inj, GZ.code_zero] at hwf
  rw [dec_80 F.op]
  simp [dOpnd, dWI, decWint, fEt, fFn, fG, fK, fKZ, fMod, fS, fWA, fWB, fWD, f_0_26, F.g, F.s, F.et, F.kz, F.k, F.wb, F.wa, F.wd, F.fn, F.op, gOf, Except.map, need, gUpTo, srcIf, GZ.code_zero, optG, Sz.code_zero, Rm.code_two, bind, Except.bind, pure, Except.pure, srcOf_code, dstOf_code, gzOf_code, rdstOf_code, popOf_code, szOf_code, fszOf_code, rmOf_code, etOf_code, scopeOf_code, modeOf_ord, gOf_val, eOf_val, finOfNat_val, boolNat_eq, BitVec.ofNat_toNat, BitVec.setWidth_eq, fn0, fldB, fbit, hwf]

theorem dw_wxorLit {ww : Word} (et : Et) (wd : WReg) (wa : WReg) (imm : BitVec 32) (k : KReg) (kz : Bool) (hw : ww = packWL 129 9 (wd.val) (wa.val) (k.val) kz (et.code) (imm.toNat)) (hwf : ((etInt et : Bool)) = true) : decodeWord ww = .ok (.wxorLit et wd wa imm k kz) := by
  have hb_et := Et.code_lt et
  have hb_wd := wd.isLt
  have hb_wa := wa.isLt
  have hb_imm := imm.isLt
  have hb_k := k.isLt
  have hb_kz := Bool.toNat_lt kz
  have F := fieldsWL hw (by decide) (by decide) (by omega) (by omega) (by omega) (by omega) (by omega)
  have f_0_32 : fld ww 0 32 = imm.toNat := (F.lit 0 32 (by decide)).trans (by omega)
  try simp [← BitVec.toNat_inj, GZ.code_zero] at hwf
  rw [dec_81 F.op]
  simp [dLitForm, dWIL, decWintL, fEt, fFn, fK, fKZ, fLit, fS, fWA, fWD, f_0_32, F.s, F.et, F.kz, F.k, F.wb, F.wa, F.wd, F.fn, F.op, gOf, Except.map, need, gUpTo, srcIf, GZ.code_zero, optG, Sz.code_zero, Rm.code_two, bind, Except.bind, pure, Except.pure, srcOf_code, dstOf_code, gzOf_code, rdstOf_code, popOf_code, szOf_code, fszOf_code, rmOf_code, etOf_code, scopeOf_code, modeOf_ord, gOf_val, eOf_val, finOfNat_val, boolNat_eq, BitVec.ofNat_toNat, BitVec.setWidth_eq, fn0, fldB, fbit, hwf]

theorem dw_wshlReg_r {ww : Word} (et : Et) (wd : WReg) (wa : WReg) (r : WReg) (k : KReg) (kz : Bool) (hw : ww = packW 128 10 (wd.val) (wa.val) (r.val) (k.val) kz (et.code) 0 0 0) (hwf : ((etInt et : Bool)) = true) : decodeWord ww = .ok (.wshlReg et wd wa (.reg r) k kz) := by
  have hb_et := Et.code_lt et
  have hb_wd := wd.isLt
  have hb_wa := wa.isLt
  have hb_r := r.isLt
  have hb_k := k.isLt
  have hb_kz := Bool.toNat_lt kz
  have F := fieldsW hw (by decide) (by decide) (by omega) (by omega) (by omega) (by omega) (by omega) (by decide) (by decide) (by decide)
  have f_0_26 : fld ww 0 26 = 0 := (F.mod 0 26 (by decide)).trans (by omega)
  try simp [← BitVec.toNat_inj, GZ.code_zero] at hwf
  rw [dec_80 F.op]
  simp [dOpnd, dWI, decWint, fEt, fFn, fG, fK, fKZ, fMod, fS, fWA, fWB, fWD, f_0_26, F.g, F.s, F.et, F.kz, F.k, F.wb, F.wa, F.wd, F.fn, F.op, gOf, Except.map, need, gUpTo, srcIf, GZ.code_zero, optG, Sz.code_zero, Rm.code_two, bind, Except.bind, pure, Except.pure, srcOf_code, dstOf_code, gzOf_code, rdstOf_code, popOf_code, szOf_code, fszOf_code, rmOf_code, etOf_code, scopeOf_code, modeOf_ord, gOf_val, eOf_val, finOfNat_val, boolNat_eq, BitVec.ofNat_toNat, BitVec.setWidth_eq, fn0, fldB, fbit, hwf]

theorem dw_wshlReg_b {ww : Word} (et : Et) (wd : WReg) (wa : WReg) (g : Src) (k : KReg) (kz : Bool) (hw : ww = packW 128 10 (wd.val) (wa.val) 0 (k.val) kz (et.code) 1 (g.code) 0) (hwf : ((etInt et : Bool)) = true) : decodeWord ww = .ok (.wshlReg et wd wa (.bcast g) k kz) := by
  have hb_et := Et.code_lt et
  have hb_wd := wd.isLt
  have hb_wa := wa.isLt
  have hb_g := Src.code_lt g
  have hb_k := k.isLt
  have hb_kz := Bool.toNat_lt kz
  have F := fieldsW hw (by decide) (by decide) (by omega) (by omega) (by decide) (by omega) (by omega) (by decide) (by omega) (by decide)
  have f_0_26 : fld ww 0 26 = 0 := (F.mod 0 26 (by decide)).trans (by omega)
  try simp [← BitVec.toNat_inj, GZ.code_zero] at hwf
  rw [dec_80 F.op]
  simp [dOpnd, dWI, decWint, fEt, fFn, fG, fK, fKZ, fMod, fS, fWA, fWB, fWD, f_0_26, F.g, F.s, F.et, F.kz, F.k, F.wb, F.wa, F.wd, F.fn, F.op, gOf, Except.map, need, gUpTo, srcIf, GZ.code_zero, optG, Sz.code_zero, Rm.code_two, bind, Except.bind, pure, Except.pure, srcOf_code, dstOf_code, gzOf_code, rdstOf_code, popOf_code, szOf_code, fszOf_code, rmOf_code, etOf_code, scopeOf_code, modeOf_ord, gOf_val, eOf_val, finOfNat_val, boolNat_eq, BitVec.ofNat_toNat, BitVec.setWidth_eq, fn0, fldB, fbit, hwf]

theorem dw_wshlReg_l {ww : Word} (et : Et) (wd : WReg) (wa : WReg) (k : KReg) (kz : Bool) (hw : ww = packW 128 10 (wd.val) (wa.val) 0 (k.val) kz (et.code) 2 0 0) (hwf : ((etInt et : Bool)) = true) : decodeWord ww = .ok (.wshlReg et wd wa .lane k kz) := by
  have hb_et := Et.code_lt et
  have hb_wd := wd.isLt
  have hb_wa := wa.isLt
  have hb_k := k.isLt
  have hb_kz := Bool.toNat_lt kz
  have F := fieldsW hw (by decide) (by decide) (by omega) (by omega) (by decide) (by omega) (by omega) (by decide) (by decide) (by decide)
  have f_0_26 : fld ww 0 26 = 0 := (F.mod 0 26 (by decide)).trans (by omega)
  try simp [← BitVec.toNat_inj, GZ.code_zero] at hwf
  rw [dec_80 F.op]
  simp [dOpnd, dWI, decWint, fEt, fFn, fG, fK, fKZ, fMod, fS, fWA, fWB, fWD, f_0_26, F.g, F.s, F.et, F.kz, F.k, F.wb, F.wa, F.wd, F.fn, F.op, gOf, Except.map, need, gUpTo, srcIf, GZ.code_zero, optG, Sz.code_zero, Rm.code_two, bind, Except.bind, pure, Except.pure, srcOf_code, dstOf_code, gzOf_code, rdstOf_code, popOf_code, szOf_code, fszOf_code, rmOf_code, etOf_code, scopeOf_code, modeOf_ord, gOf_val, eOf_val, finOfNat_val, boolNat_eq, BitVec.ofNat_toNat, BitVec.setWidth_eq, fn0, fldB, fbit, hwf]

theorem dw_wshlLit {ww : Word} (et : Et) (wd : WReg) (wa : WReg) (imm : BitVec 32) (k : KReg) (kz : Bool) (hw : ww = packWL 129 10 (wd.val) (wa.val) (k.val) kz (et.code) (imm.toNat)) (hwf : ((etInt et : Bool)) = true) : decodeWord ww = .ok (.wshlLit et wd wa imm k kz) := by
  have hb_et := Et.code_lt et
  have hb_wd := wd.isLt
  have hb_wa := wa.isLt
  have hb_imm := imm.isLt
  have hb_k := k.isLt
  have hb_kz := Bool.toNat_lt kz
  have F := fieldsWL hw (by decide) (by decide) (by omega) (by omega) (by omega) (by omega) (by omega)
  have f_0_32 : fld ww 0 32 = imm.toNat := (F.lit 0 32 (by decide)).trans (by omega)
  try simp [← BitVec.toNat_inj, GZ.code_zero] at hwf
  rw [dec_81 F.op]
  simp [dLitForm, dWIL, decWintL, fEt, fFn, fK, fKZ, fLit, fS, fWA, fWD, f_0_32, F.s, F.et, F.kz, F.k, F.wb, F.wa, F.wd, F.fn, F.op, gOf, Except.map, need, gUpTo, srcIf, GZ.code_zero, optG, Sz.code_zero, Rm.code_two, bind, Except.bind, pure, Except.pure, srcOf_code, dstOf_code, gzOf_code, rdstOf_code, popOf_code, szOf_code, fszOf_code, rmOf_code, etOf_code, scopeOf_code, modeOf_ord, gOf_val, eOf_val, finOfNat_val, boolNat_eq, BitVec.ofNat_toNat, BitVec.setWidth_eq, fn0, fldB, fbit, hwf]

theorem dw_wshrReg_r {ww : Word} (et : Et) (wd : WReg) (wa : WReg) (r : WReg) (k : KReg) (kz : Bool) (hw : ww = packW 128 11 (wd.val) (wa.val) (r.val) (k.val) kz (et.code) 0 0 0) (hwf : ((etInt et : Bool)) = true) : decodeWord ww = .ok (.wshrReg et wd wa (.reg r) k kz) := by
  have hb_et := Et.code_lt et
  have hb_wd := wd.isLt
  have hb_wa := wa.isLt
  have hb_r := r.isLt
  have hb_k := k.isLt
  have hb_kz := Bool.toNat_lt kz
  have F := fieldsW hw (by decide) (by decide) (by omega) (by omega) (by omega) (by omega) (by omega) (by decide) (by decide) (by decide)
  have f_0_26 : fld ww 0 26 = 0 := (F.mod 0 26 (by decide)).trans (by omega)
  try simp [← BitVec.toNat_inj, GZ.code_zero] at hwf
  rw [dec_80 F.op]
  simp [dOpnd, dWI, decWint, fEt, fFn, fG, fK, fKZ, fMod, fS, fWA, fWB, fWD, f_0_26, F.g, F.s, F.et, F.kz, F.k, F.wb, F.wa, F.wd, F.fn, F.op, gOf, Except.map, need, gUpTo, srcIf, GZ.code_zero, optG, Sz.code_zero, Rm.code_two, bind, Except.bind, pure, Except.pure, srcOf_code, dstOf_code, gzOf_code, rdstOf_code, popOf_code, szOf_code, fszOf_code, rmOf_code, etOf_code, scopeOf_code, modeOf_ord, gOf_val, eOf_val, finOfNat_val, boolNat_eq, BitVec.ofNat_toNat, BitVec.setWidth_eq, fn0, fldB, fbit, hwf]

theorem dw_wshrReg_b {ww : Word} (et : Et) (wd : WReg) (wa : WReg) (g : Src) (k : KReg) (kz : Bool) (hw : ww = packW 128 11 (wd.val) (wa.val) 0 (k.val) kz (et.code) 1 (g.code) 0) (hwf : ((etInt et : Bool)) = true) : decodeWord ww = .ok (.wshrReg et wd wa (.bcast g) k kz) := by
  have hb_et := Et.code_lt et
  have hb_wd := wd.isLt
  have hb_wa := wa.isLt
  have hb_g := Src.code_lt g
  have hb_k := k.isLt
  have hb_kz := Bool.toNat_lt kz
  have F := fieldsW hw (by decide) (by decide) (by omega) (by omega) (by decide) (by omega) (by omega) (by decide) (by omega) (by decide)
  have f_0_26 : fld ww 0 26 = 0 := (F.mod 0 26 (by decide)).trans (by omega)
  try simp [← BitVec.toNat_inj, GZ.code_zero] at hwf
  rw [dec_80 F.op]
  simp [dOpnd, dWI, decWint, fEt, fFn, fG, fK, fKZ, fMod, fS, fWA, fWB, fWD, f_0_26, F.g, F.s, F.et, F.kz, F.k, F.wb, F.wa, F.wd, F.fn, F.op, gOf, Except.map, need, gUpTo, srcIf, GZ.code_zero, optG, Sz.code_zero, Rm.code_two, bind, Except.bind, pure, Except.pure, srcOf_code, dstOf_code, gzOf_code, rdstOf_code, popOf_code, szOf_code, fszOf_code, rmOf_code, etOf_code, scopeOf_code, modeOf_ord, gOf_val, eOf_val, finOfNat_val, boolNat_eq, BitVec.ofNat_toNat, BitVec.setWidth_eq, fn0, fldB, fbit, hwf]

theorem dw_wshrReg_l {ww : Word} (et : Et) (wd : WReg) (wa : WReg) (k : KReg) (kz : Bool) (hw : ww = packW 128 11 (wd.val) (wa.val) 0 (k.val) kz (et.code) 2 0 0) (hwf : ((etInt et : Bool)) = true) : decodeWord ww = .ok (.wshrReg et wd wa .lane k kz) := by
  have hb_et := Et.code_lt et
  have hb_wd := wd.isLt
  have hb_wa := wa.isLt
  have hb_k := k.isLt
  have hb_kz := Bool.toNat_lt kz
  have F := fieldsW hw (by decide) (by decide) (by omega) (by omega) (by decide) (by omega) (by omega) (by decide) (by decide) (by decide)
  have f_0_26 : fld ww 0 26 = 0 := (F.mod 0 26 (by decide)).trans (by omega)
  try simp [← BitVec.toNat_inj, GZ.code_zero] at hwf
  rw [dec_80 F.op]
  simp [dOpnd, dWI, decWint, fEt, fFn, fG, fK, fKZ, fMod, fS, fWA, fWB, fWD, f_0_26, F.g, F.s, F.et, F.kz, F.k, F.wb, F.wa, F.wd, F.fn, F.op, gOf, Except.map, need, gUpTo, srcIf, GZ.code_zero, optG, Sz.code_zero, Rm.code_two, bind, Except.bind, pure, Except.pure, srcOf_code, dstOf_code, gzOf_code, rdstOf_code, popOf_code, szOf_code, fszOf_code, rmOf_code, etOf_code, scopeOf_code, modeOf_ord, gOf_val, eOf_val, finOfNat_val, boolNat_eq, BitVec.ofNat_toNat, BitVec.setWidth_eq, fn0, fldB, fbit, hwf]

theorem dw_wshrLit {ww : Word} (et : Et) (wd : WReg) (wa : WReg) (imm : BitVec 32) (k : KReg) (kz : Bool) (hw : ww = packWL 129 11 (wd.val) (wa.val) (k.val) kz (et.code) (imm.toNat)) (hwf : ((etInt et : Bool)) = true) : decodeWord ww = .ok (.wshrLit et wd wa imm k kz) := by
  have hb_et := Et.code_lt et
  have hb_wd := wd.isLt
  have hb_wa := wa.isLt
  have hb_imm := imm.isLt
  have hb_k := k.isLt
  have hb_kz := Bool.toNat_lt kz
  have F := fieldsWL hw (by decide) (by decide) (by omega) (by omega) (by omega) (by omega) (by omega)
  have f_0_32 : fld ww 0 32 = imm.toNat := (F.lit 0 32 (by decide)).trans (by omega)
  try simp [← BitVec.toNat_inj, GZ.code_zero] at hwf
  rw [dec_81 F.op]
  simp [dLitForm, dWIL, decWintL, fEt, fFn, fK, fKZ, fLit, fS, fWA, fWD, f_0_32, F.s, F.et, F.kz, F.k, F.wb, F.wa, F.wd, F.fn, F.op, gOf, Except.map, need, gUpTo, srcIf, GZ.code_zero, optG, Sz.code_zero, Rm.code_two, bind, Except.bind, pure, Except.pure, srcOf_code, dstOf_code, gzOf_code, rdstOf_code, popOf_code, szOf_code, fszOf_code, rmOf_code, etOf_code, scopeOf_code, modeOf_ord, gOf_val, eOf_val, finOfNat_val, boolNat_eq, BitVec.ofNat_toNat, BitVec.setWidth_eq, fn0, fldB, fbit, hwf]

theorem dw_wsarReg_r {ww : Word} (et : Et) (wd : WReg) (wa : WReg) (r : WReg) (k : KReg) (kz : Bool) (hw : ww = packW 128 12 (wd.val) (wa.val) (r.val) (k.val) kz (et.code) 0 0 0) (hwf : ((etInt et : Bool)) = true) : decodeWord ww = .ok (.wsarReg et wd wa (.reg r) k kz) := by
  have hb_et := Et.code_lt et
  have hb_wd := wd.isLt
  have hb_wa := wa.isLt
  have hb_r := r.isLt
  have hb_k := k.isLt
  have hb_kz := Bool.toNat_lt kz
  have F := fieldsW hw (by decide) (by decide) (by omega) (by omega) (by omega) (by omega) (by omega) (by decide) (by decide) (by decide)
  have f_0_26 : fld ww 0 26 = 0 := (F.mod 0 26 (by decide)).trans (by omega)
  try simp [← BitVec.toNat_inj, GZ.code_zero] at hwf
  rw [dec_80 F.op]
  simp [dOpnd, dWI, decWint, fEt, fFn, fG, fK, fKZ, fMod, fS, fWA, fWB, fWD, f_0_26, F.g, F.s, F.et, F.kz, F.k, F.wb, F.wa, F.wd, F.fn, F.op, gOf, Except.map, need, gUpTo, srcIf, GZ.code_zero, optG, Sz.code_zero, Rm.code_two, bind, Except.bind, pure, Except.pure, srcOf_code, dstOf_code, gzOf_code, rdstOf_code, popOf_code, szOf_code, fszOf_code, rmOf_code, etOf_code, scopeOf_code, modeOf_ord, gOf_val, eOf_val, finOfNat_val, boolNat_eq, BitVec.ofNat_toNat, BitVec.setWidth_eq, fn0, fldB, fbit, hwf]

theorem dw_wsarReg_b {ww : Word} (et : Et) (wd : WReg) (wa : WReg) (g : Src) (k : KReg) (kz : Bool) (hw : ww = packW 128 12 (wd.val) (wa.val) 0 (k.val) kz (et.code) 1 (g.code) 0) (hwf : ((etInt et : Bool)) = true) : decodeWord ww = .ok (.wsarReg et wd wa (.bcast g) k kz) := by
  have hb_et := Et.code_lt et
  have hb_wd := wd.isLt
  have hb_wa := wa.isLt
  have hb_g := Src.code_lt g
  have hb_k := k.isLt
  have hb_kz := Bool.toNat_lt kz
  have F := fieldsW hw (by decide) (by decide) (by omega) (by omega) (by decide) (by omega) (by omega) (by decide) (by omega) (by decide)
  have f_0_26 : fld ww 0 26 = 0 := (F.mod 0 26 (by decide)).trans (by omega)
  try simp [← BitVec.toNat_inj, GZ.code_zero] at hwf
  rw [dec_80 F.op]
  simp [dOpnd, dWI, decWint, fEt, fFn, fG, fK, fKZ, fMod, fS, fWA, fWB, fWD, f_0_26, F.g, F.s, F.et, F.kz, F.k, F.wb, F.wa, F.wd, F.fn, F.op, gOf, Except.map, need, gUpTo, srcIf, GZ.code_zero, optG, Sz.code_zero, Rm.code_two, bind, Except.bind, pure, Except.pure, srcOf_code, dstOf_code, gzOf_code, rdstOf_code, popOf_code, szOf_code, fszOf_code, rmOf_code, etOf_code, scopeOf_code, modeOf_ord, gOf_val, eOf_val, finOfNat_val, boolNat_eq, BitVec.ofNat_toNat, BitVec.setWidth_eq, fn0, fldB, fbit, hwf]

theorem dw_wsarReg_l {ww : Word} (et : Et) (wd : WReg) (wa : WReg) (k : KReg) (kz : Bool) (hw : ww = packW 128 12 (wd.val) (wa.val) 0 (k.val) kz (et.code) 2 0 0) (hwf : ((etInt et : Bool)) = true) : decodeWord ww = .ok (.wsarReg et wd wa .lane k kz) := by
  have hb_et := Et.code_lt et
  have hb_wd := wd.isLt
  have hb_wa := wa.isLt
  have hb_k := k.isLt
  have hb_kz := Bool.toNat_lt kz
  have F := fieldsW hw (by decide) (by decide) (by omega) (by omega) (by decide) (by omega) (by omega) (by decide) (by decide) (by decide)
  have f_0_26 : fld ww 0 26 = 0 := (F.mod 0 26 (by decide)).trans (by omega)
  try simp [← BitVec.toNat_inj, GZ.code_zero] at hwf
  rw [dec_80 F.op]
  simp [dOpnd, dWI, decWint, fEt, fFn, fG, fK, fKZ, fMod, fS, fWA, fWB, fWD, f_0_26, F.g, F.s, F.et, F.kz, F.k, F.wb, F.wa, F.wd, F.fn, F.op, gOf, Except.map, need, gUpTo, srcIf, GZ.code_zero, optG, Sz.code_zero, Rm.code_two, bind, Except.bind, pure, Except.pure, srcOf_code, dstOf_code, gzOf_code, rdstOf_code, popOf_code, szOf_code, fszOf_code, rmOf_code, etOf_code, scopeOf_code, modeOf_ord, gOf_val, eOf_val, finOfNat_val, boolNat_eq, BitVec.ofNat_toNat, BitVec.setWidth_eq, fn0, fldB, fbit, hwf]

theorem dw_wsarLit {ww : Word} (et : Et) (wd : WReg) (wa : WReg) (imm : BitVec 32) (k : KReg) (kz : Bool) (hw : ww = packWL 129 12 (wd.val) (wa.val) (k.val) kz (et.code) (imm.toNat)) (hwf : ((etInt et : Bool)) = true) : decodeWord ww = .ok (.wsarLit et wd wa imm k kz) := by
  have hb_et := Et.code_lt et
  have hb_wd := wd.isLt
  have hb_wa := wa.isLt
  have hb_imm := imm.isLt
  have hb_k := k.isLt
  have hb_kz := Bool.toNat_lt kz
  have F := fieldsWL hw (by decide) (by decide) (by omega) (by omega) (by omega) (by omega) (by omega)
  have f_0_32 : fld ww 0 32 = imm.toNat := (F.lit 0 32 (by decide)).trans (by omega)
  try simp [← BitVec.toNat_inj, GZ.code_zero] at hwf
  rw [dec_81 F.op]
  simp [dLitForm, dWIL, decWintL, fEt, fFn, fK, fKZ, fLit, fS, fWA, fWD, f_0_32, F.s, F.et, F.kz, F.k, F.wb, F.wa, F.wd, F.fn, F.op, gOf, Except.map, need, gUpTo, srcIf, GZ.code_zero, optG, Sz.code_zero, Rm.code_two, bind, Except.bind, pure, Except.pure, srcOf_code, dstOf_code, gzOf_code, rdstOf_code, popOf_code, szOf_code, fszOf_code, rmOf_code, etOf_code, scopeOf_code, modeOf_ord, gOf_val, eOf_val, finOfNat_val, boolNat_eq, BitVec.ofNat_toNat, BitVec.setWidth_eq, fn0, fldB, fbit, hwf]

theorem dw_wfshlReg_r {ww : Word} (et : Et) (wd : WReg) (wa : WReg) (r : WReg) (k : KReg) (kz : Bool) (hw : ww = packW 128 13 (wd.val) (wa.val) (r.val) (k.val) kz (et.code) 0 0 0) (hwf : ((etInt et : Bool)) = true) : decodeWord ww = .ok (.wfshlReg et wd wa (.reg r) k kz) := by
  have hb_et := Et.code_lt et
  have hb_wd := wd.isLt
  have hb_wa := wa.isLt
  have hb_r := r.isLt
  have hb_k := k.isLt
  have hb_kz := Bool.toNat_lt kz
  have F := fieldsW hw (by decide) (by decide) (by omega) (by omega) (by omega) (by omega) (by omega) (by decide) (by decide) (by decide)
  have f_0_26 : fld ww 0 26 = 0 := (F.mod 0 26 (by decide)).trans (by omega)
  try simp [← BitVec.toNat_inj, GZ.code_zero] at hwf
  rw [dec_80 F.op]
  simp [dOpnd, dWI, decWint, fEt, fFn, fG, fK, fKZ, fMod, fS, fWA, fWB, fWD, f_0_26, F.g, F.s, F.et, F.kz, F.k, F.wb, F.wa, F.wd, F.fn, F.op, gOf, Except.map, need, gUpTo, srcIf, GZ.code_zero, optG, Sz.code_zero, Rm.code_two, bind, Except.bind, pure, Except.pure, srcOf_code, dstOf_code, gzOf_code, rdstOf_code, popOf_code, szOf_code, fszOf_code, rmOf_code, etOf_code, scopeOf_code, modeOf_ord, gOf_val, eOf_val, finOfNat_val, boolNat_eq, BitVec.ofNat_toNat, BitVec.setWidth_eq, fn0, fldB, fbit, hwf]

theorem dw_wfshlReg_b {ww : Word} (et : Et) (wd : WReg) (wa : WReg) (g : Src) (k : KReg) (kz : Bool) (hw : ww = packW 128 13 (wd.val) (wa.val) 0 (k.val) kz (et.code) 1 (g.code) 0) (hwf : ((etInt et : Bool)) = true) : decodeWord ww = .ok (.wfshlReg et wd wa (.bcast g) k kz) := by
  have hb_et := Et.code_lt et
  have hb_wd := wd.isLt
  have hb_wa := wa.isLt
  have hb_g := Src.code_lt g
  have hb_k := k.isLt
  have hb_kz := Bool.toNat_lt kz
  have F := fieldsW hw (by decide) (by decide) (by omega) (by omega) (by decide) (by omega) (by omega) (by decide) (by omega) (by decide)
  have f_0_26 : fld ww 0 26 = 0 := (F.mod 0 26 (by decide)).trans (by omega)
  try simp [← BitVec.toNat_inj, GZ.code_zero] at hwf
  rw [dec_80 F.op]
  simp [dOpnd, dWI, decWint, fEt, fFn, fG, fK, fKZ, fMod, fS, fWA, fWB, fWD, f_0_26, F.g, F.s, F.et, F.kz, F.k, F.wb, F.wa, F.wd, F.fn, F.op, gOf, Except.map, need, gUpTo, srcIf, GZ.code_zero, optG, Sz.code_zero, Rm.code_two, bind, Except.bind, pure, Except.pure, srcOf_code, dstOf_code, gzOf_code, rdstOf_code, popOf_code, szOf_code, fszOf_code, rmOf_code, etOf_code, scopeOf_code, modeOf_ord, gOf_val, eOf_val, finOfNat_val, boolNat_eq, BitVec.ofNat_toNat, BitVec.setWidth_eq, fn0, fldB, fbit, hwf]

theorem dw_wfshlReg_l {ww : Word} (et : Et) (wd : WReg) (wa : WReg) (k : KReg) (kz : Bool) (hw : ww = packW 128 13 (wd.val) (wa.val) 0 (k.val) kz (et.code) 2 0 0) (hwf : ((etInt et : Bool)) = true) : decodeWord ww = .ok (.wfshlReg et wd wa .lane k kz) := by
  have hb_et := Et.code_lt et
  have hb_wd := wd.isLt
  have hb_wa := wa.isLt
  have hb_k := k.isLt
  have hb_kz := Bool.toNat_lt kz
  have F := fieldsW hw (by decide) (by decide) (by omega) (by omega) (by decide) (by omega) (by omega) (by decide) (by decide) (by decide)
  have f_0_26 : fld ww 0 26 = 0 := (F.mod 0 26 (by decide)).trans (by omega)
  try simp [← BitVec.toNat_inj, GZ.code_zero] at hwf
  rw [dec_80 F.op]
  simp [dOpnd, dWI, decWint, fEt, fFn, fG, fK, fKZ, fMod, fS, fWA, fWB, fWD, f_0_26, F.g, F.s, F.et, F.kz, F.k, F.wb, F.wa, F.wd, F.fn, F.op, gOf, Except.map, need, gUpTo, srcIf, GZ.code_zero, optG, Sz.code_zero, Rm.code_two, bind, Except.bind, pure, Except.pure, srcOf_code, dstOf_code, gzOf_code, rdstOf_code, popOf_code, szOf_code, fszOf_code, rmOf_code, etOf_code, scopeOf_code, modeOf_ord, gOf_val, eOf_val, finOfNat_val, boolNat_eq, BitVec.ofNat_toNat, BitVec.setWidth_eq, fn0, fldB, fbit, hwf]

theorem dw_wfshlLit {ww : Word} (et : Et) (wd : WReg) (wa : WReg) (imm : BitVec 32) (k : KReg) (kz : Bool) (hw : ww = packWL 129 13 (wd.val) (wa.val) (k.val) kz (et.code) (imm.toNat)) (hwf : ((etInt et : Bool)) = true) : decodeWord ww = .ok (.wfshlLit et wd wa imm k kz) := by
  have hb_et := Et.code_lt et
  have hb_wd := wd.isLt
  have hb_wa := wa.isLt
  have hb_imm := imm.isLt
  have hb_k := k.isLt
  have hb_kz := Bool.toNat_lt kz
  have F := fieldsWL hw (by decide) (by decide) (by omega) (by omega) (by omega) (by omega) (by omega)
  have f_0_32 : fld ww 0 32 = imm.toNat := (F.lit 0 32 (by decide)).trans (by omega)
  try simp [← BitVec.toNat_inj, GZ.code_zero] at hwf
  rw [dec_81 F.op]
  simp [dLitForm, dWIL, decWintL, fEt, fFn, fK, fKZ, fLit, fS, fWA, fWD, f_0_32, F.s, F.et, F.kz, F.k, F.wb, F.wa, F.wd, F.fn, F.op, gOf, Except.map, need, gUpTo, srcIf, GZ.code_zero, optG, Sz.code_zero, Rm.code_two, bind, Except.bind, pure, Except.pure, srcOf_code, dstOf_code, gzOf_code, rdstOf_code, popOf_code, szOf_code, fszOf_code, rmOf_code, etOf_code, scopeOf_code, modeOf_ord, gOf_val, eOf_val, finOfNat_val, boolNat_eq, BitVec.ofNat_toNat, BitVec.setWidth_eq, fn0, fldB, fbit, hwf]

theorem dw_wfshrReg_r {ww : Word} (et : Et) (wd : WReg) (wa : WReg) (r : WReg) (k : KReg) (kz : Bool) (hw : ww = packW 128 14 (wd.val) (wa.val) (r.val) (k.val) kz (et.code) 0 0 0) (hwf : ((etInt et : Bool)) = true) : decodeWord ww = .ok (.wfshrReg et wd wa (.reg r) k kz) := by
  have hb_et := Et.code_lt et
  have hb_wd := wd.isLt
  have hb_wa := wa.isLt
  have hb_r := r.isLt
  have hb_k := k.isLt
  have hb_kz := Bool.toNat_lt kz
  have F := fieldsW hw (by decide) (by decide) (by omega) (by omega) (by omega) (by omega) (by omega) (by decide) (by decide) (by decide)
  have f_0_26 : fld ww 0 26 = 0 := (F.mod 0 26 (by decide)).trans (by omega)
  try simp [← BitVec.toNat_inj, GZ.code_zero] at hwf
  rw [dec_80 F.op]
  simp [dOpnd, dWI, decWint, fEt, fFn, fG, fK, fKZ, fMod, fS, fWA, fWB, fWD, f_0_26, F.g, F.s, F.et, F.kz, F.k, F.wb, F.wa, F.wd, F.fn, F.op, gOf, Except.map, need, gUpTo, srcIf, GZ.code_zero, optG, Sz.code_zero, Rm.code_two, bind, Except.bind, pure, Except.pure, srcOf_code, dstOf_code, gzOf_code, rdstOf_code, popOf_code, szOf_code, fszOf_code, rmOf_code, etOf_code, scopeOf_code, modeOf_ord, gOf_val, eOf_val, finOfNat_val, boolNat_eq, BitVec.ofNat_toNat, BitVec.setWidth_eq, fn0, fldB, fbit, hwf]

theorem dw_wfshrReg_b {ww : Word} (et : Et) (wd : WReg) (wa : WReg) (g : Src) (k : KReg) (kz : Bool) (hw : ww = packW 128 14 (wd.val) (wa.val) 0 (k.val) kz (et.code) 1 (g.code) 0) (hwf : ((etInt et : Bool)) = true) : decodeWord ww = .ok (.wfshrReg et wd wa (.bcast g) k kz) := by
  have hb_et := Et.code_lt et
  have hb_wd := wd.isLt
  have hb_wa := wa.isLt
  have hb_g := Src.code_lt g
  have hb_k := k.isLt
  have hb_kz := Bool.toNat_lt kz
  have F := fieldsW hw (by decide) (by decide) (by omega) (by omega) (by decide) (by omega) (by omega) (by decide) (by omega) (by decide)
  have f_0_26 : fld ww 0 26 = 0 := (F.mod 0 26 (by decide)).trans (by omega)
  try simp [← BitVec.toNat_inj, GZ.code_zero] at hwf
  rw [dec_80 F.op]
  simp [dOpnd, dWI, decWint, fEt, fFn, fG, fK, fKZ, fMod, fS, fWA, fWB, fWD, f_0_26, F.g, F.s, F.et, F.kz, F.k, F.wb, F.wa, F.wd, F.fn, F.op, gOf, Except.map, need, gUpTo, srcIf, GZ.code_zero, optG, Sz.code_zero, Rm.code_two, bind, Except.bind, pure, Except.pure, srcOf_code, dstOf_code, gzOf_code, rdstOf_code, popOf_code, szOf_code, fszOf_code, rmOf_code, etOf_code, scopeOf_code, modeOf_ord, gOf_val, eOf_val, finOfNat_val, boolNat_eq, BitVec.ofNat_toNat, BitVec.setWidth_eq, fn0, fldB, fbit, hwf]

theorem dw_wfshrReg_l {ww : Word} (et : Et) (wd : WReg) (wa : WReg) (k : KReg) (kz : Bool) (hw : ww = packW 128 14 (wd.val) (wa.val) 0 (k.val) kz (et.code) 2 0 0) (hwf : ((etInt et : Bool)) = true) : decodeWord ww = .ok (.wfshrReg et wd wa .lane k kz) := by
  have hb_et := Et.code_lt et
  have hb_wd := wd.isLt
  have hb_wa := wa.isLt
  have hb_k := k.isLt
  have hb_kz := Bool.toNat_lt kz
  have F := fieldsW hw (by decide) (by decide) (by omega) (by omega) (by decide) (by omega) (by omega) (by decide) (by decide) (by decide)
  have f_0_26 : fld ww 0 26 = 0 := (F.mod 0 26 (by decide)).trans (by omega)
  try simp [← BitVec.toNat_inj, GZ.code_zero] at hwf
  rw [dec_80 F.op]
  simp [dOpnd, dWI, decWint, fEt, fFn, fG, fK, fKZ, fMod, fS, fWA, fWB, fWD, f_0_26, F.g, F.s, F.et, F.kz, F.k, F.wb, F.wa, F.wd, F.fn, F.op, gOf, Except.map, need, gUpTo, srcIf, GZ.code_zero, optG, Sz.code_zero, Rm.code_two, bind, Except.bind, pure, Except.pure, srcOf_code, dstOf_code, gzOf_code, rdstOf_code, popOf_code, szOf_code, fszOf_code, rmOf_code, etOf_code, scopeOf_code, modeOf_ord, gOf_val, eOf_val, finOfNat_val, boolNat_eq, BitVec.ofNat_toNat, BitVec.setWidth_eq, fn0, fldB, fbit, hwf]

theorem dw_wfshrLit {ww : Word} (et : Et) (wd : WReg) (wa : WReg) (imm : BitVec 32) (k : KReg) (kz : Bool) (hw : ww = packWL 129 14 (wd.val) (wa.val) (k.val) kz (et.code) (imm.toNat)) (hwf : ((etInt et : Bool)) = true) : decodeWord ww = .ok (.wfshrLit et wd wa imm k kz) := by
  have hb_et := Et.code_lt et
  have hb_wd := wd.isLt
  have hb_wa := wa.isLt
  have hb_imm := imm.isLt
  have hb_k := k.isLt
  have hb_kz := Bool.toNat_lt kz
  have F := fieldsWL hw (by decide) (by decide) (by omega) (by omega) (by omega) (by omega) (by omega)
  have f_0_32 : fld ww 0 32 = imm.toNat := (F.lit 0 32 (by decide)).trans (by omega)
  try simp [← BitVec.toNat_inj, GZ.code_zero] at hwf
  rw [dec_81 F.op]
  simp [dLitForm, dWIL, decWintL, fEt, fFn, fK, fKZ, fLit, fS, fWA, fWD, f_0_32, F.s, F.et, F.kz, F.k, F.wb, F.wa, F.wd, F.fn, F.op, gOf, Except.map, need, gUpTo, srcIf, GZ.code_zero, optG, Sz.code_zero, Rm.code_two, bind, Except.bind, pure, Except.pure, srcOf_code, dstOf_code, gzOf_code, rdstOf_code, popOf_code, szOf_code, fszOf_code, rmOf_code, etOf_code, scopeOf_code, modeOf_ord, gOf_val, eOf_val, finOfNat_val, boolNat_eq, BitVec.ofNat_toNat, BitVec.setWidth_eq, fn0, fldB, fbit, hwf]

theorem dw_wfaddReg_r {ww : Word} (et : Et) (wd : WReg) (wa : WReg) (r : WReg) (k : KReg) (kz : Bool) (rm : Rm) (hw : ww = packW 130 0 (wd.val) (wa.val) (r.val) (k.val) kz (et.code) 0 0 (rm.code)) (hwf : ((!etInt et : Bool)) = true) : decodeWord ww = .ok (.wfaddReg et wd wa (.reg r) k kz rm) := by
  have hb_et := Et.code_lt et
  have hb_wd := wd.isLt
  have hb_wa := wa.isLt
  have hb_r := r.isLt
  have hb_k := k.isLt
  have hb_kz := Bool.toNat_lt kz
  have hb_rm := Rm.code_lt rm
  have F := fieldsW hw (by decide) (by decide) (by omega) (by omega) (by omega) (by omega) (by omega) (by decide) (by decide) (by omega)
  have f_0_2 : fld ww 0 2 = rm.code := (F.mod 0 2 (by decide)).trans (by omega)
  have f_2_24 : fld ww 2 24 = 0 := (F.mod 2 24 (by decide)).trans (by omega)
  try simp [← BitVec.toNat_inj, GZ.code_zero] at hwf
  rw [dec_82 F.op]
  simp [dOpnd, dWF, dWF1, decWfp, fEt, fFn, fG, fK, fKZ, fS, fWA, fWB, fWD, f_0_2, f_2_24, F.g, F.s, F.et, F.kz, F.k, F.wb, F.wa, F.wd, F.fn, F.op, gOf, Except.map, need, gUpTo, srcIf, GZ.code_zero, optG, Sz.code_zero, Rm.code_two, bind, Except.bind, pure, Except.pure, srcOf_code, dstOf_code, gzOf_code, rdstOf_code, popOf_code, szOf_code, fszOf_code, rmOf_code, etOf_code, scopeOf_code, modeOf_ord, gOf_val, eOf_val, finOfNat_val, boolNat_eq, BitVec.ofNat_toNat, BitVec.setWidth_eq, fn0, fldB, fbit, hwf]

theorem dw_wfaddReg_b {ww : Word} (et : Et) (wd : WReg) (wa : WReg) (g : Src) (k : KReg) (kz : Bool) (rm : Rm) (hw : ww = packW 130 0 (wd.val) (wa.val) 0 (k.val) kz (et.code) 1 (g.code) (rm.code)) (hwf : ((!etInt et : Bool)) = true) : decodeWord ww = .ok (.wfaddReg et wd wa (.bcast g) k kz rm) := by
  have hb_et := Et.code_lt et
  have hb_wd := wd.isLt
  have hb_wa := wa.isLt
  have hb_g := Src.code_lt g
  have hb_k := k.isLt
  have hb_kz := Bool.toNat_lt kz
  have hb_rm := Rm.code_lt rm
  have F := fieldsW hw (by decide) (by decide) (by omega) (by omega) (by decide) (by omega) (by omega) (by decide) (by omega) (by omega)
  have f_0_2 : fld ww 0 2 = rm.code := (F.mod 0 2 (by decide)).trans (by omega)
  have f_2_24 : fld ww 2 24 = 0 := (F.mod 2 24 (by decide)).trans (by omega)
  try simp [← BitVec.toNat_inj, GZ.code_zero] at hwf
  rw [dec_82 F.op]
  simp [dOpnd, dWF, dWF1, decWfp, fEt, fFn, fG, fK, fKZ, fS, fWA, fWB, fWD, f_0_2, f_2_24, F.g, F.s, F.et, F.kz, F.k, F.wb, F.wa, F.wd, F.fn, F.op, gOf, Except.map, need, gUpTo, srcIf, GZ.code_zero, optG, Sz.code_zero, Rm.code_two, bind, Except.bind, pure, Except.pure, srcOf_code, dstOf_code, gzOf_code, rdstOf_code, popOf_code, szOf_code, fszOf_code, rmOf_code, etOf_code, scopeOf_code, modeOf_ord, gOf_val, eOf_val, finOfNat_val, boolNat_eq, BitVec.ofNat_toNat, BitVec.setWidth_eq, fn0, fldB, fbit, hwf]

theorem dw_wfaddReg_l {ww : Word} (et : Et) (wd : WReg) (wa : WReg) (k : KReg) (kz : Bool) (rm : Rm) (hw : ww = packW 130 0 (wd.val) (wa.val) 0 (k.val) kz (et.code) 2 0 (rm.code)) (hwf : ((!etInt et : Bool)) = true) : decodeWord ww = .ok (.wfaddReg et wd wa .lane k kz rm) := by
  have hb_et := Et.code_lt et
  have hb_wd := wd.isLt
  have hb_wa := wa.isLt
  have hb_k := k.isLt
  have hb_kz := Bool.toNat_lt kz
  have hb_rm := Rm.code_lt rm
  have F := fieldsW hw (by decide) (by decide) (by omega) (by omega) (by decide) (by omega) (by omega) (by decide) (by decide) (by omega)
  have f_0_2 : fld ww 0 2 = rm.code := (F.mod 0 2 (by decide)).trans (by omega)
  have f_2_24 : fld ww 2 24 = 0 := (F.mod 2 24 (by decide)).trans (by omega)
  try simp [← BitVec.toNat_inj, GZ.code_zero] at hwf
  rw [dec_82 F.op]
  simp [dOpnd, dWF, dWF1, decWfp, fEt, fFn, fG, fK, fKZ, fS, fWA, fWB, fWD, f_0_2, f_2_24, F.g, F.s, F.et, F.kz, F.k, F.wb, F.wa, F.wd, F.fn, F.op, gOf, Except.map, need, gUpTo, srcIf, GZ.code_zero, optG, Sz.code_zero, Rm.code_two, bind, Except.bind, pure, Except.pure, srcOf_code, dstOf_code, gzOf_code, rdstOf_code, popOf_code, szOf_code, fszOf_code, rmOf_code, etOf_code, scopeOf_code, modeOf_ord, gOf_val, eOf_val, finOfNat_val, boolNat_eq, BitVec.ofNat_toNat, BitVec.setWidth_eq, fn0, fldB, fbit, hwf]

theorem dw_wfaddLit {ww : Word} (et : Et) (wd : WReg) (wa : WReg) (imm : BitVec 32) (k : KReg) (kz : Bool) (hw : ww = packWL 131 0 (wd.val) (wa.val) (k.val) kz (et.code) (imm.toNat)) (hwf : ((!etInt et : Bool)) = true) : decodeWord ww = .ok (.wfaddLit et wd wa imm k kz) := by
  have hb_et := Et.code_lt et
  have hb_wd := wd.isLt
  have hb_wa := wa.isLt
  have hb_imm := imm.isLt
  have hb_k := k.isLt
  have hb_kz := Bool.toNat_lt kz
  have F := fieldsWL hw (by decide) (by decide) (by omega) (by omega) (by omega) (by omega) (by omega)
  have f_0_32 : fld ww 0 32 = imm.toNat := (F.lit 0 32 (by decide)).trans (by omega)
  try simp [← BitVec.toNat_inj, GZ.code_zero] at hwf
  rw [dec_83 F.op]
  simp [dLitForm, dWFL, decWfpL, fEt, fFn, fK, fKZ, fLit, fS, fWA, fWD, f_0_32, F.s, F.et, F.kz, F.k, F.wb, F.wa, F.wd, F.fn, F.op, gOf, Except.map, need, gUpTo, srcIf, GZ.code_zero, optG, Sz.code_zero, Rm.code_two, bind, Except.bind, pure, Except.pure, srcOf_code, dstOf_code, gzOf_code, rdstOf_code, popOf_code, szOf_code, fszOf_code, rmOf_code, etOf_code, scopeOf_code, modeOf_ord, gOf_val, eOf_val, finOfNat_val, boolNat_eq, BitVec.ofNat_toNat, BitVec.setWidth_eq, fn0, fldB, fbit, hwf]

theorem dw_wfsubReg_r {ww : Word} (et : Et) (wd : WReg) (wa : WReg) (r : WReg) (k : KReg) (kz : Bool) (rm : Rm) (hw : ww = packW 130 1 (wd.val) (wa.val) (r.val) (k.val) kz (et.code) 0 0 (rm.code)) (hwf : ((!etInt et : Bool)) = true) : decodeWord ww = .ok (.wfsubReg et wd wa (.reg r) k kz rm) := by
  have hb_et := Et.code_lt et
  have hb_wd := wd.isLt
  have hb_wa := wa.isLt
  have hb_r := r.isLt
  have hb_k := k.isLt
  have hb_kz := Bool.toNat_lt kz
  have hb_rm := Rm.code_lt rm
  have F := fieldsW hw (by decide) (by decide) (by omega) (by omega) (by omega) (by omega) (by omega) (by decide) (by decide) (by omega)
  have f_0_2 : fld ww 0 2 = rm.code := (F.mod 0 2 (by decide)).trans (by omega)
  have f_2_24 : fld ww 2 24 = 0 := (F.mod 2 24 (by decide)).trans (by omega)
  try simp [← BitVec.toNat_inj, GZ.code_zero] at hwf
  rw [dec_82 F.op]
  simp [dOpnd, dWF, dWF1, decWfp, fEt, fFn, fG, fK, fKZ, fS, fWA, fWB, fWD, f_0_2, f_2_24, F.g, F.s, F.et, F.kz, F.k, F.wb, F.wa, F.wd, F.fn, F.op, gOf, Except.map, need, gUpTo, srcIf, GZ.code_zero, optG, Sz.code_zero, Rm.code_two, bind, Except.bind, pure, Except.pure, srcOf_code, dstOf_code, gzOf_code, rdstOf_code, popOf_code, szOf_code, fszOf_code, rmOf_code, etOf_code, scopeOf_code, modeOf_ord, gOf_val, eOf_val, finOfNat_val, boolNat_eq, BitVec.ofNat_toNat, BitVec.setWidth_eq, fn0, fldB, fbit, hwf]

theorem dw_wfsubReg_b {ww : Word} (et : Et) (wd : WReg) (wa : WReg) (g : Src) (k : KReg) (kz : Bool) (rm : Rm) (hw : ww = packW 130 1 (wd.val) (wa.val) 0 (k.val) kz (et.code) 1 (g.code) (rm.code)) (hwf : ((!etInt et : Bool)) = true) : decodeWord ww = .ok (.wfsubReg et wd wa (.bcast g) k kz rm) := by
  have hb_et := Et.code_lt et
  have hb_wd := wd.isLt
  have hb_wa := wa.isLt
  have hb_g := Src.code_lt g
  have hb_k := k.isLt
  have hb_kz := Bool.toNat_lt kz
  have hb_rm := Rm.code_lt rm
  have F := fieldsW hw (by decide) (by decide) (by omega) (by omega) (by decide) (by omega) (by omega) (by decide) (by omega) (by omega)
  have f_0_2 : fld ww 0 2 = rm.code := (F.mod 0 2 (by decide)).trans (by omega)
  have f_2_24 : fld ww 2 24 = 0 := (F.mod 2 24 (by decide)).trans (by omega)
  try simp [← BitVec.toNat_inj, GZ.code_zero] at hwf
  rw [dec_82 F.op]
  simp [dOpnd, dWF, dWF1, decWfp, fEt, fFn, fG, fK, fKZ, fS, fWA, fWB, fWD, f_0_2, f_2_24, F.g, F.s, F.et, F.kz, F.k, F.wb, F.wa, F.wd, F.fn, F.op, gOf, Except.map, need, gUpTo, srcIf, GZ.code_zero, optG, Sz.code_zero, Rm.code_two, bind, Except.bind, pure, Except.pure, srcOf_code, dstOf_code, gzOf_code, rdstOf_code, popOf_code, szOf_code, fszOf_code, rmOf_code, etOf_code, scopeOf_code, modeOf_ord, gOf_val, eOf_val, finOfNat_val, boolNat_eq, BitVec.ofNat_toNat, BitVec.setWidth_eq, fn0, fldB, fbit, hwf]

theorem dw_wfsubReg_l {ww : Word} (et : Et) (wd : WReg) (wa : WReg) (k : KReg) (kz : Bool) (rm : Rm) (hw : ww = packW 130 1 (wd.val) (wa.val) 0 (k.val) kz (et.code) 2 0 (rm.code)) (hwf : ((!etInt et : Bool)) = true) : decodeWord ww = .ok (.wfsubReg et wd wa .lane k kz rm) := by
  have hb_et := Et.code_lt et
  have hb_wd := wd.isLt
  have hb_wa := wa.isLt
  have hb_k := k.isLt
  have hb_kz := Bool.toNat_lt kz
  have hb_rm := Rm.code_lt rm
  have F := fieldsW hw (by decide) (by decide) (by omega) (by omega) (by decide) (by omega) (by omega) (by decide) (by decide) (by omega)
  have f_0_2 : fld ww 0 2 = rm.code := (F.mod 0 2 (by decide)).trans (by omega)
  have f_2_24 : fld ww 2 24 = 0 := (F.mod 2 24 (by decide)).trans (by omega)
  try simp [← BitVec.toNat_inj, GZ.code_zero] at hwf
  rw [dec_82 F.op]
  simp [dOpnd, dWF, dWF1, decWfp, fEt, fFn, fG, fK, fKZ, fS, fWA, fWB, fWD, f_0_2, f_2_24, F.g, F.s, F.et, F.kz, F.k, F.wb, F.wa, F.wd, F.fn, F.op, gOf, Except.map, need, gUpTo, srcIf, GZ.code_zero, optG, Sz.code_zero, Rm.code_two, bind, Except.bind, pure, Except.pure, srcOf_code, dstOf_code, gzOf_code, rdstOf_code, popOf_code, szOf_code, fszOf_code, rmOf_code, etOf_code, scopeOf_code, modeOf_ord, gOf_val, eOf_val, finOfNat_val, boolNat_eq, BitVec.ofNat_toNat, BitVec.setWidth_eq, fn0, fldB, fbit, hwf]

theorem dw_wfsubLit {ww : Word} (et : Et) (wd : WReg) (wa : WReg) (imm : BitVec 32) (k : KReg) (kz : Bool) (hw : ww = packWL 131 1 (wd.val) (wa.val) (k.val) kz (et.code) (imm.toNat)) (hwf : ((!etInt et : Bool)) = true) : decodeWord ww = .ok (.wfsubLit et wd wa imm k kz) := by
  have hb_et := Et.code_lt et
  have hb_wd := wd.isLt
  have hb_wa := wa.isLt
  have hb_imm := imm.isLt
  have hb_k := k.isLt
  have hb_kz := Bool.toNat_lt kz
  have F := fieldsWL hw (by decide) (by decide) (by omega) (by omega) (by omega) (by omega) (by omega)
  have f_0_32 : fld ww 0 32 = imm.toNat := (F.lit 0 32 (by decide)).trans (by omega)
  try simp [← BitVec.toNat_inj, GZ.code_zero] at hwf
  rw [dec_83 F.op]
  simp [dLitForm, dWFL, decWfpL, fEt, fFn, fK, fKZ, fLit, fS, fWA, fWD, f_0_32, F.s, F.et, F.kz, F.k, F.wb, F.wa, F.wd, F.fn, F.op, gOf, Except.map, need, gUpTo, srcIf, GZ.code_zero, optG, Sz.code_zero, Rm.code_two, bind, Except.bind, pure, Except.pure, srcOf_code, dstOf_code, gzOf_code, rdstOf_code, popOf_code, szOf_code, fszOf_code, rmOf_code, etOf_code, scopeOf_code, modeOf_ord, gOf_val, eOf_val, finOfNat_val, boolNat_eq, BitVec.ofNat_toNat, BitVec.setWidth_eq, fn0, fldB, fbit, hwf]

theorem dw_wfmulReg_r {ww : Word} (et : Et) (wd : WReg) (wa : WReg) (r : WReg) (k : KReg) (kz : Bool) (rm : Rm) (hw : ww = packW 130 2 (wd.val) (wa.val) (r.val) (k.val) kz (et.code) 0 0 (rm.code)) (hwf : ((!etInt et : Bool)) = true) : decodeWord ww = .ok (.wfmulReg et wd wa (.reg r) k kz rm) := by
  have hb_et := Et.code_lt et
  have hb_wd := wd.isLt
  have hb_wa := wa.isLt
  have hb_r := r.isLt
  have hb_k := k.isLt
  have hb_kz := Bool.toNat_lt kz
  have hb_rm := Rm.code_lt rm
  have F := fieldsW hw (by decide) (by decide) (by omega) (by omega) (by omega) (by omega) (by omega) (by decide) (by decide) (by omega)
  have f_0_2 : fld ww 0 2 = rm.code := (F.mod 0 2 (by decide)).trans (by omega)
  have f_2_24 : fld ww 2 24 = 0 := (F.mod 2 24 (by decide)).trans (by omega)
  try simp [← BitVec.toNat_inj, GZ.code_zero] at hwf
  rw [dec_82 F.op]
  simp [dOpnd, dWF, dWF1, decWfp, fEt, fFn, fG, fK, fKZ, fS, fWA, fWB, fWD, f_0_2, f_2_24, F.g, F.s, F.et, F.kz, F.k, F.wb, F.wa, F.wd, F.fn, F.op, gOf, Except.map, need, gUpTo, srcIf, GZ.code_zero, optG, Sz.code_zero, Rm.code_two, bind, Except.bind, pure, Except.pure, srcOf_code, dstOf_code, gzOf_code, rdstOf_code, popOf_code, szOf_code, fszOf_code, rmOf_code, etOf_code, scopeOf_code, modeOf_ord, gOf_val, eOf_val, finOfNat_val, boolNat_eq, BitVec.ofNat_toNat, BitVec.setWidth_eq, fn0, fldB, fbit, hwf]

theorem dw_wfmulReg_b {ww : Word} (et : Et) (wd : WReg) (wa : WReg) (g : Src) (k : KReg) (kz : Bool) (rm : Rm) (hw : ww = packW 130 2 (wd.val) (wa.val) 0 (k.val) kz (et.code) 1 (g.code) (rm.code)) (hwf : ((!etInt et : Bool)) = true) : decodeWord ww = .ok (.wfmulReg et wd wa (.bcast g) k kz rm) := by
  have hb_et := Et.code_lt et
  have hb_wd := wd.isLt
  have hb_wa := wa.isLt
  have hb_g := Src.code_lt g
  have hb_k := k.isLt
  have hb_kz := Bool.toNat_lt kz
  have hb_rm := Rm.code_lt rm
  have F := fieldsW hw (by decide) (by decide) (by omega) (by omega) (by decide) (by omega) (by omega) (by decide) (by omega) (by omega)
  have f_0_2 : fld ww 0 2 = rm.code := (F.mod 0 2 (by decide)).trans (by omega)
  have f_2_24 : fld ww 2 24 = 0 := (F.mod 2 24 (by decide)).trans (by omega)
  try simp [← BitVec.toNat_inj, GZ.code_zero] at hwf
  rw [dec_82 F.op]
  simp [dOpnd, dWF, dWF1, decWfp, fEt, fFn, fG, fK, fKZ, fS, fWA, fWB, fWD, f_0_2, f_2_24, F.g, F.s, F.et, F.kz, F.k, F.wb, F.wa, F.wd, F.fn, F.op, gOf, Except.map, need, gUpTo, srcIf, GZ.code_zero, optG, Sz.code_zero, Rm.code_two, bind, Except.bind, pure, Except.pure, srcOf_code, dstOf_code, gzOf_code, rdstOf_code, popOf_code, szOf_code, fszOf_code, rmOf_code, etOf_code, scopeOf_code, modeOf_ord, gOf_val, eOf_val, finOfNat_val, boolNat_eq, BitVec.ofNat_toNat, BitVec.setWidth_eq, fn0, fldB, fbit, hwf]

theorem dw_wfmulReg_l {ww : Word} (et : Et) (wd : WReg) (wa : WReg) (k : KReg) (kz : Bool) (rm : Rm) (hw : ww = packW 130 2 (wd.val) (wa.val) 0 (k.val) kz (et.code) 2 0 (rm.code)) (hwf : ((!etInt et : Bool)) = true) : decodeWord ww = .ok (.wfmulReg et wd wa .lane k kz rm) := by
  have hb_et := Et.code_lt et
  have hb_wd := wd.isLt
  have hb_wa := wa.isLt
  have hb_k := k.isLt
  have hb_kz := Bool.toNat_lt kz
  have hb_rm := Rm.code_lt rm
  have F := fieldsW hw (by decide) (by decide) (by omega) (by omega) (by decide) (by omega) (by omega) (by decide) (by decide) (by omega)
  have f_0_2 : fld ww 0 2 = rm.code := (F.mod 0 2 (by decide)).trans (by omega)
  have f_2_24 : fld ww 2 24 = 0 := (F.mod 2 24 (by decide)).trans (by omega)
  try simp [← BitVec.toNat_inj, GZ.code_zero] at hwf
  rw [dec_82 F.op]
  simp [dOpnd, dWF, dWF1, decWfp, fEt, fFn, fG, fK, fKZ, fS, fWA, fWB, fWD, f_0_2, f_2_24, F.g, F.s, F.et, F.kz, F.k, F.wb, F.wa, F.wd, F.fn, F.op, gOf, Except.map, need, gUpTo, srcIf, GZ.code_zero, optG, Sz.code_zero, Rm.code_two, bind, Except.bind, pure, Except.pure, srcOf_code, dstOf_code, gzOf_code, rdstOf_code, popOf_code, szOf_code, fszOf_code, rmOf_code, etOf_code, scopeOf_code, modeOf_ord, gOf_val, eOf_val, finOfNat_val, boolNat_eq, BitVec.ofNat_toNat, BitVec.setWidth_eq, fn0, fldB, fbit, hwf]

theorem dw_wfmulLit {ww : Word} (et : Et) (wd : WReg) (wa : WReg) (imm : BitVec 32) (k : KReg) (kz : Bool) (hw : ww = packWL 131 2 (wd.val) (wa.val) (k.val) kz (et.code) (imm.toNat)) (hwf : ((!etInt et : Bool)) = true) : decodeWord ww = .ok (.wfmulLit et wd wa imm k kz) := by
  have hb_et := Et.code_lt et
  have hb_wd := wd.isLt
  have hb_wa := wa.isLt
  have hb_imm := imm.isLt
  have hb_k := k.isLt
  have hb_kz := Bool.toNat_lt kz
  have F := fieldsWL hw (by decide) (by decide) (by omega) (by omega) (by omega) (by omega) (by omega)
  have f_0_32 : fld ww 0 32 = imm.toNat := (F.lit 0 32 (by decide)).trans (by omega)
  try simp [← BitVec.toNat_inj, GZ.code_zero] at hwf
  rw [dec_83 F.op]
  simp [dLitForm, dWFL, decWfpL, fEt, fFn, fK, fKZ, fLit, fS, fWA, fWD, f_0_32, F.s, F.et, F.kz, F.k, F.wb, F.wa, F.wd, F.fn, F.op, gOf, Except.map, need, gUpTo, srcIf, GZ.code_zero, optG, Sz.code_zero, Rm.code_two, bind, Except.bind, pure, Except.pure, srcOf_code, dstOf_code, gzOf_code, rdstOf_code, popOf_code, szOf_code, fszOf_code, rmOf_code, etOf_code, scopeOf_code, modeOf_ord, gOf_val, eOf_val, finOfNat_val, boolNat_eq, BitVec.ofNat_toNat, BitVec.setWidth_eq, fn0, fldB, fbit, hwf]

theorem dw_wfmaReg_r {ww : Word} (et : Et) (wd : WReg) (wa : WReg) (r : WReg) (k : KReg) (kz : Bool) (rm : Rm) (hw : ww = packW 130 3 (wd.val) (wa.val) (r.val) (k.val) kz (et.code) 0 0 (rm.code)) (hwf : ((!etInt et : Bool)) = true) : decodeWord ww = .ok (.wfmaReg et wd wa (.reg r) k kz rm) := by
  have hb_et := Et.code_lt et
  have hb_wd := wd.isLt
  have hb_wa := wa.isLt
  have hb_r := r.isLt
  have hb_k := k.isLt
  have hb_kz := Bool.toNat_lt kz
  have hb_rm := Rm.code_lt rm
  have F := fieldsW hw (by decide) (by decide) (by omega) (by omega) (by omega) (by omega) (by omega) (by decide) (by decide) (by omega)
  have f_0_2 : fld ww 0 2 = rm.code := (F.mod 0 2 (by decide)).trans (by omega)
  have f_2_24 : fld ww 2 24 = 0 := (F.mod 2 24 (by decide)).trans (by omega)
  try simp [← BitVec.toNat_inj, GZ.code_zero] at hwf
  rw [dec_82 F.op]
  simp [dOpnd, dWF, dWF1, decWfp, fEt, fFn, fG, fK, fKZ, fS, fWA, fWB, fWD, f_0_2, f_2_24, F.g, F.s, F.et, F.kz, F.k, F.wb, F.wa, F.wd, F.fn, F.op, gOf, Except.map, need, gUpTo, srcIf, GZ.code_zero, optG, Sz.code_zero, Rm.code_two, bind, Except.bind, pure, Except.pure, srcOf_code, dstOf_code, gzOf_code, rdstOf_code, popOf_code, szOf_code, fszOf_code, rmOf_code, etOf_code, scopeOf_code, modeOf_ord, gOf_val, eOf_val, finOfNat_val, boolNat_eq, BitVec.ofNat_toNat, BitVec.setWidth_eq, fn0, fldB, fbit, hwf]

theorem dw_wfmaReg_b {ww : Word} (et : Et) (wd : WReg) (wa : WReg) (g : Src) (k : KReg) (kz : Bool) (rm : Rm) (hw : ww = packW 130 3 (wd.val) (wa.val) 0 (k.val) kz (et.code) 1 (g.code) (rm.code)) (hwf : ((!etInt et : Bool)) = true) : decodeWord ww = .ok (.wfmaReg et wd wa (.bcast g) k kz rm) := by
  have hb_et := Et.code_lt et
  have hb_wd := wd.isLt
  have hb_wa := wa.isLt
  have hb_g := Src.code_lt g
  have hb_k := k.isLt
  have hb_kz := Bool.toNat_lt kz
  have hb_rm := Rm.code_lt rm
  have F := fieldsW hw (by decide) (by decide) (by omega) (by omega) (by decide) (by omega) (by omega) (by decide) (by omega) (by omega)
  have f_0_2 : fld ww 0 2 = rm.code := (F.mod 0 2 (by decide)).trans (by omega)
  have f_2_24 : fld ww 2 24 = 0 := (F.mod 2 24 (by decide)).trans (by omega)
  try simp [← BitVec.toNat_inj, GZ.code_zero] at hwf
  rw [dec_82 F.op]
  simp [dOpnd, dWF, dWF1, decWfp, fEt, fFn, fG, fK, fKZ, fS, fWA, fWB, fWD, f_0_2, f_2_24, F.g, F.s, F.et, F.kz, F.k, F.wb, F.wa, F.wd, F.fn, F.op, gOf, Except.map, need, gUpTo, srcIf, GZ.code_zero, optG, Sz.code_zero, Rm.code_two, bind, Except.bind, pure, Except.pure, srcOf_code, dstOf_code, gzOf_code, rdstOf_code, popOf_code, szOf_code, fszOf_code, rmOf_code, etOf_code, scopeOf_code, modeOf_ord, gOf_val, eOf_val, finOfNat_val, boolNat_eq, BitVec.ofNat_toNat, BitVec.setWidth_eq, fn0, fldB, fbit, hwf]

theorem dw_wfmaReg_l {ww : Word} (et : Et) (wd : WReg) (wa : WReg) (k : KReg) (kz : Bool) (rm : Rm) (hw : ww = packW 130 3 (wd.val) (wa.val) 0 (k.val) kz (et.code) 2 0 (rm.code)) (hwf : ((!etInt et : Bool)) = true) : decodeWord ww = .ok (.wfmaReg et wd wa .lane k kz rm) := by
  have hb_et := Et.code_lt et
  have hb_wd := wd.isLt
  have hb_wa := wa.isLt
  have hb_k := k.isLt
  have hb_kz := Bool.toNat_lt kz
  have hb_rm := Rm.code_lt rm
  have F := fieldsW hw (by decide) (by decide) (by omega) (by omega) (by decide) (by omega) (by omega) (by decide) (by decide) (by omega)
  have f_0_2 : fld ww 0 2 = rm.code := (F.mod 0 2 (by decide)).trans (by omega)
  have f_2_24 : fld ww 2 24 = 0 := (F.mod 2 24 (by decide)).trans (by omega)
  try simp [← BitVec.toNat_inj, GZ.code_zero] at hwf
  rw [dec_82 F.op]
  simp [dOpnd, dWF, dWF1, decWfp, fEt, fFn, fG, fK, fKZ, fS, fWA, fWB, fWD, f_0_2, f_2_24, F.g, F.s, F.et, F.kz, F.k, F.wb, F.wa, F.wd, F.fn, F.op, gOf, Except.map, need, gUpTo, srcIf, GZ.code_zero, optG, Sz.code_zero, Rm.code_two, bind, Except.bind, pure, Except.pure, srcOf_code, dstOf_code, gzOf_code, rdstOf_code, popOf_code, szOf_code, fszOf_code, rmOf_code, etOf_code, scopeOf_code, modeOf_ord, gOf_val, eOf_val, finOfNat_val, boolNat_eq, BitVec.ofNat_toNat, BitVec.setWidth_eq, fn0, fldB, fbit, hwf]

theorem dw_wfmaLit {ww : Word} (et : Et) (wd : WReg) (wa : WReg) (imm : BitVec 32) (k : KReg) (kz : Bool) (hw : ww = packWL 131 3 (wd.val) (wa.val) (k.val) kz (et.code) (imm.toNat)) (hwf : ((!etInt et : Bool)) = true) : decodeWord ww = .ok (.wfmaLit et wd wa imm k kz) := by
  have hb_et := Et.code_lt et
  have hb_wd := wd.isLt
  have hb_wa := wa.isLt
  have hb_imm := imm.isLt
  have hb_k := k.isLt
  have hb_kz := Bool.toNat_lt kz
  have F := fieldsWL hw (by decide) (by decide) (by omega) (by omega) (by omega) (by omega) (by omega)
  have f_0_32 : fld ww 0 32 = imm.toNat := (F.lit 0 32 (by decide)).trans (by omega)
  try simp [← BitVec.toNat_inj, GZ.code_zero] at hwf
  rw [dec_83 F.op]
  simp [dLitForm, dWFL, decWfpL, fEt, fFn, fK, fKZ, fLit, fS, fWA, fWD, f_0_32, F.s, F.et, F.kz, F.k, F.wb, F.wa, F.wd, F.fn, F.op, gOf, Except.map, need, gUpTo, srcIf, GZ.code_zero, optG, Sz.code_zero, Rm.code_two, bind, Except.bind, pure, Except.pure, srcOf_code, dstOf_code, gzOf_code, rdstOf_code, popOf_code, szOf_code, fszOf_code, rmOf_code, etOf_code, scopeOf_code, modeOf_ord, gOf_val, eOf_val, finOfNat_val, boolNat_eq, BitVec.ofNat_toNat, BitVec.setWidth_eq, fn0, fldB, fbit, hwf]

theorem dw_wfminReg_r {ww : Word} (et : Et) (wd : WReg) (wa : WReg) (r : WReg) (k : KReg) (kz : Bool) (rm : Rm) (hw : ww = packW 130 4 (wd.val) (wa.val) (r.val) (k.val) kz (et.code) 0 0 (rm.code)) (hwf : ((!etInt et : Bool)) = true) : decodeWord ww = .ok (.wfminReg et wd wa (.reg r) k kz rm) := by
  have hb_et := Et.code_lt et
  have hb_wd := wd.isLt
  have hb_wa := wa.isLt
  have hb_r := r.isLt
  have hb_k := k.isLt
  have hb_kz := Bool.toNat_lt kz
  have hb_rm := Rm.code_lt rm
  have F := fieldsW hw (by decide) (by decide) (by omega) (by omega) (by omega) (by omega) (by omega) (by decide) (by decide) (by omega)
  have f_0_2 : fld ww 0 2 = rm.code := (F.mod 0 2 (by decide)).trans (by omega)
  have f_2_24 : fld ww 2 24 = 0 := (F.mod 2 24 (by decide)).trans (by omega)
  try simp [← BitVec.toNat_inj, GZ.code_zero] at hwf
  rw [dec_82 F.op]
  simp [dOpnd, dWF, dWF1, decWfp, fEt, fFn, fG, fK, fKZ, fS, fWA, fWB, fWD, f_0_2, f_2_24, F.g, F.s, F.et, F.kz, F.k, F.wb, F.wa, F.wd, F.fn, F.op, gOf, Except.map, need, gUpTo, srcIf, GZ.code_zero, optG, Sz.code_zero, Rm.code_two, bind, Except.bind, pure, Except.pure, srcOf_code, dstOf_code, gzOf_code, rdstOf_code, popOf_code, szOf_code, fszOf_code, rmOf_code, etOf_code, scopeOf_code, modeOf_ord, gOf_val, eOf_val, finOfNat_val, boolNat_eq, BitVec.ofNat_toNat, BitVec.setWidth_eq, fn0, fldB, fbit, hwf]

theorem dw_wfminReg_b {ww : Word} (et : Et) (wd : WReg) (wa : WReg) (g : Src) (k : KReg) (kz : Bool) (rm : Rm) (hw : ww = packW 130 4 (wd.val) (wa.val) 0 (k.val) kz (et.code) 1 (g.code) (rm.code)) (hwf : ((!etInt et : Bool)) = true) : decodeWord ww = .ok (.wfminReg et wd wa (.bcast g) k kz rm) := by
  have hb_et := Et.code_lt et
  have hb_wd := wd.isLt
  have hb_wa := wa.isLt
  have hb_g := Src.code_lt g
  have hb_k := k.isLt
  have hb_kz := Bool.toNat_lt kz
  have hb_rm := Rm.code_lt rm
  have F := fieldsW hw (by decide) (by decide) (by omega) (by omega) (by decide) (by omega) (by omega) (by decide) (by omega) (by omega)
  have f_0_2 : fld ww 0 2 = rm.code := (F.mod 0 2 (by decide)).trans (by omega)
  have f_2_24 : fld ww 2 24 = 0 := (F.mod 2 24 (by decide)).trans (by omega)
  try simp [← BitVec.toNat_inj, GZ.code_zero] at hwf
  rw [dec_82 F.op]
  simp [dOpnd, dWF, dWF1, decWfp, fEt, fFn, fG, fK, fKZ, fS, fWA, fWB, fWD, f_0_2, f_2_24, F.g, F.s, F.et, F.kz, F.k, F.wb, F.wa, F.wd, F.fn, F.op, gOf, Except.map, need, gUpTo, srcIf, GZ.code_zero, optG, Sz.code_zero, Rm.code_two, bind, Except.bind, pure, Except.pure, srcOf_code, dstOf_code, gzOf_code, rdstOf_code, popOf_code, szOf_code, fszOf_code, rmOf_code, etOf_code, scopeOf_code, modeOf_ord, gOf_val, eOf_val, finOfNat_val, boolNat_eq, BitVec.ofNat_toNat, BitVec.setWidth_eq, fn0, fldB, fbit, hwf]

theorem dw_wfminReg_l {ww : Word} (et : Et) (wd : WReg) (wa : WReg) (k : KReg) (kz : Bool) (rm : Rm) (hw : ww = packW 130 4 (wd.val) (wa.val) 0 (k.val) kz (et.code) 2 0 (rm.code)) (hwf : ((!etInt et : Bool)) = true) : decodeWord ww = .ok (.wfminReg et wd wa .lane k kz rm) := by
  have hb_et := Et.code_lt et
  have hb_wd := wd.isLt
  have hb_wa := wa.isLt
  have hb_k := k.isLt
  have hb_kz := Bool.toNat_lt kz
  have hb_rm := Rm.code_lt rm
  have F := fieldsW hw (by decide) (by decide) (by omega) (by omega) (by decide) (by omega) (by omega) (by decide) (by decide) (by omega)
  have f_0_2 : fld ww 0 2 = rm.code := (F.mod 0 2 (by decide)).trans (by omega)
  have f_2_24 : fld ww 2 24 = 0 := (F.mod 2 24 (by decide)).trans (by omega)
  try simp [← BitVec.toNat_inj, GZ.code_zero] at hwf
  rw [dec_82 F.op]
  simp [dOpnd, dWF, dWF1, decWfp, fEt, fFn, fG, fK, fKZ, fS, fWA, fWB, fWD, f_0_2, f_2_24, F.g, F.s, F.et, F.kz, F.k, F.wb, F.wa, F.wd, F.fn, F.op, gOf, Except.map, need, gUpTo, srcIf, GZ.code_zero, optG, Sz.code_zero, Rm.code_two, bind, Except.bind, pure, Except.pure, srcOf_code, dstOf_code, gzOf_code, rdstOf_code, popOf_code, szOf_code, fszOf_code, rmOf_code, etOf_code, scopeOf_code, modeOf_ord, gOf_val, eOf_val, finOfNat_val, boolNat_eq, BitVec.ofNat_toNat, BitVec.setWidth_eq, fn0, fldB, fbit, hwf]

theorem dw_wfminLit {ww : Word} (et : Et) (wd : WReg) (wa : WReg) (imm : BitVec 32) (k : KReg) (kz : Bool) (hw : ww = packWL 131 4 (wd.val) (wa.val) (k.val) kz (et.code) (imm.toNat)) (hwf : ((!etInt et : Bool)) = true) : decodeWord ww = .ok (.wfminLit et wd wa imm k kz) := by
  have hb_et := Et.code_lt et
  have hb_wd := wd.isLt
  have hb_wa := wa.isLt
  have hb_imm := imm.isLt
  have hb_k := k.isLt
  have hb_kz := Bool.toNat_lt kz
  have F := fieldsWL hw (by decide) (by decide) (by omega) (by omega) (by omega) (by omega) (by omega)
  have f_0_32 : fld ww 0 32 = imm.toNat := (F.lit 0 32 (by decide)).trans (by omega)
  try simp [← BitVec.toNat_inj, GZ.code_zero] at hwf
  rw [dec_83 F.op]
  simp [dLitForm, dWFL, decWfpL, fEt, fFn, fK, fKZ, fLit, fS, fWA, fWD, f_0_32, F.s, F.et, F.kz, F.k, F.wb, F.wa, F.wd, F.fn, F.op, gOf, Except.map, need, gUpTo, srcIf, GZ.code_zero, optG, Sz.code_zero, Rm.code_two, bind, Except.bind, pure, Except.pure, srcOf_code, dstOf_code, gzOf_code, rdstOf_code, popOf_code, szOf_code, fszOf_code, rmOf_code, etOf_code, scopeOf_code, modeOf_ord, gOf_val, eOf_val, finOfNat_val, boolNat_eq, BitVec.ofNat_toNat, BitVec.setWidth_eq, fn0, fldB, fbit, hwf]

theorem dw_wfmaxReg_r {ww : Word} (et : Et) (wd : WReg) (wa : WReg) (r : WReg) (k : KReg) (kz : Bool) (rm : Rm) (hw : ww = packW 130 5 (wd.val) (wa.val) (r.val) (k.val) kz (et.code) 0 0 (rm.code)) (hwf : ((!etInt et : Bool)) = true) : decodeWord ww = .ok (.wfmaxReg et wd wa (.reg r) k kz rm) := by
  have hb_et := Et.code_lt et
  have hb_wd := wd.isLt
  have hb_wa := wa.isLt
  have hb_r := r.isLt
  have hb_k := k.isLt
  have hb_kz := Bool.toNat_lt kz
  have hb_rm := Rm.code_lt rm
  have F := fieldsW hw (by decide) (by decide) (by omega) (by omega) (by omega) (by omega) (by omega) (by decide) (by decide) (by omega)
  have f_0_2 : fld ww 0 2 = rm.code := (F.mod 0 2 (by decide)).trans (by omega)
  have f_2_24 : fld ww 2 24 = 0 := (F.mod 2 24 (by decide)).trans (by omega)
  try simp [← BitVec.toNat_inj, GZ.code_zero] at hwf
  rw [dec_82 F.op]
  simp [dOpnd, dWF, dWF1, decWfp, fEt, fFn, fG, fK, fKZ, fS, fWA, fWB, fWD, f_0_2, f_2_24, F.g, F.s, F.et, F.kz, F.k, F.wb, F.wa, F.wd, F.fn, F.op, gOf, Except.map, need, gUpTo, srcIf, GZ.code_zero, optG, Sz.code_zero, Rm.code_two, bind, Except.bind, pure, Except.pure, srcOf_code, dstOf_code, gzOf_code, rdstOf_code, popOf_code, szOf_code, fszOf_code, rmOf_code, etOf_code, scopeOf_code, modeOf_ord, gOf_val, eOf_val, finOfNat_val, boolNat_eq, BitVec.ofNat_toNat, BitVec.setWidth_eq, fn0, fldB, fbit, hwf]

theorem dw_wfmaxReg_b {ww : Word} (et : Et) (wd : WReg) (wa : WReg) (g : Src) (k : KReg) (kz : Bool) (rm : Rm) (hw : ww = packW 130 5 (wd.val) (wa.val) 0 (k.val) kz (et.code) 1 (g.code) (rm.code)) (hwf : ((!etInt et : Bool)) = true) : decodeWord ww = .ok (.wfmaxReg et wd wa (.bcast g) k kz rm) := by
  have hb_et := Et.code_lt et
  have hb_wd := wd.isLt
  have hb_wa := wa.isLt
  have hb_g := Src.code_lt g
  have hb_k := k.isLt
  have hb_kz := Bool.toNat_lt kz
  have hb_rm := Rm.code_lt rm
  have F := fieldsW hw (by decide) (by decide) (by omega) (by omega) (by decide) (by omega) (by omega) (by decide) (by omega) (by omega)
  have f_0_2 : fld ww 0 2 = rm.code := (F.mod 0 2 (by decide)).trans (by omega)
  have f_2_24 : fld ww 2 24 = 0 := (F.mod 2 24 (by decide)).trans (by omega)
  try simp [← BitVec.toNat_inj, GZ.code_zero] at hwf
  rw [dec_82 F.op]
  simp [dOpnd, dWF, dWF1, decWfp, fEt, fFn, fG, fK, fKZ, fS, fWA, fWB, fWD, f_0_2, f_2_24, F.g, F.s, F.et, F.kz, F.k, F.wb, F.wa, F.wd, F.fn, F.op, gOf, Except.map, need, gUpTo, srcIf, GZ.code_zero, optG, Sz.code_zero, Rm.code_two, bind, Except.bind, pure, Except.pure, srcOf_code, dstOf_code, gzOf_code, rdstOf_code, popOf_code, szOf_code, fszOf_code, rmOf_code, etOf_code, scopeOf_code, modeOf_ord, gOf_val, eOf_val, finOfNat_val, boolNat_eq, BitVec.ofNat_toNat, BitVec.setWidth_eq, fn0, fldB, fbit, hwf]

theorem dw_wfmaxReg_l {ww : Word} (et : Et) (wd : WReg) (wa : WReg) (k : KReg) (kz : Bool) (rm : Rm) (hw : ww = packW 130 5 (wd.val) (wa.val) 0 (k.val) kz (et.code) 2 0 (rm.code)) (hwf : ((!etInt et : Bool)) = true) : decodeWord ww = .ok (.wfmaxReg et wd wa .lane k kz rm) := by
  have hb_et := Et.code_lt et
  have hb_wd := wd.isLt
  have hb_wa := wa.isLt
  have hb_k := k.isLt
  have hb_kz := Bool.toNat_lt kz
  have hb_rm := Rm.code_lt rm
  have F := fieldsW hw (by decide) (by decide) (by omega) (by omega) (by decide) (by omega) (by omega) (by decide) (by decide) (by omega)
  have f_0_2 : fld ww 0 2 = rm.code := (F.mod 0 2 (by decide)).trans (by omega)
  have f_2_24 : fld ww 2 24 = 0 := (F.mod 2 24 (by decide)).trans (by omega)
  try simp [← BitVec.toNat_inj, GZ.code_zero] at hwf
  rw [dec_82 F.op]
  simp [dOpnd, dWF, dWF1, decWfp, fEt, fFn, fG, fK, fKZ, fS, fWA, fWB, fWD, f_0_2, f_2_24, F.g, F.s, F.et, F.kz, F.k, F.wb, F.wa, F.wd, F.fn, F.op, gOf, Except.map, need, gUpTo, srcIf, GZ.code_zero, optG, Sz.code_zero, Rm.code_two, bind, Except.bind, pure, Except.pure, srcOf_code, dstOf_code, gzOf_code, rdstOf_code, popOf_code, szOf_code, fszOf_code, rmOf_code, etOf_code, scopeOf_code, modeOf_ord, gOf_val, eOf_val, finOfNat_val, boolNat_eq, BitVec.ofNat_toNat, BitVec.setWidth_eq, fn0, fldB, fbit, hwf]

theorem dw_wfmaxLit {ww : Word} (et : Et) (wd : WReg) (wa : WReg) (imm : BitVec 32) (k : KReg) (kz : Bool) (hw : ww = packWL 131 5 (wd.val) (wa.val) (k.val) kz (et.code) (imm.toNat)) (hwf : ((!etInt et : Bool)) = true) : decodeWord ww = .ok (.wfmaxLit et wd wa imm k kz) := by
  have hb_et := Et.code_lt et
  have hb_wd := wd.isLt
  have hb_wa := wa.isLt
  have hb_imm := imm.isLt
  have hb_k := k.isLt
  have hb_kz := Bool.toNat_lt kz
  have F := fieldsWL hw (by decide) (by decide) (by omega) (by omega) (by omega) (by omega) (by omega)
  have f_0_32 : fld ww 0 32 = imm.toNat := (F.lit 0 32 (by decide)).trans (by omega)
  try simp [← BitVec.toNat_inj, GZ.code_zero] at hwf
  rw [dec_83 F.op]
  simp [dLitForm, dWFL, decWfpL, fEt, fFn, fK, fKZ, fLit, fS, fWA, fWD, f_0_32, F.s, F.et, F.kz, F.k, F.wb, F.wa, F.wd, F.fn, F.op, gOf, Except.map, need, gUpTo, srcIf, GZ.code_zero, optG, Sz.code_zero, Rm.code_two, bind, Except.bind, pure, Except.pure, srcOf_code, dstOf_code, gzOf_code, rdstOf_code, popOf_code, szOf_code, fszOf_code, rmOf_code, etOf_code, scopeOf_code, modeOf_ord, gOf_val, eOf_val, finOfNat_val, boolNat_eq, BitVec.ofNat_toNat, BitVec.setWidth_eq, fn0, fldB, fbit, hwf]

theorem dw_wfabs {ww : Word} (et : Et) (wd : WReg) (wa : WReg) (k : KReg) (kz : Bool) (rm : Rm) (hw : ww = packW 130 6 (wd.val) (wa.val) 0 (k.val) kz (et.code) 0 0 (rm.code)) (hwf : ((!etInt et : Bool)) = true) : decodeWord ww = .ok (.wfabs et wd wa k kz rm) := by
  have hb_et := Et.code_lt et
  have hb_wd := wd.isLt
  have hb_wa := wa.isLt
  have hb_k := k.isLt
  have hb_kz := Bool.toNat_lt kz
  have hb_rm := Rm.code_lt rm
  have F := fieldsW hw (by decide) (by decide) (by omega) (by omega) (by decide) (by omega) (by omega) (by decide) (by decide) (by omega)
  have f_0_2 : fld ww 0 2 = rm.code := (F.mod 0 2 (by decide)).trans (by omega)
  have f_2_24 : fld ww 2 24 = 0 := (F.mod 2 24 (by decide)).trans (by omega)
  try simp [← BitVec.toNat_inj, GZ.code_zero] at hwf
  rw [dec_82 F.op]
  simp [dOpnd, dWF, dWF1, decWfp, fEt, fFn, fG, fK, fKZ, fS, fWA, fWB, fWD, f_0_2, f_2_24, F.g, F.s, F.et, F.kz, F.k, F.wb, F.wa, F.wd, F.fn, F.op, gOf, Except.map, need, gUpTo, srcIf, GZ.code_zero, optG, Sz.code_zero, Rm.code_two, bind, Except.bind, pure, Except.pure, srcOf_code, dstOf_code, gzOf_code, rdstOf_code, popOf_code, szOf_code, fszOf_code, rmOf_code, etOf_code, scopeOf_code, modeOf_ord, gOf_val, eOf_val, finOfNat_val, boolNat_eq, BitVec.ofNat_toNat, BitVec.setWidth_eq, fn0, fldB, fbit, hwf]

theorem dw_wexp2 {ww : Word} (et : Et) (wd : WReg) (wa : WReg) (k : KReg) (kz : Bool) (rm : Rm) (hw : ww = packW 130 7 (wd.val) (wa.val) 0 (k.val) kz (et.code) 0 0 (rm.code)) (hwf : ((!etInt et : Bool)) = true) : decodeWord ww = .ok (.wexp2 et wd wa k kz rm) := by
  have hb_et := Et.code_lt et
  have hb_wd := wd.isLt
  have hb_wa := wa.isLt
  have hb_k := k.isLt
  have hb_kz := Bool.toNat_lt kz
  have hb_rm := Rm.code_lt rm
  have F := fieldsW hw (by decide) (by decide) (by omega) (by omega) (by decide) (by omega) (by omega) (by decide) (by decide) (by omega)
  have f_0_2 : fld ww 0 2 = rm.code := (F.mod 0 2 (by decide)).trans (by omega)
  have f_2_24 : fld ww 2 24 = 0 := (F.mod 2 24 (by decide)).trans (by omega)
  try simp [← BitVec.toNat_inj, GZ.code_zero] at hwf
  rw [dec_82 F.op]
  simp [dOpnd, dWF, dWF1, decWfp, fEt, fFn, fG, fK, fKZ, fS, fWA, fWB, fWD, f_0_2, f_2_24, F.g, F.s, F.et, F.kz, F.k, F.wb, F.wa, F.wd, F.fn, F.op, gOf, Except.map, need, gUpTo, srcIf, GZ.code_zero, optG, Sz.code_zero, Rm.code_two, bind, Except.bind, pure, Except.pure, srcOf_code, dstOf_code, gzOf_code, rdstOf_code, popOf_code, szOf_code, fszOf_code, rmOf_code, etOf_code, scopeOf_code, modeOf_ord, gOf_val, eOf_val, finOfNat_val, boolNat_eq, BitVec.ofNat_toNat, BitVec.setWidth_eq, fn0, fldB, fbit, hwf]

theorem dw_wrcp {ww : Word} (et : Et) (wd : WReg) (wa : WReg) (k : KReg) (kz : Bool) (rm : Rm) (hw : ww = packW 130 8 (wd.val) (wa.val) 0 (k.val) kz (et.code) 0 0 (rm.code)) (hwf : ((!etInt et : Bool)) = true) : decodeWord ww = .ok (.wrcp et wd wa k kz rm) := by
  have hb_et := Et.code_lt et
  have hb_wd := wd.isLt
  have hb_wa := wa.isLt
  have hb_k := k.isLt
  have hb_kz := Bool.toNat_lt kz
  have hb_rm := Rm.code_lt rm
  have F := fieldsW hw (by decide) (by decide) (by omega) (by omega) (by decide) (by omega) (by omega) (by decide) (by decide) (by omega)
  have f_0_2 : fld ww 0 2 = rm.code := (F.mod 0 2 (by decide)).trans (by omega)
  have f_2_24 : fld ww 2 24 = 0 := (F.mod 2 24 (by decide)).trans (by omega)
  try simp [← BitVec.toNat_inj, GZ.code_zero] at hwf
  rw [dec_82 F.op]
  simp [dOpnd, dWF, dWF1, decWfp, fEt, fFn, fG, fK, fKZ, fS, fWA, fWB, fWD, f_0_2, f_2_24, F.g, F.s, F.et, F.kz, F.k, F.wb, F.wa, F.wd, F.fn, F.op, gOf, Except.map, need, gUpTo, srcIf, GZ.code_zero, optG, Sz.code_zero, Rm.code_two, bind, Except.bind, pure, Except.pure, srcOf_code, dstOf_code, gzOf_code, rdstOf_code, popOf_code, szOf_code, fszOf_code, rmOf_code, etOf_code, scopeOf_code, modeOf_ord, gOf_val, eOf_val, finOfNat_val, boolNat_eq, BitVec.ofNat_toNat, BitVec.setWidth_eq, fn0, fldB, fbit, hwf]

theorem dw_wrsq {ww : Word} (et : Et) (wd : WReg) (wa : WReg) (k : KReg) (kz : Bool) (rm : Rm) (hw : ww = packW 130 9 (wd.val) (wa.val) 0 (k.val) kz (et.code) 0 0 (rm.code)) (hwf : ((!etInt et : Bool)) = true) : decodeWord ww = .ok (.wrsq et wd wa k kz rm) := by
  have hb_et := Et.code_lt et
  have hb_wd := wd.isLt
  have hb_wa := wa.isLt
  have hb_k := k.isLt
  have hb_kz := Bool.toNat_lt kz
  have hb_rm := Rm.code_lt rm
  have F := fieldsW hw (by decide) (by decide) (by omega) (by omega) (by decide) (by omega) (by omega) (by decide) (by decide) (by omega)
  have f_0_2 : fld ww 0 2 = rm.code := (F.mod 0 2 (by decide)).trans (by omega)
  have f_2_24 : fld ww 2 24 = 0 := (F.mod 2 24 (by decide)).trans (by omega)
  try simp [← BitVec.toNat_inj, GZ.code_zero] at hwf
  rw [dec_82 F.op]
  simp [dOpnd, dWF, dWF1, decWfp, fEt, fFn, fG, fK, fKZ, fS, fWA, fWB, fWD, f_0_2, f_2_24, F.g, F.s, F.et, F.kz, F.k, F.wb, F.wa, F.wd, F.fn, F.op, gOf, Except.map, need, gUpTo, srcIf, GZ.code_zero, optG, Sz.code_zero, Rm.code_two, bind, Except.bind, pure, Except.pure, srcOf_code, dstOf_code, gzOf_code, rdstOf_code, popOf_code, szOf_code, fszOf_code, rmOf_code, etOf_code, scopeOf_code, modeOf_ord, gOf_val, eOf_val, finOfNat_val, boolNat_eq, BitVec.ofNat_toNat, BitVec.setWidth_eq, fn0, fldB, fbit, hwf]

theorem dw_wlog2 {ww : Word} (et : Et) (wd : WReg) (wa : WReg) (k : KReg) (kz : Bool) (rm : Rm) (hw : ww = packW 130 10 (wd.val) (wa.val) 0 (k.val) kz (et.code) 0 0 (rm.code)) (hwf : ((!etInt et : Bool)) = true) : decodeWord ww = .ok (.wlog2 et wd wa k kz rm) := by
  have hb_et := Et.code_lt et
  have hb_wd := wd.isLt
  have hb_wa := wa.isLt
  have hb_k := k.isLt
  have hb_kz := Bool.toNat_lt kz
  have hb_rm := Rm.code_lt rm
  have F := fieldsW hw (by decide) (by decide) (by omega) (by omega) (by decide) (by omega) (by omega) (by decide) (by decide) (by omega)
  have f_0_2 : fld ww 0 2 = rm.code := (F.mod 0 2 (by decide)).trans (by omega)
  have f_2_24 : fld ww 2 24 = 0 := (F.mod 2 24 (by decide)).trans (by omega)
  try simp [← BitVec.toNat_inj, GZ.code_zero] at hwf
  rw [dec_82 F.op]
  simp [dOpnd, dWF, dWF1, decWfp, fEt, fFn, fG, fK, fKZ, fS, fWA, fWB, fWD, f_0_2, f_2_24, F.g, F.s, F.et, F.kz, F.k, F.wb, F.wa, F.wd, F.fn, F.op, gOf, Except.map, need, gUpTo, srcIf, GZ.code_zero, optG, Sz.code_zero, Rm.code_two, bind, Except.bind, pure, Except.pure, srcOf_code, dstOf_code, gzOf_code, rdstOf_code, popOf_code, szOf_code, fszOf_code, rmOf_code, etOf_code, scopeOf_code, modeOf_ord, gOf_val, eOf_val, finOfNat_val, boolNat_eq, BitVec.ofNat_toNat, BitVec.setWidth_eq, fn0, fldB, fbit, hwf]

theorem dw_wcmp_r {ww : Word} (et : Et) (kd : KReg) (wa : WReg) (r : WReg) (k : KReg) (kz : Bool) (cond : BitVec 4) (any : Bool) (hw : ww = packW 132 0 (kd.val) (wa.val) (r.val) (k.val) kz (et.code) 0 0 ((any.toNat) * 2 ^ 4 + cond.toNat)) (hwf : ((kd ≠ 0 && wfCond et cond : Bool)) = true) : decodeWord ww = .ok (.wcmp et kd wa (.reg r) k kz cond any) := by
  have hb_et := Et.code_lt et
  have hb_kd := kd.isLt
  have hb_wa := wa.isLt
  have hb_r := r.isLt
  have hb_k := k.isLt
  have hb_kz := Bool.toNat_lt kz
  have hb_cond := cond.isLt
  have hb_any := Bool.toNat_lt any
  have F := fieldsW hw (by decide) (by decide) (by omega) (by omega) (by omega) (by omega) (by omega) (by decide) (by decide) (by omega)
  have ht := hw ▸ packW_toNat (op := 132) (fn := 0) (wd := (kd.val)) (wa := (wa.val)) (wb := (r.val)) (k := (k.val)) (kz := kz) (et := (et.code)) (s := 0) (g := 0) (mod := ((any.toNat) * 2 ^ 4 + cond.toNat)) (by decide) (by decide) (by omega) (by omega) (by omega) (by omega) (by omega) (by decide) (by decide) (by omega)
  have f_0_4 : fld ww 0 4 = cond.toNat := (F.mod 0 4 (by decide)).trans (by omega)
  have f_4_1 : fld ww 4 1 = any.toNat := (F.mod 4 1 (by decide)).trans (by omega)
  have f_5_21 : fld ww 5 21 = 0 := (F.mod 5 21 (by decide)).trans (by omega)
  have f_48_2 : fld ww 48 2 = kd.val := by rw [fld, ht]; omega
  have f_50_2 : fld ww 50 2 = 0 := by rw [fld, ht]; omega
  try simp [← BitVec.toNat_inj, GZ.code_zero] at hwf
  rw [dec_84 F.op]
  simp [dOpnd, decWcmp, fEt, fFn, fG, fK, fKZ, fS, fWA, fWB, f_0_4, f_4_1, f_5_21, F.g, F.s, F.et, F.kz, F.k, F.wb, F.wa, f_48_2, f_50_2, F.fn, F.op, gOf, Except.map, need, gUpTo, srcIf, GZ.code_zero, optG, Sz.code_zero, Rm.code_two, bind, Except.bind, pure, Except.pure, srcOf_code, dstOf_code, gzOf_code, rdstOf_code, popOf_code, szOf_code, fszOf_code, rmOf_code, etOf_code, scopeOf_code, modeOf_ord, gOf_val, eOf_val, finOfNat_val, boolNat_eq, BitVec.ofNat_toNat, BitVec.setWidth_eq, fn0, fldB, fbit, hwf]

theorem dw_wcmp_b {ww : Word} (et : Et) (kd : KReg) (wa : WReg) (g : Src) (k : KReg) (kz : Bool) (cond : BitVec 4) (any : Bool) (hw : ww = packW 132 0 (kd.val) (wa.val) 0 (k.val) kz (et.code) 1 (g.code) ((any.toNat) * 2 ^ 4 + cond.toNat)) (hwf : ((kd ≠ 0 && wfCond et cond : Bool)) = true) : decodeWord ww = .ok (.wcmp et kd wa (.bcast g) k kz cond any) := by
  have hb_et := Et.code_lt et
  have hb_kd := kd.isLt
  have hb_wa := wa.isLt
  have hb_g := Src.code_lt g
  have hb_k := k.isLt
  have hb_kz := Bool.toNat_lt kz
  have hb_cond := cond.isLt
  have hb_any := Bool.toNat_lt any
  have F := fieldsW hw (by decide) (by decide) (by omega) (by omega) (by decide) (by omega) (by omega) (by decide) (by omega) (by omega)
  have ht := hw ▸ packW_toNat (op := 132) (fn := 0) (wd := (kd.val)) (wa := (wa.val)) (wb := 0) (k := (k.val)) (kz := kz) (et := (et.code)) (s := 1) (g := (g.code)) (mod := ((any.toNat) * 2 ^ 4 + cond.toNat)) (by decide) (by decide) (by omega) (by omega) (by decide) (by omega) (by omega) (by decide) (by omega) (by omega)
  have f_0_4 : fld ww 0 4 = cond.toNat := (F.mod 0 4 (by decide)).trans (by omega)
  have f_4_1 : fld ww 4 1 = any.toNat := (F.mod 4 1 (by decide)).trans (by omega)
  have f_5_21 : fld ww 5 21 = 0 := (F.mod 5 21 (by decide)).trans (by omega)
  have f_48_2 : fld ww 48 2 = kd.val := by rw [fld, ht]; omega
  have f_50_2 : fld ww 50 2 = 0 := by rw [fld, ht]; omega
  try simp [← BitVec.toNat_inj, GZ.code_zero] at hwf
  rw [dec_84 F.op]
  simp [dOpnd, decWcmp, fEt, fFn, fG, fK, fKZ, fS, fWA, fWB, f_0_4, f_4_1, f_5_21, F.g, F.s, F.et, F.kz, F.k, F.wb, F.wa, f_48_2, f_50_2, F.fn, F.op, gOf, Except.map, need, gUpTo, srcIf, GZ.code_zero, optG, Sz.code_zero, Rm.code_two, bind, Except.bind, pure, Except.pure, srcOf_code, dstOf_code, gzOf_code, rdstOf_code, popOf_code, szOf_code, fszOf_code, rmOf_code, etOf_code, scopeOf_code, modeOf_ord, gOf_val, eOf_val, finOfNat_val, boolNat_eq, BitVec.ofNat_toNat, BitVec.setWidth_eq, fn0, fldB, fbit, hwf]

theorem dw_wcmp_l {ww : Word} (et : Et) (kd : KReg) (wa : WReg) (k : KReg) (kz : Bool) (cond : BitVec 4) (any : Bool) (hw : ww = packW 132 0 (kd.val) (wa.val) 0 (k.val) kz (et.code) 2 0 ((any.toNat) * 2 ^ 4 + cond.toNat)) (hwf : ((kd ≠ 0 && wfCond et cond : Bool)) = true) : decodeWord ww = .ok (.wcmp et kd wa .lane k kz cond any) := by
  have hb_et := Et.code_lt et
  have hb_kd := kd.isLt
  have hb_wa := wa.isLt
  have hb_k := k.isLt
  have hb_kz := Bool.toNat_lt kz
  have hb_cond := cond.isLt
  have hb_any := Bool.toNat_lt any
  have F := fieldsW hw (by decide) (by decide) (by omega) (by omega) (by decide) (by omega) (by omega) (by decide) (by decide) (by omega)
  have ht := hw ▸ packW_toNat (op := 132) (fn := 0) (wd := (kd.val)) (wa := (wa.val)) (wb := 0) (k := (k.val)) (kz := kz) (et := (et.code)) (s := 2) (g := 0) (mod := ((any.toNat) * 2 ^ 4 + cond.toNat)) (by decide) (by decide) (by omega) (by omega) (by decide) (by omega) (by omega) (by decide) (by decide) (by omega)
  have f_0_4 : fld ww 0 4 = cond.toNat := (F.mod 0 4 (by decide)).trans (by omega)
  have f_4_1 : fld ww 4 1 = any.toNat := (F.mod 4 1 (by decide)).trans (by omega)
  have f_5_21 : fld ww 5 21 = 0 := (F.mod 5 21 (by decide)).trans (by omega)
  have f_48_2 : fld ww 48 2 = kd.val := by rw [fld, ht]; omega
  have f_50_2 : fld ww 50 2 = 0 := by rw [fld, ht]; omega
  try simp [← BitVec.toNat_inj, GZ.code_zero] at hwf
  rw [dec_84 F.op]
  simp [dOpnd, decWcmp, fEt, fFn, fG, fK, fKZ, fS, fWA, fWB, f_0_4, f_4_1, f_5_21, F.g, F.s, F.et, F.kz, F.k, F.wb, F.wa, f_48_2, f_50_2, F.fn, F.op, gOf, Except.map, need, gUpTo, srcIf, GZ.code_zero, optG, Sz.code_zero, Rm.code_two, bind, Except.bind, pure, Except.pure, srcOf_code, dstOf_code, gzOf_code, rdstOf_code, popOf_code, szOf_code, fszOf_code, rmOf_code, etOf_code, scopeOf_code, modeOf_ord, gOf_val, eOf_val, finOfNat_val, boolNat_eq, BitVec.ofNat_toNat, BitVec.setWidth_eq, fn0, fldB, fbit, hwf]

theorem dw_wsel_r {ww : Word} (et : Et) (wd : WReg) (wa : WReg) (r : WReg) (k : KReg) (hw : ww = packW 134 0 (wd.val) (wa.val) (r.val) (k.val) false (et.code) 0 0 0) : decodeWord ww = .ok (.wsel et wd wa (.reg r) k) := by
  have hb_et := Et.code_lt et
  have hb_wd := wd.isLt
  have hb_wa := wa.isLt
  have hb_r := r.isLt
  have hb_k := k.isLt
  have F := fieldsW hw (by decide) (by decide) (by omega) (by omega) (by omega) (by omega) (by omega) (by decide) (by decide) (by decide)
  have f_0_26 : fld ww 0 26 = 0 := (F.mod 0 26 (by decide)).trans (by omega)
  rw [dec_86 F.op]
  simp [dOpnd, decWsel, fEt, fFn, fG, fK, fKZ, fMod, fS, fWA, fWB, fWD, f_0_26, F.g, F.s, F.et, F.kz, F.k, F.wb, F.wa, F.wd, F.fn, F.op, gOf, Except.map, need, gUpTo, srcIf, GZ.code_zero, optG, Sz.code_zero, Rm.code_two, bind, Except.bind, pure, Except.pure, srcOf_code, dstOf_code, gzOf_code, rdstOf_code, popOf_code, szOf_code, fszOf_code, rmOf_code, etOf_code, scopeOf_code, modeOf_ord, gOf_val, eOf_val, finOfNat_val, boolNat_eq, BitVec.ofNat_toNat, BitVec.setWidth_eq, fn0, fldB, fbit]

theorem dw_wsel_b {ww : Word} (et : Et) (wd : WReg) (wa : WReg) (g : Src) (k : KReg) (hw : ww = packW 134 0 (wd.val) (wa.val) 0 (k.val) false (et.code) 1 (g.code) 0) : decodeWord ww = .ok (.wsel et wd wa (.bcast g) k) := by
  have hb_et := Et.code_lt et
  have hb_wd := wd.isLt
  have hb_wa := wa.isLt
  have hb_g := Src.code_lt g
  have hb_k := k.isLt
  have F := fieldsW hw (by decide) (by decide) (by omega) (by omega) (by decide) (by omega) (by omega) (by decide) (by omega) (by decide)
  have f_0_26 : fld ww 0 26 = 0 := (F.mod 0 26 (by decide)).trans (by omega)
  rw [dec_86 F.op]
  simp [dOpnd, decWsel, fEt, fFn, fG, fK, fKZ, fMod, fS, fWA, fWB, fWD, f_0_26, F.g, F.s, F.et, F.kz, F.k, F.wb, F.wa, F.wd, F.fn, F.op, gOf, Except.map, need, gUpTo, srcIf, GZ.code_zero, optG, Sz.code_zero, Rm.code_two, bind, Except.bind, pure, Except.pure, srcOf_code, dstOf_code, gzOf_code, rdstOf_code, popOf_code, szOf_code, fszOf_code, rmOf_code, etOf_code, scopeOf_code, modeOf_ord, gOf_val, eOf_val, finOfNat_val, boolNat_eq, BitVec.ofNat_toNat, BitVec.setWidth_eq, fn0, fldB, fbit]

theorem dw_wsel_l {ww : Word} (et : Et) (wd : WReg) (wa : WReg) (k : KReg) (hw : ww = packW 134 0 (wd.val) (wa.val) 0 (k.val) false (et.code) 2 0 0) : decodeWord ww = .ok (.wsel et wd wa .lane k) := by
  have hb_et := Et.code_lt et
  have hb_wd := wd.isLt
  have hb_wa := wa.isLt
  have hb_k := k.isLt
  have F := fieldsW hw (by decide) (by decide) (by omega) (by omega) (by decide) (by omega) (by omega) (by decide) (by decide) (by decide)
  have f_0_26 : fld ww 0 26 = 0 := (F.mod 0 26 (by decide)).trans (by omega)
  rw [dec_86 F.op]
  simp [dOpnd, decWsel, fEt, fFn, fG, fK, fKZ, fMod, fS, fWA, fWB, fWD, f_0_26, F.g, F.s, F.et, F.kz, F.k, F.wb, F.wa, F.wd, F.fn, F.op, gOf, Except.map, need, gUpTo, srcIf, GZ.code_zero, optG, Sz.code_zero, Rm.code_two, bind, Except.bind, pure, Except.pure, srcOf_code, dstOf_code, gzOf_code, rdstOf_code, popOf_code, szOf_code, fszOf_code, rmOf_code, etOf_code, scopeOf_code, modeOf_ord, gOf_val, eOf_val, finOfNat_val, boolNat_eq, BitVec.ofNat_toNat, BitVec.setWidth_eq, fn0, fldB, fbit]

theorem dw_wcvt_N {ww : Word} (wd : WReg) (wa : WReg) (sf : BitVec 5) (part : BitVec 3) (sat : Bool) (rm : Rm) (df : BitVec 5) (hw : ww = packW 136 0 (wd.val) (wa.val) 0 0 false 0 0 0 (0 * 2 ^ 24 + sf.toNat * 2 ^ 16 + part.toNat * 2 ^ 10 + sat.toNat * 2 ^ 8 + rm.code * 2 ^ 6 + df.toNat)) (hwf : ((wfFmt sf false false && wfFmt df true false && wfPart (wfCap sf) (wfCap df) part : Bool)) = true) : decodeWord ww = .ok (.wcvt wd wa none sf part sat rm df) := by
  have hb_wd := wd.isLt
  have hb_wa := wa.isLt
  have hb_sf := sf.isLt
  have hb_part := part.isLt
  have hb_sat := Bool.toNat_lt sat
  have hb_rm := Rm.code_lt rm
  have hb_df := df.isLt
  have F := fieldsW hw (by decide) (by decide) (by omega) (by omega) (by decide) (by decide) (by decide) (by decide) (by decide) (by omega)
  have f_0_5 : fld ww 0 5 = df.toNat := (F.mod 0 5 (by decide)).trans (by omega)
  have f_5_1 : fld ww 5 1 = 0 := (F.mod 5 1 (by decide)).trans (by omega)
  have f_6_2 : fld ww 6 2 = rm.code := (F.mod 6 2 (by decide)).trans (by omega)
  have f_8_1 : fld ww 8 1 = sat.toNat := (F.mod 8 1 (by decide)).trans (by omega)
  have f_9_1 : fld ww 9 1 = 0 := (F.mod 9 1 (by decide)).trans (by omega)
  have f_10_3 : fld ww 10 3 = part.toNat := (F.mod 10 3 (by decide)).trans (by omega)
  have f_13_3 : fld ww 13 3 = 0 := (F.mod 13 3 (by decide)).trans (by omega)
  have f_16_5 : fld ww 16 5 = sf.toNat := (F.mod 16 5 (by decide)).trans (by omega)
  have f_21_3 : fld ww 21 3 = 0 := (F.mod 21 3 (by decide)).trans (by omega)
  have f_24_2 : fld ww 24 2 = 0 := (F.mod 24 2 (by decide)).trans (by omega)
  try simp [← BitVec.toNat_inj, GZ.code_zero] at hwf
  rw [dec_88 F.op]
  simp [decWcvt, fEt, fFn, fG, fKZ, fS, fWA, fWD, f_0_5, f_5_1, f_6_2, f_8_1, f_9_1, f_10_3, f_13_3, f_16_5, f_21_3, f_24_2, F.g, F.s, F.et, F.kz, F.k, F.wb, F.wa, F.wd, F.fn, F.op, gOf, Except.map, need, gUpTo, srcIf, GZ.code_zero, optG, Sz.code_zero, Rm.code_two, bind, Except.bind, pure, Except.pure, srcOf_code, dstOf_code, gzOf_code, rdstOf_code, popOf_code, szOf_code, fszOf_code, rmOf_code, etOf_code, scopeOf_code, modeOf_ord, gOf_val, eOf_val, finOfNat_val, boolNat_eq, BitVec.ofNat_toNat, BitVec.setWidth_eq, fn0, fldB, fbit, hwf]

theorem dw_wcvt_S {ww : Word} (wd : WReg) (wa : WReg) (dt : Fin 4) (sf : BitVec 5) (part : BitVec 3) (sat : Bool) (rm : Rm) (df : BitVec 5) (hw : ww = packW 136 0 (wd.val) (wa.val) 0 0 false 6 0 0 ((dt.val) * 2 ^ 24 + (sf.toNat) * 2 ^ 16 + (part.toNat) * 2 ^ 10 + (sat.toNat) * 2 ^ 8 + (rm.code) * 2 ^ 6 + df.toNat)) (hwf : ((sf = 0 && wfFmt df true false && wfPart 256 (wfCap df) part : Bool)) = true) : decodeWord ww = .ok (.wcvt wd wa (some dt) sf part sat rm df) := by
  have hb_wd := wd.isLt
  have hb_wa := wa.isLt
  have hb_dt := dt.isLt
  have hb_sf := sf.isLt
  have hb_part := part.isLt
  have hb_sat := Bool.toNat_lt sat
  have hb_rm := Rm.code_lt rm
  have hb_df := df.isLt
  have F := fieldsW hw (by decide) (by decide) (by omega) (by omega) (by decide) (by decide) (by decide) (by decide) (by decide) (by omega)
  have f_0_5 : fld ww 0 5 = df.toNat := (F.mod 0 5 (by decide)).trans (by omega)
  have f_5_1 : fld ww 5 1 = 0 := (F.mod 5 1 (by decide)).trans (by omega)
  have f_6_2 : fld ww 6 2 = rm.code := (F.mod 6 2 (by decide)).trans (by omega)
  have f_8_1 : fld ww 8 1 = sat.toNat := (F.mod 8 1 (by decide)).trans (by omega)
  have f_9_1 : fld ww 9 1 = 0 := (F.mod 9 1 (by decide)).trans (by omega)
  have f_10_3 : fld ww 10 3 = part.toNat := (F.mod 10 3 (by decide)).trans (by omega)
  have f_13_3 : fld ww 13 3 = 0 := (F.mod 13 3 (by decide)).trans (by omega)
  have f_16_5 : fld ww 16 5 = sf.toNat := (F.mod 16 5 (by decide)).trans (by omega)
  have f_21_3 : fld ww 21 3 = 0 := (F.mod 21 3 (by decide)).trans (by omega)
  have f_24_2 : fld ww 24 2 = dt.val := (F.mod 24 2 (by decide)).trans (by omega)
  try simp [← BitVec.toNat_inj, GZ.code_zero] at hwf
  rw [dec_88 F.op]
  simp [decWcvt, fEt, fFn, fG, fKZ, fS, fWA, fWD, f_0_5, f_5_1, f_6_2, f_8_1, f_9_1, f_10_3, f_13_3, f_16_5, f_21_3, f_24_2, F.g, F.s, F.et, F.kz, F.k, F.wb, F.wa, F.wd, F.fn, F.op, gOf, Except.map, need, gUpTo, srcIf, GZ.code_zero, optG, Sz.code_zero, Rm.code_two, bind, Except.bind, pure, Except.pure, srcOf_code, dstOf_code, gzOf_code, rdstOf_code, popOf_code, szOf_code, fszOf_code, rmOf_code, etOf_code, scopeOf_code, modeOf_ord, gOf_val, eOf_val, finOfNat_val, boolNat_eq, BitVec.ofNat_toNat, BitVec.setWidth_eq, fn0, fldB, fbit, hwf]
  exact (BitVec.eq_of_toNat_eq (by simpa using hwf.1.1)).symm

theorem dw_wred {ww : Word} (et : Et) (ed : EReg) (wa : WReg) (k : KReg) (op : BitVec 3) (u : Bool) (hw : ww = packW 138 0 0 (wa.val) 0 (k.val) false (et.code) 0 (24 + ed.val) ((u.toNat) * 2 ^ 3 + op.toNat)) (hwf : (((etInt et || op.toNat ≤ 2) && (!u || op = 0) : Bool)) = true) : decodeWord ww = .ok (.wred et ed wa k op u) := by
  have hb_et := Et.code_lt et
  have hb_ed := ed.isLt
  have hb_wa := wa.isLt
  have hb_k := k.isLt
  have hb_op := op.isLt
  have hb_u := Bool.toNat_lt u
  have F := fieldsW hw (by decide) (by decide) (by decide) (by omega) (by decide) (by omega) (by omega) (by decide) (by omega) (by omega)
  have f_0_3 : fld ww 0 3 = op.toNat := (F.mod 0 3 (by decide)).trans (by omega)
  have f_3_1 : fld ww 3 1 = u.toNat := (F.mod 3 1 (by decide)).trans (by omega)
  have f_4_22 : fld ww 4 22 = 0 := (F.mod 4 22 (by decide)).trans (by omega)
  try simp [← BitVec.toNat_inj, GZ.code_zero] at hwf
  rw [dec_8a F.op]
  simp [decWred, fEt, fFn, fG, fK, fKZ, fS, fWA, f_0_3, f_3_1, f_4_22, F.g, F.s, F.et, F.kz, F.k, F.wb, F.wa, F.wd, F.fn, F.op, gOf, Except.map, need, gUpTo, srcIf, GZ.code_zero, optG, Sz.code_zero, Rm.code_two, bind, Except.bind, pure, Except.pure, srcOf_code, dstOf_code, gzOf_code, rdstOf_code, popOf_code, szOf_code, fszOf_code, rmOf_code, etOf_code, scopeOf_code, modeOf_ord, gOf_val, eOf_val, finOfNat_val, boolNat_eq, BitVec.ofNat_toNat, BitVec.setWidth_eq, fn0, fldB, fbit, hwf]

theorem dw_wscan {ww : Word} (et : Et) (wd : WReg) (wa : WReg) (k : KReg) (kz : Bool) (op : BitVec 3) (excl : Bool) (hw : ww = packW 140 0 (wd.val) (wa.val) 0 (k.val) kz (et.code) 0 0 ((excl.toNat) * 2 ^ 4 + op.toNat)) (hwf : ((etInt et || op.toNat ≤ 2 : Bool)) = true) : decodeWord ww = .ok (.wscan et wd wa k kz op excl) := by
  have hb_et := Et.code_lt et
  have hb_wd := wd.isLt
  have hb_wa := wa.isLt
  have hb_k := k.isLt
  have hb_kz := Bool.toNat_lt kz
  have hb_op := op.isLt
  have hb_excl := Bool.toNat_lt excl
  have F := fieldsW hw (by decide) (by decide) (by omega) (by omega) (by decide) (by omega) (by omega) (by decide) (by decide) (by omega)
  have f_0_3 : fld ww 0 3 = op.toNat := (F.mod 0 3 (by decide)).trans (by omega)
  have f_3_1 : fld ww 3 1 = 0 := (F.mod 3 1 (by decide)).trans (by omega)
  have f_4_1 : fld ww 4 1 = excl.toNat := (F.mod 4 1 (by decide)).trans (by omega)
  have f_5_21 : fld ww 5 21 = 0 := (F.mod 5 21 (by decide)).trans (by omega)
  try simp [← BitVec.toNat_inj, GZ.code_zero] at hwf
  rw [dec_8c F.op]
  simp [decWscan, fEt, fFn, fG, fK, fKZ, fS, fWA, fWD, f_0_3, f_3_1, f_4_1, f_5_21, F.g, F.s, F.et, F.kz, F.k, F.wb, F.wa, F.wd, F.fn, F.op, gOf, Except.map, need, gUpTo, srcIf, GZ.code_zero, optG, Sz.code_zero, Rm.code_two, bind, Except.bind, pure, Except.pure, srcOf_code, dstOf_code, gzOf_code, rdstOf_code, popOf_code, szOf_code, fszOf_code, rmOf_code, etOf_code, scopeOf_code, modeOf_ord, gOf_val, eOf_val, finOfNat_val, boolNat_eq, BitVec.ofNat_toNat, BitVec.setWidth_eq, fn0, fldB, fbit, hwf]

theorem dw_wperm {ww : Word} (et : Et) (wd : WReg) (wa : WReg) (wb : WReg) (k : KReg) (kz : Bool) (hw : ww = packW 142 0 (wd.val) (wa.val) (wb.val) (k.val) kz (et.code) 0 0 0) : decodeWord ww = .ok (.wperm et wd wa wb k kz) := by
  have hb_et := Et.code_lt et
  have hb_wd := wd.isLt
  have hb_wa := wa.isLt
  have hb_wb := wb.isLt
  have hb_k := k.isLt
  have hb_kz := Bool.toNat_lt kz
  have F := fieldsW hw (by decide) (by decide) (by omega) (by omega) (by omega) (by omega) (by omega) (by decide) (by decide) (by decide)
  have f_0_1 : fld ww 0 1 = 0 := (F.mod 0 1 (by decide)).trans (by omega)
  have f_0_26 : fld ww 0 26 = 0 := (F.mod 0 26 (by decide)).trans (by omega)
  have f_1_25 : fld ww 1 25 = 0 := (F.mod 1 25 (by decide)).trans (by omega)
  rw [dec_8e F.op]
  simp [decWperm, fEt, fFn, fG, fK, fKZ, fMod, fS, fWA, fWB, fWD, f_0_1, f_0_26, f_1_25, F.g, F.s, F.et, F.kz, F.k, F.wb, F.wa, F.wd, F.fn, F.op, gOf, Except.map, need, gUpTo, srcIf, GZ.code_zero, optG, Sz.code_zero, Rm.code_two, bind, Except.bind, pure, Except.pure, srcOf_code, dstOf_code, gzOf_code, rdstOf_code, popOf_code, szOf_code, fszOf_code, rmOf_code, etOf_code, scopeOf_code, modeOf_ord, gOf_val, eOf_val, finOfNat_val, boolNat_eq, BitVec.ofNat_toNat, BitVec.setWidth_eq, fn0, fldB, fbit]

theorem dw_wslide {ww : Word} (et : Et) (wd : WReg) (wa : WReg) (wb : WReg) (g : Src) (k : KReg) (kz : Bool) (hw : ww = packW 142 1 (wd.val) (wa.val) (wb.val) (k.val) kz (et.code) 1 (g.code) 0) : decodeWord ww = .ok (.wslide et wd wa wb g k kz) := by
  have hb_et := Et.code_lt et
  have hb_wd := wd.isLt
  have hb_wa := wa.isLt
  have hb_wb := wb.isLt
  have hb_g := Src.code_lt g
  have hb_k := k.isLt
  have hb_kz := Bool.toNat_lt kz
  have F := fieldsW hw (by decide) (by decide) (by omega) (by omega) (by omega) (by omega) (by omega) (by decide) (by omega) (by decide)
  have f_0_1 : fld ww 0 1 = 0 := (F.mod 0 1 (by decide)).trans (by omega)
  have f_0_26 : fld ww 0 26 = 0 := (F.mod 0 26 (by decide)).trans (by omega)
  have f_1_25 : fld ww 1 25 = 0 := (F.mod 1 25 (by decide)).trans (by omega)
  rw [dec_8e F.op]
  simp [decWperm, fEt, fFn, fG, fK, fKZ, fMod, fS, fWA, fWB, fWD, f_0_1, f_0_26, f_1_25, F.g, F.s, F.et, F.kz, F.k, F.wb, F.wa, F.wd, F.fn, F.op, gOf, Except.map, need, gUpTo, srcIf, GZ.code_zero, optG, Sz.code_zero, Rm.code_two, bind, Except.bind, pure, Except.pure, srcOf_code, dstOf_code, gzOf_code, rdstOf_code, popOf_code, szOf_code, fszOf_code, rmOf_code, etOf_code, scopeOf_code, modeOf_ord, gOf_val, eOf_val, finOfNat_val, boolNat_eq, BitVec.ofNat_toNat, BitVec.setWidth_eq, fn0, fldB, fbit]

theorem dw_wbcast {ww : Word} (et : Et) (wd : WReg) (wa : WReg) (g : Src) (k : KReg) (kz : Bool) (hw : ww = packW 142 2 (wd.val) (wa.val) 0 (k.val) kz (et.code) 1 (g.code) 0) : decodeWord ww = .ok (.wbcast et wd wa g k kz) := by
  have hb_et := Et.code_lt et
  have hb_wd := wd.isLt
  have hb_wa := wa.isLt
  have hb_g := Src.code_lt g
  have hb_k := k.isLt
  have hb_kz := Bool.toNat_lt kz
  have F := fieldsW hw (by decide) (by decide) (by omega) (by omega) (by decide) (by omega) (by omega) (by decide) (by omega) (by decide)
  have f_0_1 : fld ww 0 1 = 0 := (F.mod 0 1 (by decide)).trans (by omega)
  have f_0_26 : fld ww 0 26 = 0 := (F.mod 0 26 (by decide)).trans (by omega)
  have f_1_25 : fld ww 1 25 = 0 := (F.mod 1 25 (by decide)).trans (by omega)
  rw [dec_8e F.op]
  simp [decWperm, fEt, fFn, fG, fK, fKZ, fMod, fS, fWA, fWB, fWD, f_0_1, f_0_26, f_1_25, F.g, F.s, F.et, F.kz, F.k, F.wb, F.wa, F.wd, F.fn, F.op, gOf, Except.map, need, gUpTo, srcIf, GZ.code_zero, optG, Sz.code_zero, Rm.code_two, bind, Except.bind, pure, Except.pure, srcOf_code, dstOf_code, gzOf_code, rdstOf_code, popOf_code, szOf_code, fszOf_code, rmOf_code, etOf_code, scopeOf_code, modeOf_ord, gOf_val, eOf_val, finOfNat_val, boolNat_eq, BitVec.ofNat_toNat, BitVec.setWidth_eq, fn0, fldB, fbit]

theorem dw_wzip {ww : Word} (et : Et) (wd : WReg) (wa : WReg) (wb : WReg) (k : KReg) (kz : Bool) (hi : Bool) (hw : ww = packW 142 3 (wd.val) (wa.val) (wb.val) (k.val) kz (et.code) 0 0 (hi.toNat)) : decodeWord ww = .ok (.wzip et wd wa wb k kz hi) := by
  have hb_et := Et.code_lt et
  have hb_wd := wd.isLt
  have hb_wa := wa.isLt
  have hb_wb := wb.isLt
  have hb_k := k.isLt
  have hb_kz := Bool.toNat_lt kz
  have hb_hi := Bool.toNat_lt hi
  have F := fieldsW hw (by decide) (by decide) (by omega) (by omega) (by omega) (by omega) (by omega) (by decide) (by decide) (by omega)
  have f_0_1 : fld ww 0 1 = hi.toNat := (F.mod 0 1 (by decide)).trans (by omega)
  have f_0_26 : fld ww 0 26 = hi.toNat := (F.mod 0 26 (by decide)).trans (by omega)
  have f_1_25 : fld ww 1 25 = 0 := (F.mod 1 25 (by decide)).trans (by omega)
  rw [dec_8e F.op]
  simp [decWperm, fEt, fFn, fG, fK, fKZ, fMod, fS, fWA, fWB, fWD, f_0_1, f_0_26, f_1_25, F.g, F.s, F.et, F.kz, F.k, F.wb, F.wa, F.wd, F.fn, F.op, gOf, Except.map, need, gUpTo, srcIf, GZ.code_zero, optG, Sz.code_zero, Rm.code_two, bind, Except.bind, pure, Except.pure, srcOf_code, dstOf_code, gzOf_code, rdstOf_code, popOf_code, szOf_code, fszOf_code, rmOf_code, etOf_code, scopeOf_code, modeOf_ord, gOf_val, eOf_val, finOfNat_val, boolNat_eq, BitVec.ofNat_toNat, BitVec.setWidth_eq, fn0, fldB, fbit]

theorem dw_wmovsInsert {ww : Word} (et : Et) (wd : WReg) (g : Src) (k : KReg) (kz : Bool) (hw : ww = packW 144 0 (wd.val) 0 0 (k.val) kz (et.code) 1 (g.code) 0) : decodeWord ww = .ok (.wmovsInsert et wd g k kz) := by
  have hb_et := Et.code_lt et
  have hb_wd := wd.isLt
  have hb_g := Src.code_lt g
  have hb_k := k.isLt
  have hb_kz := Bool.toNat_lt kz
  have F := fieldsW hw (by decide) (by decide) (by omega) (by decide) (by decide) (by omega) (by omega) (by decide) (by omega) (by decide)
  have f_0_1 : fld ww 0 1 = 0 := (F.mod 0 1 (by decide)).trans (by omega)
  have f_0_26 : fld ww 0 26 = 0 := (F.mod 0 26 (by decide)).trans (by omega)
  have f_1_7 : fld ww 1 7 = 0 := (F.mod 1 7 (by decide)).trans (by omega)
  have f_8_8 : fld ww 8 8 = 0 := (F.mod 8 8 (by decide)).trans (by omega)
  have f_16_1 : fld ww 16 1 = 0 := (F.mod 16 1 (by decide)).trans (by omega)
  have f_17_9 : fld ww 17 9 = 0 := (F.mod 17 9 (by decide)).trans (by omega)
  rw [dec_90 F.op]
  simp [decWmovs, fEt, fFn, fG, fK, fKZ, fMod, fS, fWA, fWD, f_0_1, f_0_26, f_1_7, f_8_8, f_16_1, f_17_9, F.g, F.s, F.et, F.kz, F.k, F.wb, F.wa, F.wd, F.fn, F.op, gOf, Except.map, need, gUpTo, srcIf, GZ.code_zero, optG, Sz.code_zero, Rm.code_two, bind, Except.bind, pure, Except.pure, srcOf_code, dstOf_code, gzOf_code, rdstOf_code, popOf_code, szOf_code, fszOf_code, rmOf_code, etOf_code, scopeOf_code, modeOf_ord, gOf_val, eOf_val, finOfNat_val, boolNat_eq, BitVec.ofNat_toNat, BitVec.setWidth_eq, fn0, fldB, fbit]

theorem dw_wmovsExtract {ww : Word} (et : Et) (ed : EReg) (wa : WReg) (lane : BitVec 8) (sx : Bool) (hw : ww = packW 144 0 0 (wa.val) 0 0 false (et.code) 0 (24 + ed.val) ((sx.toNat) * 2 ^ 16 + (lane.toNat) * 2 ^ 8 + 1)) (hwf : ((lane.toNat < etN et : Bool)) = true) : decodeWord ww = .ok (.wmovsExtract et ed wa lane sx) := by
  have hb_et := Et.code_lt et
  have hb_ed := ed.isLt
  have hb_wa := wa.isLt
  have hb_lane := lane.isLt
  have hb_sx := Bool.toNat_lt sx
  have F := fieldsW hw (by decide) (by decide) (by decide) (by omega) (by decide) (by decide) (by omega) (by decide) (by omega) (by omega)
  have f_0_1 : fld ww 0 1 = 1 := (F.mod 0 1 (by decide)).trans (by omega)
  have f_0_26 : fld ww 0 26 = (sx.toNat) * 65536 + (lane.toNat) * 256 + 1 := (F.mod 0 26 (by decide)).trans (by omega)
  have f_1_7 : fld ww 1 7 = 0 := (F.mod 1 7 (by decide)).trans (by omega)
  have f_8_8 : fld ww 8 8 = lane.toNat := (F.mod 8 8 (by decide)).trans (by omega)
  have f_16_1 : fld ww 16 1 = sx.toNat := (F.mod 16 1 (by decide)).trans (by omega)
  have f_17_9 : fld ww 17 9 = 0 := (F.mod 17 9 (by decide)).trans (by omega)
  try simp [← BitVec.toNat_inj, GZ.code_zero] at hwf
  rw [dec_90 F.op]
  simp [decWmovs, fEt, fFn, fG, fK, fKZ, fMod, fS, fWA, fWD, f_0_1, f_0_26, f_1_7, f_8_8, f_16_1, f_17_9, F.g, F.s, F.et, F.kz, F.k, F.wb, F.wa, F.wd, F.fn, F.op, gOf, Except.map, need, gUpTo, srcIf, GZ.code_zero, optG, Sz.code_zero, Rm.code_two, bind, Except.bind, pure, Except.pure, srcOf_code, dstOf_code, gzOf_code, rdstOf_code, popOf_code, szOf_code, fszOf_code, rmOf_code, etOf_code, scopeOf_code, modeOf_ord, gOf_val, eOf_val, finOfNat_val, boolNat_eq, BitVec.ofNat_toNat, BitVec.setWidth_eq, fn0, fldB, fbit, hwf]

theorem dw_widx_N {ww : Word} (et : Et) (wd : WReg) (k : KReg) (kz : Bool) (step : BitVec 16) (hw : ww = packW 146 0 (wd.val) 0 0 (k.val) kz (et.code) 0 0 (step.toNat)) (hwf : ((etInt et : Bool)) = true) : decodeWord ww = .ok (.widx et wd none k kz step) := by
  have hb_et := Et.code_lt et
  have hb_wd := wd.isLt
  have hb_k := k.isLt
  have hb_kz := Bool.toNat_lt kz
  have hb_step := step.isLt
  have F := fieldsW hw (by decide) (by decide) (by omega) (by decide) (by decide) (by omega) (by omega) (by decide) (by decide) (by omega)
  have f_0_16 : fld ww 0 16 = step.toNat := (F.mod 0 16 (by decide)).trans (by omega)
  have f_16_10 : fld ww 16 10 = 0 := (F.mod 16 10 (by decide)).trans (by omega)
  try simp [← BitVec.toNat_inj, GZ.code_zero] at hwf
  rw [dec_92 F.op]
  simp [decWidx, fEt, fFn, fG, fK, fKZ, fS, fWD, f_0_16, f_16_10, F.g, F.s, F.et, F.kz, F.k, F.wb, F.wa, F.wd, F.fn, F.op, gOf, Except.map, need, gUpTo, srcIf, GZ.code_zero, optG, Sz.code_zero, Rm.code_two, bind, Except.bind, pure, Except.pure, srcOf_code, dstOf_code, gzOf_code, rdstOf_code, popOf_code, szOf_code, fszOf_code, rmOf_code, etOf_code, scopeOf_code, modeOf_ord, gOf_val, eOf_val, finOfNat_val, boolNat_eq, BitVec.ofNat_toNat, BitVec.setWidth_eq, fn0, fldB, fbit, hwf]

theorem dw_widx_S {ww : Word} (et : Et) (wd : WReg) (g : Src) (k : KReg) (kz : Bool) (step : BitVec 16) (hw : ww = packW 146 0 (wd.val) 0 0 (k.val) kz (et.code) 1 (g.code) (step.toNat)) (hwf : ((etInt et : Bool)) = true) : decodeWord ww = .ok (.widx et wd (some g) k kz step) := by
  have hb_et := Et.code_lt et
  have hb_wd := wd.isLt
  have hb_g := Src.code_lt g
  have hb_k := k.isLt
  have hb_kz := Bool.toNat_lt kz
  have hb_step := step.isLt
  have F := fieldsW hw (by decide) (by decide) (by omega) (by decide) (by decide) (by omega) (by omega) (by decide) (by omega) (by omega)
  have f_0_16 : fld ww 0 16 = step.toNat := (F.mod 0 16 (by decide)).trans (by omega)
  have f_16_10 : fld ww 16 10 = 0 := (F.mod 16 10 (by decide)).trans (by omega)
  try simp [← BitVec.toNat_inj, GZ.code_zero] at hwf
  rw [dec_92 F.op]
  simp [decWidx, fEt, fFn, fG, fK, fKZ, fS, fWD, f_0_16, f_16_10, F.g, F.s, F.et, F.kz, F.k, F.wb, F.wa, F.wd, F.fn, F.op, gOf, Except.map, need, gUpTo, srcIf, GZ.code_zero, optG, Sz.code_zero, Rm.code_two, bind, Except.bind, pure, Except.pure, srcOf_code, dstOf_code, gzOf_code, rdstOf_code, popOf_code, szOf_code, fszOf_code, rmOf_code, etOf_code, scopeOf_code, modeOf_ord, gOf_val, eOf_val, finOfNat_val, boolNat_eq, BitVec.ofNat_toNat, BitVec.setWidth_eq, fn0, fldB, fbit, hwf]

theorem dw_kop_bin {ww : Word} (f : Fin 4) (kd : KReg) (ka : KReg) (kb : KReg) (hw : ww = packW 148 0 (kd.val) (ka.val) (kb.val) 0 false 0 0 0 (f.val)) (hwf : ((kd ≠ 0 : Bool)) = true) : decodeWord ww = .ok (.kop (.bin f kd ka kb)) := by
  have hb_f := f.isLt
  have hb_kd := kd.isLt
  have hb_ka := ka.isLt
  have hb_kb := kb.isLt
  have F := fieldsW hw (by decide) (by decide) (by omega) (by omega) (by omega) (by decide) (by decide) (by decide) (by decide) (by omega)
  have ht := hw ▸ packW_toNat (op := 148) (fn := 0) (wd := (kd.val)) (wa := (ka.val)) (wb := (kb.val)) (k := 0) (kz := false) (et := 0) (s := 0) (g := 0) (mod := (f.val)) (by decide) (by decide) (by omega) (by omega) (by omega) (by decide) (by decide) (by decide) (by decide) (by omega)
  rw [Bool.toNat_false] at ht
  have f_0_4 : fld ww 0 4 = f.val := (F.mod 0 4 (by decide)).trans (by omega)
  have f_4_22 : fld ww 4 22 = 0 := (F.mod 4 22 (by decide)).trans (by omega)
  have f_40_2 : fld ww 40 2 = kb.val := by rw [fld, ht]; omega
  have f_42_2 : fld ww 42 2 = 0 := by rw [fld, ht]; omega
  have f_44_2 : fld ww 44 2 = ka.val := by rw [fld, ht]; omega
  have f_46_2 : fld ww 46 2 = 0 := by rw [fld, ht]; omega
  have f_48_2 : fld ww 48 2 = kd.val := by rw [fld, ht]; omega
  have f_50_2 : fld ww 50 2 = 0 := by rw [fld, ht]; omega
  try simp [← BitVec.toNat_inj, GZ.code_zero] at hwf
  rw [dec_94 F.op]
  obtain ⟨f, hf⟩ := f; interval_cases f <;> simp [decKop, fEt, fFn, fG, fKZ, fS, f_0_4, f_4_22, F.g, F.s, F.et, F.kz, F.k, f_40_2, f_42_2, f_44_2, f_46_2, f_48_2, f_50_2, F.fn, F.op, gOf, Except.map, need, gUpTo, srcIf, GZ.code_zero, optG, Sz.code_zero, Rm.code_two, bind, Except.bind, pure, Except.pure, srcOf_code, dstOf_code, gzOf_code, rdstOf_code, popOf_code, szOf_code, fszOf_code, rmOf_code, etOf_code, scopeOf_code, modeOf_ord, gOf_val, eOf_val, finOfNat_val, boolNat_eq, BitVec.ofNat_toNat, BitVec.setWidth_eq, fn0, fldB, fbit, hwf, Fin.ext_iff]

theorem dw_kop_inv {ww : Word} (kd : KReg) (ka : KReg) (hw : ww = packW 148 0 (kd.val) (ka.val) 0 0 false 0 0 0 4) (hwf : ((kd ≠ 0 : Bool)) = true) : decodeWord ww = .ok (.kop (.inv kd ka)) := by
  have hb_kd := kd.isLt
  have hb_ka := ka.isLt
  have F := fieldsW hw (by decide) (by decide) (by omega) (by omega) (by decide) (by decide) (by decide) (by decide) (by decide) (by decide)
  have ht := hw ▸ packW_toNat (op := 148) (fn := 0) (wd := (kd.val)) (wa := (ka.val)) (wb := 0) (k := 0) (kz := false) (et := 0) (s := 0) (g := 0) (mod := 4) (by decide) (by decide) (by omega) (by omega) (by decide) (by decide) (by decide) (by decide) (by decide) (by decide)
  rw [Bool.toNat_false] at ht
  have f_0_4 : fld ww 0 4 = 4 := (F.mod 0 4 (by decide)).trans (by omega)
  have f_4_22 : fld ww 4 22 = 0 := (F.mod 4 22 (by decide)).trans (by omega)
  have f_40_2 : fld ww 40 2 = 0 := by rw [fld, ht]; omega
  have f_42_2 : fld ww 42 2 = 0 := by rw [fld, ht]; omega
  have f_44_2 : fld ww 44 2 = ka.val := by rw [fld, ht]; omega
  have f_46_2 : fld ww 46 2 = 0 := by rw [fld, ht]; omega
  have f_48_2 : fld ww 48 2 = kd.val := by rw [fld, ht]; omega
  have f_50_2 : fld ww 50 2 = 0 := by rw [fld, ht]; omega
  try simp [← BitVec.toNat_inj, GZ.code_zero] at hwf
  rw [dec_94 F.op]
  simp [decKop, fEt, fFn, fG, fKZ, fS, f_0_4, f_4_22, F.g, F.s, F.et, F.kz, F.k, f_40_2, f_42_2, f_44_2, f_46_2, f_48_2, f_50_2, F.fn, F.op, gOf, Except.map, need, gUpTo, srcIf, GZ.code_zero, optG, Sz.code_zero, Rm.code_two, bind, Except.bind, pure, Except.pure, srcOf_code, dstOf_code, gzOf_code, rdstOf_code, popOf_code, szOf_code, fszOf_code, rmOf_code, etOf_code, scopeOf_code, modeOf_ord, gOf_val, eOf_val, finOfNat_val, boolNat_eq, BitVec.ofNat_toNat, BitVec.setWidth_eq, fn0, fldB, fbit, hwf, Fin.ext_iff]

theorem dw_kop_mov {ww : Word} (kd : KReg) (ka : KReg) (hw : ww = packW 148 0 (kd.val) (ka.val) 0 0 false 0 0 0 5) (hwf : ((kd ≠ 0 : Bool)) = true) : decodeWord ww = .ok (.kop (.mov kd ka)) := by
  have hb_kd := kd.isLt
  have hb_ka := ka.isLt
  have F := fieldsW hw (by decide) (by decide) (by omega) (by omega) (by decide) (by decide) (by decide) (by decide) (by decide) (by decide)
  have ht := hw ▸ packW_toNat (op := 148) (fn := 0) (wd := (kd.val)) (wa := (ka.val)) (wb := 0) (k := 0) (kz := false) (et := 0) (s := 0) (g := 0) (mod := 5) (by decide) (by decide) (by omega) (by omega) (by decide) (by decide) (by decide) (by decide) (by decide) (by decide)
  rw [Bool.toNat_false] at ht
  have f_0_4 : fld ww 0 4 = 5 := (F.mod 0 4 (by decide)).trans (by omega)
  have f_4_22 : fld ww 4 22 = 0 := (F.mod 4 22 (by decide)).trans (by omega)
  have f_40_2 : fld ww 40 2 = 0 := by rw [fld, ht]; omega
  have f_42_2 : fld ww 42 2 = 0 := by rw [fld, ht]; omega
  have f_44_2 : fld ww 44 2 = ka.val := by rw [fld, ht]; omega
  have f_46_2 : fld ww 46 2 = 0 := by rw [fld, ht]; omega
  have f_48_2 : fld ww 48 2 = kd.val := by rw [fld, ht]; omega
  have f_50_2 : fld ww 50 2 = 0 := by rw [fld, ht]; omega
  try simp [← BitVec.toNat_inj, GZ.code_zero] at hwf
  rw [dec_94 F.op]
  simp [decKop, fEt, fFn, fG, fKZ, fS, f_0_4, f_4_22, F.g, F.s, F.et, F.kz, F.k, f_40_2, f_42_2, f_44_2, f_46_2, f_48_2, f_50_2, F.fn, F.op, gOf, Except.map, need, gUpTo, srcIf, GZ.code_zero, optG, Sz.code_zero, Rm.code_two, bind, Except.bind, pure, Except.pure, srcOf_code, dstOf_code, gzOf_code, rdstOf_code, popOf_code, szOf_code, fszOf_code, rmOf_code, etOf_code, scopeOf_code, modeOf_ord, gOf_val, eOf_val, finOfNat_val, boolNat_eq, BitVec.ofNat_toNat, BitVec.setWidth_eq, fn0, fldB, fbit, hwf, Fin.ext_iff]

theorem dw_kop_set {ww : Word} (kd : KReg) (g : Src) (hw : ww = packW 148 0 (kd.val) 0 0 0 false 0 1 (g.code) 6) (hwf : ((kd ≠ 0 : Bool)) = true) : decodeWord ww = .ok (.kop (.set kd g)) := by
  have hb_kd := kd.isLt
  have hb_g := Src.code_lt g
  have F := fieldsW hw (by decide) (by decide) (by omega) (by decide) (by decide) (by decide) (by decide) (by decide) (by omega) (by decide)
  have ht := hw ▸ packW_toNat (op := 148) (fn := 0) (wd := (kd.val)) (wa := 0) (wb := 0) (k := 0) (kz := false) (et := 0) (s := 1) (g := (g.code)) (mod := 6) (by decide) (by decide) (by omega) (by decide) (by decide) (by decide) (by decide) (by decide) (by omega) (by decide)
  rw [Bool.toNat_false] at ht
  have f_0_4 : fld ww 0 4 = 6 := (F.mod 0 4 (by decide)).trans (by omega)
  have f_4_22 : fld ww 4 22 = 0 := (F.mod 4 22 (by decide)).trans (by omega)
  have f_40_2 : fld ww 40 2 = 0 := by rw [fld, ht]; omega
  have f_42_2 : fld ww 42 2 = 0 := by rw [fld, ht]; omega
  have f_44_2 : fld ww 44 2 = 0 := by rw [fld, ht]; omega
  have f_46_2 : fld ww 46 2 = 0 := by rw [fld, ht]; omega
  have f_48_2 : fld ww 48 2 = kd.val := by rw [fld, ht]; omega
  have f_50_2 : fld ww 50 2 = 0 := by rw [fld, ht]; omega
  try simp [← BitVec.toNat_inj, GZ.code_zero] at hwf
  rw [dec_94 F.op]
  simp [decKop, fEt, fFn, fG, fKZ, fS, f_0_4, f_4_22, F.g, F.s, F.et, F.kz, F.k, f_40_2, f_42_2, f_44_2, f_46_2, f_48_2, f_50_2, F.fn, F.op, gOf, Except.map, need, gUpTo, srcIf, GZ.code_zero, optG, Sz.code_zero, Rm.code_two, bind, Except.bind, pure, Except.pure, srcOf_code, dstOf_code, gzOf_code, rdstOf_code, popOf_code, szOf_code, fszOf_code, rmOf_code, etOf_code, scopeOf_code, modeOf_ord, gOf_val, eOf_val, finOfNat_val, boolNat_eq, BitVec.ofNat_toNat, BitVec.setWidth_eq, fn0, fldB, fbit, hwf, Fin.ext_iff]

theorem dw_kop_popc {ww : Word} (ed : EReg) (ka : KReg) (hw : ww = packW 148 0 0 (ka.val) 0 0 false 0 0 (24 + ed.val) 7) : decodeWord ww = .ok (.kop (.popc ed ka)) := by
  have hb_ed := ed.isLt
  have hb_ka := ka.isLt
  have F := fieldsW hw (by decide) (by decide) (by decide) (by omega) (by decide) (by decide) (by decide) (by decide) (by omega) (by decide)
  have ht := hw ▸ packW_toNat (op := 148) (fn := 0) (wd := 0) (wa := (ka.val)) (wb := 0) (k := 0) (kz := false) (et := 0) (s := 0) (g := (24 + ed.val)) (mod := 7) (by decide) (by decide) (by decide) (by omega) (by decide) (by decide) (by decide) (by decide) (by omega) (by decide)
  rw [Bool.toNat_false] at ht
  have f_0_4 : fld ww 0 4 = 7 := (F.mod 0 4 (by decide)).trans (by omega)
  have f_4_22 : fld ww 4 22 = 0 := (F.mod 4 22 (by decide)).trans (by omega)
  have f_40_2 : fld ww 40 2 = 0 := by rw [fld, ht]; omega
  have f_42_2 : fld ww 42 2 = 0 := by rw [fld, ht]; omega
  have f_44_2 : fld ww 44 2 = ka.val := by rw [fld, ht]; omega
  have f_46_2 : fld ww 46 2 = 0 := by rw [fld, ht]; omega
  have f_48_2 : fld ww 48 2 = 0 := by rw [fld, ht]; omega
  have f_50_2 : fld ww 50 2 = 0 := by rw [fld, ht]; omega
  rw [dec_94 F.op]
  simp [decKop, fEt, fFn, fG, fKZ, fS, f_0_4, f_4_22, F.g, F.s, F.et, F.kz, F.k, f_40_2, f_42_2, f_44_2, f_46_2, f_48_2, f_50_2, F.fn, F.op, gOf, Except.map, need, gUpTo, srcIf, GZ.code_zero, optG, Sz.code_zero, Rm.code_two, bind, Except.bind, pure, Except.pure, srcOf_code, dstOf_code, gzOf_code, rdstOf_code, popOf_code, szOf_code, fszOf_code, rmOf_code, etOf_code, scopeOf_code, modeOf_ord, gOf_val, eOf_val, finOfNat_val, boolNat_eq, BitVec.ofNat_toNat, BitVec.setWidth_eq, fn0, fldB, fbit, Fin.ext_iff]

theorem dw_kop_first {ww : Word} (ed : EReg) (ka : KReg) (hw : ww = packW 148 0 0 (ka.val) 0 0 false 0 0 (24 + ed.val) 8) : decodeWord ww = .ok (.kop (.first ed ka)) := by
  have hb_ed := ed.isLt
  have hb_ka := ka.isLt
  have F := fieldsW hw (by decide) (by decide) (by decide) (by omega) (by decide) (by decide) (by decide) (by decide) (by omega) (by decide)
  have ht := hw ▸ packW_toNat (op := 148) (fn := 0) (wd := 0) (wa := (ka.val)) (wb := 0) (k := 0) (kz := false) (et := 0) (s := 0) (g := (24 + ed.val)) (mod := 8) (by decide) (by decide) (by decide) (by omega) (by decide) (by decide) (by decide) (by decide) (by omega) (by decide)
  rw [Bool.toNat_false] at ht
  have f_0_4 : fld ww 0 4 = 8 := (F.mod 0 4 (by decide)).trans (by omega)
  have f_4_22 : fld ww 4 22 = 0 := (F.mod 4 22 (by decide)).trans (by omega)
  have f_40_2 : fld ww 40 2 = 0 := by rw [fld, ht]; omega
  have f_42_2 : fld ww 42 2 = 0 := by rw [fld, ht]; omega
  have f_44_2 : fld ww 44 2 = ka.val := by rw [fld, ht]; omega
  have f_46_2 : fld ww 46 2 = 0 := by rw [fld, ht]; omega
  have f_48_2 : fld ww 48 2 = 0 := by rw [fld, ht]; omega
  have f_50_2 : fld ww 50 2 = 0 := by rw [fld, ht]; omega
  rw [dec_94 F.op]
  simp [decKop, fEt, fFn, fG, fKZ, fS, f_0_4, f_4_22, F.g, F.s, F.et, F.kz, F.k, f_40_2, f_42_2, f_44_2, f_46_2, f_48_2, f_50_2, F.fn, F.op, gOf, Except.map, need, gUpTo, srcIf, GZ.code_zero, optG, Sz.code_zero, Rm.code_two, bind, Except.bind, pure, Except.pure, srcOf_code, dstOf_code, gzOf_code, rdstOf_code, popOf_code, szOf_code, fszOf_code, rmOf_code, etOf_code, scopeOf_code, modeOf_ord, gOf_val, eOf_val, finOfNat_val, boolNat_eq, BitVec.ofNat_toNat, BitVec.setWidth_eq, fn0, fldB, fbit, Fin.ext_iff]

theorem dw_wldReg {ww : Word} (wd : WReg) (g : GReg) (k : KReg) (kz : Bool) (m : Mode) (ofs : BitVec 20) (hw : ww = packW 160 0 (wd.val) 0 0 (k.val) kz 0 0 (g.val) ((m.spc.toNat) * 2 ^ 23 + (m.ord.toNat) * 2 ^ 21 + ofs.toNat)) : decodeWord ww = .ok (.wldReg wd g k kz m ofs) := by
  have hb_wd := wd.isLt
  have hb_g := g.isLt
  have hb_k := k.isLt
  have hb_kz := Bool.toNat_lt kz
  have hb_m1 := Bool.toNat_lt m.spc
  have hb_m2 := Bool.toNat_lt m.ord
  have hb_ofs := ofs.isLt
  have F := fieldsW hw (by decide) (by decide) (by omega) (by decide) (by decide) (by omega) (by decide) (by decide) (by omega) (by omega)
  have f_0_20 : fld ww 0 20 = ofs.toNat := (F.mod 0 20 (by decide)).trans (by omega)
  have f_20_1 : fld ww 20 1 = 0 := (F.mod 20 1 (by decide)).trans (by omega)
  have f_21_2 : fld ww 21 2 = m.ord.toNat := (F.mod 21 2 (by decide)).trans (by omega)
  have f_23_1 : fld ww 23 1 = m.spc.toNat := (F.mod 23 1 (by decide)).trans (by omega)
  have f_24_2 : fld ww 24 2 = 0 := (F.mod 24 2 (by decide)).trans (by omega)
  rw [dec_a0 F.op]
  simp [dWMode, decWld, fEt, fFn, fG, fK, fKZ, fS, fWD, f_0_20, f_20_1, f_21_2, f_23_1, f_24_2, F.g, F.s, F.et, F.kz, F.k, F.wb, F.wa, F.wd, F.fn, F.op, gOf, Except.map, need, gUpTo, srcIf, GZ.code_zero, optG, Sz.code_zero, Rm.code_two, bind, Except.bind, pure, Except.pure, srcOf_code, dstOf_code, gzOf_code, rdstOf_code, popOf_code, szOf_code, fszOf_code, rmOf_code, etOf_code, scopeOf_code, modeOf_ord, gOf_val, eOf_val, finOfNat_val, boolNat_eq, BitVec.ofNat_toNat, BitVec.setWidth_eq, fn0, fldB, fbit]

theorem dw_wldLit {ww : Word} (wd : WReg) (k : KReg) (kz : Bool) (imm : BitVec 32) (hw : ww = packWL 161 0 (wd.val) 0 (k.val) kz 0 (imm.toNat)) : decodeWord ww = .ok (.wldLit wd k kz imm) := by
  have hb_wd := wd.isLt
  have hb_k := k.isLt
  have hb_kz := Bool.toNat_lt kz
  have hb_imm := imm.isLt
  have F := fieldsWL hw (by decide) (by decide) (by omega) (by decide) (by omega) (by decide) (by omega)
  have f_0_32 : fld ww 0 32 = imm.toNat := (F.lit 0 32 (by decide)).trans (by omega)
  rw [dec_a1 F.op]
  simp [decWldL, fEt, fFn, fK, fKZ, fLit, fS, fWD, f_0_32, F.s, F.et, F.kz, F.k, F.wb, F.wa, F.wd, F.fn, F.op, gOf, Except.map, need, gUpTo, srcIf, GZ.code_zero, optG, Sz.code_zero, Rm.code_two, bind, Except.bind, pure, Except.pure, srcOf_code, dstOf_code, gzOf_code, rdstOf_code, popOf_code, szOf_code, fszOf_code, rmOf_code, etOf_code, scopeOf_code, modeOf_ord, gOf_val, eOf_val, finOfNat_val, boolNat_eq, BitVec.ofNat_toNat, BitVec.setWidth_eq, fn0, fldB, fbit]

theorem dw_wstReg_N {ww : Word} (wa : WReg) (g : GReg) (k : KReg) (m : Mode) (ofs : BitVec 20) (hw : ww = packW 162 0 0 (wa.val) 0 (k.val) false 0 0 (g.val) ((m.spc.toNat * 2 ^ 23 + m.ord.toNat * 2 ^ 21) + 0 * 2 ^ 20 + ofs.toNat)) : decodeWord ww = .ok (.wstReg wa none g k m ofs) := by
  have hb_wa := wa.isLt
  have hb_g := g.isLt
  have hb_k := k.isLt
  have hb_m1 := Bool.toNat_lt m.spc
  have hb_m2 := Bool.toNat_lt m.ord
  have hb_ofs := ofs.isLt
  have F := fieldsW hw (by decide) (by decide) (by decide) (by omega) (by decide) (by omega) (by decide) (by decide) (by omega) (by omega)
  have f_0_20 : fld ww 0 20 = ofs.toNat := (F.mod 0 20 (by decide)).trans (by omega)
  have f_20_1 : fld ww 20 1 = 0 := (F.mod 20 1 (by decide)).trans (by omega)
  have f_21_2 : fld ww 21 2 = m.ord.toNat := (F.mod 21 2 (by decide)).trans (by omega)
  have f_23_1 : fld ww 23 1 = m.spc.toNat := (F.mod 23 1 (by decide)).trans (by omega)
  have f_24_2 : fld ww 24 2 = 0 := (F.mod 24 2 (by decide)).trans (by omega)
  rw [dec_a2 F.op]
  simp [dWMode, decWst, fEt, fFn, fG, fK, fKZ, fS, fWA, fWB, f_0_20, f_20_1, f_21_2, f_23_1, f_24_2, F.g, F.s, F.et, F.kz, F.k, F.wb, F.wa, F.wd, F.fn, F.op, gOf, Except.map, need, gUpTo, srcIf, GZ.code_zero, optG, Sz.code_zero, Rm.code_two, bind, Except.bind, pure, Except.pure, srcOf_code, dstOf_code, gzOf_code, rdstOf_code, popOf_code, szOf_code, fszOf_code, rmOf_code, etOf_code, scopeOf_code, modeOf_ord, gOf_val, eOf_val, finOfNat_val, boolNat_eq, BitVec.ofNat_toNat, BitVec.setWidth_eq, fn0, fldB, fbit]

theorem dw_wstReg_S {ww : Word} (wa : WReg) (bm : WReg) (g : GReg) (k : KReg) (m : Mode) (ofs : BitVec 20) (hw : ww = packW 162 0 0 (wa.val) (bm.val) (k.val) false 0 0 (g.val) ((m.spc.toNat) * 2 ^ 23 + (m.ord.toNat) * 2 ^ 21 + (1) * 2 ^ 20 + ofs.toNat)) : decodeWord ww = .ok (.wstReg wa (some bm) g k m ofs) := by
  have hb_wa := wa.isLt
  have hb_bm := bm.isLt
  have hb_g := g.isLt
  have hb_k := k.isLt
  have hb_m1 := Bool.toNat_lt m.spc
  have hb_m2 := Bool.toNat_lt m.ord
  have hb_ofs := ofs.isLt
  have F := fieldsW hw (by decide) (by decide) (by decide) (by omega) (by omega) (by omega) (by decide) (by decide) (by omega) (by omega)
  have f_0_20 : fld ww 0 20 = ofs.toNat := (F.mod 0 20 (by decide)).trans (by omega)
  have f_20_1 : fld ww 20 1 = 1 := (F.mod 20 1 (by decide)).trans (by omega)
  have f_21_2 : fld ww 21 2 = m.ord.toNat := (F.mod 21 2 (by decide)).trans (by omega)
  have f_23_1 : fld ww 23 1 = m.spc.toNat := (F.mod 23 1 (by decide)).trans (by omega)
  have f_24_2 : fld ww 24 2 = 0 := (F.mod 24 2 (by decide)).trans (by omega)
  rw [dec_a2 F.op]
  simp [dWMode, decWst, fEt, fFn, fG, fK, fKZ, fS, fWA, fWB, f_0_20, f_20_1, f_21_2, f_23_1, f_24_2, F.g, F.s, F.et, F.kz, F.k, F.wb, F.wa, F.wd, F.fn, F.op, gOf, Except.map, need, gUpTo, srcIf, GZ.code_zero, optG, Sz.code_zero, Rm.code_two, bind, Except.bind, pure, Except.pure, srcOf_code, dstOf_code, gzOf_code, rdstOf_code, popOf_code, szOf_code, fszOf_code, rmOf_code, etOf_code, scopeOf_code, modeOf_ord, gOf_val, eOf_val, finOfNat_val, boolNat_eq, BitVec.ofNat_toNat, BitVec.setWidth_eq, fn0, fldB, fbit]

theorem dw_wstLit {ww : Word} (wa : WReg) (k : KReg) (imm : BitVec 32) (hw : ww = packWL 163 0 0 (wa.val) (k.val) false 0 (imm.toNat)) : decodeWord ww = .ok (.wstLit wa k imm) := by
  have hb_wa := wa.isLt
  have hb_k := k.isLt
  have hb_imm := imm.isLt
  have F := fieldsWL hw (by decide) (by decide) (by decide) (by omega) (by omega) (by decide) (by omega)
  have f_0_32 : fld ww 0 32 = imm.toNat := (F.lit 0 32 (by decide)).trans (by omega)
  rw [dec_a3 F.op]
  simp [decWstL, fEt, fFn, fK, fKZ, fLit, fS, fWA, f_0_32, F.s, F.et, F.kz, F.k, F.wb, F.wa, F.wd, F.fn, F.op, gOf, Except.map, need, gUpTo, srcIf, GZ.code_zero, optG, Sz.code_zero, Rm.code_two, bind, Except.bind, pure, Except.pure, srcOf_code, dstOf_code, gzOf_code, rdstOf_code, popOf_code, szOf_code, fszOf_code, rmOf_code, etOf_code, scopeOf_code, modeOf_ord, gOf_val, eOf_val, finOfNat_val, boolNat_eq, BitVec.ofNat_toNat, BitVec.setWidth_eq, fn0, fldB, fbit]

theorem dw_wgath {ww : Word} (et : Et) (wd : WReg) (wa : WReg) (g : GReg) (k : KReg) (kz : Bool) (m : Mode) (scale : BitVec 3) (hw : ww = packW 164 0 (wd.val) (wa.val) 0 (k.val) kz (et.code) 0 (g.val) ((m.spc.toNat) * 2 ^ 23 + (m.ord.toNat) * 2 ^ 21 + (scale.toNat) * 2 ^ 18)) (hwf : ((et = .i32 || et = .f32 : Bool)) = true) : decodeWord ww = .ok (.wgath et wd wa g k kz m scale) := by
  have hb_et := Et.code_lt et
  have hb_wd := wd.isLt
  have hb_wa := wa.isLt
  have hb_g := g.isLt
  have hb_k := k.isLt
  have hb_kz := Bool.toNat_lt kz
  have hb_m1 := Bool.toNat_lt m.spc
  have hb_m2 := Bool.toNat_lt m.ord
  have hb_scale := scale.isLt
  have F := fieldsW hw (by decide) (by decide) (by omega) (by omega) (by decide) (by omega) (by omega) (by decide) (by omega) (by omega)
  have f_0_18 : fld ww 0 18 = 0 := (F.mod 0 18 (by decide)).trans (by omega)
  have f_18_3 : fld ww 18 3 = scale.toNat := (F.mod 18 3 (by decide)).trans (by omega)
  have f_21_2 : fld ww 21 2 = m.ord.toNat := (F.mod 21 2 (by decide)).trans (by omega)
  have f_23_1 : fld ww 23 1 = m.spc.toNat := (F.mod 23 1 (by decide)).trans (by omega)
  have f_24_2 : fld ww 24 2 = 0 := (F.mod 24 2 (by decide)).trans (by omega)
  try simp [← BitVec.toNat_inj, GZ.code_zero] at hwf
  rw [dec_a4 F.op]
  simp [dWMode, decWgath, fEt, fFn, fG, fK, fKZ, fS, fWA, fWD, f_0_18, f_18_3, f_21_2, f_23_1, f_24_2, F.g, F.s, F.et, F.kz, F.k, F.wb, F.wa, F.wd, F.fn, F.op, gOf, Except.map, need, gUpTo, srcIf, GZ.code_zero, optG, Sz.code_zero, Rm.code_two, bind, Except.bind, pure, Except.pure, srcOf_code, dstOf_code, gzOf_code, rdstOf_code, popOf_code, szOf_code, fszOf_code, rmOf_code, etOf_code, scopeOf_code, modeOf_ord, gOf_val, eOf_val, finOfNat_val, boolNat_eq, BitVec.ofNat_toNat, BitVec.setWidth_eq, fn0, fldB, fbit, hwf]

theorem dw_wscat {ww : Word} (et : Et) (wa : WReg) (wb : WReg) (g : GReg) (k : KReg) (m : Mode) (scale : BitVec 3) (hw : ww = packW 166 0 0 (wa.val) (wb.val) (k.val) false (et.code) 0 (g.val) ((m.spc.toNat) * 2 ^ 23 + (m.ord.toNat) * 2 ^ 21 + (scale.toNat) * 2 ^ 18)) (hwf : ((et = .i32 || et = .f32 : Bool)) = true) : decodeWord ww = .ok (.wscat et wa wb g k m scale) := by
  have hb_et := Et.code_lt et
  have hb_wa := wa.isLt
  have hb_wb := wb.isLt
  have hb_g := g.isLt
  have hb_k := k.isLt
  have hb_m1 := Bool.toNat_lt m.spc
  have hb_m2 := Bool.toNat_lt m.ord
  have hb_scale := scale.isLt
  have F := fieldsW hw (by decide) (by decide) (by decide) (by omega) (by omega) (by omega) (by omega) (by decide) (by omega) (by omega)
  have f_0_18 : fld ww 0 18 = 0 := (F.mod 0 18 (by decide)).trans (by omega)
  have f_18_3 : fld ww 18 3 = scale.toNat := (F.mod 18 3 (by decide)).trans (by omega)
  have f_21_2 : fld ww 21 2 = m.ord.toNat := (F.mod 21 2 (by decide)).trans (by omega)
  have f_23_1 : fld ww 23 1 = m.spc.toNat := (F.mod 23 1 (by decide)).trans (by omega)
  have f_24_2 : fld ww 24 2 = 0 := (F.mod 24 2 (by decide)).trans (by omega)
  try simp [← BitVec.toNat_inj, GZ.code_zero] at hwf
  rw [dec_a6 F.op]
  simp [dWMode, decWscat, fEt, fFn, fG, fK, fKZ, fS, fWA, fWB, f_0_18, f_18_3, f_21_2, f_23_1, f_24_2, F.g, F.s, F.et, F.kz, F.k, F.wb, F.wa, F.wd, F.fn, F.op, gOf, Except.map, need, gUpTo, srcIf, GZ.code_zero, optG, Sz.code_zero, Rm.code_two, bind, Except.bind, pure, Except.pure, srcOf_code, dstOf_code, gzOf_code, rdstOf_code, popOf_code, szOf_code, fszOf_code, rmOf_code, etOf_code, scopeOf_code, modeOf_ord, gOf_val, eOf_val, finOfNat_val, boolNat_eq, BitVec.ofNat_toNat, BitVec.setWidth_eq, fn0, fldB, fbit, hwf]

theorem dw_wldf {ww : Word} (et : Et) (wd : WReg) (g : GReg) (k : KReg) (kz : Bool) (m : Mode) (ofs : BitVec 20) (hw : ww = packW 168 0 (wd.val) 0 0 (k.val) kz (et.code) 0 (g.val) ((m.spc.toNat) * 2 ^ 23 + (m.ord.toNat) * 2 ^ 21 + ofs.toNat)) (hwf : ((et ≠ .i16 : Bool)) = true) : decodeWord ww = .ok (.wldf et wd g k kz m ofs) := by
  have hb_et := Et.code_lt et
  have hb_wd := wd.isLt
  have hb_g := g.isLt
  have hb_k := k.isLt
  have hb_kz := Bool.toNat_lt kz
  have hb_m1 := Bool.toNat_lt m.spc
  have hb_m2 := Bool.toNat_lt m.ord
  have hb_ofs := ofs.isLt
  have F := fieldsW hw (by decide) (by decide) (by omega) (by decide) (by decide) (by omega) (by omega) (by decide) (by omega) (by omega)
  have f_0_20 : fld ww 0 20 = ofs.toNat := (F.mod 0 20 (by decide)).trans (by omega)
  have f_20_1 : fld ww 20 1 = 0 := (F.mod 20 1 (by decide)).trans (by omega)
  have f_21_2 : fld ww 21 2 = m.ord.toNat := (F.mod 21 2 (by decide)).trans (by omega)
  have f_23_1 : fld ww 23 1 = m.spc.toNat := (F.mod 23 1 (by decide)).trans (by omega)
  have f_24_2 : fld ww 24 2 = 0 := (F.mod 24 2 (by decide)).trans (by omega)
  try simp [← BitVec.toNat_inj, GZ.code_zero] at hwf
  rw [dec_a8 F.op]
  simp [dWMode, decWldf, fEt, fFn, fG, fK, fKZ, fS, fWD, f_0_20, f_20_1, f_21_2, f_23_1, f_24_2, F.g, F.s, F.et, F.kz, F.k, F.wb, F.wa, F.wd, F.fn, F.op, gOf, Except.map, need, gUpTo, srcIf, GZ.code_zero, optG, Sz.code_zero, Rm.code_two, bind, Except.bind, pure, Except.pure, srcOf_code, dstOf_code, gzOf_code, rdstOf_code, popOf_code, szOf_code, fszOf_code, rmOf_code, etOf_code, scopeOf_code, modeOf_ord, gOf_val, eOf_val, finOfNat_val, boolNat_eq, BitVec.ofNat_toNat, BitVec.setWidth_eq, fn0, fldB, fbit, hwf]

theorem dw_sealst {ww : Word} (wa : WReg) (g : GReg) (m : Mode) (ofs : BitVec 20) (hw : ww = packW 170 0 0 (wa.val) 0 0 false 0 0 (g.val) ((m.spc.toNat) * 2 ^ 23 + (m.ord.toNat) * 2 ^ 21 + ofs.toNat)) : decodeWord ww = .ok (.sealst wa g m ofs) := by
  have hb_wa := wa.isLt
  have hb_g := g.isLt
  have hb_m1 := Bool.toNat_lt m.spc
  have hb_m2 := Bool.toNat_lt m.ord
  have hb_ofs := ofs.isLt
  have F := fieldsW hw (by decide) (by decide) (by decide) (by omega) (by decide) (by decide) (by decide) (by decide) (by omega) (by omega)
  have f_0_20 : fld ww 0 20 = ofs.toNat := (F.mod 0 20 (by decide)).trans (by omega)
  have f_20_1 : fld ww 20 1 = 0 := (F.mod 20 1 (by decide)).trans (by omega)
  have f_21_2 : fld ww 21 2 = m.ord.toNat := (F.mod 21 2 (by decide)).trans (by omega)
  have f_23_1 : fld ww 23 1 = m.spc.toNat := (F.mod 23 1 (by decide)).trans (by omega)
  have f_24_2 : fld ww 24 2 = 0 := (F.mod 24 2 (by decide)).trans (by omega)
  rw [dec_aa F.op]
  simp [dWMode, decSealst, fEt, fFn, fG, fKZ, fS, fWA, f_0_20, f_20_1, f_21_2, f_23_1, f_24_2, F.g, F.s, F.et, F.kz, F.k, F.wb, F.wa, F.wd, F.fn, F.op, gOf, Except.map, need, gUpTo, srcIf, GZ.code_zero, optG, Sz.code_zero, Rm.code_two, bind, Except.bind, pure, Except.pure, srcOf_code, dstOf_code, gzOf_code, rdstOf_code, popOf_code, szOf_code, fszOf_code, rmOf_code, etOf_code, scopeOf_code, modeOf_ord, gOf_val, eOf_val, finOfNat_val, boolNat_eq, BitVec.ofNat_toNat, BitVec.setWidth_eq, fn0, fldB, fbit]

theorem dw_wspill {ww : Word} (wa : WReg) (slot : Fin 16) (hw : ww = packW 172 0 0 (wa.val) 0 0 false 0 0 0 (slot.val)) : decodeWord ww = .ok (.wspill wa slot) := by
  have hb_wa := wa.isLt
  have hb_slot := slot.isLt
  have F := fieldsW hw (by decide) (by decide) (by decide) (by omega) (by decide) (by decide) (by decide) (by decide) (by decide) (by omega)
  have ht := hw ▸ packW_toNat (op := 172) (fn := 0) (wd := 0) (wa := (wa.val)) (wb := 0) (k := 0) (kz := false) (et := 0) (s := 0) (g := 0) (mod := (slot.val)) (by decide) (by decide) (by decide) (by omega) (by decide) (by decide) (by decide) (by decide) (by decide) (by omega)
  rw [Bool.toNat_false] at ht
  have f_0_4 : fld ww 0 4 = slot.val := (F.mod 0 4 (by decide)).trans (by omega)
  have f_4_22 : fld ww 4 22 = 0 := (F.mod 4 22 (by decide)).trans (by omega)
  have f_26_18 : fld ww 26 18 = 0 := by rw [fld, ht]; omega
  rw [dec_ac F.op]
  simp [decSpill, fFn, fWA, fWD, f_0_4, f_4_22, f_26_18, F.wa, F.wd, F.fn, F.op, gOf, Except.map, need, gUpTo, srcIf, GZ.code_zero, optG, Sz.code_zero, Rm.code_two, bind, Except.bind, pure, Except.pure, srcOf_code, dstOf_code, gzOf_code, rdstOf_code, popOf_code, szOf_code, fszOf_code, rmOf_code, etOf_code, scopeOf_code, modeOf_ord, gOf_val, eOf_val, finOfNat_val, boolNat_eq, BitVec.ofNat_toNat, BitVec.setWidth_eq, fn0, fldB, fbit]

theorem dw_wfill {ww : Word} (wd : WReg) (slot : Fin 16) (hw : ww = packW 172 1 (wd.val) 0 0 0 false 0 0 0 (slot.val)) : decodeWord ww = .ok (.wfill wd slot) := by
  have hb_wd := wd.isLt
  have hb_slot := slot.isLt
  have F := fieldsW hw (by decide) (by decide) (by omega) (by decide) (by decide) (by decide) (by decide) (by decide) (by decide) (by omega)
  have ht := hw ▸ packW_toNat (op := 172) (fn := 1) (wd := (wd.val)) (wa := 0) (wb := 0) (k := 0) (kz := false) (et := 0) (s := 0) (g := 0) (mod := (slot.val)) (by decide) (by decide) (by omega) (by decide) (by decide) (by decide) (by decide) (by decide) (by decide) (by omega)
  rw [Bool.toNat_false] at ht
  have f_0_4 : fld ww 0 4 = slot.val := (F.mod 0 4 (by decide)).trans (by omega)
  have f_4_22 : fld ww 4 22 = 0 := (F.mod 4 22 (by decide)).trans (by omega)
  have f_26_18 : fld ww 26 18 = 0 := by rw [fld, ht]; omega
  rw [dec_ac F.op]
  simp [decSpill, fFn, fWA, fWD, f_0_4, f_4_22, f_26_18, F.wa, F.wd, F.fn, F.op, gOf, Except.map, need, gUpTo, srcIf, GZ.code_zero, optG, Sz.code_zero, Rm.code_two, bind, Except.bind, pure, Except.pure, srcOf_code, dstOf_code, gzOf_code, rdstOf_code, popOf_code, szOf_code, fszOf_code, rmOf_code, etOf_code, scopeOf_code, modeOf_ord, gOf_val, eOf_val, finOfNat_val, boolNat_eq, BitVec.ofNat_toNat, BitVec.setWidth_eq, fn0, fldB, fbit]

theorem dw_dtld_N {ww : Word} (t : Fin 4) (g : Src) (spc : Bool) (hw : ww = packW 174 0 (t.val) 0 0 0 false 0 0 (g.code) (spc.toNat * 2 ^ 23 + 0 * 2 ^ 22 + 0 * 2 ^ 19)) : decodeWord ww = .ok (.dtld t g spc none) := by
  have hb_t := t.isLt
  have hb_g := Src.code_lt g
  have hb_spc := Bool.toNat_lt spc
  have F := fieldsW hw (by decide) (by decide) (by omega) (by decide) (by decide) (by decide) (by decide) (by decide) (by omega) (by omega)
  have ht := hw ▸ packW_toNat (op := 174) (fn := 0) (wd := (t.val)) (wa := 0) (wb := 0) (k := 0) (kz := false) (et := 0) (s := 0) (g := (g.code)) (mod := (spc.toNat * 2 ^ 23 + 0 * 2 ^ 22 + 0 * 2 ^ 19)) (by decide) (by decide) (by omega) (by decide) (by decide) (by decide) (by decide) (by decide) (by omega) (by omega)
  rw [Bool.toNat_false] at ht
  have f_0_19 : fld ww 0 19 = 0 := (F.mod 0 19 (by decide)).trans (by omega)
  have f_19_3 : fld ww 19 3 = 0 := (F.mod 19 3 (by decide)).trans (by omega)
  have f_22_1 : fld ww 22 1 = 0 := (F.mod 22 1 (by decide)).trans (by omega)
  have f_23_1 : fld ww 23 1 = spc.toNat := (F.mod 23 1 (by decide)).trans (by omega)
  have f_24_2 : fld ww 24 2 = 0 := (F.mod 24 2 (by decide)).trans (by omega)
  have f_32_16 : fld ww 32 16 = 0 := by rw [fld, ht]; omega
  have f_48_2 : fld ww 48 2 = t.val := by rw [fld, ht]; omega
  have f_50_2 : fld ww 50 2 = 0 := by rw [fld, ht]; omega
  rw [dec_ae F.op]
  simp [decDtld, fFn, fG, f_0_19, f_19_3, f_22_1, f_23_1, f_24_2, F.g, f_32_16, f_48_2, f_50_2, F.fn, F.op, gOf, Except.map, need, gUpTo, srcIf, GZ.code_zero, optG, Sz.code_zero, Rm.code_two, bind, Except.bind, pure, Except.pure, srcOf_code, dstOf_code, gzOf_code, rdstOf_code, popOf_code, szOf_code, fszOf_code, rmOf_code, etOf_code, scopeOf_code, modeOf_ord, gOf_val, eOf_val, finOfNat_val, boolNat_eq, BitVec.ofNat_toNat, BitVec.setWidth_eq, fn0, fldB, fbit]

theorem dw_dtld_S {ww : Word} (t : Fin 4) (g : Src) (spc : Bool) (rpt : EReg) (hw : ww = packW 174 0 (t.val) 0 0 0 false 0 0 (g.code) ((spc.toNat) * 2 ^ 23 + (1) * 2 ^ 22 + (rpt.val) * 2 ^ 19)) : decodeWord ww = .ok (.dtld t g spc (some rpt)) := by
  have hb_t := t.isLt
  have hb_g := Src.code_lt g
  have hb_spc := Bool.toNat_lt spc
  have hb_rpt := rpt.isLt
  have F := fieldsW hw (by decide) (by decide) (by omega) (by decide) (by decide) (by decide) (by decide) (by decide) (by omega) (by omega)
  have ht := hw ▸ packW_toNat (op := 174) (fn := 0) (wd := (t.val)) (wa := 0) (wb := 0) (k := 0) (kz := false) (et := 0) (s := 0) (g := (g.code)) (mod := ((spc.toNat) * 2 ^ 23 + (1) * 2 ^ 22 + (rpt.val) * 2 ^ 19)) (by decide) (by decide) (by omega) (by decide) (by decide) (by decide) (by decide) (by decide) (by omega) (by omega)
  rw [Bool.toNat_false] at ht
  have f_0_19 : fld ww 0 19 = 0 := (F.mod 0 19 (by decide)).trans (by omega)
  have f_19_3 : fld ww 19 3 = rpt.val := (F.mod 19 3 (by decide)).trans (by omega)
  have f_22_1 : fld ww 22 1 = 1 := (F.mod 22 1 (by decide)).trans (by omega)
  have f_23_1 : fld ww 23 1 = spc.toNat := (F.mod 23 1 (by decide)).trans (by omega)
  have f_24_2 : fld ww 24 2 = 0 := (F.mod 24 2 (by decide)).trans (by omega)
  have f_32_16 : fld ww 32 16 = 0 := by rw [fld, ht]; omega
  have f_48_2 : fld ww 48 2 = t.val := by rw [fld, ht]; omega
  have f_50_2 : fld ww 50 2 = 0 := by rw [fld, ht]; omega
  rw [dec_ae F.op]
  simp [decDtld, fFn, fG, f_0_19, f_19_3, f_22_1, f_23_1, f_24_2, F.g, f_32_16, f_48_2, f_50_2, F.fn, F.op, gOf, Except.map, need, gUpTo, srcIf, GZ.code_zero, optG, Sz.code_zero, Rm.code_two, bind, Except.bind, pure, Except.pure, srcOf_code, dstOf_code, gzOf_code, rdstOf_code, popOf_code, szOf_code, fszOf_code, rmOf_code, etOf_code, scopeOf_code, modeOf_ord, gOf_val, eOf_val, finOfNat_val, boolNat_eq, BitVec.ofNat_toNat, BitVec.setWidth_eq, fn0, fldB, fbit]

theorem dw_mctx_lit {ww : Word} (x : BitVec 32) (hw : ww = packX 176 0 0 0 0 0 (x.toNat)) (hwf : ((x ≠ 0 : Bool)) = true) : decodeWord ww = .ok (.mctx (.lit x)) := by
  have hb_x := x.isLt
  have F := fieldsX hw (by decide) (by decide) (by decide) (by decide) (by decide) (by decide) (by omega)
  have f_0_32 : fld ww 0 32 = x.toNat := (F.lit 0 32 (by decide)).trans (by omega)
  try simp [← BitVec.toNat_inj, GZ.code_zero] at hwf
  rw [dec_b0 F.op]
  simp [decMctx, xRes, fFn, fLit, fSP, fXA, fXB, f_0_32, F.z2, F.sp, F.b, F.a, F.z1, F.c, F.fn, F.op, gOf, Except.map, need, gUpTo, srcIf, GZ.code_zero, optG, Sz.code_zero, Rm.code_two, bind, Except.bind, pure, Except.pure, srcOf_code, dstOf_code, gzOf_code, rdstOf_code, popOf_code, szOf_code, fszOf_code, rmOf_code, etOf_code, scopeOf_code, modeOf_ord, gOf_val, eOf_val, finOfNat_val, boolNat_eq, BitVec.ofNat_toNat, BitVec.setWidth_eq, fn0, fldB, fbit, hwf]

theorem dw_mctx_reg {ww : Word} (a : GReg) (hw : ww = packX 176 0 0 (a.val) 0 0 0) : decodeWord ww = .ok (.mctx (.reg a)) := by
  have hb_a := a.isLt
  have F := fieldsX hw (by decide) (by decide) (by decide) (by omega) (by decide) (by decide) (by decide)
  have f_0_32 : fld ww 0 32 = 0 := (F.lit 0 32 (by decide)).trans (by omega)
  rw [dec_b0 F.op]
  simp [decMctx, xRes, fFn, fLit, fSP, fXA, fXB, f_0_32, F.z2, F.sp, F.b, F.a, F.z1, F.c, F.fn, F.op, gOf, Except.map, need, gUpTo, srcIf, GZ.code_zero, optG, Sz.code_zero, Rm.code_two, bind, Except.bind, pure, Except.pure, srcOf_code, dstOf_code, gzOf_code, rdstOf_code, popOf_code, szOf_code, fszOf_code, rmOf_code, etOf_code, scopeOf_code, modeOf_ord, gOf_val, eOf_val, finOfNat_val, boolNat_eq, BitVec.ofNat_toNat, BitVec.setWidth_eq, fn0, fldB, fbit]

theorem dw_mldb {ww : Word} (a : GZ) (b : GZ) (spc : Bool) (hw : ww = packX 178 0 0 (a.code) (b.code) (spc.toNat) 0) : decodeWord ww = .ok (.mldb a b spc) := by
  have hb_a := GZ.code_lt a
  have hb_b := GZ.code_lt b
  have hb_spc := Bool.toNat_lt spc
  have F := fieldsX hw (by decide) (by decide) (by decide) (by omega) (by omega) (by omega) (by decide)
  have ht := hw ▸ packX_toNat (op := 178) (fn := 0) (c := 0) (a := (a.code)) (b := (b.code)) (sp := (spc.toNat)) (lit := 0) (by decide) (by decide) (by decide) (by omega) (by omega) (by omega) (by decide)
  have f_0_32 : fld ww 0 32 = 0 := (F.lit 0 32 (by decide)).trans (by omega)
  have f_34_1 : fld ww 34 1 = spc.toNat := by rw [fld, ht]; omega
  rw [dec_b2 F.op]
  simp [decMldb, xRes, fFn, fSP, fXA, fXB, f_0_32, F.z2, f_34_1, F.sp, F.b, F.a, F.z1, F.c, F.fn, F.op, gOf, Except.map, need, gUpTo, srcIf, GZ.code_zero, optG, Sz.code_zero, Rm.code_two, bind, Except.bind, pure, Except.pure, srcOf_code, dstOf_code, gzOf_code, rdstOf_code, popOf_code, szOf_code, fszOf_code, rmOf_code, etOf_code, scopeOf_code, modeOf_ord, gOf_val, eOf_val, finOfNat_val, boolNat_eq, BitVec.ofNat_toNat, BitVec.setWidth_eq, fn0, fldB, fbit, show spc.toNat ≤ 1 by omega]

theorem dw_mrot {ww : Word} (n : BitVec 3) (hw : ww = packX 180 0 0 0 0 0 (n.toNat)) (hwf : ((n.toNat ≤ 4 : Bool)) = true) : decodeWord ww = .ok (.mrot n) := by
  have hb_n := n.isLt
  have F := fieldsX hw (by decide) (by decide) (by decide) (by decide) (by decide) (by decide) (by omega)
  have f_0_3 : fld ww 0 3 = n.toNat := (F.lit 0 3 (by decide)).trans (by omega)
  have f_0_32 : fld ww 0 32 = n.toNat := (F.lit 0 32 (by decide)).trans (by omega)
  try simp [← BitVec.toNat_inj, GZ.code_zero] at hwf
  rw [dec_b4 F.op]
  simp [decMrot, xRes, fFn, fSP, fXA, fXB, f_0_3, f_0_32, F.z2, F.sp, F.b, F.a, F.z1, F.c, F.fn, F.op, gOf, Except.map, need, gUpTo, srcIf, GZ.code_zero, optG, Sz.code_zero, Rm.code_two, bind, Except.bind, pure, Except.pure, srcOf_code, dstOf_code, gzOf_code, rdstOf_code, popOf_code, szOf_code, fszOf_code, rmOf_code, etOf_code, scopeOf_code, modeOf_ord, gOf_val, eOf_val, finOfNat_val, boolNat_eq, BitVec.ofNat_toNat, BitVec.setWidth_eq, fn0, fldB, fbit, hwf]

theorem dw_mma {ww : Word} (c : Fin 4) (a : GReg) (b : GZ) (z : Bool) (hw : ww = packX 182 0 (c.val) (a.val) (b.code) 0 (z.toNat)) : decodeWord ww = .ok (.mma c a b z) := by
  have hb_c := c.isLt
  have hb_a := a.isLt
  have hb_b := GZ.code_lt b
  have hb_z := Bool.toNat_lt z
  have F := fieldsX hw (by decide) (by decide) (by omega) (by omega) (by omega) (by decide) (by omega)
  have f_0_1 : fld ww 0 1 = z.toNat := (F.lit 0 1 (by decide)).trans (by omega)
  have f_1_31 : fld ww 1 31 = 0 := (F.lit 1 31 (by decide)).trans (by omega)
  rw [dec_b6 F.op]
  simp [dMma, xRes, fFn, fSP, fXA, fXB, fXC, f_0_1, f_1_31, F.z2, F.sp, F.b, F.a, F.z1, F.c, F.fn, F.op, gOf, Except.map, need, gUpTo, srcIf, GZ.code_zero, optG, Sz.code_zero, Rm.code_two, bind, Except.bind, pure, Except.pure, srcOf_code, dstOf_code, gzOf_code, rdstOf_code, popOf_code, szOf_code, fszOf_code, rmOf_code, etOf_code, scopeOf_code, modeOf_ord, gOf_val, eOf_val, finOfNat_val, boolNat_eq, BitVec.ofNat_toNat, BitVec.setWidth_eq, fn0, fldB, fbit]

theorem dw_mrec {ww : Word} (c : Fin 4) (a : GReg) (b : GZ) (z : Bool) (hw : ww = packX 184 0 (c.val) (a.val) (b.code) 0 (z.toNat)) : decodeWord ww = .ok (.mrec c a b z) := by
  have hb_c := c.isLt
  have hb_a := a.isLt
  have hb_b := GZ.code_lt b
  have hb_z := Bool.toNat_lt z
  have F := fieldsX hw (by decide) (by decide) (by omega) (by omega) (by omega) (by decide) (by omega)
  have f_0_1 : fld ww 0 1 = z.toNat := (F.lit 0 1 (by decide)).trans (by omega)
  have f_1_31 : fld ww 1 31 = 0 := (F.lit 1 31 (by decide)).trans (by omega)
  rw [dec_b8 F.op]
  simp [dMma, xRes, fFn, fSP, fXA, fXB, fXC, f_0_1, f_1_31, F.z2, F.sp, F.b, F.a, F.z1, F.c, F.fn, F.op, gOf, Except.map, need, gUpTo, srcIf, GZ.code_zero, optG, Sz.code_zero, Rm.code_two, bind, Except.bind, pure, Except.pure, srcOf_code, dstOf_code, gzOf_code, rdstOf_code, popOf_code, szOf_code, fszOf_code, rmOf_code, etOf_code, scopeOf_code, modeOf_ord, gOf_val, eOf_val, finOfNat_val, boolNat_eq, BitVec.ofNat_toNat, BitVec.setWidth_eq, fn0, fldB, fbit]

theorem dw_mprog {ww : Word} (a : GReg) (hw : ww = packX 186 0 0 (a.val) 0 0 0) : decodeWord ww = .ok (.mprog a) := by
  have hb_a := a.isLt
  have F := fieldsX hw (by decide) (by decide) (by decide) (by omega) (by decide) (by decide) (by decide)
  have f_0_32 : fld ww 0 32 = 0 := (F.lit 0 32 (by decide)).trans (by omega)
  rw [dec_ba F.op]
  simp [decMprog, xRes, fFn, fSP, fXA, fXB, f_0_32, F.z2, F.sp, F.b, F.a, F.z1, F.c, F.fn, F.op, gOf, Except.map, need, gUpTo, srcIf, GZ.code_zero, optG, Sz.code_zero, Rm.code_two, bind, Except.bind, pure, Except.pure, srcOf_code, dstOf_code, gzOf_code, rdstOf_code, popOf_code, szOf_code, fszOf_code, rmOf_code, etOf_code, scopeOf_code, modeOf_ord, gOf_val, eOf_val, finOfNat_val, boolNat_eq, BitVec.ofNat_toNat, BitVec.setWidth_eq, fn0, fldB, fbit]

theorem dw_mzero {ww : Word} (c : Fin 4) (hw : ww = packX 188 0 (c.val) 0 0 0 0) : decodeWord ww = .ok (.mzero c) := by
  have hb_c := c.isLt
  have F := fieldsX hw (by decide) (by decide) (by omega) (by decide) (by decide) (by decide) (by decide)
  have ht := hw ▸ packX_toNat (op := 188) (fn := 0) (c := (c.val)) (a := 0) (b := 0) (sp := 0) (lit := 0) (by decide) (by decide) (by omega) (by decide) (by decide) (by decide) (by decide)
  have f_0_4 : fld ww 0 4 = 0 := (F.lit 0 4 (by decide)).trans (by omega)
  have f_0_5 : fld ww 0 5 = 0 := (F.lit 0 5 (by decide)).trans (by omega)
  have f_0_32 : fld ww 0 32 = 0 := (F.lit 0 32 (by decide)).trans (by omega)
  have f_4_4 : fld ww 4 4 = 0 := (F.lit 4 4 (by decide)).trans (by omega)
  have f_5_27 : fld ww 5 27 = 0 := (F.lit 5 27 (by decide)).trans (by omega)
  have f_8_24 : fld ww 8 24 = 0 := (F.lit 8 24 (by decide)).trans (by omega)
  have f_34_1 : fld ww 34 1 = 0 := by rw [fld, ht]; omega
  rw [dec_bc F.op]
  simp [decMacc, xRes, fFn, fSP, fXA, fXB, fXC, f_0_4, f_0_5, f_0_32, f_4_4, f_5_27, f_8_24, F.z2, f_34_1, F.sp, F.b, F.a, F.z1, F.c, F.fn, F.op, gOf, Except.map, need, gUpTo, srcIf, GZ.code_zero, optG, Sz.code_zero, Rm.code_two, bind, Except.bind, pure, Except.pure, srcOf_code, dstOf_code, gzOf_code, rdstOf_code, popOf_code, szOf_code, fszOf_code, rmOf_code, etOf_code, scopeOf_code, modeOf_ord, gOf_val, eOf_val, finOfNat_val, boolNat_eq, BitVec.ofNat_toNat, BitVec.setWidth_eq, fn0, fldB, fbit]

theorem dw_mload {ww : Word} (c : Fin 4) (a : GReg) (b : GZ) (spc : Bool) (hw : ww = packX 188 1 (c.val) (a.val) (b.code) (spc.toNat) 0) : decodeWord ww = .ok (.mload c a b spc) := by
  have hb_c := c.isLt
  have hb_a := a.isLt
  have hb_b := GZ.code_lt b
  have hb_spc := Bool.toNat_lt spc
  have F := fieldsX hw (by decide) (by decide) (by omega) (by omega) (by omega) (by omega) (by decide)
  have ht := hw ▸ packX_toNat (op := 188) (fn := 1) (c := (c.val)) (a := (a.val)) (b := (b.code)) (sp := (spc.toNat)) (lit := 0) (by decide) (by decide) (by omega) (by omega) (by omega) (by omega) (by decide)
  have f_0_4 : fld ww 0 4 = 0 := (F.lit 0 4 (by decide)).trans (by omega)
  have f_0_5 : fld ww 0 5 = 0 := (F.lit 0 5 (by decide)).trans (by omega)
  have f_0_32 : fld ww 0 32 = 0 := (F.lit 0 32 (by decide)).trans (by omega)
  have f_4_4 : fld ww 4 4 = 0 := (F.lit 4 4 (by decide)).trans (by omega)
  have f_5_27 : fld ww 5 27 = 0 := (F.lit 5 27 (by decide)).trans (by omega)
  have f_8_24 : fld ww 8 24 = 0 := (F.lit 8 24 (by decide)).trans (by omega)
  have f_34_1 : fld ww 34 1 = spc.toNat := by rw [fld, ht]; omega
  rw [dec_bc F.op]
  simp [decMacc, xRes, fFn, fSP, fXA, fXB, fXC, f_0_4, f_0_5, f_0_32, f_4_4, f_5_27, f_8_24, F.z2, f_34_1, F.sp, F.b, F.a, F.z1, F.c, F.fn, F.op, gOf, Except.map, need, gUpTo, srcIf, GZ.code_zero, optG, Sz.code_zero, Rm.code_two, bind, Except.bind, pure, Except.pure, srcOf_code, dstOf_code, gzOf_code, rdstOf_code, popOf_code, szOf_code, fszOf_code, rmOf_code, etOf_code, scopeOf_code, modeOf_ord, gOf_val, eOf_val, finOfNat_val, boolNat_eq, BitVec.ofNat_toNat, BitVec.setWidth_eq, fn0, fldB, fbit, show spc.toNat ≤ 1 by omega]

theorem dw_mstore {ww : Word} (c : Fin 4) (a : GReg) (b : GZ) (spc : Bool) (df : BitVec 5) (hw : ww = packX 188 2 (c.val) (a.val) (b.code) (spc.toNat) (df.toNat)) (hwf : ((wfFmt df true false : Bool)) = true) : decodeWord ww = .ok (.mstore c a b spc df) := by
  have hb_c := c.isLt
  have hb_a := a.isLt
  have hb_b := GZ.code_lt b
  have hb_spc := Bool.toNat_lt spc
  have hb_df := df.isLt
  have F := fieldsX hw (by decide) (by decide) (by omega) (by omega) (by omega) (by omega) (by omega)
  have ht := hw ▸ packX_toNat (op := 188) (fn := 2) (c := (c.val)) (a := (a.val)) (b := (b.code)) (sp := (spc.toNat)) (lit := (df.toNat)) (by decide) (by decide) (by omega) (by omega) (by omega) (by omega) (by omega)
  have f_0_5 : fld ww 0 5 = df.toNat := (F.lit 0 5 (by decide)).trans (by omega)
  have f_0_32 : fld ww 0 32 = df.toNat := (F.lit 0 32 (by decide)).trans (by omega)
  have f_5_27 : fld ww 5 27 = 0 := (F.lit 5 27 (by decide)).trans (by omega)
  have f_8_24 : fld ww 8 24 = 0 := (F.lit 8 24 (by decide)).trans (by omega)
  have f_34_1 : fld ww 34 1 = spc.toNat := by rw [fld, ht]; omega
  try simp [← BitVec.toNat_inj, GZ.code_zero] at hwf
  rw [dec_bc F.op]
  simp [decMacc, xRes, fFn, fSP, fXA, fXB, fXC, f_0_5, f_0_32, f_5_27, f_8_24, F.z2, f_34_1, F.sp, F.b, F.a, F.z1, F.c, F.fn, F.op, gOf, Except.map, need, gUpTo, srcIf, GZ.code_zero, optG, Sz.code_zero, Rm.code_two, bind, Except.bind, pure, Except.pure, srcOf_code, dstOf_code, gzOf_code, rdstOf_code, popOf_code, szOf_code, fszOf_code, rmOf_code, etOf_code, scopeOf_code, modeOf_ord, gOf_val, eOf_val, finOfNat_val, boolNat_eq, BitVec.ofNat_toNat, BitVec.setWidth_eq, fn0, fldB, fbit, hwf, show spc.toNat ≤ 1 by omega]

theorem dw_mtowide {ww : Word} (c : Fin 4) (wd : WReg) (p : Fin 16) (hw : ww = packX 188 3 (c.val) 0 0 0 ((p.val) * 2 ^ 4 + wd.val)) : decodeWord ww = .ok (.mtowide c wd p) := by
  have hb_c := c.isLt
  have hb_wd := wd.isLt
  have hb_p := p.isLt
  have F := fieldsX hw (by decide) (by decide) (by omega) (by decide) (by decide) (by decide) (by omega)
  have ht := hw ▸ packX_toNat (op := 188) (fn := 3) (c := (c.val)) (a := 0) (b := 0) (sp := 0) (lit := ((p.val) * 2 ^ 4 + wd.val)) (by decide) (by decide) (by omega) (by decide) (by decide) (by decide) (by omega)
  have f_0_4 : fld ww 0 4 = wd.val := (F.lit 0 4 (by decide)).trans (by omega)
  have f_0_32 : fld ww 0 32 = (p.val) * 16 + wd.val := (F.lit 0 32 (by decide)).trans (by omega)
  have f_4_4 : fld ww 4 4 = p.val := (F.lit 4 4 (by decide)).trans (by omega)
  have f_8_24 : fld ww 8 24 = 0 := (F.lit 8 24 (by decide)).trans (by omega)
  have f_34_1 : fld ww 34 1 = 0 := by rw [fld, ht]; omega
  rw [dec_bc F.op]
  simp [decMacc, xRes, fFn, fSP, fXA, fXB, fXC, f_0_4, f_0_32, f_4_4, f_8_24, F.z2, f_34_1, F.sp, F.b, F.a, F.z1, F.c, F.fn, F.op, gOf, Except.map, need, gUpTo, srcIf, GZ.code_zero, optG, Sz.code_zero, Rm.code_two, bind, Except.bind, pure, Except.pure, srcOf_code, dstOf_code, gzOf_code, rdstOf_code, popOf_code, szOf_code, fszOf_code, rmOf_code, etOf_code, scopeOf_code, modeOf_ord, gOf_val, eOf_val, finOfNat_val, boolNat_eq, BitVec.ofNat_toNat, BitVec.setWidth_eq, fn0, fldB, fbit]

theorem dw_mclaim {ww : Word} (c : Fin 4) (hw : ww = packX 188 4 (c.val) 0 0 0 0) : decodeWord ww = .ok (.mclaim c) := by
  have hb_c := c.isLt
  have F := fieldsX hw (by decide) (by decide) (by omega) (by decide) (by decide) (by decide) (by decide)
  have ht := hw ▸ packX_toNat (op := 188) (fn := 4) (c := (c.val)) (a := 0) (b := 0) (sp := 0) (lit := 0) (by decide) (by decide) (by omega) (by decide) (by decide) (by decide) (by decide)
  have f_0_4 : fld ww 0 4 = 0 := (F.lit 0 4 (by decide)).trans (by omega)
  have f_0_5 : fld ww 0 5 = 0 := (F.lit 0 5 (by decide)).trans (by omega)
  have f_0_32 : fld ww 0 32 = 0 := (F.lit 0 32 (by decide)).trans (by omega)
  have f_4_4 : fld ww 4 4 = 0 := (F.lit 4 4 (by decide)).trans (by omega)
  have f_5_27 : fld ww 5 27 = 0 := (F.lit 5 27 (by decide)).trans (by omega)
  have f_8_24 : fld ww 8 24 = 0 := (F.lit 8 24 (by decide)).trans (by omega)
  have f_34_1 : fld ww 34 1 = 0 := by rw [fld, ht]; omega
  rw [dec_bc F.op]
  simp [decMacc, xRes, fFn, fSP, fXA, fXB, fXC, f_0_4, f_0_5, f_0_32, f_4_4, f_5_27, f_8_24, F.z2, f_34_1, F.sp, F.b, F.a, F.z1, F.c, F.fn, F.op, gOf, Except.map, need, gUpTo, srcIf, GZ.code_zero, optG, Sz.code_zero, Rm.code_two, bind, Except.bind, pure, Except.pure, srcOf_code, dstOf_code, gzOf_code, rdstOf_code, popOf_code, szOf_code, fszOf_code, rmOf_code, etOf_code, scopeOf_code, modeOf_ord, gOf_val, eOf_val, finOfNat_val, boolNat_eq, BitVec.ofNat_toNat, BitVec.setWidth_eq, fn0, fldB, fbit]

theorem dw_mrelease {ww : Word} (c : Fin 4) (hw : ww = packX 188 5 (c.val) 0 0 0 0) : decodeWord ww = .ok (.mrelease c) := by
  have hb_c := c.isLt
  have F := fieldsX hw (by decide) (by decide) (by omega) (by decide) (by decide) (by decide) (by decide)
  have ht := hw ▸ packX_toNat (op := 188) (fn := 5) (c := (c.val)) (a := 0) (b := 0) (sp := 0) (lit := 0) (by decide) (by decide) (by omega) (by decide) (by decide) (by decide) (by decide)
  have f_0_4 : fld ww 0 4 = 0 := (F.lit 0 4 (by decide)).trans (by omega)
  have f_0_5 : fld ww 0 5 = 0 := (F.lit 0 5 (by decide)).trans (by omega)
  have f_0_32 : fld ww 0 32 = 0 := (F.lit 0 32 (by decide)).trans (by omega)
  have f_4_4 : fld ww 4 4 = 0 := (F.lit 4 4 (by decide)).trans (by omega)
  have f_5_27 : fld ww 5 27 = 0 := (F.lit 5 27 (by decide)).trans (by omega)
  have f_8_24 : fld ww 8 24 = 0 := (F.lit 8 24 (by decide)).trans (by omega)
  have f_34_1 : fld ww 34 1 = 0 := by rw [fld, ht]; omega
  rw [dec_bc F.op]
  simp [decMacc, xRes, fFn, fSP, fXA, fXB, fXC, f_0_4, f_0_5, f_0_32, f_4_4, f_5_27, f_8_24, F.z2, f_34_1, F.sp, F.b, F.a, F.z1, F.c, F.fn, F.op, gOf, Except.map, need, gUpTo, srcIf, GZ.code_zero, optG, Sz.code_zero, Rm.code_two, bind, Except.bind, pure, Except.pure, srcOf_code, dstOf_code, gzOf_code, rdstOf_code, popOf_code, szOf_code, fszOf_code, rmOf_code, etOf_code, scopeOf_code, modeOf_ord, gOf_val, eOf_val, finOfNat_val, boolNat_eq, BitVec.ofNat_toNat, BitVec.setWidth_eq, fn0, fldB, fbit]

theorem dw_mwait_none {ww : Word} (hw : ww = packX 190 0 0 0 0 0 0) : decodeWord ww = .ok (.mwait none) := by
  have F := fieldsX hw (by decide) (by decide) (by decide) (by decide) (by decide) (by decide) (by decide)
  have f_0_1 : fld ww 0 1 = 0 := (F.lit 0 1 (by decide)).trans (by omega)
  have f_1_31 : fld ww 1 31 = 0 := (F.lit 1 31 (by decide)).trans (by omega)
  rw [dec_be F.op]
  simp [decMwait, xRes, fFn, fSP, fXA, fXB, fXC, f_0_1, f_1_31, F.z2, F.sp, F.b, F.a, F.z1, F.c, F.fn, F.op, gOf, Except.map, need, gUpTo, srcIf, GZ.code_zero, optG, Sz.code_zero, Rm.code_two, bind, Except.bind, pure, Except.pure, srcOf_code, dstOf_code, gzOf_code, rdstOf_code, popOf_code, szOf_code, fszOf_code, rmOf_code, etOf_code, scopeOf_code, modeOf_ord, gOf_val, eOf_val, finOfNat_val, boolNat_eq, BitVec.ofNat_toNat, BitVec.setWidth_eq, fn0, fldB, fbit]

theorem dw_mwait_some {ww : Word} (c : Fin 4) (hw : ww = packX 190 0 (c.val) 0 0 0 1) : decodeWord ww = .ok (.mwait (some c)) := by
  have hb_c := c.isLt
  have F := fieldsX hw (by decide) (by decide) (by omega) (by decide) (by decide) (by decide) (by decide)
  have f_0_1 : fld ww 0 1 = 1 := (F.lit 0 1 (by decide)).trans (by omega)
  have f_1_31 : fld ww 1 31 = 0 := (F.lit 1 31 (by decide)).trans (by omega)
  rw [dec_be F.op]
  simp [decMwait, xRes, fFn, fSP, fXA, fXB, fXC, f_0_1, f_1_31, F.z2, F.sp, F.b, F.a, F.z1, F.c, F.fn, F.op, gOf, Except.map, need, gUpTo, srcIf, GZ.code_zero, optG, Sz.code_zero, Rm.code_two, bind, Except.bind, pure, Except.pure, srcOf_code, dstOf_code, gzOf_code, rdstOf_code, popOf_code, szOf_code, fszOf_code, rmOf_code, etOf_code, scopeOf_code, modeOf_ord, gOf_val, eOf_val, finOfNat_val, boolNat_eq, BitVec.ofNat_toNat, BitVec.setWidth_eq, fn0, fldB, fbit]

theorem dw_epush {ww : Word} (a : Fin 17) (idx : BitVec 6) (hw : ww = packR 192 0 0 (a.val) 0 0 0 (idx.toNat)) : decodeWord ww = .ok (.epush a idx) := by
  have hb_a := a.isLt
  have hb_idx := idx.isLt
  have F := fieldsR hw (by decide) (by decide) (by decide) (by omega) (by decide) (by decide) (by decide) (by omega)
  have f_0_6 : fld ww 0 6 = idx.toNat := (F.mod 0 6 (by decide)).trans (by omega)
  have f_6_20 : fld ww 6 20 = 0 := (F.mod 6 20 (by decide)).trans (by omega)
  rw [dec_c0 F.op]
  simp [decEpush, fA, fB, fC, fD, fFn, fSz, f_0_6, f_6_20, F.c, F.sz, F.b, F.a, F.d, F.fn, F.op, gOf, Except.map, need, gUpTo, srcIf, GZ.code_zero, optG, Sz.code_zero, Rm.code_two, bind, Except.bind, pure, Except.pure, srcOf_code, dstOf_code, gzOf_code, rdstOf_code, popOf_code, szOf_code, fszOf_code, rmOf_code, etOf_code, scopeOf_code, modeOf_ord, gOf_val, eOf_val, finOfNat_val, boolNat_eq, BitVec.ofNat_toNat, BitVec.setWidth_eq, fn0, fldB, fbit]

theorem dw_epop {ww : Word} (d : PopDst) (idx : BitVec 6) (hw : ww = packR 194 0 (d.code) 0 0 0 0 (idx.toNat)) : decodeWord ww = .ok (.epop d idx) := by
  have hb_d := PopDst.code_lt d
  have hb_idx := idx.isLt
  have F := fieldsR hw (by decide) (by decide) (by omega) (by decide) (by decide) (by decide) (by decide) (by omega)
  have f_0_6 : fld ww 0 6 = idx.toNat := (F.mod 0 6 (by decide)).trans (by omega)
  have f_6_20 : fld ww 6 20 = 0 := (F.mod 6 20 (by decide)).trans (by omega)
  rw [dec_c2 F.op]
  simp [decEpop, fA, fB, fC, fD, fFn, fSz, f_0_6, f_6_20, F.c, F.sz, F.b, F.a, F.d, F.fn, F.op, gOf, Except.map, need, gUpTo, srcIf, GZ.code_zero, optG, Sz.code_zero, Rm.code_two, bind, Except.bind, pure, Except.pure, srcOf_code, dstOf_code, gzOf_code, rdstOf_code, popOf_code, szOf_code, fszOf_code, rmOf_code, etOf_code, scopeOf_code, modeOf_ord, gOf_val, eOf_val, finOfNat_val, boolNat_eq, BitVec.ofNat_toNat, BitVec.setWidth_eq, fn0, fldB, fbit]

theorem dw_estat {ww : Word} (d : GZ) (idx : BitVec 6) (hw : ww = packR 196 0 (d.code) 0 0 0 0 (idx.toNat)) : decodeWord ww = .ok (.estat d idx) := by
  have hb_d := GZ.code_lt d
  have hb_idx := idx.isLt
  have F := fieldsR hw (by decide) (by decide) (by omega) (by decide) (by decide) (by decide) (by decide) (by omega)
  have f_0_6 : fld ww 0 6 = idx.toNat := (F.mod 0 6 (by decide)).trans (by omega)
  have f_6_20 : fld ww 6 20 = 0 := (F.mod 6 20 (by decide)).trans (by omega)
  rw [dec_c4 F.op]
  simp [decEstat, fA, fB, fC, fD, fFn, fSz, f_0_6, f_6_20, F.c, F.sz, F.b, F.a, F.d, F.fn, F.op, gOf, Except.map, need, gUpTo, srcIf, GZ.code_zero, optG, Sz.code_zero, Rm.code_two, bind, Except.bind, pure, Except.pure, srcOf_code, dstOf_code, gzOf_code, rdstOf_code, popOf_code, szOf_code, fszOf_code, rmOf_code, etOf_code, scopeOf_code, modeOf_ord, gOf_val, eOf_val, finOfNat_val, boolNat_eq, BitVec.ofNat_toNat, BitVec.setWidth_eq, fn0, fldB, fbit]

theorem dw_fbind {ww : Word} (a : GReg) (hw : ww = packR 198 0 0 (a.val) 0 0 0 0) : decodeWord ww = .ok (.fbind a) := by
  have hb_a := a.isLt
  have F := fieldsR hw (by decide) (by decide) (by decide) (by omega) (by decide) (by decide) (by decide) (by decide)
  have f_0_2 : fld ww 0 2 = 0 := (F.mod 0 2 (by decide)).trans (by omega)
  have f_2_24 : fld ww 2 24 = 0 := (F.mod 2 24 (by decide)).trans (by omega)
  rw [dec_c6 F.op]
  simp [decFbind, fA, fB, fC, fD, fFn, fSz, f_0_2, f_2_24, F.c, F.sz, F.b, F.a, F.d, F.fn, F.op, gOf, Except.map, need, gUpTo, srcIf, GZ.code_zero, optG, Sz.code_zero, Rm.code_two, bind, Except.bind, pure, Except.pure, srcOf_code, dstOf_code, gzOf_code, rdstOf_code, popOf_code, szOf_code, fszOf_code, rmOf_code, etOf_code, scopeOf_code, modeOf_ord, gOf_val, eOf_val, finOfNat_val, boolNat_eq, BitVec.ofNat_toNat, BitVec.setWidth_eq, fn0, fldB, fbit]

theorem dw_fbindRange {ww : Word} (a : GReg) (b : GReg) (c : GReg) (hw : ww = packR 198 0 0 (a.val) (b.val) 0 (c.val) 1) : decodeWord ww = .ok (.fbindRange a b c) := by
  have hb_a := a.isLt
  have hb_b := b.isLt
  have hb_c := c.isLt
  have F := fieldsR hw (by decide) (by decide) (by decide) (by omega) (by omega) (by decide) (by omega) (by decide)
  have f_0_2 : fld ww 0 2 = 1 := (F.mod 0 2 (by decide)).trans (by omega)
  have f_2_24 : fld ww 2 24 = 0 := (F.mod 2 24 (by decide)).trans (by omega)
  rw [dec_c6 F.op]
  simp [decFbind, fA, fB, fC, fD, fFn, fSz, f_0_2, f_2_24, F.c, F.sz, F.b, F.a, F.d, F.fn, F.op, gOf, Except.map, need, gUpTo, srcIf, GZ.code_zero, optG, Sz.code_zero, Rm.code_two, bind, Except.bind, pure, Except.pure, srcOf_code, dstOf_code, gzOf_code, rdstOf_code, popOf_code, szOf_code, fszOf_code, rmOf_code, etOf_code, scopeOf_code, modeOf_ord, gOf_val, eOf_val, finOfNat_val, boolNat_eq, BitVec.ofNat_toNat, BitVec.setWidth_eq, fn0, fldB, fbit]

theorem dw_fbindDrop {ww : Word} (a : GReg) (hw : ww = packR 198 0 0 (a.val) 0 0 0 2) : decodeWord ww = .ok (.fbindDrop a) := by
  have hb_a := a.isLt
  have F := fieldsR hw (by decide) (by decide) (by decide) (by omega) (by decide) (by decide) (by decide) (by decide)
  have f_0_2 : fld ww 0 2 = 2 := (F.mod 0 2 (by decide)).trans (by omega)
  have f_2_24 : fld ww 2 24 = 0 := (F.mod 2 24 (by decide)).trans (by omega)
  rw [dec_c6 F.op]
  simp [decFbind, fA, fB, fC, fD, fFn, fSz, f_0_2, f_2_24, F.c, F.sz, F.b, F.a, F.d, F.fn, F.op, gOf, Except.map, need, gUpTo, srcIf, GZ.code_zero, optG, Sz.code_zero, Rm.code_two, bind, Except.bind, pure, Except.pure, srcOf_code, dstOf_code, gzOf_code, rdstOf_code, popOf_code, szOf_code, fszOf_code, rmOf_code, etOf_code, scopeOf_code, modeOf_ord, gOf_val, eOf_val, finOfNat_val, boolNat_eq, BitVec.ofNat_toNat, BitVec.setWidth_eq, fn0, fldB, fbit]

theorem dw_trap {ww : Word} (n : BitVec 8) (hw : ww = packL 208 0 0 0 0 0 (n.toNat)) : decodeWord ww = .ok (.trap n) := by
  have hb_n := n.isLt
  have F := fieldsL hw (by decide) (by decide) (by decide) (by decide) (by decide) (by decide) (by omega)
  have f_0_8 : fld ww 0 8 = n.toNat := (F.lit 0 8 (by decide)).trans (by omega)
  have f_8_24 : fld ww 8 24 = 0 := (F.lit 8 24 (by decide)).trans (by omega)
  have f_34_6 : fld ww 34 6 = 0 := (F.c 34 6 (by decide) (by decide)).trans (by omega)
  rw [dec_d0 F.op]
  simp [decTrap, fA, fB, fD, fFn, fSz, f_0_8, f_8_24, F.sz, f_34_6, F.a, F.d, F.fn, F.op, gOf, Except.map, need, gUpTo, srcIf, GZ.code_zero, optG, Sz.code_zero, Rm.code_two, bind, Except.bind, pure, Except.pure, srcOf_code, dstOf_code, gzOf_code, rdstOf_code, popOf_code, szOf_code, fszOf_code, rmOf_code, etOf_code, scopeOf_code, modeOf_ord, gOf_val, eOf_val, finOfNat_val, boolNat_eq, BitVec.ofNat_toNat, BitVec.setWidth_eq, fn0, fldB, fbit]

theorem dw_upretResume {ww : Word} (keep : BitVec 24) (hw : ww = packL 210 0 0 0 0 0 ((keep.toNat) * 2 ^ 8)) : decodeWord ww = .ok (.upretResume keep) := by
  have hb_keep := keep.isLt
  have F := fieldsL hw (by decide) (by decide) (by decide) (by decide) (by decide) (by decide) (by omega)
  have f_0_2 : fld ww 0 2 = 0 := (F.lit 0 2 (by decide)).trans (by omega)
  have f_2_6 : fld ww 2 6 = 0 := (F.lit 2 6 (by decide)).trans (by omega)
  have f_8_24 : fld ww 8 24 = keep.toNat := (F.lit 8 24 (by decide)).trans (by omega)
  have f_34_6 : fld ww 34 6 = 0 := (F.c 34 6 (by decide) (by decide)).trans (by omega)
  rw [dec_d2 F.op]
  simp [decUpret, fA, fB, fD, fFn, fSz, f_0_2, f_2_6, f_8_24, F.sz, f_34_6, F.a, F.d, F.fn, F.op, gOf, Except.map, need, gUpTo, srcIf, GZ.code_zero, optG, Sz.code_zero, Rm.code_two, bind, Except.bind, pure, Except.pure, srcOf_code, dstOf_code, gzOf_code, rdstOf_code, popOf_code, szOf_code, fszOf_code, rmOf_code, etOf_code, scopeOf_code, modeOf_ord, gOf_val, eOf_val, finOfNat_val, boolNat_eq, BitVec.ofNat_toNat, BitVec.setWidth_eq, fn0, fldB, fbit]

theorem dw_upretDetach {ww : Word} (hw : ww = packL 210 0 0 0 0 0 1) : decodeWord ww = .ok (.upretDetach ) := by
  have F := fieldsL hw (by decide) (by decide) (by decide) (by decide) (by decide) (by decide) (by decide)
  have f_0_2 : fld ww 0 2 = 1 := (F.lit 0 2 (by decide)).trans (by omega)
  have f_2_6 : fld ww 2 6 = 0 := (F.lit 2 6 (by decide)).trans (by omega)
  have f_8_24 : fld ww 8 24 = 0 := (F.lit 8 24 (by decide)).trans (by omega)
  have f_34_6 : fld ww 34 6 = 0 := (F.c 34 6 (by decide) (by decide)).trans (by omega)
  rw [dec_d2 F.op]
  simp [decUpret, fA, fB, fD, fFn, fSz, f_0_2, f_2_6, f_8_24, F.sz, f_34_6, F.a, F.d, F.fn, F.op, gOf, Except.map, need, gUpTo, srcIf, GZ.code_zero, optG, Sz.code_zero, Rm.code_two, bind, Except.bind, pure, Except.pure, srcOf_code, dstOf_code, gzOf_code, rdstOf_code, popOf_code, szOf_code, fszOf_code, rmOf_code, etOf_code, scopeOf_code, modeOf_ord, gOf_val, eOf_val, finOfNat_val, boolNat_eq, BitVec.ofNat_toNat, BitVec.setWidth_eq, fn0, fldB, fbit]

theorem dw_upretAbandon {ww : Word} (hw : ww = packL 210 0 0 0 0 0 2) : decodeWord ww = .ok (.upretAbandon ) := by
  have F := fieldsL hw (by decide) (by decide) (by decide) (by decide) (by decide) (by decide) (by decide)
  have f_0_2 : fld ww 0 2 = 2 := (F.lit 0 2 (by decide)).trans (by omega)
  have f_2_6 : fld ww 2 6 = 0 := (F.lit 2 6 (by decide)).trans (by omega)
  have f_8_24 : fld ww 8 24 = 0 := (F.lit 8 24 (by decide)).trans (by omega)
  have f_34_6 : fld ww 34 6 = 0 := (F.c 34 6 (by decide) (by decide)).trans (by omega)
  rw [dec_d2 F.op]
  simp [decUpret, fA, fB, fD, fFn, fSz, f_0_2, f_2_6, f_8_24, F.sz, f_34_6, F.a, F.d, F.fn, F.op, gOf, Except.map, need, gUpTo, srcIf, GZ.code_zero, optG, Sz.code_zero, Rm.code_two, bind, Except.bind, pure, Except.pure, srcOf_code, dstOf_code, gzOf_code, rdstOf_code, popOf_code, szOf_code, fszOf_code, rmOf_code, etOf_code, scopeOf_code, modeOf_ord, gOf_val, eOf_val, finOfNat_val, boolNat_eq, BitVec.ofNat_toNat, BitVec.setWidth_eq, fn0, fldB, fbit]

theorem dw_srd {ww : Word} (d : GZ) (n : BitVec 12) (hw : ww = packL 212 0 (d.code) 0 0 0 (n.toNat)) : decodeWord ww = .ok (.srd d n) := by
  have hb_d := GZ.code_lt d
  have hb_n := n.isLt
  have F := fieldsL hw (by decide) (by decide) (by omega) (by decide) (by decide) (by decide) (by omega)
  have f_0_12 : fld ww 0 12 = n.toNat := (F.lit 0 12 (by decide)).trans (by omega)
  have f_12_20 : fld ww 12 20 = 0 := (F.lit 12 20 (by decide)).trans (by omega)
  have f_34_6 : fld ww 34 6 = 0 := (F.c 34 6 (by decide) (by decide)).trans (by omega)
  rw [dec_d4 F.op]
  simp [decSrd, fA, fB, fD, fFn, fSz, f_0_12, f_12_20, F.sz, f_34_6, F.a, F.d, F.fn, F.op, gOf, Except.map, need, gUpTo, srcIf, GZ.code_zero, optG, Sz.code_zero, Rm.code_two, bind, Except.bind, pure, Except.pure, srcOf_code, dstOf_code, gzOf_code, rdstOf_code, popOf_code, szOf_code, fszOf_code, rmOf_code, etOf_code, scopeOf_code, modeOf_ord, gOf_val, eOf_val, finOfNat_val, boolNat_eq, BitVec.ofNat_toNat, BitVec.setWidth_eq, fn0, fldB, fbit]

theorem dw_swr {ww : Word} (n : BitVec 12) (a : GZ) (hw : ww = packL 214 0 0 (a.code) 0 0 (n.toNat)) : decodeWord ww = .ok (.swr n a) := by
  have hb_n := n.isLt
  have hb_a := GZ.code_lt a
  have F := fieldsL hw (by decide) (by decide) (by decide) (by omega) (by decide) (by decide) (by omega)
  have f_0_12 : fld ww 0 12 = n.toNat := (F.lit 0 12 (by decide)).trans (by omega)
  have f_12_20 : fld ww 12 20 = 0 := (F.lit 12 20 (by decide)).trans (by omega)
  have f_34_6 : fld ww 34 6 = 0 := (F.c 34 6 (by decide) (by decide)).trans (by omega)
  rw [dec_d6 F.op]
  simp [decSwr, fA, fB, fD, fFn, fSz, f_0_12, f_12_20, F.sz, f_34_6, F.a, F.d, F.fn, F.op, gOf, Except.map, need, gUpTo, srcIf, GZ.code_zero, optG, Sz.code_zero, Rm.code_two, bind, Except.bind, pure, Except.pure, srcOf_code, dstOf_code, gzOf_code, rdstOf_code, popOf_code, szOf_code, fszOf_code, rmOf_code, etOf_code, scopeOf_code, modeOf_ord, gOf_val, eOf_val, finOfNat_val, boolNat_eq, BitVec.ofNat_toNat, BitVec.setWidth_eq, fn0, fldB, fbit]

theorem dw_hresume {ww : Word} (d : GZ) (a : GReg) (next : Bool) (hw : ww = packL 216 0 (d.code) (a.val) 0 0 (next.toNat)) : decodeWord ww = .ok (.hresume d a next) := by
  have hb_d := GZ.code_lt d
  have hb_a := a.isLt
  have hb_next := Bool.toNat_lt next
  have F := fieldsL hw (by decide) (by decide) (by omega) (by omega) (by decide) (by decide) (by omega)
  have f_0_1 : fld ww 0 1 = next.toNat := (F.lit 0 1 (by decide)).trans (by omega)
  have f_1_31 : fld ww 1 31 = 0 := (F.lit 1 31 (by decide)).trans (by omega)
  have f_34_6 : fld ww 34 6 = 0 := (F.c 34 6 (by decide) (by decide)).trans (by omega)
  rw [dec_d8 F.op]
  simp [decHresume, fA, fB, fD, fFn, fSz, f_0_1, f_1_31, F.sz, f_34_6, F.a, F.d, F.fn, F.op, gOf, Except.map, need, gUpTo, srcIf, GZ.code_zero, optG, Sz.code_zero, Rm.code_two, bind, Except.bind, pure, Except.pure, srcOf_code, dstOf_code, gzOf_code, rdstOf_code, popOf_code, szOf_code, fszOf_code, rmOf_code, etOf_code, scopeOf_code, modeOf_ord, gOf_val, eOf_val, finOfNat_val, boolNat_eq, BitVec.ofNat_toNat, BitVec.setWidth_eq, fn0, fldB, fbit]

theorem dw_swin {ww : Word} (d : GReg) (a : GReg) (wr : Bool) (sel : BitVec 12) (hw : ww = packL 218 0 (d.val) (a.val) 0 0 ((wr.toNat) * 2 ^ 31 + sel.toNat)) : decodeWord ww = .ok (.swin d a wr sel) := by
  have hb_d := d.isLt
  have hb_a := a.isLt
  have hb_wr := Bool.toNat_lt wr
  have hb_sel := sel.isLt
  have F := fieldsL hw (by decide) (by decide) (by omega) (by omega) (by decide) (by decide) (by omega)
  have f_0_12 : fld ww 0 12 = sel.toNat := (F.lit 0 12 (by decide)).trans (by omega)
  have f_12_19 : fld ww 12 19 = 0 := (F.lit 12 19 (by decide)).trans (by omega)
  have f_31_1 : fld ww 31 1 = wr.toNat := (F.lit 31 1 (by decide)).trans (by omega)
  have f_34_6 : fld ww 34 6 = 0 := (F.c 34 6 (by decide) (by decide)).trans (by omega)
  rw [dec_da F.op]
  simp [decSwin, fA, fB, fD, fFn, fSz, f_0_12, f_12_19, f_31_1, F.sz, f_34_6, F.a, F.d, F.fn, F.op, gOf, Except.map, need, gUpTo, srcIf, GZ.code_zero, optG, Sz.code_zero, Rm.code_two, bind, Except.bind, pure, Except.pure, srcOf_code, dstOf_code, gzOf_code, rdstOf_code, popOf_code, szOf_code, fszOf_code, rmOf_code, etOf_code, scopeOf_code, modeOf_ord, gOf_val, eOf_val, finOfNat_val, boolNat_eq, BitVec.ofNat_toNat, BitVec.setWidth_eq, fn0, fldB, fbit]

theorem dw_tlbw {ww : Word} (a : GReg) (b : GReg) (c : GReg) (hw : ww = packR 220 0 0 (a.val) (b.val) 0 (c.val) 0) : decodeWord ww = .ok (.tlbw a b c) := by
  have hb_a := a.isLt
  have hb_b := b.isLt
  have hb_c := c.isLt
  have F := fieldsR hw (by decide) (by decide) (by decide) (by omega) (by omega) (by decide) (by omega) (by decide)
  have f_0_26 : fld ww 0 26 = 0 := (F.mod 0 26 (by decide)).trans (by omega)
  rw [dec_dc F.op]
  simp [decTlb, fA, fB, fC, fD, fFn, fMod, fSz, f_0_26, F.c, F.sz, F.b, F.a, F.d, F.fn, F.op, gOf, Except.map, need, gUpTo, srcIf, GZ.code_zero, optG, Sz.code_zero, Rm.code_two, bind, Except.bind, pure, Except.pure, srcOf_code, dstOf_code, gzOf_code, rdstOf_code, popOf_code, szOf_code, fszOf_code, rmOf_code, etOf_code, scopeOf_code, modeOf_ord, gOf_val, eOf_val, finOfNat_val, boolNat_eq, BitVec.ofNat_toNat, BitVec.setWidth_eq, fn0, fldB, fbit]

theorem dw_tlbi {ww : Word} (a : GReg) (b : GReg) (hw : ww = packR 220 1 0 (a.val) (b.val) 0 0 0) : decodeWord ww = .ok (.tlbi a b) := by
  have hb_a := a.isLt
  have hb_b := b.isLt
  have F := fieldsR hw (by decide) (by decide) (by decide) (by omega) (by omega) (by decide) (by decide) (by decide)
  have f_0_26 : fld ww 0 26 = 0 := (F.mod 0 26 (by decide)).trans (by omega)
  rw [dec_dc F.op]
  simp [decTlb, fA, fB, fC, fD, fFn, fMod, fSz, f_0_26, F.c, F.sz, F.b, F.a, F.d, F.fn, F.op, gOf, Except.map, need, gUpTo, srcIf, GZ.code_zero, optG, Sz.code_zero, Rm.code_two, bind, Except.bind, pure, Except.pure, srcOf_code, dstOf_code, gzOf_code, rdstOf_code, popOf_code, szOf_code, fszOf_code, rmOf_code, etOf_code, scopeOf_code, modeOf_ord, gOf_val, eOf_val, finOfNat_val, boolNat_eq, BitVec.ofNat_toNat, BitVec.setWidth_eq, fn0, fldB, fbit]

theorem dw_idle {ww : Word} (d : GZ) (lim : BitVec 32) (hw : ww = packL 222 0 (d.code) 0 0 0 (lim.toNat)) : decodeWord ww = .ok (.idle d lim) := by
  have hb_d := GZ.code_lt d
  have hb_lim := lim.isLt
  have F := fieldsL hw (by decide) (by decide) (by omega) (by decide) (by decide) (by decide) (by omega)
  have f_0_32 : fld ww 0 32 = lim.toNat := (F.lit 0 32 (by decide)).trans (by omega)
  have f_34_6 : fld ww 34 6 = 0 := (F.c 34 6 (by decide) (by decide)).trans (by omega)
  rw [dec_de F.op]
  simp [decIdle, fA, fB, fD, fFn, fLit, fSz, f_0_32, F.sz, f_34_6, F.a, F.d, F.fn, F.op, gOf, Except.map, need, gUpTo, srcIf, GZ.code_zero, optG, Sz.code_zero, Rm.code_two, bind, Except.bind, pure, Except.pure, srcOf_code, dstOf_code, gzOf_code, rdstOf_code, popOf_code, szOf_code, fszOf_code, rmOf_code, etOf_code, scopeOf_code, modeOf_ord, gOf_val, eOf_val, finOfNat_val, boolNat_eq, BitVec.ofNat_toNat, BitVec.setWidth_eq, fn0, fldB, fbit]

theorem dw_dbg {ww : Word} (d : GReg) (a : GReg) (unit : BitVec 4) (hw : ww = packL 222 1 (d.val) (a.val) 0 0 (unit.toNat)) (hwf : ((unit.toNat ≤ 5 : Bool)) = true) : decodeWord ww = .ok (.dbg d a unit) := by
  have hb_d := d.isLt
  have hb_a := a.isLt
  have hb_unit := unit.isLt
  have F := fieldsL hw (by decide) (by decide) (by omega) (by omega) (by decide) (by decide) (by omega)
  have f_0_4 : fld ww 0 4 = unit.toNat := (F.lit 0 4 (by decide)).trans (by omega)
  have f_0_32 : fld ww 0 32 = unit.toNat := (F.lit 0 32 (by decide)).trans (by omega)
  have f_4_28 : fld ww 4 28 = 0 := (F.lit 4 28 (by decide)).trans (by omega)
  have f_34_6 : fld ww 34 6 = 0 := (F.c 34 6 (by decide) (by decide)).trans (by omega)
  try simp [← BitVec.toNat_inj, GZ.code_zero] at hwf
  rw [dec_de F.op]
  simp [decIdle, fA, fB, fD, fFn, fLit, fSz, f_0_4, f_0_32, f_4_28, F.sz, f_34_6, F.a, F.d, F.fn, F.op, gOf, Except.map, need, gUpTo, srcIf, GZ.code_zero, optG, Sz.code_zero, Rm.code_two, bind, Except.bind, pure, Except.pure, srcOf_code, dstOf_code, gzOf_code, rdstOf_code, popOf_code, szOf_code, fszOf_code, rmOf_code, etOf_code, scopeOf_code, modeOf_ord, gOf_val, eOf_val, finOfNat_val, boolNat_eq, BitVec.ofNat_toNat, BitVec.setWidth_eq, fn0, fldB, fbit, hwf]

theorem dw_wdog {ww : Word} (lim : BitVec 32) (hw : ww = packL 222 2 0 0 0 0 (lim.toNat)) : decodeWord ww = .ok (.wdog lim) := by
  have hb_lim := lim.isLt
  have F := fieldsL hw (by decide) (by decide) (by decide) (by decide) (by decide) (by decide) (by omega)
  have f_0_32 : fld ww 0 32 = lim.toNat := (F.lit 0 32 (by decide)).trans (by omega)
  have f_34_6 : fld ww 34 6 = 0 := (F.c 34 6 (by decide) (by decide)).trans (by omega)
  rw [dec_de F.op]
  simp [decIdle, fA, fB, fD, fFn, fLit, fSz, f_0_32, F.sz, f_34_6, F.a, F.d, F.fn, F.op, gOf, Except.map, need, gUpTo, srcIf, GZ.code_zero, optG, Sz.code_zero, Rm.code_two, bind, Except.bind, pure, Except.pure, srcOf_code, dstOf_code, gzOf_code, rdstOf_code, popOf_code, szOf_code, fszOf_code, rmOf_code, etOf_code, scopeOf_code, modeOf_ord, gOf_val, eOf_val, finOfNat_val, boolNat_eq, BitVec.ofNat_toNat, BitVec.setWidth_eq, fn0, fldB, fbit]

end Sys2Proof
end

