-- ==== Sys2Proof/Laws/PerInstr.lean ====
section
/-! SUPPORT. The family of statements made once per instruction: encoding and decoding agree. A term that stands for no word (a step of
a unit, `illegalWord`) has the word zero, which no instruction has (opcode 0x00 is unassigned, R25). -/

set_option Elab.async false

namespace Sys2Proof.Laws.RoundTrip

/-- The word of a well-formed instruction decodes to that instruction, every operand kept. -/
def Statement (i : Instr) : Prop := i.wf = true → encode i ≠ 0 → decodeTableWord 64 (encode i).toNat = some i

theorem of_decodeWord {w : Word} {i : Instr} (h : decodeWord w = .ok i) : decodeTableWord 64 w.toNat = some i := by
  have : BitVec.ofNat 64 (w.toNat % 2 ^ 64) = w := by rw [Nat.mod_eq_of_lt w.isLt, BitVec.ofNat_toNat, BitVec.setWidth_eq]
  unfold decodeTableWord fetchDecode
  rw [this, h]

theorem illegalWord (c : Ill) (w : Word) : Statement (.illegalWord c w) := fun _ h => absurd rfl h
theorem addReg (sz : Sz) (d : Dst) (a b : Src) : Statement (.addReg sz d a b) := fun _ _ => of_decodeWord (dw_addReg sz d a b rfl)
theorem addLit (sz : Sz) (d : Dst) (a : Src) (imm : BitVec 32) : Statement (.addLit sz d a imm) := fun _ _ => of_decodeWord (dw_addLit sz d a imm rfl)
theorem subReg (sz : Sz) (d : Dst) (a b : Src) : Statement (.subReg sz d a b) := fun _ _ => of_decodeWord (dw_subReg sz d a b rfl)
theorem subLit (sz : Sz) (d : Dst) (a : Src) (imm : BitVec 32) : Statement (.subLit sz d a imm) := fun _ _ => of_decodeWord (dw_subLit sz d a imm rfl)
theorem mulReg (sz : Sz) (d : Dst) (a b : Src) : Statement (.mulReg sz d a b) := fun _ _ => of_decodeWord (dw_mulReg sz d a b rfl)
theorem mulLit (sz : Sz) (d : Dst) (a : Src) (imm : BitVec 32) : Statement (.mulLit sz d a imm) := fun _ _ => of_decodeWord (dw_mulLit sz d a imm rfl)
theorem mulhReg (sz : Sz) (d : Dst) (a b : Src) : Statement (.mulhReg sz d a b) := fun _ _ => of_decodeWord (dw_mulhReg sz d a b rfl)
theorem mulhLit (sz : Sz) (d : Dst) (a : Src) (imm : BitVec 32) : Statement (.mulhLit sz d a imm) := fun _ _ => of_decodeWord (dw_mulhLit sz d a imm rfl)
theorem mulhuReg (sz : Sz) (d : Dst) (a b : Src) : Statement (.mulhuReg sz d a b) := fun _ _ => of_decodeWord (dw_mulhuReg sz d a b rfl)
theorem mulhuLit (sz : Sz) (d : Dst) (a : Src) (imm : BitVec 32) : Statement (.mulhuLit sz d a imm) := fun _ _ => of_decodeWord (dw_mulhuLit sz d a imm rfl)
theorem divReg (sz : Sz) (d : Dst) (a b : Src) : Statement (.divReg sz d a b) := fun _ _ => of_decodeWord (dw_divReg sz d a b rfl)
theorem divLit (sz : Sz) (d : Dst) (a : Src) (imm : BitVec 32) : Statement (.divLit sz d a imm) := fun _ _ => of_decodeWord (dw_divLit sz d a imm rfl)
theorem divuReg (sz : Sz) (d : Dst) (a b : Src) : Statement (.divuReg sz d a b) := fun _ _ => of_decodeWord (dw_divuReg sz d a b rfl)
theorem divuLit (sz : Sz) (d : Dst) (a : Src) (imm : BitVec 32) : Statement (.divuLit sz d a imm) := fun _ _ => of_decodeWord (dw_divuLit sz d a imm rfl)
theorem remReg (sz : Sz) (d : Dst) (a b : Src) : Statement (.remReg sz d a b) := fun _ _ => of_decodeWord (dw_remReg sz d a b rfl)
theorem remLit (sz : Sz) (d : Dst) (a : Src) (imm : BitVec 32) : Statement (.remLit sz d a imm) := fun _ _ => of_decodeWord (dw_remLit sz d a imm rfl)
theorem remuReg (sz : Sz) (d : Dst) (a b : Src) : Statement (.remuReg sz d a b) := fun _ _ => of_decodeWord (dw_remuReg sz d a b rfl)
theorem remuLit (sz : Sz) (d : Dst) (a : Src) (imm : BitVec 32) : Statement (.remuLit sz d a imm) := fun _ _ => of_decodeWord (dw_remuLit sz d a imm rfl)
theorem minReg (sz : Sz) (d : Dst) (a b : Src) : Statement (.minReg sz d a b) := fun _ _ => of_decodeWord (dw_minReg sz d a b rfl)
theorem minLit (sz : Sz) (d : Dst) (a : Src) (imm : BitVec 32) : Statement (.minLit sz d a imm) := fun _ _ => of_decodeWord (dw_minLit sz d a imm rfl)
theorem maxReg (sz : Sz) (d : Dst) (a b : Src) : Statement (.maxReg sz d a b) := fun _ _ => of_decodeWord (dw_maxReg sz d a b rfl)
theorem maxLit (sz : Sz) (d : Dst) (a : Src) (imm : BitVec 32) : Statement (.maxLit sz d a imm) := fun _ _ => of_decodeWord (dw_maxLit sz d a imm rfl)
theorem minuReg (sz : Sz) (d : Dst) (a b : Src) : Statement (.minuReg sz d a b) := fun _ _ => of_decodeWord (dw_minuReg sz d a b rfl)
theorem minuLit (sz : Sz) (d : Dst) (a : Src) (imm : BitVec 32) : Statement (.minuLit sz d a imm) := fun _ _ => of_decodeWord (dw_minuLit sz d a imm rfl)
theorem maxuReg (sz : Sz) (d : Dst) (a b : Src) : Statement (.maxuReg sz d a b) := fun _ _ => of_decodeWord (dw_maxuReg sz d a b rfl)
theorem maxuLit (sz : Sz) (d : Dst) (a : Src) (imm : BitVec 32) : Statement (.maxuLit sz d a imm) := fun _ _ => of_decodeWord (dw_maxuLit sz d a imm rfl)
theorem leaReg (sz : Sz) (d : Dst) (a b : Src) (c : BitVec 6) : Statement (.leaReg sz d a b c) := fun h _ => of_decodeWord (dw_leaReg sz d a b c rfl h)
theorem leaLit (sz : Sz) (d : Dst) (a : Src) (c : BitVec 6) (imm : BitVec 32) : Statement (.leaLit sz d a c imm) := fun h _ => of_decodeWord (dw_leaLit sz d a c imm rfl h)
theorem andReg (sz : Sz) (d : Dst) (a b : Src) : Statement (.andReg sz d a b) := fun _ _ => of_decodeWord (dw_andReg sz d a b rfl)
theorem andLit (sz : Sz) (d : Dst) (a : Src) (imm : BitVec 32) : Statement (.andLit sz d a imm) := fun _ _ => of_decodeWord (dw_andLit sz d a imm rfl)
theorem orReg (sz : Sz) (d : Dst) (a b : Src) : Statement (.orReg sz d a b) := fun _ _ => of_decodeWord (dw_orReg sz d a b rfl)
theorem orLit (sz : Sz) (d : Dst) (a : Src) (imm : BitVec 32) : Statement (.orLit sz d a imm) := fun _ _ => of_decodeWord (dw_orLit sz d a imm rfl)
theorem xorReg (sz : Sz) (d : Dst) (a b : Src) : Statement (.xorReg sz d a b) := fun _ _ => of_decodeWord (dw_xorReg sz d a b rfl)
theorem xorLit (sz : Sz) (d : Dst) (a : Src) (imm : BitVec 32) : Statement (.xorLit sz d a imm) := fun _ _ => of_decodeWord (dw_xorLit sz d a imm rfl)
theorem andnReg (sz : Sz) (d : Dst) (a b : Src) : Statement (.andnReg sz d a b) := fun _ _ => of_decodeWord (dw_andnReg sz d a b rfl)
theorem andnLit (sz : Sz) (d : Dst) (a : Src) (imm : BitVec 32) : Statement (.andnLit sz d a imm) := fun _ _ => of_decodeWord (dw_andnLit sz d a imm rfl)
theorem ornReg (sz : Sz) (d : Dst) (a b : Src) : Statement (.ornReg sz d a b) := fun _ _ => of_decodeWord (dw_ornReg sz d a b rfl)
theorem ornLit (sz : Sz) (d : Dst) (a : Src) (imm : BitVec 32) : Statement (.ornLit sz d a imm) := fun _ _ => of_decodeWord (dw_ornLit sz d a imm rfl)
theorem shlReg (sz : Sz) (d : Dst) (a b : Src) : Statement (.shlReg sz d a b) := fun _ _ => of_decodeWord (dw_shlReg sz d a b rfl)
theorem shlLit (sz : Sz) (d : Dst) (a : Src) (imm : BitVec 32) : Statement (.shlLit sz d a imm) := fun _ _ => of_decodeWord (dw_shlLit sz d a imm rfl)
theorem shrReg (sz : Sz) (d : Dst) (a b : Src) : Statement (.shrReg sz d a b) := fun _ _ => of_decodeWord (dw_shrReg sz d a b rfl)
theorem shrLit (sz : Sz) (d : Dst) (a : Src) (imm : BitVec 32) : Statement (.shrLit sz d a imm) := fun _ _ => of_decodeWord (dw_shrLit sz d a imm rfl)
theorem sarReg (sz : Sz) (d : Dst) (a b : Src) : Statement (.sarReg sz d a b) := fun _ _ => of_decodeWord (dw_sarReg sz d a b rfl)
theorem sarLit (sz : Sz) (d : Dst) (a : Src) (imm : BitVec 32) : Statement (.sarLit sz d a imm) := fun _ _ => of_decodeWord (dw_sarLit sz d a imm rfl)
theorem rolReg (sz : Sz) (d : Dst) (a b : Src) : Statement (.rolReg sz d a b) := fun _ _ => of_decodeWord (dw_rolReg sz d a b rfl)
theorem rolLit (sz : Sz) (d : Dst) (a : Src) (imm : BitVec 32) : Statement (.rolLit sz d a imm) := fun _ _ => of_decodeWord (dw_rolLit sz d a imm rfl)
theorem rorReg (sz : Sz) (d : Dst) (a b : Src) : Statement (.rorReg sz d a b) := fun _ _ => of_decodeWord (dw_rorReg sz d a b rfl)
theorem rorLit (sz : Sz) (d : Dst) (a : Src) (imm : BitVec 32) : Statement (.rorLit sz d a imm) := fun _ _ => of_decodeWord (dw_rorLit sz d a imm rfl)
theorem fshlReg (sz : Sz) (d : Dst) (a b c : Src) : Statement (.fshlReg sz d a b c) := fun _ _ => of_decodeWord (dw_fshlReg sz d a b c rfl)
theorem fshlLit (sz : Sz) (d : Dst) (a : Src) (imm : BitVec 32) (c : Src) : Statement (.fshlLit sz d a imm c) := fun _ _ => of_decodeWord (dw_fshlLit sz d a imm c rfl)
theorem fshrReg (sz : Sz) (d : Dst) (a b c : Src) : Statement (.fshrReg sz d a b c) := fun _ _ => of_decodeWord (dw_fshrReg sz d a b c rfl)
theorem fshrLit (sz : Sz) (d : Dst) (a : Src) (imm : BitVec 32) (c : Src) : Statement (.fshrLit sz d a imm c) := fun _ _ => of_decodeWord (dw_fshrLit sz d a imm c rfl)
theorem seqReg (sz : Sz) (d : Dst) (a b : Src) : Statement (.seqReg sz d a b) := fun _ _ => of_decodeWord (dw_seqReg sz d a b rfl)
theorem seqLit (sz : Sz) (d : Dst) (a : Src) (imm : BitVec 32) : Statement (.seqLit sz d a imm) := fun _ _ => of_decodeWord (dw_seqLit sz d a imm rfl)
theorem sneReg (sz : Sz) (d : Dst) (a b : Src) : Statement (.sneReg sz d a b) := fun _ _ => of_decodeWord (dw_sneReg sz d a b rfl)
theorem sneLit (sz : Sz) (d : Dst) (a : Src) (imm : BitVec 32) : Statement (.sneLit sz d a imm) := fun _ _ => of_decodeWord (dw_sneLit sz d a imm rfl)
theorem sltReg (sz : Sz) (d : Dst) (a b : Src) : Statement (.sltReg sz d a b) := fun _ _ => of_decodeWord (dw_sltReg sz d a b rfl)
theorem sltLit (sz : Sz) (d : Dst) (a : Src) (imm : BitVec 32) : Statement (.sltLit sz d a imm) := fun _ _ => of_decodeWord (dw_sltLit sz d a imm rfl)
theorem sltuReg (sz : Sz) (d : Dst) (a b : Src) : Statement (.sltuReg sz d a b) := fun _ _ => of_decodeWord (dw_sltuReg sz d a b rfl)
theorem sltuLit (sz : Sz) (d : Dst) (a : Src) (imm : BitVec 32) : Statement (.sltuLit sz d a imm) := fun _ _ => of_decodeWord (dw_sltuLit sz d a imm rfl)
theorem sleReg (sz : Sz) (d : Dst) (a b : Src) : Statement (.sleReg sz d a b) := fun _ _ => of_decodeWord (dw_sleReg sz d a b rfl)
theorem sleLit (sz : Sz) (d : Dst) (a : Src) (imm : BitVec 32) : Statement (.sleLit sz d a imm) := fun _ _ => of_decodeWord (dw_sleLit sz d a imm rfl)
theorem sleuReg (sz : Sz) (d : Dst) (a b : Src) : Statement (.sleuReg sz d a b) := fun _ _ => of_decodeWord (dw_sleuReg sz d a b rfl)
theorem sleuLit (sz : Sz) (d : Dst) (a : Src) (imm : BitVec 32) : Statement (.sleuLit sz d a imm) := fun _ _ => of_decodeWord (dw_sleuLit sz d a imm rfl)
theorem selReg (sz : Sz) (d : Dst) (a b c : Src) : Statement (.selReg sz d a b c) := fun _ _ => of_decodeWord (dw_selReg sz d a b c rfl)
theorem selLit (sz : Sz) (d : Dst) (a : Src) (imm : BitVec 32) (c : Src) : Statement (.selLit sz d a imm c) := fun _ _ => of_decodeWord (dw_selLit sz d a imm c rfl)
theorem clz (sz : Sz) (d : Dst) (a : Src) : Statement (.clz sz d a) := fun _ _ => of_decodeWord (dw_clz sz d a rfl)
theorem ctz (sz : Sz) (d : Dst) (a : Src) : Statement (.ctz sz d a) := fun _ _ => of_decodeWord (dw_ctz sz d a rfl)
theorem popc (sz : Sz) (d : Dst) (a : Src) : Statement (.popc sz d a) := fun _ _ => of_decodeWord (dw_popc sz d a rfl)
theorem brev (sz : Sz) (d : Dst) (a : Src) : Statement (.brev sz d a) := fun _ _ => of_decodeWord (dw_brev sz d a rfl)
theorem bswap (sz : Sz) (d : Dst) (a : Src) : Statement (.bswap sz d a) := fun _ _ => of_decodeWord (dw_bswap sz d a rfl)
theorem exts (sz : Sz) (d : Dst) (a : Src) (pos lenm1 : BitVec 6) : Statement (.exts sz d a pos lenm1) := fun h _ => of_decodeWord (dw_exts sz d a pos lenm1 rfl h)
theorem extu (sz : Sz) (d : Dst) (a : Src) (pos lenm1 : BitVec 6) : Statement (.extu sz d a pos lenm1) := fun h _ => of_decodeWord (dw_extu sz d a pos lenm1 rfl h)
theorem ins (sz : Sz) (d : Dst) (a b : Src) (pos lenm1 : BitVec 6) : Statement (.ins sz d a b pos lenm1) := fun h _ => of_decodeWord (dw_ins sz d a b pos lenm1 rfl h)
theorem sext (sz : Sz) (d : Dst) (a : Src) : Statement (.sext sz d a) := fun h _ => of_decodeWord (dw_sext sz d a rfl h)
theorem movh (d : Dst) (a : Src) (imm : BitVec 32) : Statement (.movh d a imm) := fun _ _ => of_decodeWord (dw_movh d a imm rfl)
theorem faddReg (f : FSz) (d : Dst) (a b : Src) (rm : Rm) : Statement (.faddReg f d a b rm) := fun h _ => of_decodeWord (dw_faddReg f d a b rm rfl h)
theorem faddLit (f : FSz) (d : Dst) (a : Src) (imm : BitVec 32) : Statement (.faddLit f d a imm) := fun _ _ => of_decodeWord (dw_faddLit f d a imm rfl)
theorem fsubReg (f : FSz) (d : Dst) (a b : Src) (rm : Rm) : Statement (.fsubReg f d a b rm) := fun h _ => of_decodeWord (dw_fsubReg f d a b rm rfl h)
theorem fsubLit (f : FSz) (d : Dst) (a : Src) (imm : BitVec 32) : Statement (.fsubLit f d a imm) := fun _ _ => of_decodeWord (dw_fsubLit f d a imm rfl)
theorem fmulReg (f : FSz) (d : Dst) (a b : Src) (rm : Rm) : Statement (.fmulReg f d a b rm) := fun h _ => of_decodeWord (dw_fmulReg f d a b rm rfl h)
theorem fmulLit (f : FSz) (d : Dst) (a : Src) (imm : BitVec 32) : Statement (.fmulLit f d a imm) := fun _ _ => of_decodeWord (dw_fmulLit f d a imm rfl)
theorem fdivReg (f : FSz) (d : Dst) (a b : Src) (rm : Rm) : Statement (.fdivReg f d a b rm) := fun h _ => of_decodeWord (dw_fdivReg f d a b rm rfl h)
theorem fdivLit (f : FSz) (d : Dst) (a : Src) (imm : BitVec 32) : Statement (.fdivLit f d a imm) := fun _ _ => of_decodeWord (dw_fdivLit f d a imm rfl)
theorem fsqrt (f : FSz) (d : Dst) (a : Src) (rm : Rm) : Statement (.fsqrt f d a rm) := fun h _ => of_decodeWord (dw_fsqrt f d a rm rfl h)
theorem fmaReg (f : FSz) (d : Dst) (a b c : Src) (rm : Rm) : Statement (.fmaReg f d a b c rm) := fun h _ => of_decodeWord (dw_fmaReg f d a b c rm rfl h)
theorem fmaLit (f : FSz) (d : Dst) (a : Src) (imm : BitVec 32) (c : Src) : Statement (.fmaLit f d a imm c) := fun _ _ => of_decodeWord (dw_fmaLit f d a imm c rfl)
theorem fminReg (f : FSz) (d : Dst) (a b : Src) : Statement (.fminReg f d a b) := fun _ _ => of_decodeWord (dw_fminReg f d a b rfl)
theorem fminLit (f : FSz) (d : Dst) (a : Src) (imm : BitVec 32) : Statement (.fminLit f d a imm) := fun _ _ => of_decodeWord (dw_fminLit f d a imm rfl)
theorem fmaxReg (f : FSz) (d : Dst) (a b : Src) : Statement (.fmaxReg f d a b) := fun _ _ => of_decodeWord (dw_fmaxReg f d a b rfl)
theorem fmaxLit (f : FSz) (d : Dst) (a : Src) (imm : BitVec 32) : Statement (.fmaxLit f d a imm) := fun _ _ => of_decodeWord (dw_fmaxLit f d a imm rfl)
theorem fsgnjReg (f : FSz) (d : Dst) (a b : Src) (sgn : BitVec 2) : Statement (.fsgnjReg f d a b sgn) := fun h _ => of_decodeWord (dw_fsgnjReg f d a b sgn rfl h)
theorem fsgnjLit (f : FSz) (d : Dst) (a : Src) (imm : BitVec 32) (sgn : BitVec 2) : Statement (.fsgnjLit f d a imm sgn) := fun h _ => of_decodeWord (dw_fsgnjLit f d a imm sgn rfl h)
theorem feqReg (f : FSz) (d : Dst) (a b : Src) : Statement (.feqReg f d a b) := fun _ _ => of_decodeWord (dw_feqReg f d a b rfl)
theorem feqLit (f : FSz) (d : Dst) (a : Src) (imm : BitVec 32) : Statement (.feqLit f d a imm) := fun _ _ => of_decodeWord (dw_feqLit f d a imm rfl)
theorem fltReg (f : FSz) (d : Dst) (a b : Src) : Statement (.fltReg f d a b) := fun _ _ => of_decodeWord (dw_fltReg f d a b rfl)
theorem fltLit (f : FSz) (d : Dst) (a : Src) (imm : BitVec 32) : Statement (.fltLit f d a imm) := fun _ _ => of_decodeWord (dw_fltLit f d a imm rfl)
theorem fleReg (f : FSz) (d : Dst) (a b : Src) : Statement (.fleReg f d a b) := fun _ _ => of_decodeWord (dw_fleReg f d a b rfl)
theorem fleLit (f : FSz) (d : Dst) (a : Src) (imm : BitVec 32) : Statement (.fleLit f d a imm) := fun _ _ => of_decodeWord (dw_fleLit f d a imm rfl)
theorem fclass (f : FSz) (d : Dst) (a : Src) : Statement (.fclass f d a) := fun _ _ => of_decodeWord (dw_fclass f d a rfl)
theorem fcvt (d : Dst) (a : Src) (di si : BitVec 2) (sat : Bool) (rm : Rm) (sf df : BitVec 5) : Statement (.fcvt d a di si sat rm sf df) := fun h _ => of_decodeWord (dw_fcvt d a di si sat rm sf df rfl h)
theorem beq (sz : Sz) (a c : Src) (off : BitVec 32) : Statement (.beq sz a c off) := fun _ _ => of_decodeWord (dw_beq sz a c off rfl)
theorem bne (sz : Sz) (a c : Src) (off : BitVec 32) : Statement (.bne sz a c off) := fun _ _ => of_decodeWord (dw_bne sz a c off rfl)
theorem blt (sz : Sz) (a c : Src) (off : BitVec 32) : Statement (.blt sz a c off) := fun _ _ => of_decodeWord (dw_blt sz a c off rfl)
theorem bge (sz : Sz) (a c : Src) (off : BitVec 32) : Statement (.bge sz a c off) := fun _ _ => of_decodeWord (dw_bge sz a c off rfl)
theorem bltu (sz : Sz) (a c : Src) (off : BitVec 32) : Statement (.bltu sz a c off) := fun _ _ => of_decodeWord (dw_bltu sz a c off rfl)
theorem bgeu (sz : Sz) (a c : Src) (off : BitVec 32) : Statement (.bgeu sz a c off) := fun _ _ => of_decodeWord (dw_bgeu sz a c off rfl)
theorem b (off : BitVec 32) : Statement (.b off) := fun _ _ => of_decodeWord (dw_b off rfl)
theorem call (off : BitVec 32) : Statement (.call off) := fun _ _ => of_decodeWord (dw_call off rfl)
theorem jmp (a : Src) (link : Bool) : Statement (.jmp a link) := fun _ _ => of_decodeWord (dw_jmp a link rfl)
theorem loop (d : GReg) (off : BitVec 32) : Statement (.loop d off) := fun _ _ => of_decodeWord (dw_loop d off rfl)
theorem tend : Statement (.tend ) := fun _ _ => of_decodeWord (dw_tend rfl)
theorem tyield : Statement (.tyield ) := fun _ _ => of_decodeWord (dw_tyield rfl)
theorem ldReg (sz : Sz) (d : Dst) (a b : Src) (m : Mode) (scl : BitVec 3) (sx : Bool) : Statement (.ldReg sz d a b m scl sx) := fun h _ => of_decodeWord (dw_ldReg sz d a b m scl sx rfl h)
theorem ldLit (sz : Sz) (d : Dst) (a : Src) (m : Mode) (sx : Bool) (off : BitVec 32) : Statement (.ldLit sz d a m sx off) := fun h _ => of_decodeWord (dw_ldLit sz d a m sx off rfl h)
theorem stReg (sz : Sz) (v : Src) (a b : Src) (m : Mode) (scl : BitVec 3) : Statement (.stReg sz v a b m scl) := fun h _ => of_decodeWord (dw_stReg sz v a b m scl rfl h)
theorem stLit (sz : Sz) (v : Src) (a : Src) (m : Mode) (off : BitVec 32) : Statement (.stLit sz v a m off) := fun h _ => of_decodeWord (dw_stLit sz v a m off rfl h)
theorem ldnReg (d : Dst) (a b : Src) (m : Mode) (sx : Bool) : Statement (.ldnReg d a b m sx) := fun _ _ => of_decodeWord (dw_ldnReg d a b m sx rfl)
theorem ldnLit (d : Dst) (a : Src) (m : Mode) (sx : Bool) (idx : BitVec 32) : Statement (.ldnLit d a m sx idx) := fun _ _ => of_decodeWord (dw_ldnLit d a m sx idx rfl)
theorem stnReg (v : Src) (a b : Src) (m : Mode) : Statement (.stnReg v a b m) := fun h _ => of_decodeWord (dw_stnReg v a b m rfl h)
theorem stnLit (v : Src) (a : Src) (m : Mode) (idx : BitVec 32) : Statement (.stnLit v a m idx) := fun h _ => of_decodeWord (dw_stnLit v a m idx rfl h)
theorem pfReg (a b : Src) (spc : Bool) (scl : BitVec 3) : Statement (.pfReg a b spc scl) := fun _ _ => of_decodeWord (dw_pfReg a b spc scl rfl)
theorem pfLit (a : Src) (spc : Bool) (off : BitVec 32) : Statement (.pfLit a spc off) := fun _ _ => of_decodeWord (dw_pfLit a spc off rfl)
theorem fence (kind : FenceKind) (scope : Scope) : Statement (.fence kind scope) := fun _ _ => of_decodeWord (dw_fence kind scope rfl)
theorem waita (sz : Sz) (d a b c : GZ) (m : Mode) : Statement (.waita sz d a b c m) := fun _ _ => of_decodeWord (dw_waita sz d a b c m rfl)
theorem waitaTimeout (rank : Nat) (slot : Fin 5) : Statement (.waitaTimeout rank slot) := fun _ h => absurd rfl h
theorem waitaReread (rank : Nat) (slot : Fin 5) : Statement (.waitaReread rank slot) := fun _ h => absurd rfl h
theorem scfgFillReg (sz : Sz) (a : GReg) (spc sx : Bool) (strm : Fin 4) : Statement (.scfgFillReg sz a spc sx strm) := fun h _ => of_decodeWord (dw_scfgFillReg sz a spc sx strm rfl h)
theorem scfgFillLit (sz : Sz) (a : GReg) (spc sx : Bool) (strm : Fin 4) (n0 : BitVec 32) : Statement (.scfgFillLit sz a spc sx strm n0) := fun h _ => of_decodeWord (dw_scfgFillLit sz a spc sx strm n0 rfl h)
theorem scfgDrainReg (sz : Sz) (a : GReg) (spc : Bool) (strm : Fin 4) : Statement (.scfgDrainReg sz a spc strm) := fun h _ => of_decodeWord (dw_scfgDrainReg sz a spc strm rfl h)
theorem scfgDrainLit (sz : Sz) (a : GReg) (spc : Bool) (strm : Fin 4) (n0 : BitVec 32) : Statement (.scfgDrainLit sz a spc strm n0) := fun _ _ => of_decodeWord (dw_scfgDrainLit sz a spc strm n0 rfl)
theorem sctlEnd (strm : Fin 4) : Statement (.sctlEnd strm) := fun _ _ => of_decodeWord (dw_sctlEnd strm rfl)
theorem sctlFlush (strm : Fin 4) : Statement (.sctlFlush strm) := fun _ _ => of_decodeWord (dw_sctlFlush strm rfl)
theorem sstat (d : GZ) (strm : Fin 4) : Statement (.sstat d strm) := fun _ _ => of_decodeWord (dw_sstat d strm rfl)
theorem fillRead (rank : Nat) (slot : Fin 5) (strm : Fin 4) : Statement (.fillRead rank slot strm) := fun _ h => absurd rfl h
theorem drainWrite (rank : Nat) (slot : Fin 5) (strm : Fin 4) : Statement (.drainWrite rank slot strm) := fun _ h => absurd rfl h
theorem send (a : Src) (b : GReg) (rel hc : Bool) (nw : BitVec 3) (hn : BitVec 10) : Statement (.send a b rel hc nw hn) := fun h _ => of_decodeWord (dw_send a b rel hc nw hn rfl h)
theorem sendw (a : Src) (b : GReg) (c : GZ) (nw : BitVec 3) (ce : Bool) (cn : BitVec 6) : Statement (.sendw a b c nw ce cn) := fun h _ => of_decodeWord (dw_sendw a b c nw ce cn rfl h)
theorem rataddReg (w : FSz) (d : RDst) (a : GReg) (b : Src) (m : Mode) : Statement (.rataddReg w d a b m) := fun _ _ => of_decodeWord (dw_rataddReg w d a b m rfl)
theorem rataddLit (w : FSz) (d : RDst) (a : GReg) (imm : BitVec 32) (m : Mode) : Statement (.rataddLit w d a imm m) := fun _ _ => of_decodeWord (dw_rataddLit w d a imm m rfl)
theorem ratfaddReg (w : FSz) (d : RDst) (a : GReg) (b : Src) (m : Mode) : Statement (.ratfaddReg w d a b m) := fun _ _ => of_decodeWord (dw_ratfaddReg w d a b m rfl)
theorem ratfaddLit (w : FSz) (d : RDst) (a : GReg) (imm : BitVec 32) (m : Mode) : Statement (.ratfaddLit w d a imm m) := fun _ _ => of_decodeWord (dw_ratfaddLit w d a imm m rfl)
theorem ratfaddsReg (w : FSz) (d : RDst) (a : GReg) (b : Src) (m : Mode) : Statement (.ratfaddsReg w d a b m) := fun _ _ => of_decodeWord (dw_ratfaddsReg w d a b m rfl)
theorem ratfaddsLit (w : FSz) (d : RDst) (a : GReg) (imm : BitVec 32) (m : Mode) : Statement (.ratfaddsLit w d a imm m) := fun _ _ => of_decodeWord (dw_ratfaddsLit w d a imm m rfl)
theorem ratmaxReg (w : FSz) (d : RDst) (a : GReg) (b : Src) (m : Mode) : Statement (.ratmaxReg w d a b m) := fun _ _ => of_decodeWord (dw_ratmaxReg w d a b m rfl)
theorem ratmaxLit (w : FSz) (d : RDst) (a : GReg) (imm : BitVec 32) (m : Mode) : Statement (.ratmaxLit w d a imm m) := fun _ _ => of_decodeWord (dw_ratmaxLit w d a imm m rfl)
theorem ratminReg (w : FSz) (d : RDst) (a : GReg) (b : Src) (m : Mode) : Statement (.ratminReg w d a b m) := fun _ _ => of_decodeWord (dw_ratminReg w d a b m rfl)
theorem ratminLit (w : FSz) (d : RDst) (a : GReg) (imm : BitVec 32) (m : Mode) : Statement (.ratminLit w d a imm m) := fun _ _ => of_decodeWord (dw_ratminLit w d a imm m rfl)
theorem ratswpReg (w : FSz) (d : RDst) (a : GReg) (b : Src) (m : Mode) : Statement (.ratswpReg w d a b m) := fun _ _ => of_decodeWord (dw_ratswpReg w d a b m rfl)
theorem ratswpLit (w : FSz) (d : RDst) (a : GReg) (imm : BitVec 32) (m : Mode) : Statement (.ratswpLit w d a imm m) := fun _ _ => of_decodeWord (dw_ratswpLit w d a imm m rfl)
theorem ratcas (w : FSz) (d : RDst) (a : GReg) (b : Src) (c : GReg) (m : Mode) : Statement (.ratcas w d a b c m) := fun _ _ => of_decodeWord (dw_ratcas w d a b c m rfl)
theorem ratandReg (w : FSz) (d : RDst) (a : GReg) (b : Src) (m : Mode) : Statement (.ratandReg w d a b m) := fun _ _ => of_decodeWord (dw_ratandReg w d a b m rfl)
theorem ratandLit (w : FSz) (d : RDst) (a : GReg) (imm : BitVec 32) (m : Mode) : Statement (.ratandLit w d a imm m) := fun _ _ => of_decodeWord (dw_ratandLit w d a imm m rfl)
theorem ratorReg (w : FSz) (d : RDst) (a : GReg) (b : Src) (m : Mode) : Statement (.ratorReg w d a b m) := fun _ _ => of_decodeWord (dw_ratorReg w d a b m rfl)
theorem ratorLit (w : FSz) (d : RDst) (a : GReg) (imm : BitVec 32) (m : Mode) : Statement (.ratorLit w d a imm m) := fun _ _ => of_decodeWord (dw_ratorLit w d a imm m rfl)
theorem ratxorReg (w : FSz) (d : RDst) (a : GReg) (b : Src) (m : Mode) : Statement (.ratxorReg w d a b m) := fun _ _ => of_decodeWord (dw_ratxorReg w d a b m rfl)
theorem ratxorLit (w : FSz) (d : RDst) (a : GReg) (imm : BitVec 32) (m : Mode) : Statement (.ratxorLit w d a imm m) := fun _ _ => of_decodeWord (dw_ratxorLit w d a imm m rfl)
theorem qenq (d : RDst) (a b : GReg) (m : Mode) (nw : BitVec 4) : Statement (.qenq d a b m nw) := fun h _ => of_decodeWord (dw_qenq d a b m nw rfl h)
theorem qdeq (d a : GReg) (m : Mode) (nw : BitVec 4) : Statement (.qdeq d a m nw) := fun h _ => of_decodeWord (dw_qdeq d a m nw rfl h)
theorem ctrset (a : Src) (b : GZ) (cn : BitVec 6) : Statement (.ctrset a b cn) := fun _ _ => of_decodeWord (dw_ctrset a b cn rfl)
theorem ctradd (d : GZ) (a : Src) (b : GZ) (cn : BitVec 6) : Statement (.ctradd d a b cn) := fun _ _ => of_decodeWord (dw_ctradd d a b cn rfl)
theorem ctrrd (d : GReg) (b : GZ) (cn : BitVec 6) : Statement (.ctrrd d b cn) := fun _ _ => of_decodeWord (dw_ctrrd d b cn rfl)
theorem wtset (d a : GZ) (b : GReg) (c : GZ) (ge : Bool) (cn : BitVec 6) : Statement (.wtset d a b c ge cn) := fun h _ => of_decodeWord (dw_wtset d a b c ge cn rfl h)
theorem wtclr (d : GZ) (a : GReg) : Statement (.wtclr d a) := fun _ _ => of_decodeWord (dw_wtclr d a rfl)
theorem tspawn (a : GReg) (b : Src) (rel : Bool) : Statement (.tspawn a b rel) := fun h _ => of_decodeWord (dw_tspawn a b rel rfl h)
theorem tcont (a : GReg) (b : Src) (rel : Bool) : Statement (.tcont a b rel) := fun h _ => of_decodeWord (dw_tcont a b rel rfl h)
theorem maskw (n : BitVec 5) : Statement (.maskw n) := fun h _ => of_decodeWord (dw_maskw n rfl h)
theorem bararrive (d : GZ) (b : Option GReg) (scope : Scope) : Statement (.bararrive d b scope) := by
  intro h _
  cases b with
  | none => exact of_decodeWord (dw_bararrive_N d scope rfl h)
  | some b => exact of_decodeWord (dw_bararrive_S d b scope rfl h)
theorem barwait (d : GZ) (b : GReg) (scope : Scope) : Statement (.barwait d b scope) := fun h _ => of_decodeWord (dw_barwait d b scope rfl h)
theorem barsync (d : GZ) (b : Option GReg) (scope : Scope) : Statement (.barsync d b scope) := by
  intro h _
  cases b with
  | none => exact of_decodeWord (dw_barsync_N d scope rfl h)
  | some b => exact of_decodeWord (dw_barsync_S d b scope rfl h)
theorem bararriveMem (d : GZ) (a : GReg) (spc : Bool) (scope : Scope) : Statement (.bararriveMem d a spc scope) := fun _ _ => of_decodeWord (dw_bararriveMem d a spc scope rfl)
theorem barwaitMem (d : GZ) (a b : GReg) (spc : Bool) (scope : Scope) : Statement (.barwaitMem d a b spc scope) := fun _ _ => of_decodeWord (dw_barwaitMem d a b spc scope rfl)
theorem barsyncMem (d : GZ) (a : GReg) (spc : Bool) (scope : Scope) : Statement (.barsyncMem d a spc scope) := fun _ _ => of_decodeWord (dw_barsyncMem d a spc scope rfl)
theorem frz (a : Src) (b : Option GReg) : Statement (.frz a b) := by
  intro h _
  cases b with
  | none => exact of_decodeWord (dw_frz_N a rfl h)
  | some b => exact of_decodeWord (dw_frz_S a b rfl h)
theorem futreg (d : GZ) (a b : GReg) (spc : Bool) : Statement (.futreg d a b spc) := fun _ _ => of_decodeWord (dw_futreg d a b spc rfl)
theorem futset (a : GReg) (b : GZ) (spc psn : Bool) : Statement (.futset a b spc psn) := fun h _ => of_decodeWord (dw_futset a b spc psn rfl h)
theorem futget (d a : GReg) (spc : Bool) : Statement (.futget d a spc) := fun _ _ => of_decodeWord (dw_futget d a spc rfl)
theorem futreset (d : GZ) (a : GReg) (spc : Bool) : Statement (.futreset d a spc) := fun _ _ => of_decodeWord (dw_futreset d a spc rfl)
theorem gcopy (d : GZ) (a : GReg) : Statement (.gcopy d a) := fun _ _ => of_decodeWord (dw_gcopy d a rfl)
theorem gsend (d : GZ) (a : GReg) (b : Src) : Statement (.gsend d a b) := fun h _ => of_decodeWord (dw_gsend d a b rfl h)
theorem gcmp (d : GZ) (a : GReg) : Statement (.gcmp d a) := fun _ _ => of_decodeWord (dw_gcmp d a rfl)
theorem ghash (d : GZ) (a : GReg) : Statement (.ghash d a) := fun _ _ => of_decodeWord (dw_ghash d a rfl)
theorem gfree (d : GZ) (a : GReg) : Statement (.gfree d a) := fun _ _ => of_decodeWord (dw_gfree d a rfl)
theorem lmap (d a b : GReg) : Statement (.lmap d a b) := fun h _ => of_decodeWord (dw_lmap d a b rfl h)
theorem oalloc (d a : GReg) (b c : GZ) : Statement (.oalloc d a b c) := fun _ _ => of_decodeWord (dw_oalloc d a b c rfl)
theorem objldw (d : GZ) (a : GReg) (b : GZ) (acq : Bool) (idx : BitVec 23) : Statement (.objldw d a b acq idx) := fun _ _ => of_decodeWord (dw_objldw d a b acq idx rfl)
theorem objstw (v : GZ) (a : GReg) (b : GZ) (rel : Bool) (idx : BitVec 23) : Statement (.objstw v a b rel idx) := fun _ _ => of_decodeWord (dw_objstw v a b rel idx rfl)
theorem objtype (d : GZ) (a : GReg) : Statement (.objtype d a) := fun _ _ => of_decodeWord (dw_objtype d a rfl)
theorem objlen (d : GZ) (a : GReg) : Statement (.objlen d a) := fun _ _ => of_decodeWord (dw_objlen d a rfl)
theorem waddReg (et : Et) (wd wa : WReg) (b : WOpnd) (k : KReg) (kz : Bool) : Statement (.waddReg et wd wa b k kz) := by
  intro h _
  cases b with
  | reg r => exact of_decodeWord (dw_waddReg_r et wd wa r k kz rfl h)
  | bcast g => exact of_decodeWord (dw_waddReg_b et wd wa g k kz rfl h)
  | lane => exact of_decodeWord (dw_waddReg_l et wd wa k kz rfl h)
theorem waddLit (et : Et) (wd wa : WReg) (imm : BitVec 32) (k : KReg) (kz : Bool) : Statement (.waddLit et wd wa imm k kz) := fun h _ => of_decodeWord (dw_waddLit et wd wa imm k kz rfl h)
theorem wsubReg (et : Et) (wd wa : WReg) (b : WOpnd) (k : KReg) (kz : Bool) : Statement (.wsubReg et wd wa b k kz) := by
  intro h _
  cases b with
  | reg r => exact of_decodeWord (dw_wsubReg_r et wd wa r k kz rfl h)
  | bcast g => exact of_decodeWord (dw_wsubReg_b et wd wa g k kz rfl h)
  | lane => exact of_decodeWord (dw_wsubReg_l et wd wa k kz rfl h)
theorem wsubLit (et : Et) (wd wa : WReg) (imm : BitVec 32) (k : KReg) (kz : Bool) : Statement (.wsubLit et wd wa imm k kz) := fun h _ => of_decodeWord (dw_wsubLit et wd wa imm k kz rfl h)
theorem wmulReg (et : Et) (wd wa : WReg) (b : WOpnd) (k : KReg) (kz : Bool) : Statement (.wmulReg et wd wa b k kz) := by
  intro h _
  cases b with
  | reg r => exact of_decodeWord (dw_wmulReg_r et wd wa r k kz rfl h)
  | bcast g => exact of_decodeWord (dw_wmulReg_b et wd wa g k kz rfl h)
  | lane => exact of_decodeWord (dw_wmulReg_l et wd wa k kz rfl h)
theorem wmulLit (et : Et) (wd wa : WReg) (imm : BitVec 32) (k : KReg) (kz : Bool) : Statement (.wmulLit et wd wa imm k kz) := fun h _ => of_decodeWord (dw_wmulLit et wd wa imm k kz rfl h)
theorem wminReg (et : Et) (wd wa : WReg) (b : WOpnd) (k : KReg) (kz : Bool) : Statement (.wminReg et wd wa b k kz) := by
  intro h _
  cases b with
  | reg r => exact of_decodeWord (dw_wminReg_r et wd wa r k kz rfl h)
  | bcast g => exact of_decodeWord (dw_wminReg_b et wd wa g k kz rfl h)
  | lane => exact of_decodeWord (dw_wminReg_l et wd wa k kz rfl h)
theorem wminLit (et : Et) (wd wa : WReg) (imm : BitVec 32) (k : KReg) (kz : Bool) : Statement (.wminLit et wd wa imm k kz) := fun h _ => of_decodeWord (dw_wminLit et wd wa imm k kz rfl h)
theorem wmaxReg (et : Et) (wd wa : WReg) (b : WOpnd) (k : KReg) (kz : Bool) : Statement (.wmaxReg et wd wa b k kz) := by
  intro h _
  cases b with
  | reg r => exact of_decodeWord (dw_wmaxReg_r et wd wa r k kz rfl h)
  | bcast g => exact of_decodeWord (dw_wmaxReg_b et wd wa g k kz rfl h)
  | lane => exact of_decodeWord (dw_wmaxReg_l et wd wa k kz rfl h)
theorem wmaxLit (et : Et) (wd wa : WReg) (imm : BitVec 32) (k : KReg) (kz : Bool) : Statement (.wmaxLit et wd wa imm k kz) := fun h _ => of_decodeWord (dw_wmaxLit et wd wa imm k kz rfl h)
theorem wminuReg (et : Et) (wd wa : WReg) (b : WOpnd) (k : KReg) (kz : Bool) : Statement (.wminuReg et wd wa b k kz) := by
  intro h _
  cases b with
  | reg r => exact of_decodeWord (dw_wminuReg_r et wd wa r k kz rfl h)
  | bcast g => exact of_decodeWord (dw_wminuReg_b et wd wa g k kz rfl h)
  | lane => exact of_decodeWord (dw_wminuReg_l et wd wa k kz rfl h)
theorem wminuLit (et : Et) (wd wa : WReg) (imm : BitVec 32) (k : KReg) (kz : Bool) : Statement (.wminuLit et wd wa imm k kz) := fun h _ => of_decodeWord (dw_wminuLit et wd wa imm k kz rfl h)
theorem wmaxuReg (et : Et) (wd wa : WReg) (b : WOpnd) (k : KReg) (kz : Bool) : Statement (.wmaxuReg et wd wa b k kz) := by
  intro h _
  cases b with
  | reg r => exact of_decodeWord (dw_wmaxuReg_r et wd wa r k kz rfl h)
  | bcast g => exact of_decodeWord (dw_wmaxuReg_b et wd wa g k kz rfl h)
  | lane => exact of_decodeWord (dw_wmaxuReg_l et wd wa k kz rfl h)
theorem wmaxuLit (et : Et) (wd wa : WReg) (imm : BitVec 32) (k : KReg) (kz : Bool) : Statement (.wmaxuLit et wd wa imm k kz) := fun h _ => of_decodeWord (dw_wmaxuLit et wd wa imm k kz rfl h)
theorem wandReg (et : Et) (wd wa : WReg) (b : WOpnd) (k : KReg) (kz : Bool) : Statement (.wandReg et wd wa b k kz) := by
  intro h _
  cases b with
  | reg r => exact of_decodeWord (dw_wandReg_r et wd wa r k kz rfl h)
  | bcast g => exact of_decodeWord (dw_wandReg_b et wd wa g k kz rfl h)
  | lane => exact of_decodeWord (dw_wandReg_l et wd wa k kz rfl h)
theorem wandLit (et : Et) (wd wa : WReg) (imm : BitVec 32) (k : KReg) (kz : Bool) : Statement (.wandLit et wd wa imm k kz) := fun h _ => of_decodeWord (dw_wandLit et wd wa imm k kz rfl h)
theorem worReg (et : Et) (wd wa : WReg) (b : WOpnd) (k : KReg) (kz : Bool) : Statement (.worReg et wd wa b k kz) := by
  intro h _
  cases b with
  | reg r => exact of_decodeWord (dw_worReg_r et wd wa r k kz rfl h)
  | bcast g => exact of_decodeWord (dw_worReg_b et wd wa g k kz rfl h)
  | lane => exact of_decodeWord (dw_worReg_l et wd wa k kz rfl h)
theorem worLit (et : Et) (wd wa : WReg) (imm : BitVec 32) (k : KReg) (kz : Bool) : Statement (.worLit et wd wa imm k kz) := fun h _ => of_decodeWord (dw_worLit et wd wa imm k kz rfl h)
theorem wxorReg (et : Et) (wd wa : WReg) (b : WOpnd) (k : KReg) (kz : Bool) : Statement (.wxorReg et wd wa b k kz) := by
  intro h _
  cases b with
  | reg r => exact of_decodeWord (dw_wxorReg_r et wd wa r k kz rfl h)
  | bcast g => exact of_decodeWord (dw_wxorReg_b et wd wa g k kz rfl h)
  | lane => exact of_decodeWord (dw_wxorReg_l et wd wa k kz rfl h)
theorem wxorLit (et : Et) (wd wa : WReg) (imm : BitVec 32) (k : KReg) (kz : Bool) : Statement (.wxorLit et wd wa imm k kz) := fun h _ => of_decodeWord (dw_wxorLit et wd wa imm k kz rfl h)
theorem wshlReg (et : Et) (wd wa : WReg) (b : WOpnd) (k : KReg) (kz : Bool) : Statement (.wshlReg et wd wa b k kz) := by
  intro h _
  cases b with
  | reg r => exact of_decodeWord (dw_wshlReg_r et wd wa r k kz rfl h)
  | bcast g => exact of_decodeWord (dw_wshlReg_b et wd wa g k kz rfl h)
  | lane => exact of_decodeWord (dw_wshlReg_l et wd wa k kz rfl h)
theorem wshlLit (et : Et) (wd wa : WReg) (imm : BitVec 32) (k : KReg) (kz : Bool) : Statement (.wshlLit et wd wa imm k kz) := fun h _ => of_decodeWord (dw_wshlLit et wd wa imm k kz rfl h)
theorem wshrReg (et : Et) (wd wa : WReg) (b : WOpnd) (k : KReg) (kz : Bool) : Statement (.wshrReg et wd wa b k kz) := by
  intro h _
  cases b with
  | reg r => exact of_decodeWord (dw_wshrReg_r et wd wa r k kz rfl h)
  | bcast g => exact of_decodeWord (dw_wshrReg_b et wd wa g k kz rfl h)
  | lane => exact of_decodeWord (dw_wshrReg_l et wd wa k kz rfl h)
theorem wshrLit (et : Et) (wd wa : WReg) (imm : BitVec 32) (k : KReg) (kz : Bool) : Statement (.wshrLit et wd wa imm k kz) := fun h _ => of_decodeWord (dw_wshrLit et wd wa imm k kz rfl h)
theorem wsarReg (et : Et) (wd wa : WReg) (b : WOpnd) (k : KReg) (kz : Bool) : Statement (.wsarReg et wd wa b k kz) := by
  intro h _
  cases b with
  | reg r => exact of_decodeWord (dw_wsarReg_r et wd wa r k kz rfl h)
  | bcast g => exact of_decodeWord (dw_wsarReg_b et wd wa g k kz rfl h)
  | lane => exact of_decodeWord (dw_wsarReg_l et wd wa k kz rfl h)
theorem wsarLit (et : Et) (wd wa : WReg) (imm : BitVec 32) (k : KReg) (kz : Bool) : Statement (.wsarLit et wd wa imm k kz) := fun h _ => of_decodeWord (dw_wsarLit et wd wa imm k kz rfl h)
theorem wfshlReg (et : Et) (wd wa : WReg) (b : WOpnd) (k : KReg) (kz : Bool) : Statement (.wfshlReg et wd wa b k kz) := by
  intro h _
  cases b with
  | reg r => exact of_decodeWord (dw_wfshlReg_r et wd wa r k kz rfl h)
  | bcast g => exact of_decodeWord (dw_wfshlReg_b et wd wa g k kz rfl h)
  | lane => exact of_decodeWord (dw_wfshlReg_l et wd wa k kz rfl h)
theorem wfshlLit (et : Et) (wd wa : WReg) (imm : BitVec 32) (k : KReg) (kz : Bool) : Statement (.wfshlLit et wd wa imm k kz) := fun h _ => of_decodeWord (dw_wfshlLit et wd wa imm k kz rfl h)
theorem wfshrReg (et : Et) (wd wa : WReg) (b : WOpnd) (k : KReg) (kz : Bool) : Statement (.wfshrReg et wd wa b k kz) := by
  intro h _
  cases b with
  | reg r => exact of_decodeWord (dw_wfshrReg_r et wd wa r k kz rfl h)
  | bcast g => exact of_decodeWord (dw_wfshrReg_b et wd wa g k kz rfl h)
  | lane => exact of_decodeWord (dw_wfshrReg_l et wd wa k kz rfl h)
theorem wfshrLit (et : Et) (wd wa : WReg) (imm : BitVec 32) (k : KReg) (kz : Bool) : Statement (.wfshrLit et wd wa imm k kz) := fun h _ => of_decodeWord (dw_wfshrLit et wd wa imm k kz rfl h)
theorem wfaddReg (et : Et) (wd wa : WReg) (b : WOpnd) (k : KReg) (kz : Bool) (rm : Rm) : Statement (.wfaddReg et wd wa b k kz rm) := by
  intro h _
  cases b with
  | reg r => exact of_decodeWord (dw_wfaddReg_r et wd wa r k kz rm rfl h)
  | bcast g => exact of_decodeWord (dw_wfaddReg_b et wd wa g k kz rm rfl h)
  | lane => exact of_decodeWord (dw_wfaddReg_l et wd wa k kz rm rfl h)
theorem wfaddLit (et : Et) (wd wa : WReg) (imm : BitVec 32) (k : KReg) (kz : Bool) : Statement (.wfaddLit et wd wa imm k kz) := fun h _ => of_decodeWord (dw_wfaddLit et wd wa imm k kz rfl h)
theorem wfsubReg (et : Et) (wd wa : WReg) (b : WOpnd) (k : KReg) (kz : Bool) (rm : Rm) : Statement (.wfsubReg et wd wa b k kz rm) := by
  intro h _
  cases b with
  | reg r => exact of_decodeWord (dw_wfsubReg_r et wd wa r k kz rm rfl h)
  | bcast g => exact of_decodeWord (dw_wfsubReg_b et wd wa g k kz rm rfl h)
  | lane => exact of_decodeWord (dw_wfsubReg_l et wd wa k kz rm rfl h)
theorem wfsubLit (et : Et) (wd wa : WReg) (imm : BitVec 32) (k : KReg) (kz : Bool) : Statement (.wfsubLit et wd wa imm k kz) := fun h _ => of_decodeWord (dw_wfsubLit et wd wa imm k kz rfl h)
theorem wfmulReg (et : Et) (wd wa : WReg) (b : WOpnd) (k : KReg) (kz : Bool) (rm : Rm) : Statement (.wfmulReg et wd wa b k kz rm) := by
  intro h _
  cases b with
  | reg r => exact of_decodeWord (dw_wfmulReg_r et wd wa r k kz rm rfl h)
  | bcast g => exact of_decodeWord (dw_wfmulReg_b et wd wa g k kz rm rfl h)
  | lane => exact of_decodeWord (dw_wfmulReg_l et wd wa k kz rm rfl h)
theorem wfmulLit (et : Et) (wd wa : WReg) (imm : BitVec 32) (k : KReg) (kz : Bool) : Statement (.wfmulLit et wd wa imm k kz) := fun h _ => of_decodeWord (dw_wfmulLit et wd wa imm k kz rfl h)
theorem wfmaReg (et : Et) (wd wa : WReg) (b : WOpnd) (k : KReg) (kz : Bool) (rm : Rm) : Statement (.wfmaReg et wd wa b k kz rm) := by
  intro h _
  cases b with
  | reg r => exact of_decodeWord (dw_wfmaReg_r et wd wa r k kz rm rfl h)
  | bcast g => exact of_decodeWord (dw_wfmaReg_b et wd wa g k kz rm rfl h)
  | lane => exact of_decodeWord (dw_wfmaReg_l et wd wa k kz rm rfl h)
theorem wfmaLit (et : Et) (wd wa : WReg) (imm : BitVec 32) (k : KReg) (kz : Bool) : Statement (.wfmaLit et wd wa imm k kz) := fun h _ => of_decodeWord (dw_wfmaLit et wd wa imm k kz rfl h)
theorem wfminReg (et : Et) (wd wa : WReg) (b : WOpnd) (k : KReg) (kz : Bool) (rm : Rm) : Statement (.wfminReg et wd wa b k kz rm) := by
  intro h _
  cases b with
  | reg r => exact of_decodeWord (dw_wfminReg_r et wd wa r k kz rm rfl h)
  | bcast g => exact of_decodeWord (dw_wfminReg_b et wd wa g k kz rm rfl h)
  | lane => exact of_decodeWord (dw_wfminReg_l et wd wa k kz rm rfl h)
theorem wfminLit (et : Et) (wd wa : WReg) (imm : BitVec 32) (k : KReg) (kz : Bool) : Statement (.wfminLit et wd wa imm k kz) := fun h _ => of_decodeWord (dw_wfminLit et wd wa imm k kz rfl h)
theorem wfmaxReg (et : Et) (wd wa : WReg) (b : WOpnd) (k : KReg) (kz : Bool) (rm : Rm) : Statement (.wfmaxReg et wd wa b k kz rm) := by
  intro h _
  cases b with
  | reg r => exact of_decodeWord (dw_wfmaxReg_r et wd wa r k kz rm rfl h)
  | bcast g => exact of_decodeWord (dw_wfmaxReg_b et wd wa g k kz rm rfl h)
  | lane => exact of_decodeWord (dw_wfmaxReg_l et wd wa k kz rm rfl h)
theorem wfmaxLit (et : Et) (wd wa : WReg) (imm : BitVec 32) (k : KReg) (kz : Bool) : Statement (.wfmaxLit et wd wa imm k kz) := fun h _ => of_decodeWord (dw_wfmaxLit et wd wa imm k kz rfl h)
theorem wfabs (et : Et) (wd wa : WReg) (k : KReg) (kz : Bool) (rm : Rm) : Statement (.wfabs et wd wa k kz rm) := fun h _ => of_decodeWord (dw_wfabs et wd wa k kz rm rfl h)
theorem wexp2 (et : Et) (wd wa : WReg) (k : KReg) (kz : Bool) (rm : Rm) : Statement (.wexp2 et wd wa k kz rm) := fun h _ => of_decodeWord (dw_wexp2 et wd wa k kz rm rfl h)
theorem wrcp (et : Et) (wd wa : WReg) (k : KReg) (kz : Bool) (rm : Rm) : Statement (.wrcp et wd wa k kz rm) := fun h _ => of_decodeWord (dw_wrcp et wd wa k kz rm rfl h)
theorem wrsq (et : Et) (wd wa : WReg) (k : KReg) (kz : Bool) (rm : Rm) : Statement (.wrsq et wd wa k kz rm) := fun h _ => of_decodeWord (dw_wrsq et wd wa k kz rm rfl h)
theorem wlog2 (et : Et) (wd wa : WReg) (k : KReg) (kz : Bool) (rm : Rm) : Statement (.wlog2 et wd wa k kz rm) := fun h _ => of_decodeWord (dw_wlog2 et wd wa k kz rm rfl h)
theorem wcmp (et : Et) (kd : KReg) (wa : WReg) (b : WOpnd) (k : KReg) (kz : Bool) (cond : BitVec 4) (any : Bool) : Statement (.wcmp et kd wa b k kz cond any) := by
  intro h _
  cases b with
  | reg r => exact of_decodeWord (dw_wcmp_r et kd wa r k kz cond any rfl h)
  | bcast g => exact of_decodeWord (dw_wcmp_b et kd wa g k kz cond any rfl h)
  | lane => exact of_decodeWord (dw_wcmp_l et kd wa k kz cond any rfl h)
theorem wsel (et : Et) (wd wa : WReg) (b : WOpnd) (k : KReg) : Statement (.wsel et wd wa b k) := by
  intro h _
  cases b with
  | reg r => exact of_decodeWord (dw_wsel_r et wd wa r k rfl)
  | bcast g => exact of_decodeWord (dw_wsel_b et wd wa g k rfl)
  | lane => exact of_decodeWord (dw_wsel_l et wd wa k rfl)
theorem wcvt (wd wa : WReg) (dt : Option (Fin 4)) (sf : BitVec 5) (part : BitVec 3) (sat : Bool) (rm : Rm) (df : BitVec 5) : Statement (.wcvt wd wa dt sf part sat rm df) := by
  intro h _
  cases dt with
  | none => exact of_decodeWord (dw_wcvt_N wd wa sf part sat rm df rfl h)
  | some dt => exact of_decodeWord (dw_wcvt_S wd wa dt sf part sat rm df rfl h)
theorem wred (et : Et) (ed : EReg) (wa : WReg) (k : KReg) (op : BitVec 3) (u : Bool) : Statement (.wred et ed wa k op u) := fun h _ => of_decodeWord (dw_wred et ed wa k op u rfl h)
theorem wscan (et : Et) (wd wa : WReg) (k : KReg) (kz : Bool) (op : BitVec 3) (excl : Bool) : Statement (.wscan et wd wa k kz op excl) := fun h _ => of_decodeWord (dw_wscan et wd wa k kz op excl rfl h)
theorem wperm (et : Et) (wd wa wb : WReg) (k : KReg) (kz : Bool) : Statement (.wperm et wd wa wb k kz) := fun _ _ => of_decodeWord (dw_wperm et wd wa wb k kz rfl)
theorem wslide (et : Et) (wd wa wb : WReg) (g : Src) (k : KReg) (kz : Bool) : Statement (.wslide et wd wa wb g k kz) := fun _ _ => of_decodeWord (dw_wslide et wd wa wb g k kz rfl)
theorem wbcast (et : Et) (wd wa : WReg) (g : Src) (k : KReg) (kz : Bool) : Statement (.wbcast et wd wa g k kz) := fun _ _ => of_decodeWord (dw_wbcast et wd wa g k kz rfl)
theorem wzip (et : Et) (wd wa wb : WReg) (k : KReg) (kz : Bool) (hi : Bool) : Statement (.wzip et wd wa wb k kz hi) := fun _ _ => of_decodeWord (dw_wzip et wd wa wb k kz hi rfl)
theorem wmovsInsert (et : Et) (wd : WReg) (g : Src) (k : KReg) (kz : Bool) : Statement (.wmovsInsert et wd g k kz) := fun _ _ => of_decodeWord (dw_wmovsInsert et wd g k kz rfl)
theorem wmovsExtract (et : Et) (ed : EReg) (wa : WReg) (lane : BitVec 8) (sx : Bool) : Statement (.wmovsExtract et ed wa lane sx) := fun h _ => of_decodeWord (dw_wmovsExtract et ed wa lane sx rfl h)
theorem widx (et : Et) (wd : WReg) (g : Option Src) (k : KReg) (kz : Bool) (step : BitVec 16) : Statement (.widx et wd g k kz step) := by
  intro h _
  cases g with
  | none => exact of_decodeWord (dw_widx_N et wd k kz step rfl h)
  | some g => exact of_decodeWord (dw_widx_S et wd g k kz step rfl h)
theorem kop (op : KOp) : Statement (.kop op) := by
  intro h _
  cases op with
  | bin f kd ka kb => exact of_decodeWord (dw_kop_bin f kd ka kb rfl h)
  | inv kd ka => exact of_decodeWord (dw_kop_inv kd ka rfl h)
  | mov kd ka => exact of_decodeWord (dw_kop_mov kd ka rfl h)
  | set kd g => exact of_decodeWord (dw_kop_set kd g rfl h)
  | popc ed ka => exact of_decodeWord (dw_kop_popc ed ka rfl)
  | first ed ka => exact of_decodeWord (dw_kop_first ed ka rfl)
theorem wldReg (wd : WReg) (g : GReg) (k : KReg) (kz : Bool) (m : Mode) (ofs : BitVec 20) : Statement (.wldReg wd g k kz m ofs) := fun _ _ => of_decodeWord (dw_wldReg wd g k kz m ofs rfl)
theorem wldLit (wd : WReg) (k : KReg) (kz : Bool) (imm : BitVec 32) : Statement (.wldLit wd k kz imm) := fun _ _ => of_decodeWord (dw_wldLit wd k kz imm rfl)
theorem wstReg (wa : WReg) (bm : Option WReg) (g : GReg) (k : KReg) (m : Mode) (ofs : BitVec 20) : Statement (.wstReg wa bm g k m ofs) := by
  intro h _
  cases bm with
  | none => exact of_decodeWord (dw_wstReg_N wa g k m ofs rfl)
  | some bm => exact of_decodeWord (dw_wstReg_S wa bm g k m ofs rfl)
theorem wstLit (wa : WReg) (k : KReg) (imm : BitVec 32) : Statement (.wstLit wa k imm) := fun _ _ => of_decodeWord (dw_wstLit wa k imm rfl)
theorem wgath (et : Et) (wd wa : WReg) (g : GReg) (k : KReg) (kz : Bool) (m : Mode) (scale : BitVec 3) : Statement (.wgath et wd wa g k kz m scale) := fun h _ => of_decodeWord (dw_wgath et wd wa g k kz m scale rfl h)
theorem wscat (et : Et) (wa wb : WReg) (g : GReg) (k : KReg) (m : Mode) (scale : BitVec 3) : Statement (.wscat et wa wb g k m scale) := fun h _ => of_decodeWord (dw_wscat et wa wb g k m scale rfl h)
theorem wldf (et : Et) (wd : WReg) (g : GReg) (k : KReg) (kz : Bool) (m : Mode) (ofs : BitVec 20) : Statement (.wldf et wd g k kz m ofs) := fun h _ => of_decodeWord (dw_wldf et wd g k kz m ofs rfl h)
theorem sealst (wa : WReg) (g : GReg) (m : Mode) (ofs : BitVec 20) : Statement (.sealst wa g m ofs) := fun _ _ => of_decodeWord (dw_sealst wa g m ofs rfl)
theorem wspill (wa : WReg) (slot : Fin 16) : Statement (.wspill wa slot) := fun _ _ => of_decodeWord (dw_wspill wa slot rfl)
theorem wfill (wd : WReg) (slot : Fin 16) : Statement (.wfill wd slot) := fun _ _ => of_decodeWord (dw_wfill wd slot rfl)
theorem dtld (t : Fin 4) (g : Src) (spc : Bool) (rpt : Option EReg) : Statement (.dtld t g spc rpt) := by
  intro h _
  cases rpt with
  | none => exact of_decodeWord (dw_dtld_N t g spc rfl)
  | some rpt => exact of_decodeWord (dw_dtld_S t g spc rpt rfl)
theorem wideUnitRetire (quad : Nat) : Statement (.wideUnitRetire quad) := fun _ h => absurd rfl h
theorem mctx (w : MctxSrc) : Statement (.mctx w) := by
  intro h _
  cases w with
  | lit x => exact of_decodeWord (dw_mctx_lit x rfl h)
  | reg a => exact of_decodeWord (dw_mctx_reg a rfl)
theorem mldb (a b : GZ) (spc : Bool) : Statement (.mldb a b spc) := fun _ _ => of_decodeWord (dw_mldb a b spc rfl)
theorem mrot (n : BitVec 3) : Statement (.mrot n) := fun h _ => of_decodeWord (dw_mrot n rfl h)
theorem mrotSend (rank : Nat) : Statement (.mrotSend rank) := fun _ h => absurd rfl h
theorem mrotReceive (rank : Nat) : Statement (.mrotReceive rank) := fun _ h => absurd rfl h
theorem mma (c : Fin 4) (a : GReg) (b : GZ) (z : Bool) : Statement (.mma c a b z) := fun _ _ => of_decodeWord (dw_mma c a b z rfl)
theorem mrec (c : Fin 4) (a : GReg) (b : GZ) (z : Bool) : Statement (.mrec c a b z) := fun _ _ => of_decodeWord (dw_mrec c a b z rfl)
theorem mprog (a : GReg) : Statement (.mprog a) := fun _ _ => of_decodeWord (dw_mprog a rfl)
theorem mzero (c : Fin 4) : Statement (.mzero c) := fun _ _ => of_decodeWord (dw_mzero c rfl)
theorem mload (c : Fin 4) (a : GReg) (b : GZ) (spc : Bool) : Statement (.mload c a b spc) := fun _ _ => of_decodeWord (dw_mload c a b spc rfl)
theorem mstore (c : Fin 4) (a : GReg) (b : GZ) (spc : Bool) (df : BitVec 5) : Statement (.mstore c a b spc df) := fun h _ => of_decodeWord (dw_mstore c a b spc df rfl h)
theorem mtowide (c : Fin 4) (wd : WReg) (p : Fin 16) : Statement (.mtowide c wd p) := fun _ _ => of_decodeWord (dw_mtowide c wd p rfl)
theorem mclaim (c : Fin 4) : Statement (.mclaim c) := fun _ _ => of_decodeWord (dw_mclaim c rfl)
theorem mrelease (c : Fin 4) : Statement (.mrelease c) := fun _ _ => of_decodeWord (dw_mrelease c rfl)
theorem mwait (c : Option (Fin 4)) : Statement (.mwait c) := by
  intro h _
  cases c with
  | none => exact of_decodeWord (dw_mwait_none rfl)
  | some c => exact of_decodeWord (dw_mwait_some c rfl)
theorem matrixRequest (quad : Nat) : Statement (.matrixRequest quad) := fun _ h => absurd rfl h
theorem epush (a : Fin 17) (idx : BitVec 6) : Statement (.epush a idx) := fun _ _ => of_decodeWord (dw_epush a idx rfl)
theorem epop (d : PopDst) (idx : BitVec 6) : Statement (.epop d idx) := fun _ _ => of_decodeWord (dw_epop d idx rfl)
theorem estat (d : GZ) (idx : BitVec 6) : Statement (.estat d idx) := fun _ _ => of_decodeWord (dw_estat d idx rfl)
theorem fbind (a : GReg) : Statement (.fbind a) := fun _ _ => of_decodeWord (dw_fbind a rfl)
theorem fbindRange (a b c : GReg) : Statement (.fbindRange a b c) := fun _ _ => of_decodeWord (dw_fbindRange a b c rfl)
theorem fbindDrop (a : GReg) : Statement (.fbindDrop a) := fun _ _ => of_decodeWord (dw_fbindDrop a rfl)
theorem trap (n : BitVec 8) : Statement (.trap n) := fun _ _ => of_decodeWord (dw_trap n rfl)
theorem upretResume (keep : BitVec 24) : Statement (.upretResume keep) := fun _ _ => of_decodeWord (dw_upretResume keep rfl)
theorem upretDetach : Statement (.upretDetach ) := fun _ _ => of_decodeWord (dw_upretDetach rfl)
theorem upretAbandon : Statement (.upretAbandon ) := fun _ _ => of_decodeWord (dw_upretAbandon rfl)
theorem srd (d : GZ) (n : BitVec 12) : Statement (.srd d n) := fun _ _ => of_decodeWord (dw_srd d n rfl)
theorem swr (n : BitVec 12) (a : GZ) : Statement (.swr n a) := fun _ _ => of_decodeWord (dw_swr n a rfl)
theorem hresume (d : GZ) (a : GReg) (next : Bool) : Statement (.hresume d a next) := fun _ _ => of_decodeWord (dw_hresume d a next rfl)
theorem swin (d a : GReg) (wr : Bool) (sel : BitVec 12) : Statement (.swin d a wr sel) := fun _ _ => of_decodeWord (dw_swin d a wr sel rfl)
theorem tlbw (a b c : GReg) : Statement (.tlbw a b c) := fun _ _ => of_decodeWord (dw_tlbw a b c rfl)
theorem tlbi (a b : GReg) : Statement (.tlbi a b) := fun _ _ => of_decodeWord (dw_tlbi a b rfl)
theorem idle (d : GZ) (lim : BitVec 32) : Statement (.idle d lim) := fun _ _ => of_decodeWord (dw_idle d lim rfl)
theorem idleTimeout (rank : Nat) (slot : Fin 5) : Statement (.idleTimeout rank slot) := fun _ h => absurd rfl h
theorem dbg (d a : GReg) (unit : BitVec 4) : Statement (.dbg d a unit) := fun h _ => of_decodeWord (dw_dbg d a unit rfl h)
theorem wdog (lim : BitVec 32) : Statement (.wdog lim) := fun _ _ => of_decodeWord (dw_wdog lim rfl)
theorem watchdogExpiry (rank : Nat) (slot : Fin 5) : Statement (.watchdogExpiry rank slot) := fun _ h => absurd rfl h
theorem walkRequest (svc : Nat) : Statement (.walkRequest svc) := fun _ h => absurd rfl h
theorem storeBufferSend (rank : Nat) : Statement (.storeBufferSend rank) := fun _ h => absurd rfl h
theorem reply (rank : Nat) : Statement (.reply rank) := fun _ h => absurd rfl h
theorem messageQueueEntry (rank : Nat) : Statement (.messageQueueEntry rank) := fun _ h => absurd rfl h
theorem lMessage (rank : Nat) : Statement (.lMessage rank) := fun _ h => absurd rfl h
theorem remoteLoad (rank : Nat) : Statement (.remoteLoad rank) := fun _ h => absurd rfl h
theorem remoteStore (rank : Nat) : Statement (.remoteStore rank) := fun _ h => absurd rfl h
theorem remoteStn (rank : Nat) : Statement (.remoteStn rank) := fun _ h => absurd rfl h
theorem remoteRat (rank : Nat) : Statement (.remoteRat rank) := fun _ h => absurd rfl h
theorem remoteQenq (rank : Nat) : Statement (.remoteQenq rank) := fun _ h => absurd rfl h
theorem remoteQdeq (rank : Nat) : Statement (.remoteQdeq rank) := fun _ h => absurd rfl h
theorem remoteFut (rank : Nat) : Statement (.remoteFut rank) := fun _ h => absurd rfl h
theorem sendwHandler (rank : Nat) : Statement (.sendwHandler rank) := fun _ h => absurd rfl h
theorem barrierObjectArrival (rank : Nat) : Statement (.barrierObjectArrival rank) := fun _ h => absurd rfl h
theorem count (rank : Nat) : Statement (.count rank) := fun _ h => absurd rfl h
theorem spawnMessage (rank : Nat) : Statement (.spawnMessage rank) := fun _ h => absurd rfl h
theorem hostQueueRecord : Statement (.hostQueueRecord ) := fun _ h => absurd rfl h
theorem hSlotTake (rank : Nat) : Statement (.hSlotTake rank) := fun _ h => absurd rfl h
theorem takeL (rank : Nat) : Statement (.takeL rank) := fun _ h => absurd rfl h
theorem faultMessage (rank : Nat) : Statement (.faultMessage rank) := fun _ h => absurd rfl h
theorem upcallCompletionNotice (rank : Nat) : Statement (.upcallCompletionNotice rank) := fun _ h => absurd rfl h
theorem fcomp (ld : Fin 16) (cookie : BitVec 40) : Statement (.fcomp ld cookie) := fun _ h => absurd rfl h
theorem ringReport : Statement (.ringReport ) := fun _ h => absurd rfl h
theorem copy (eng : Nat) : Statement (.copy eng) := fun _ h => absurd rfl h
theorem copy2d (eng : Nat) : Statement (.copy2d eng) := fun _ h => absurd rfl h
theorem copy3d (eng : Nat) : Statement (.copy3d eng) := fun _ h => absurd rfl h
theorem fill (eng : Nat) : Statement (.fill eng) := fun _ h => absurd rfl h
theorem convert (eng : Nat) : Statement (.convert eng) := fun _ h => absurd rfl h
theorem furlmove (eng : Nat) : Statement (.furlmove eng) := fun _ h => absurd rfl h
theorem engineResult (eng ch : Nat) : Statement (.engineResult eng ch) := fun _ h => absurd rfl h
theorem asyncPop (eng ch : Nat) : Statement (.asyncPop eng ch) := fun _ h => absurd rfl h
theorem landingObject : Statement (.landingObject ) := fun _ h => absurd rfl h
theorem landingComplete : Statement (.landingComplete ) := fun _ h => absurd rfl h
theorem launchRecord (q : LaunchQ) : Statement (.launchRecord q) := fun _ h => absurd rfl h
theorem launchStart (q : LaunchQ) : Statement (.launchStart q) := fun _ h => absurd rfl h
theorem launchComplete (launch : Nat) : Statement (.launchComplete launch) := fun _ h => absurd rfl h
theorem sliceEnd (ctx : Nat) : Statement (.sliceEnd ctx) := fun _ h => absurd rfl h
theorem drainWatchdog (ctx : Nat) : Statement (.drainWatchdog ctx) := fun _ h => absurd rfl h
theorem drainComplete (ctx : Nat) : Statement (.drainComplete ctx) := fun _ h => absurd rfl h
theorem sliceStart (ctx : Nat) : Statement (.sliceStart ctx) := fun _ h => absurd rfl h
theorem contextCreate (desc : Descriptor) : Statement (.contextCreate desc) := fun _ h => absurd rfl h
theorem scrub (base len : Nat) (departing arriving : Option Nat) : Statement (.scrub base len departing arriving) := fun _ h => absurd rfl h
theorem keyInstall (slot : Fin 64) (key : KeyBlob) : Statement (.keyInstall slot key) := fun _ h => absurd rfl h
theorem keyErase (slot : Fin 64) : Statement (.keyErase slot) := fun _ h => absurd rfl h
theorem keyErased (slot : Fin 64) : Statement (.keyErased slot) := fun _ h => absurd rfl h
theorem handleGrant (ctx : Nat) (idx : BitVec 12) (h : Handle) (offered accepted : Bool) : Statement (.handleGrant ctx idx h offered accepted) := fun _ h => absurd rfl h
theorem handleRevoke (ctx : Nat) (idx : BitVec 12) : Statement (.handleRevoke ctx idx) := fun _ h => absurd rfl h
theorem evidenceRequest (ctx : Nat) (nonce : List Byte) : Statement (.evidenceRequest ctx nonce) := fun _ h => absurd rfl h
theorem spdmRequest (vf : Nat) (req : SpdmReq) : Statement (.spdmRequest vf req) := fun _ h => absurd rfl h
theorem tdispExit (vf : Nat) : Statement (.tdispExit vf) := fun _ h => absurd rfl h
theorem spdmExpiry (vf : Nat) : Statement (.spdmExpiry vf) := fun _ h => absurd rfl h
theorem evrtWrite (ld : Fin 16) (e : BitVec 12) (claimant owner : BitVec 4) (dest : BitVec 32) : Statement (.evrtWrite ld e claimant owner dest) := fun _ h => absurd rfl h
theorem registerWrite (r : SvcReg) : Statement (.registerWrite r) := fun _ h => absurd rfl h
theorem queuePairCreate (ctx : Nat) (idx : BitVec 12) (qp : QpInit) : Statement (.queuePairCreate ctx idx qp) := fun _ h => absurd rfl h
theorem registrationRevoke (ctx : Nat) (rkey : BitVec 16) : Statement (.registrationRevoke ctx rkey) := fun _ h => absurd rfl h
theorem halyardWrite (eng : Nat) : Statement (.halyardWrite eng) := fun _ h => absurd rfl h
theorem halyardRead (eng : Nat) : Statement (.halyardRead eng) := fun _ h => absurd rfl h
theorem halyardSend (eng : Nat) : Statement (.halyardSend eng) := fun _ h => absurd rfl h
theorem aadd (eng : Nat) : Statement (.aadd eng) := fun _ h => absurd rfl h
theorem acas (eng : Nat) : Statement (.acas eng) := fun _ h => absurd rfl h
theorem cwrite (eng : Nat) : Statement (.cwrite eng) := fun _ h => absurd rfl h
theorem writePacket (p : Packet) : Statement (.writePacket p) := fun _ h => absurd rfl h
theorem readReq (p : Packet) : Statement (.readReq p) := fun _ h => absurd rfl h
theorem readResp (p : Packet) : Statement (.readResp p) := fun _ h => absurd rfl h
theorem sendPacket (p : Packet) : Statement (.sendPacket p) := fun _ h => absurd rfl h
theorem atomic (p : Packet) : Statement (.atomic p) := fun _ h => absurd rfl h
theorem atomicResp (p : Packet) : Statement (.atomicResp p) := fun _ h => absurd rfl h
theorem ack (p : Packet) : Statement (.ack p) := fun _ h => absurd rfl h
theorem nak (p : Packet) : Statement (.nak p) := fun _ h => absurd rfl h
theorem launchPacket (p : Packet) : Statement (.launchPacket p) := fun _ h => absurd rfl h
theorem gstream (p : Packet) : Statement (.gstream p) := fun _ h => absurd rfl h
theorem barrierPacket (p : Packet) : Statement (.barrierPacket p) := fun _ h => absurd rfl h
theorem handshake (p : Packet) : Statement (.handshake p) := fun _ h => absurd rfl h
theorem retransmitTimer (qpn : BitVec 24) : Statement (.retransmitTimer qpn) := fun _ h => absurd rfl h
theorem contextBusyBackoff (qpn : BitVec 24) : Statement (.contextBusyBackoff qpn) := fun _ h => absurd rfl h
theorem rekey (sid : BitVec 32) : Statement (.rekey sid) := fun _ h => absurd rfl h
theorem oldEpochExpiry (sid : BitVec 32) : Statement (.oldEpochExpiry sid) := fun _ h => absurd rfl h
theorem portDown (port : Fin 12) : Statement (.portDown port) := fun _ h => absurd rfl h
theorem cxlPortError (port : Fin 4) : Statement (.cxlPortError port) := fun _ h => absurd rfl h
theorem unitFence (u : SpareUnit) : Statement (.unitFence u) := fun _ h => absurd rfl h
theorem powerUp : Statement (.powerUp ) := fun _ h => absurd rfl h
theorem powerDown : Statement (.powerDown ) := fun _ h => absurd rfl h
theorem packageReset (imageOk : Bool) : Statement (.packageReset imageOk) := fun _ h => absurd rfl h
theorem recoveryImage (signed : Bool) : Statement (.recoveryImage signed) := fun _ h => absurd rfl h
theorem clockChange (mhz : Nat) : Statement (.clockChange mhz) := fun _ h => absurd rfl h
theorem thermal105 (die : Fin 6) : Statement (.thermal105 die) := fun _ h => absurd rfl h
theorem thermal110 (die : Fin 6) : Statement (.thermal110 die) := fun _ h => absurd rfl h
theorem thermal115 (die : Fin 6) : Statement (.thermal115 die) := fun _ h => absurd rfl h
theorem thermalClear : Statement (.thermalClear ) := fun _ h => absurd rfl h
theorem controlComplexResume (rank : Nat) (slot : Fin 5) (next : Bool) : Statement (.controlComplexResume rank slot next) := fun _ h => absurd rfl h
theorem contextErrorRequest (ctx : Nat) : Statement (.contextErrorRequest ctx) := fun _ h => absurd rfl h
theorem debugAccess (t : DbgTarget) : Statement (.debugAccess t) := fun _ h => absurd rfl h
theorem hostMemoryWrite (pa : Nat) (bytes : List Byte) : Statement (.hostMemoryWrite pa bytes) := fun _ h => absurd rfl h
theorem queuePairEvict (qpn : BitVec 24) : Statement (.queuePairEvict qpn) := fun _ h => absurd rfl h
theorem stateFetch (qpn : BitVec 24) : Statement (.stateFetch qpn) := fun _ h => absurd rfl h
theorem ldBind (ld : Fin 16) (host : Nat) : Statement (.ldBind ld host) := fun _ h => absurd rfl h
theorem heartbeatLoss (vf : Nat) : Statement (.heartbeatLoss vf) := fun _ h => absurd rfl h

end Sys2Proof.Laws.RoundTrip
end

