-- ==== Sys2Proof/Tests/States.lean ====
section
/-! SUPPORT. Small states for the tests, and what a run of an effect gives. -/

set_option Elab.async false

namespace Sys2Proof.Tests

open Sys2Proof Sys2Proof.Machine Sys2Proof.Machine.Claims

/-- A core whose slot 0 runs a task, changed. -/
def tCore (f : Core → Core) (g : Slot → Slot) : Core :=
  f { Core.reset with act := some 0, slots := ⟨#[g { Slot.reset with st := .ready, pc := 0x1000 }, Slot.reset, Slot.reset, Slot.reset, Slot.reset], rfl⟩ }

/-- A package whose core 0 runs a task in slot 0, with the slot and the core changed. -/
def tState (g : Slot → Slot) (f : Core → Core := id) : State := { State.reset with cores := [(0, tCore f g)] }

/-- The plain one. -/
def tBase : State := tState id

/-- General registers from a list. -/
def gs : List Word → Vector Word 24
  | l => ⟨⟨(l ++ List.replicate 24 0).take 24⟩, by simp⟩

/-- The plain state with general registers. -/
def tRegs (l : List Word) : State := tState fun sl => { sl with g := gs l }

/-- The value and the state that an effect ends with. -/
def okVal {α : Type} : Except Stop (α × State) → Option α
  | .ok (a, _) => some a
  | .error _ => none
def stOf {α : Type} : Except Stop (α × State) → State
  | .ok (_, s) => s
  | .error _ => State.reset

theorem ran {α : Type} {m : Except Stop (α × State)} {a : α} (h : okVal m = some a) : m = .ok (a, stOf m) := by
  cases m with
  | error => cases h
  | ok p => obtain ⟨b, s⟩ := p; cases h; rfl

/-- Whether an outcome is a next state. -/
def isNext (o : Host.Outcome State Fault Refusal) : Bool := match o with | .next _ => true | _ => false

theorem next_of {o : Host.Outcome State Fault Refusal} (h : isNext o = true) : ∃ t, o = .next t := by
  cases o <;> first | exact ⟨_, rfl⟩ | cases h

/-! ### States of chapters 02 and 06 -/

/-- A full `e3` holding 7. -/
def tFull : State := tState fun sl => sl.setE 3 ⟨7, true, false⟩
/-- A fill stream in `d1` with two elements queued of four, and a drain in `d2`. -/
def tStreams : State := tState fun sl => (sl.setD 1 (some ⟨false, .d, false, false, 0x100, 4, 1, 1, 8, 0, 0, 2, 4, [⟨5, none, 0⟩, ⟨6, none, 0⟩], none, 0⟩)).setD 2
  (some ⟨true, .d, false, false, 0x200, 4, 1, 1, 8, 0, 0, 0, 4, [], none, 0⟩)
def tDry : State := tState fun sl => sl.setD 1 (some ⟨false, .d, false, false, 0x100, 4, 1, 1, 8, 0, 0, 0, 4, [], none, 0⟩)
def tWet : State := tState fun sl => sl.setD 2 (some ⟨true, .d, false, false, 0x200, 16, 1, 1, 8, 0, 0, 8, 16, List.replicate 8 ⟨0, none, 0⟩, none, 0⟩)

/-- A core with one buffered store of a byte at 0x100. -/
def tEnt : StoreEnt := ⟨7, 0, ⟨0, 0, 0, 0⟩, [(0x1000000000100, 9)], [], none, none, false, false, .none, 0, [], .none, false⟩
def tBuffered : State := tState id fun k => { k with sb := [tEnt] }

/-- A plain descriptor of context 0, and one of a protected context 1. -/
def tDesc : Descriptor where
  pasid := 0
  vf := 0
  prot := false
  rlc := 0
  trm := false
  wdlim := 500
  upc := 0x3000
  sve := 0
  htab := 0
  hcnt := 0
  eng := 0x400000
  ovseg := 0
  lcap := 16
  ovlen := 0
  dlq := 0
  endMask := 0
  sq := 0
  sper := 0

/-- A context of it, running. -/
def tCtx : Context := { freshContext tDesc with st := .running }

/-- A context that has begun to drain. -/
def tDraining : Context := { tCtx with drain := some 0 }

/-- The plain state with a context, and with a context and memory. -/
def tHome (x : Context) (g : Slot → Slot) (f : Core → Core := id) : State := { tState g f with ctxs := [(0, x)] }

/-- Memory with some words of core 0's slice. -/
def tMem (l : List (Nat × Word)) : Memory :=
  memSets [] (l.flatMap fun p => (List.range 8).map fun j => (0x1000000000000 + p.1 + j, BitVec.ofNat 8 (p.2.toNat / 256 ^ j)))

/-- The piece of an access to offset 0x100 of the own slice in space L. -/
def tSeg : Seg := ⟨0x100, windowPa 0 0x100, 8, .normal, 0, false⟩

/-- A page of space G that maps 0x10000 onto the start of core 0's slice. -/
def tEntry : TlbEntry := ⟨0, 0x10000, 0, 0x1000000000, .normal, 0, false, true, true, true⟩

/-- The piece of an access to 0x10100 of space G through it. -/
def gSeg (off n : Nat) : Seg := ⟨word (0x10000 + off), windowPa 0 off, n, .normal, 0, true⟩

/-- A slot that runs, and one that is ready. -/
def tReady : Slot := { Slot.reset with st := .ready, pc := 0x2000 }

/-- A drain that holds a fault. -/
def tFault : State := tState fun sl => sl.setD 2 (some ⟨true, .d, false, false, 0x200, 4, 1, 1, 8, 0, 0, 1, 4, [⟨9, none, 0⟩], some { code := .xlPerm }, 0⟩)
/-- A fill whose reads meet poison. -/
def tBad : State := { tState fun sl => sl.setD 1 (some ⟨false, .d, false, false, 0x100, 4, 1, 1, 8, 0, 0, 0, 4, [], none, 0⟩) with poison := [0x200000000020] }
/-- A drain whose stores are refused, and one that stores. -/
def tLost : State := tState fun sl => sl.setD 2 (some ⟨true, .d, false, false, 0x18000, 4, 1, 1, 8, 0, 0, 1, 4, [⟨9, none, 0⟩], none, 0⟩)
def tStoring : State := tState fun sl => sl.setD 2 (some ⟨true, .d, false, false, 0x200, 4, 1, 1, 8, 0, 0, 1, 4, [⟨9, none, 0⟩], none, 0⟩)

/-- The value of an attempt, its fault, and its state. -/
def attVal {α : Type} : Att α → Option α
  | .done a _ => some a | _ => none
def attTrap {α : Type} : Att α → Option Trap
  | .trap t _ => some t | _ => none
def attSt {α : Type} : Att α → State
  | .done _ s => s | .trap _ s => s | .wait s => s

theorem tried {α : Type} {m : Att α} {a : α} (h : attVal m = some a) : m = .done a (attSt m) := by
  cases m <;> first | (cases h; rfl) | cases h
theorem missed {α : Type} {m : Att α} {t : Trap} (h : attTrap m = some t) : m = .trap t (attSt m) := by
  cases m <;> first | (cases h; rfl) | cases h

/-- A context with a core handle and a host-queue handle. -/
def tHandles : Context := { tCtx with handles := [(1, .core 0 5 0 7 0x100 0x200), (2, .hostQueue 3 0x9000000001000)] }

/-- Memory with a valid queue at 0x1000 of the own slice: four elements of two words from 0x2000, and a head and a tail. -/
def tQueue (head tail : Nat) : Memory :=
  tMem ([(0x1000, word head), (0x1008, word tail), (0x1010, 4), (0x1018, 2), (0x1020, 0x2000)].filter fun p => p.2 ≠ 0)

/-- An entry of the waiting-task table on counter 1. -/
def tWait : WtEnt := ⟨1, 5, true, ⟨0, 0⟩, none, 0⟩

/-- A context with the layout of type 0: one word, no pointer. -/
def tLayout : Context := { tCtx with layout := [(0, [0x10000, 0, 0])] }

/-- A state with objects: the page of space G, the context's layouts, and memory. -/
def tObjects (l : List Word) (m : List (Nat × Word)) : State :=
  { tHome tLayout (fun sl => { sl with g := gs l }) (fun k => { k with utlb := [tEntry] }) with mem := tMem m }

/-! ### States of chapters 13 to 15 -/

/-- What a unit's step gives, and a walk's. -/
def uVal {α : Type} : Except UStop (α × State) → Option α
  | .ok (a, _) => some a
  | .error _ => none
def uSt {α : Type} : Except UStop (α × State) → State
  | .ok (_, s) => s
  | .error _ => State.reset
theorem uran {α : Type} {m : Except UStop (α × State)} {a : α} (h : uVal m = some a) : m = .ok (a, uSt m) := by
  cases m with
  | error => cases h
  | ok p => obtain ⟨b, s⟩ := p; cases h; rfl
def gOk {α : Type} : Except GStop α × GRun → Bool
  | (.ok _, _) => true
  | _ => false
theorem gran {m : Except GStop Unit × GRun} (h : gOk m = true) : m = (.ok (), m.2) := by
  obtain ⟨a, r⟩ := m
  cases a with
  | error => cases h
  | ok => rfl

/-- A walk of the running task with its block at 0x200 of the slice. -/
def tWalk (oper : Nat) : GWalk := ⟨9, windowPa 0 0x200, 0, oper, (0, 0, 0), some 0, true, [], false, 0, 0, [], 0, none⟩

/-- The page of space G for the instruction and for the unit, memory, and walks. -/
def tGraph (m : List (Nat × Word)) (l : List GWalk) : State :=
  { tObjects [0, 0x10200] m with unitTlb := [(200, [tEntry])], gwalks := l }

/-- A block that keeps the rules, in a state, with an operation. -/
def tBlock (w0 : Word) : List (Nat × Word) := [(0x200, w0), (0x220, 0x10400), (0x228, 4), (0x230, 0x10800), (0x238, 1)].filter fun p => p.2 ≠ 0

/-- A stream whose descriptor lies at 0x300 of the slice, with its block, its queue and its table. -/
def tStream (inbox : List (List Word)) (ended : Option Nat) : LStream := ⟨4, 0, 0x10300, windowPa 0 0x300, none, 9, inbox, ended, 0, 0⟩
def tLanding (x : LStream) : State :=
  { tGraph [(0x308, 0x10500), (0x310, 0x10600), (0x318, 4), (0x320, 0x10700), (0x500, 0x10800), (0x508, 0x10900), (0x710, 4), (0x718, 2), (0x720, 0x2000)] [] with streams := [x] }

/-- A template that three cores of one number take. -/
def tTpl : Tpl := ⟨none, 0, none, false, 1, 0, 0, [0], 1, 1, 0x1000, Vector.replicate 24 0, [], [], [], [], 0, none, .none, []⟩

/-- A prologue that may freeze, on a core. -/
def tPrologue (l : List Word) : State := tState fun sl => { sl with role := .prologue, g := gs l }

/-- A quad 0 changed. -/
def tQuad (s : State) (f : Quad → Quad) : State := { s with quads := [(0, f Quad.reset)] }

/-- A wide value of small elements. -/
def tWide : PReg := ⟨true, 1, 0x0403020108070605, none, false⟩
def tSealed : PReg := ⟨true, 1, 1, some 2, false⟩
def tOther : PReg := ⟨true, 1, 1, some 3, false⟩

/-- `w1` and `w2` private, `w3` shared, `w4` sealed, `w5` under another key. -/
def tWideState : State := tQuad (tState fun sl => { sl with w := ((((sl.w.set 1 (.priv 0)).set 2 (.priv 1)).set 3 (.shared 2)).set 4 (.priv 3)).set 5 (.priv 4) })
  fun q => { q with pregs := ((((q.pregs.set 0 tWide).set 1 tWide).set 2 { tWide with refs := 2 }).set 3 tSealed).set 4 tOther }

/-! ### States of chapters 07, 09 and 10 -/

/-- A loaded key of context 0 that permits 32-bit integers in the window at 0x200000, and lists the measurement 0. -/
def tKey : KeySlot := ⟨.loaded, 0, 3, 5, [0x400000000001, 0x200000, 0x200000, 0, 0, 0, 0, 0, 0], 0x30000⟩

/-- A slice with the furled range 0x400 to 0x4FF under key 2, for a task that has bound the key; memory. -/
def tFurled (b : BitVec 64) (m : Memory) : State :=
  { tState (fun sl => { sl with g := gs [0, 0x400, 0x410], bind := b, meas := some 0, w := sl.w.set 1 (.priv 0) }) (fun k => { k with furl := [⟨2, 0x400, 0x100, 0x200000⟩] }) with
    keys := State.reset.keys.set 2 tKey, quads := [(0, { Quad.reset with pregs := Quad.reset.pregs.set 0 tWide })], mem := m }

/-- The tag of a granule of zeros there. -/
def tTag : Memory := memSets [] (([212, 238, 236, 248, 189, 245, 153, 36, 170, 89, 57, 66, 27, 69, 210, 152] : List Nat).zipIdx.map fun p => (0x30000 + p.2, BitVec.ofNat 8 p.1))

/-- The piece of the range. -/
def fSeg : Seg := ⟨0x400, windowPa 0 0x400, 256, .normal, 0, false⟩

/-- A furled page of space G under key 2 that maps its window's start onto the slice. -/
def tPage : TlbEntry := ⟨0, 0x200000, 0, 0x1000000000, .furled, 2, false, false, true, true⟩
def tBinding : State :=
  { tState (fun sl => { sl with g := gs [0, 2, 0x200100, 0x100, 64, 3], meas := some 0 }) (fun k => { k with utlb := [tPage] }) with keys := State.reset.keys.set 2 tKey }

/-- A task with claimed tile 1; the tile, the context and the latch of the core changed. -/
def tTiles (t : Tile) (f : Core → Core := id) : State :=
  tState (fun sl => { sl with g := gs [0, 0x400, 0, 0x12033012] }) fun k => f { k with tiles := k.tiles.set 1 t, mctx := 0x505 }

/-- A launch on the first 64 cores, and a task of it. -/
def tLaunch : Launch := ⟨0, 0x1000, false, 0, 64, 0, 0x8000, 0, 0, 0x1000, 0x18000, 0, 64, 0, some 0, true, false⟩
def tRegion (n : Nat) : State := { tState fun sl => { sl with launch := some 1 } with launches := [(1, { tLaunch with rlen := n })] }

/-- A pending MROT to core 1. -/
def tRot (due : Bool) : Rot := ⟨0, 0, 1, due, 0⟩

/-- A task whose engine index 0 names channel 3 of engine 0. -/
def tEngine (f : Chan → Chan) : State :=
  { tHome { tCtx with handles := [(0, .engine 0 3)] } (fun sl => { sl with engMap := 0x10000 }) with chans := [(chanKey 0 3, f ⟨0, [], [], [], [], []⟩)], engines := [(0, ⟨1, 63, false⟩)] }

/-- A copy of 16 bytes from 0x10100 to 0x10200 of space G that asks for a result, and it executing. -/
def tCopy (a b n : Word) : Cmd := ⟨1, [0x0102000000000000, a, b, n, 0, 0, 0, 0], 0, ⟨0, 0, 0, 0⟩, 0, 0⟩
def tCopying (c : Cmd) (m : List (Nat × Word)) : State :=
  { tEngine (fun k => { k with exec := [⟨c, 0, 0, none, none, 0, [], false⟩] }) with unitTlb := [(0, [tEntry])], mem := tMem m }

/-- The state that a step ends with. -/
def nextSt (o : Host.Outcome State Fault Refusal) : State := match o with | .next t => t | _ => State.reset
theorem next_eq {o : Host.Outcome State Fault Refusal} (h : isNext o = true) : o = .next (nextSt o) := by
  cases o <;> first | rfl | cases h

/-- A state with a command that executes on channel 3 of engine 0, whose unit has some pages. -/
def tExec (c : Cmd) (l : List TlbEntry) (m : Memory) (ks : List Nat := []) : State :=
  { tEngine (fun k => { k with exec := [⟨c, 0, 0, none, none, 0, ks, false⟩] }) with unitTlb := [(0, l)], mem := m }

/-- A command that executes while none starts. -/
theorem executing_of {s : State} {eng ch : Nat} {x : Exec} (h : nextStart s eng = none)
    (hx : (executing s eng).filter (fun e => rowOf e.2.cmd.oper = rowOf x.cmd.oper) = [(chanKey eng ch, x)]) : Executing s eng ch x :=
  ⟨fun _ hq => (nomatch h.symm.trans hq), hx⟩

/-- COPY2D of one row of two 8-bit elements of which one lies within the extents, zeros written beyond them. -/
def tCopy2d : Cmd := ⟨1, [word (2 * 2 ^ 56 + 2 ^ 54 + 2 ^ 49 + 12 * 2 ^ 40 + 12 * 2 ^ 32), 0x10100, 0x10200, word (2 ^ 48 + 2 * 2 ^ 32 + 2), word (2 ^ 48 + 2 ^ 32 + 2), 0, 0, 0], 0, ⟨0, 0, 0, 0⟩, 0, 0⟩

/-- FURLMOVE of one granule within the key's window, the pusher having bound some keys; a second key, and pages under either. -/
def tMoveCmd (a b : Word) (bind : BitVec 64) : Cmd := ⟨1, [word (6 * 2 ^ 56 + 2 ^ 49), a, b, 256, 0, 0, 0, 0], bind, ⟨0, 0, 0, 0⟩, 0, 0⟩
def tMoving (a b : Word) (bind : BitVec 64) (m : Memory) (ks : List Nat := []) : State :=
  { tExec (tMoveCmd a b bind) [tPage, { tPage with vpage := 0x201000, key := 3 }, { tPage with vpage := 0x400000 }] m ks with keys := (State.reset.keys.set 2 tKey).set 3 tKey }

/-- A task with an upcall entry and a carve at the top of program data. -/
def tUpcalls (f : Slot → Slot) : State :=
  tHome tCtx fun sl => f { sl with upc := 0x3000, launch := some 1, carveBase := 0x17000, carveSize := 0x400, rlen := 64 }

/-- The tag of a granule of zeros under the key 5. -/
theorem gmac_zeros : Crypto.gmac 5 0x200000 (List.replicate 256 0) =
    [212, 238, 236, 248, 189, 245, 153, 36, 170, 89, 57, 66, 27, 69, 210, 152] := by decide +kernel

/-- A handler in slot 0 of core 0 over a slot 1, changed; its `g1` names that slot. -/
def tSuper (h : Slot → Slot) (f : Core → Core := id) : State :=
  tState (fun sl => { sl with sv := true, rlen := 64, g := gs [0, 0x2000, 0x2000, 0x10000] }) fun k => f { k with slots := k.slots.set 1 (h { Slot.reset with st := .halted, pc := 0x1000 }) }

/-- Service core 6144 with a TLBW to answer a walk of a slot of core 0. -/
def tService (l : List Word) (ws : List Walk) (f : Slot → Slot := id) : State :=
  { State.reset with cur := 6144, walks := ws, cores := [(0, { Core.reset with slots := Core.reset.slots.set 1 { Slot.reset with st := .blocked .xlate } }),
    (6144, { Core.reset with act := some 0, slots := Core.reset.slots.set 0 (f { Slot.reset with st := .ready, g := gs l }) })] }
def tAsked (fly : Bool) : Walk := ⟨0, 0, 0, 0x10000, false, fly, false, [.slot 0 1]⟩

/-! ### States of chapters 11, 14 and 15 -/

/-- A message for core 0 from slot 1 of core 5, alone on the mesh or oldest in the message queue. -/
def tMsg (b : MsgBody) : Msg := ⟨0, ⟨5, 1, 0, 9⟩, b⟩
def tArriving (b : MsgBody) (f : Core → Core := id) : State := { tHome tCtx id f with mesh := [tMsg b] }
def tHandling (b : MsgBody) (f : Core → Core := id) : State := tHome tCtx id fun k => f { k with mq := [tMsg b] }

/-- A core whose queues are full. -/
def tFullCore (k : Core) : Core :=
  { k with mq := List.replicate 32 (tMsg (.notice 0)), rq := List.replicate 64 ⟨0, ⟨0, 0⟩, none, 0, 0, 0, 0, false, 0, []⟩ }

/-- A load of 8 bytes at 0x10100 of space G, which a page maps onto core 1's slice. -/
def tFar (p : Pend) (i : Nat := 0) (mw : Nat := 0) : State :=
  let sl : Slot := { Slot.reset with mw := mw, st := .ready, pc := 0x1000, g := gs [0, 0x10100], pend := p }
  { State.reset with cores := [(0, { Core.reset with act := some i, slots := (Core.reset.slots.set 0 sl).set 4 sl, utlb := [{ tEntry with ppn := 0x1000000020 }] })] }
def farSeg : Seg := ⟨0x10100, windowPa 1 0x100, 8, .normal, 0, true⟩

/-- A descriptor of class Waiting, or in the form of an H descriptor. -/
def tReadyEnt (w0 : Word) (kind : Nat := 0) (data : List Word := []) : RqEnt := ⟨2, ⟨w0, 7⟩, none, 0, 0, 0, 0, false, kind, data⟩

/-- A core with all slots free and some queues, in a context whose handler table of two entries lies at 0x10200 of space G. -/
def tIdle (rq : List RqEnt) (mq : List Msg) (m : Memory) : State :=
  { State.reset with
    ctxs := [(0, { tCtx with desc := { tDesc with htab := 0x10200, hcnt := 2 } })], mem := m
    cores := [(0, { Core.reset with rq := rq, mq := mq, ctx := some 0, utlb := [tEntry] })] }

/-- A record for a launch of two cores at entry 0x1000, changed by its last words. -/
def tRecord (pred dep compl : Word) : List Word :=
  [0x1000, word (2 * 2 ^ 32 + 2), word (0x1000 * 2 ^ 46 + 0x400 * 2 ^ 17), 0, pred, dep, 0, compl]

/-- A running context of VF 0 on 64 cores with a record at the head of its fabric queue; the dispatcher's page and memory. -/
def tQueued (r : List Word) (m : Memory := []) : State :=
  { State.reset with ctxs := [(0, { tCtx with fabricQ := [r] })], vfs := [(0, (0, 64))], mem := m, unitTlb := [(300, [tEntry])] }

/-- The value that a read of the interface gives. -/
def devVal : DevRd → Option Nat
  | .val v => some v
  | _ => none
theorem dev_val {d : DevRd} {v : Nat} (h : devVal d = some v) : d = .val v := by
  cases d <;> first | (cases h; rfl) | cases h

/-- Host port 1 grants 16 MiB of the memory of host 1. -/
def tGrants : Windows := ⟨[], [(1, 0, 0, 0x1000)]⟩

/-- Host memory with a ring of sixteen places, its control block at 0x9000000001000 and its places from 0x9000000002000. -/
def tRing : Memory :=
  memSets [] (((List.range 8).map fun j => (0x9000000001000 + j, BitVec.ofNat 8 (0x9000000002000 / 256 ^ j))) ++ [(0x9000000001008, 16)])

/-! ### States of chapter 17 -/

/-- A queue pair 1 of context 0 on port 0, in session 4 with package 5; the session. -/
def tInit : QpInit := ⟨true, 1, 9, 5, 0, 0, 4, 10, 3, 0⟩
def tQp : Qp := ⟨0, 3, tInit, .ready, 0, 0, [], [], false, []⟩
def tSession : Session := ⟨0, 5, true, false, 0, false, [], none⟩

/-- A package with them, channel 3 of port 0's engine, and the page of space G for that engine. -/
def tNet (f : Chan → Chan) (q : Qp) (x : Context) (m : Memory) : State :=
  { State.reset with
    ctxs := [(0, x)], qps := [(1, q)], sessions := [(4, tSession)], engines := [(100, ⟨1, 63, false⟩)], chans := [(chanKey 100 3, f ⟨0, [], [], [], [], []⟩)]
    unitTlb := [(100, [tEntry])], mem := m }

/-- A command of a Halyard engine on handle 3, with flags of its first word, and it executing. -/
def tNetCmd (op fl a b len : Nat) (n : Nat := 1) : Cmd := ⟨n, [word (op * 2 ^ 56 + 2 ^ 49 + fl), word a, word b, word (len * 2 ^ 32 + 3), 0, 0, 0, 0], 0, ⟨0, 0, 0, 0⟩, 0, 0⟩
def tNetExec (c : Cmd) (posted : Bool := false) : Exec := ⟨c, 0, 0, none, none, 0, [1], posted⟩
def tNetGo (c : Cmd) (m : Memory) : State := tNet (fun k => { k with exec := [tNetExec c] }) tQp tCtx m

/-- A packet for the queue pair, and one that waits for its answer. -/
def tPacket : Packet := { Packet.blank with dqpn := 1, sid := 4, addr := 0x10100, rkey := 2 }
def tOut (opc : Nat) : Outst := ⟨0, opc, { Packet.blank with dqpn := 9, sid := 4, addr := 0x10200, len := 8 }, 1, 0, 0, false, 0, none⟩
def tAwaiting (op opc : Nat) (f : Outst → Outst := id) : State :=
  tNet (fun k => { k with exec := [tNetExec (tNetCmd op 0 0x10100 0x10200 8) true] }) { tQp with out := [f (tOut opc)] } tCtx []

/-- A context with a registration of 16 bytes at 0x10100 for the pair. -/
def tOpen : Context := { tCtx with regs := [(2, ⟨0x10100, 16, true, true, true, [1]⟩)] }

/-- Memory with a queue at 0x100 of the slice of one place of two words. -/
def tInbox (tail : Nat) : Memory := tMem ([(0x108, word tail), (0x110, 1), (0x118, 2), (0x120, 0x2000)].filter fun p => p.2 ≠ 0)

end Sys2Proof.Tests
end

