-- ==== Sys2Proof/Tests/Slice0.lean ====
section
/-! SUPPORT. Tests: ill-formed terms that each check of `Instr.wf` refuses; words written out in the spec, or from its encoding tables, that decode to the
instructions they stand for; worked steps of the spec; vectors of the standards that it names. -/

set_option Elab.async false

namespace Sys2Proof.Tests

open Sys2Proof Sys2Proof.Machine Sys2Proof.Machine.Claims

/-! ### Ill-formed terms (one for each check) -/

theorem smoke_scalar : [Instr.leaReg .d (.g 0) (.g 1) (.g 2) 8, .leaLit .d (.g 0) (.g 1) 8 0, .exts .h (.g 0) (.g 1) 8 8, .extu .b (.g 0) (.g 1) 7 1, .ins .w (.g 0) (.g 1) (.g 2) 31 1,
    .sext .d (.g 0) (.g 1), .faddReg .f64 (.g 0) (.g 1) (.g 2) .sr, .fsubReg .f64 (.g 0) (.g 1) (.g 2) .sr, .fmulReg .f64 (.g 0) (.g 1) (.g 2) .sr, .fdivReg .f64 (.g 0) (.g 1) (.g 2) .sr,
    .fsqrt .f64 (.g 0) (.g 1) .sr, .fmaReg .f64 (.g 0) (.g 1) (.g 2) (.g 3) .sr, .fsgnjReg .f64 (.g 0) (.g 1) (.g 2) 3, .fsgnjLit .f64 (.g 0) (.g 1) 0 3,
    .fcvt (.g 0) (.g 1) 3 0 false .rne 0 0, .fcvt (.g 0) (.g 1) 0 3 false .rne 0 0, .fcvt (.g 0) (.g 1) 0 0 false .rne 0 0x0A, .fcvt (.g 0) (.g 1) 1 0 false .rne 0 5,
    .fcvt (.g 0) (.g 1) 0 1 false .rne 5 0, .fcvt (.g 0) (.g 1) 0 0 false .rne 0x04 0].map Instr.wf = List.replicate 20 false := by decide +kernel

theorem smoke_memory : [Instr.ldReg .d (.g 0) (.g 1) (.g 2) ⟨false, false⟩ 0 true, .ldLit .d (.g 0) (.g 1) ⟨false, false⟩ true 0, .stReg .d (.e 0) (.g 1) (.g 2) ⟨false, false⟩ 0,
    .stLit .d (.e 0) (.g 1) ⟨false, false⟩ 0, .stnReg (.e 0) (.g 1) (.g 2) ⟨false, false⟩, .stnLit (.e 0) (.g 1) ⟨false, false⟩ 0, .scfgFillReg .d 21 false false 0,
    .scfgFillReg .d 20 false true 0, .scfgFillLit .d 0 false true 0 0, .scfgDrainReg .d 21 false 0].map Instr.wf = List.replicate 10 false := by decide +kernel

theorem smoke_messages : [Instr.send (.e 0) 0 false false 1 0, .send (.g 0) 0 false false 7 0, .send (.g 0) 23 false false 2 0, .send (.g 0) 1 false false 0 0, .sendw (.ix) 0 .zr 1 false 0,
    .sendw (.g 0) 0 .zr 7 false 0, .sendw (.g 0) 23 .zr 2 false 0, .sendw (.g 0) 1 .zr 0 false 0, .sendw (.g 0) 0 .zr 1 false 1, .qenq .zr 0 0 ⟨false, false⟩ 0, .qenq .zr 0 0 ⟨false, false⟩ 9,
    .qenq .zr 0 23 ⟨false, false⟩ 2, .wtset .zr .zr 23 .zr false 0].map Instr.wf = List.replicate 13 false := by decide +kernel

theorem smoke_tasks : [Instr.tspawn 23 (.g 0) false, .tspawn 0 (.ix) false, .tcont 23 (.g 0) false, .maskw 17, .bararrive .zr none .sys, .bararrive .zr none .core, .bararrive .zr (some 1) .quad,
    .barsync .zr none .sys, .barsync .zr none .core, .barwait .zr 0 .sys, .frz .ix none, .futset 0 (.g 1) false true, .gsend .zr 0 (.ix), .lmap 23 0 0, .lmap 0 0 22].map Instr.wf =
    List.replicate 15 false := by decide +kernel

theorem smoke_wide : [Instr.waddReg .f32 0 1 (.reg 2) 0 false, .wshrLit .bf16 0 1 3 0 false, .wfaddReg .i32 0 1 (.reg 2) 0 false .rne, .wfmaLit .i8 0 1 3 0 false, .wfabs .i16 0 1 0 false .rne,
    .wexp2 .i32 0 1 0 false .rne, .wcmp .i32 0 1 (.reg 2) 1 false 0 false, .wcmp .f32 1 1 (.reg 2) 1 false 4 false, .wcmp .i32 1 1 (.reg 2) 1 false 6 false,
    .wred .f32 0 1 0 3 false, .wred .i32 0 1 0 1 true, .wmovsExtract .f32 0 1 64 false, .kop (.bin 0 0 1 2), .kop (.inv 0 1), .kop (.mov 0 1), .kop (.set 0 (.g 1)),
    .wcvt 0 1 (some 0) 1 0 false .rne 5, .wcvt 0 1 none 0 4 false .rne 5, .wscan .f32 0 1 0 false 3 false, .widx .f32 0 none 0 false 1, .wgath .i8 0 1 2 0 false ⟨false, false⟩ 0,
    .wscat .bf16 0 1 2 0 ⟨false, false⟩ 0, .wldf .i16 0 1 0 false ⟨false, false⟩ 0].map Instr.wf = List.replicate 23 false := by decide +kernel

theorem smoke_units : [Instr.mctx (.lit 0), .mrot 5, .mstore 0 0 .zr false 0x0A, .dbg 0 0 6].map Instr.wf = List.replicate 4 false := by decide +kernel

/-! ### Words and what they decode to -/

/-- R25, R34, R41, R45, R48, R53. -/
theorem test_decode_arith :
    fetchDecode 0x0301040000000001 = .addLit .d (.g 4) (.g 4) 1 ∧
    fetchDecode 0x0210420D00000000 = .subReg .w (.g 1) (.g 2) (.g 3) ∧
    fetchDecode 0x0210420E00000000 = .subReg .h (.g 1) (.g 2) (.g 3) ∧
    fetchDecode 0x0900410001234567 = .movh (.g 1) (.g 1) 0x01234567 ∧
    fetchDecode 0x1200810000008005 = .fcvt (.g 2) (.g 1) 0 0 true .rne 0 5 ∧
    fetchDecode 0x26008000FFFFFFFD = .loop 2 0xFFFFFFFD := by decide +kernel

/-- R121, R126. -/
theorem test_decode_memory :
    fetchDecode 0x3101050000000040 = .ldLit .d (.g 4) (.g 5) ⟨false, false⟩ false 0x40 ∧
    fetchDecode 0x330106A000000000 = .stLit .d (.g 4) (.g 6) ⟨true, true⟩ 0 ∧
    fetchDecode 0x3000420D02A80000 = .ldReg .w (.g 1) (.g 2) (.g 3) ⟨true, true⟩ 2 true ∧
    fetchDecode 0x3A00000000000013 = .fence .rel .pkg := by decide +kernel

/-- R237, R240, R243, R247, R250, R254. -/
theorem test_decode_messages :
    fetchDecode 0x5000040400000C07 = .send (.g 4) 1 false false 3 7 ∧
    fetchDecode 0x5000140400000401 = .send (.g 20) 1 false false 1 1 ∧
    fetchDecode 0x520004042800005A = .sendw (.g 4) 1 (.g 10) 2 true 5 ∧
    fetchDecode 0x550913A1FFFFFFFF = .rataddLit .f32 .zr 19 0xFFFFFFFF ⟨true, true⟩ ∧
    fetchDecode 0x5419114002000000 = .ratfaddReg .f64 .zr 17 (.g 16) ⟨true, false⟩ ∧
    fetchDecode 0x5600422002000002 = .qenq (.g 1) 2 8 ⟨true, false⟩ 2 ∧
    fetchDecode 0x5A10449000000005 = .ctradd (.g 1) (.g 4) .zr 5 ∧
    fetchDecode 0x5A19071000000000 = .ctradd .zr (.g 7) (.g 4) 0 ∧
    fetchDecode 0x5C02241810000000 = .wtset (.g 8) .zr 6 (.g 4) false 0 := by decide +kernel

/-- R273, R276, R277, R285. -/
theorem test_decode_objects :
    fetchDecode 0x7A01840400000000 = .lmap 6 4 1 ∧
    fetchDecode 0x7C00420C10000000 = .oalloc 1 2 (.g 3) (.g 4) ∧
    fetchDecode 0x7E01420C00000001 = .objldw (.g 5) 2 (.g 3) false 1 ∧
    fetchDecode 0x7800420000000000 = .gfree (.g 1) 2 ∧
    fetchDecode 0x72014A2C00000000 = .gsend (.g 5) 10 (.g 11) := by decide +kernel

/-- R309, R326, R329, R332, R339. -/
theorem test_decode_tasks :
    fetchDecode 0x6A00263400000001 = .frz .nix (some 13) ∧
    fetchDecode 0x6000109C00000000 = .tspawn 16 .rank false ∧
    fetchDecode 0x6E00069C00000000 = .tcont 6 .rank false ∧
    fetchDecode 0x6820800000000001 = .barsync (.g 2) none .quad ∧
    fetchDecode 0x6C04955800000000 = .futreg (.g 18) 21 22 false ∧
    fetchDecode 0x6C10092000000000 = .futset 9 (.g 8) false false ∧
    fetchDecode 0x6600000000000004 = .maskw 4 := by decide +kernel

/-- R166 to R170, R224. -/
theorem test_decode_wide :
    fetchDecode 0x8201234C00000000 = .wfaddReg .f32 1 2 (.reg 3) 1 false .rne ∧
    fetchDecode 0x8221200D1C000000 = .wfmulReg .f32 1 2 (.bcast (.g 7)) 0 false .rne ∧
    fetchDecode 0xA804001014800000 = .wldf .bf16 4 5 0 false ⟨true, false⟩ 0 := by decide +kernel

/-- R192 to R209. -/
theorem test_decode_matrix :
    fetchDecode 0xB000000000000505 = .mctx (.lit 0x0505) ∧
    fetchDecode 0xB000000000000101 = .mctx (.lit 0x0101) ∧
    fetchDecode 0xB200164400000000 = .mldb (.g 5) .zr true ∧
    fetchDecode 0xB400000000000003 = .mrot 3 ∧
    fetchDecode 0xB604124000000000 = .mma 1 4 .zr false ∧
    fetchDecode 0xBA00180000000000 = .mprog 6 ∧
    fetchDecode 0xBC201C8400000001 = .mstore 0 7 (.g 8) true 1 ∧
    fetchDecode 0xBC38000000000053 = .mtowide 2 3 5 ∧
    fetchDecode 0xBE04000000000001 = .mwait (some 1) := by decide +kernel

/-- R103, R134, R217, R342 to R365. -/
theorem test_decode_system :
    fetchDecode 0xDC00041418000000 = .tlbw 4 5 6 ∧
    fetchDecode 0xC000080000000000 = .epush 8 0 ∧
    fetchDecode 0xC600040000000000 = .fbind 4 ∧
    fetchDecode 0xC600041418000001 = .fbindRange 4 5 6 ∧
    fetchDecode 0xD000000000000012 = .trap 0x12 ∧
    fetchDecode 0xD200000000000200 = .upretResume 2 ∧
    fetchDecode 0xD401000000000001 = .srd (.g 4) 1 ∧
    fetchDecode 0xD600050000000002 = .swr 2 (.g 5) ∧
    fetchDecode 0xD801C50000000001 = .hresume (.g 7) 5 true ∧
    fetchDecode 0xDA01050000000020 = .swin 4 5 false 0x20 ∧
    fetchDecode 0xDA01850080000001 = .swin 6 5 true 1 ∧
    fetchDecode 0xDE004000000003E8 = .idle (.g 1) 1000 ∧
    fetchDecode 0xDE11050000000001 = .dbg 4 5 1 ∧
    fetchDecode 0xDE200000000001F4 = .wdog 500 := by decide +kernel

/-- Words that R27 refuses, with their codes. -/
theorem test_decode_illegal : fetchDecode 0 = .illegalWord .op 0 ∧ fetchDecode 0x2100000000000000 = .illegalWord .op 0x2100000000000000 ∧
    fetchDecode 0x021042AD00000000 = .illegalWord .reg 0x021042AD00000000 ∧ fetchDecode 0x0210420D00000040 = .illegalWord .field 0x0210420D00000040 := by decide +kernel

/-! ### Worked steps of the spec -/

/-- The low half 0x89ABCDEF in `g1`; MOVH puts the high half before it (the listing of R41). -/
theorem test_movh : (nextSt (exec (.movh (.g 1) (.g 1) 0x01234567) (tRegs [0, 0x89ABCDEF]))).curSlot.g.get 1 = 0x0123456789ABCDEF := by decide +kernel

/-- The worked conversions to E4M3 (R48): the result and the flags of FPST. -/
theorem test_fcvt : let f (x : Word) (sat : Bool) : Nat × Nat := let t := nextSt (exec (.fcvt (.g 2) (.g 1) 0 0 sat .rne 0 5) (tRegs [0, x])); ((t.curSlot.g.get 2).toNat, t.curSlot.fpst.toNat)
    f 0x43960000 true = (0x79, 1) ∧ f 0x43FA0000 true = (0x7E, 5) ∧ f 0x43FA0000 false = (0x7F, 5) ∧ f 0xC3960000 false = (0xF9, 1) := by decide +kernel

/-- The worked stochastic conversion (R91): `g7`, the new SRST, and NX. -/
theorem test_fcvt_stochastic : let t := nextSt (exec (.fcvt (.g 7) (.g 8) 0 0 false .sr 0 1) (tRegs [0, 0, 0, 0, 0, 0, 0, 0, 0x3F804000]))
    t.curSlot.g.get 7 = 0x3F81 ∧ (coreOf t 0).srst = 0x40822041 ∧ t.curSlot.fpst = 1 := by decide +kernel

/-- LOOP of the listing of R53: it goes back three words while the count is left, and past itself at its end. -/
theorem test_loop : let f (n : Word) : Word × Word := let t := nextSt (exec (.loop 2 0xFFFFFFFD) (tRegs [0, 0, n])); (t.curSlot.pc, t.curSlot.g.get 2)
    f 4 = (0x1000 - 24, 3) ∧ f 1 = (0x1008, 0) := by decide +kernel

/-- The worked arrivals at a barrier object (R335): the object after each, from EXP 3, REM 3, PHASE 7. -/
theorem test_barrier_object : let f (w : Nat) : RmwOut := rmwOut (fun _ _ => w) (fun _ _ => false) 0x18000 0 0x100 8 0 .barrier
    f 0xB500030003000007 = ⟨leBytes 0x100 8 0xB500030002000007, .vals [7], []⟩ ∧ f 0xB500030002000007 = ⟨leBytes 0x100 8 0xB500030001000007, .vals [7], []⟩ ∧
    f 0xB500030001000007 = ⟨leBytes 0x100 8 0xB500030003000008, .vals [7], []⟩ ∧ f 0xB500030003000008 = ⟨leBytes 0x100 8 0xB500030002000008, .vals [8], []⟩ := by decide +kernel

/-- The worked MX conversion of CWRITE (R372): the 17 bytes that the target receives. -/
theorem test_cwrite : let c : Cmd := ⟨1, [0x1502000908000005, 0x10100, 0x10200, word (128 * 2 ^ 32 + 3), 0, 0, 0, 0], 0, ⟨0, 0, 0, 0⟩, 0, 0⟩
    let t := nextSt (exec (.cwrite 100) (tNetGo c (tMem [(0x100, 0xBF33333340400000), (0x108, 0x3E4CCCCD41400000)])))
    t.sent.map (fun x => x.p.data) = [[0x93, 0x07] ++ List.replicate 14 0 ++ [0x80]] := by decide +kernel

/-- The worked conversions of die ranks (R61): square, place on the curve, position, quad, mesh position and ring; and the quad of R61's example. -/
theorem test_ranks : (let f (k : Nat) := [k / 256, k % 256, (rankToXY k).1, (rankToXY k).2, quadOf k, (meshOf k).1, (meshOf k).2, ringOf k]
    [0, 5, 255, 256, 767, 768, 1029, 1535].map f = [[0, 0, 0, 0, 0, 0, 0, 0], [0, 5, 0, 3, 1, 0, 1, 0], [0, 255, 15, 0, 63, 7, 0, 7], [1, 0, 16, 0, 64, 8, 0, 8],
      [2, 255, 32, 15, 191, 16, 7, 23], [3, 0, 32, 16, 192, 16, 8, 24], [4, 5, 31, 28, 257, 15, 14, 32], [5, 255, 0, 31, 383, 0, 15, 47]]) ∧
    [4, 5, 6, 7].map hilbertBase = [(0, 2), (0, 3), (1, 3), (1, 2)] ∧ packageRank 2 1029 = 4101 := by decide +kernel

/-- Positions back to die ranks (R60): the corners of the squares. -/
theorem test_positions : [xyToRank 0 3, xyToRank 15 0, xyToRank 16 0, xyToRank 32 15, xyToRank 32 16, xyToRank 31 28, xyToRank 0 31] =
    [5, 255, 256, 767, 768, 1029, 1535] := by decide +kernel

/-! ### Vectors of the standards (FIPS 197, FIPS 180-4) -/

theorem test_aes256 : Crypto.aesEnc (Crypto.roundKeys (List.range 32)) ((List.range 16).map (17 * ·)) =
    [0x8E, 0xA2, 0xB7, 0xCA, 0x51, 0x67, 0x45, 0xBF, 0xEA, 0xFC, 0x49, 0x90, 0x4B, 0x49, 0x60, 0x89] := by decide +kernel

end Sys2Proof.Tests
end

