-- ==== Sys2Proof/Tests/Witnesses1.lean ====
section
/-! SUPPORT. States and operands that meet the hypotheses of the claims on words, encodings, scalar instructions and the memory invariant. -/

set_option Elab.async false

namespace Sys2Proof.Tests

open Sys2Proof Sys2Proof.Machine Sys2Proof.Machine.Claims

/-! ### Chapter 01: words, the step, memory -/

theorem wit_EncodingRoundTrip : (Instr.addReg .d (.g 4) (.g 4) (.g 1)).wf = true ∧ encode (.addReg .d (.g 4) (.g 4) (.g 1)) ≠ 0 := by decide

theorem wit_IllegalWords : actOf tBase tBase.cur < 5 := by decide

theorem wit_StepRunsDecoded_step : ∃ s1 w i, let s := State.reset.withFetchWord 64 0x0301040000000001
    let e := wakeAll false (elapse s) s.cur
    let k := coreOf e s.cur
    s.power.boot = .up ∧ s.agenda = [] ∧ e.turns ≤ turnLimit ∧ k.act = some i ∧ doomed k i = false ∧
      ¬ ((slotOf k 4).st = .ready ∧ hMayResume k = true) ∧ hWork e s.cur = false ∧ lWork e s.cur = false ∧ (slotOf k i).st = .ready ∧
      (slotOf k i).argsDue = none ∧ fetchM e = .ok (w, s1) ∧ decodeWord w = .ok (.addLit .d (.g 4) (.g 4) 1) := by
  exact ⟨_, 0x0301040000000001, 0, rfl, rfl, by decide +kernel, by decide +kernel, (by decide +kernel), by decide +kernel, by decide +kernel,
    (by decide +kernel), by decide +kernel, by decide +kernel, ran (by decide +kernel), by decide +kernel⟩

theorem wit_StepRunsDecoded_fetch : let s := State.reset.withFetchWord 64 0x0301040000000001
    let c := s.cur
    let sl := s.curSlot
    let en := placeEntry 0
    let pa := en.pa sl.pc
    canonical sl.pc = true ∧ sl.walkAns = [] ∧ ((coreOf s c).utlb.find? fun x => x.hits sl.ctx (va57 sl.pc)) = some en ∧
    en.x = true ∧ en.mt = .normal ∧ inTagRegion s pa 8 = false ∧ rangeAt s pa 8 = none ∧ ownerOf s.hdm pa = .lpddr ∧ populated s pa 8 = true ∧
    s.ecc = [] ∧ anyPoison s pa 8 = false ∧ nget (coreOf s c).icache pa = none := by decide

theorem wit_StepKeepsMemory : State.reset.MemOk ∧ ∃ t, step (State.reset.withFetchWord 64 0x0301040000000001) = .next t :=
  ⟨rfl, next_of (by decide +kernel)⟩

/-! ### Chapter 02: operands, integers, branches, floating point -/

theorem wit_SourcesAndDestinations_e : (tFull.curSlot.e.get 3).full = true ∧ (tFull.curSlot.e.get 3).poison = false ∧ actOf tFull tFull.cur < 5 ∧
    (tBase.curSlot.e.get 3).full = false ∧ ((tState fun sl => sl.setE 3 ⟨7, true, true⟩).curSlot.e.get 3).poison = true := by decide +kernel

theorem wit_SourcesAndDestinations_d : (∃ st x y q, tStreams.curSlot.d.get 1 = some st ∧ st.drain = false ∧ st.q = x :: y :: q ∧ x.fault = none ∧
      y.fault = none ∧ 2 < st.left) ∧ tBase.curSlot.d.get 1 = none ∧ (∃ st, tDry.curSlot.d.get 1 = some st ∧ st.drain = false ∧ st.q = []) ∧
    (∃ st, tStreams.curSlot.d.get 2 = some st ∧ st.drain = true ∧ st.fault = none ∧ st.q.length < 8 ∧ st.moved < st.total) ∧
    (∃ st, tWet.curSlot.d.get 2 = some st ∧ st.drain = true ∧ st.fault = none ∧ 8 ≤ st.q.length) :=
  ⟨⟨_, _, _, _, rfl, rfl, rfl, rfl, rfl, by decide⟩, rfl, ⟨_, rfl, rfl, rfl⟩, ⟨_, rfl, rfl, rfl, by decide, by decide⟩, ⟨_, rfl, rfl, rfl, by decide⟩⟩

/-- Sources that are readable and a destination that takes any value: general registers, `zr` and the rest mixed in. -/
theorem wit_operands (v : Word) : (∃ s1 s2, read1 (.e 3) tFull = .ok (7, s1) ∧ writeDst (.g 3) v s1 = .ok ((), s2)) ∧
    (∃ s1 s2, read2 (.g 1) (.g 2) (tRegs [0, 5, 9]) = .ok ((5, 9), s1) ∧ writeDst .zr v s1 = .ok ((), s2)) ∧
    (∃ s1 s2, read2 (.d 1) .nix tStreams = .ok ((5, 0), s1) ∧ writeDst (.d 2) v s1 = .ok ((), s2)) ∧
    (∃ s1 s2, read3 (.g 1) (.g 2) .zr (tRegs [0, 5, 9]) = .ok ((5, 9, 0), s1) ∧ writeDst (.g 1) v s1 = .ok ((), s2)) :=
  ⟨⟨_, _, rfl, rfl⟩, ⟨_, _, rfl, rfl⟩, ⟨_, _, rfl, rfl⟩, ⟨_, _, rfl, rfl⟩⟩

theorem wit_IntegerOperations : (∃ s1, read2 (.g 1) (.g 2) (tRegs [0, 5, 9]) = .ok ((5, 9), s1)) ∧ (0 : BitVec 6).toNat + (63 : BitVec 6).toNat + 1 ≤ Alu.szW .d ∧
    (3 : BitVec 6).toNat + (4 : BitVec 6).toNat + 1 ≤ Alu.szW .b ∧ (Sz.b ≠ .d) ∧ (∃ s1, read3 (.g 1) (.g 2) .zr (tRegs [0, 5, 9]) = .ok ((5, 9, 0), s1)) :=
  ⟨⟨_, rfl⟩, by decide, by decide, by decide, ⟨_, rfl⟩⟩

theorem wit_IntegerOperations_ins : ∃ v : Word, ∀ j : Nat, v.getLsbD j =
    (decide (j < Alu.szW .b) && if 3 ≤ j ∧ j ≤ 3 + 4 then (0x1F : Word).getLsbD (j - 3) else (0x5 : Word).getLsbD j) := by
  refine ⟨0xFD, fun j => ?_⟩
  by_cases h : j < 64
  · have : ∀ j : Fin 64, (0xFD : Word).getLsbD j = (decide (j.val < Alu.szW .b) && if 3 ≤ j.val ∧ j.val ≤ 3 + 4 then (0x1F : Word).getLsbD (j - 3) else (0x5 : Word).getLsbD j) := by
      decide
    exact this ⟨j, h⟩
  · have h1 : ¬ j < 8 := by omega
    simp [Alu.szW, h1, BitVec.getLsbD_of_ge _ j (by omega : 64 ≤ j)]

theorem wit_ScalarFrame : actOf tStreams tStreams.cur < 5 ∧ ∃ xs s1 s2, read3 (.g 1) (.d 1) .zr tStreams = .ok (xs, s1) ∧ writeDst (.d 2) 1 s1 = .ok ((), s2) :=
  ⟨by decide, _, _, _, rfl, rfl⟩

theorem wit_ControlTransfers : (∃ s1, read2 (.g 1) (.g 2) (tRegs [0, 5, 9]) = .ok ((5, 9), s1)) ∧ (tRegs [0, 5, 1]).curSlot.g.get 1 ≠ 1 ∧ (tRegs [0, 5, 1]).curSlot.g.get 2 = 1 ∧
    (∃ s1, read1 (.g 1) (tRegs [0, 0x2000]) = .ok (0x2000, s1) ∧ (0x2000 : Word).toNat % 8 = 0 ∧ s1.curSlot.pc = (tRegs [0, 0x2000]).curSlot.pc) ∧
    (∃ s1, read1 (.g 1) (tRegs [0, 0x2004]) = .ok (0x2004, s1) ∧ (0x2004 : Word).toNat % 8 ≠ 0) ∧
    (let w : Word := 0x220000000000002A; w.toNat / 2 ^ 56 % 2 ^ 8 = 0x22) :=
  ⟨⟨_, rfl⟩, by decide +kernel, by decide +kernel, ⟨_, rfl, by decide, rfl⟩, ⟨_, rfl, by decide⟩, by decide⟩

/-- A general register takes any value, and so does a drain stream with room. -/
theorem wit_DstReady : DstReady (.g 4) tBase ∧ DstReady .zr tBase ∧ DstReady (.d 2) tStreams :=
  ⟨nofun, nofun, fun r h => by
    obtain rfl : r = 2 := List.mem_singleton.mp h
    exact ⟨_, rfl, rfl, rfl, by decide, by decide⟩⟩

theorem wit_FloatArithmetic : (∃ s1, read2 (.g 1) (.g 2) (tRegs [0, 0x3F800000, 0x40000000]) = .ok ((0x3F800000, 0x40000000), s1)) ∧
    0x7F800001 < 2 ^ fpWidth .f32 ∧ (fpExp .f32 0x7F800001 = 2 ^ fpEb .f32 - 1 ∧ fpFrac .f32 0x7F800001 ≠ 0) ∧ fpFrac .f32 0x7F800001 < 2 ^ (fpMb .f32 - 1) :=
  ⟨⟨_, rfl⟩, by decide, by decide, by decide⟩

theorem wit_FloatRounding : Rm.rne ≠ .sr ∧ (0x3F800000 < 2 ^ fpWidth .f32 ∧ fpExp .f32 0x3F800000 ≠ 2 ^ fpEb .f32 - 1) ∧
    (let r := (Num.fpAdd (Num.fszSpec .f32) .rne 0 0x3F800000 0x33800000).1; r < 2 ^ fpWidth .f32 ∧ fpExp .f32 r ≠ 2 ^ fpEb .f32 - 1) ∧
    (let r := (Num.fpMul (Num.fszSpec .f64) .rtz 0 0x7FEFFFFFFFFFFFFF 0x3FF0000000000000).1; r < 2 ^ fpWidth .f64 ∧ fpExp .f64 r ≠ 2 ^ fpEb .f64 - 1) := by
  decide +kernel

theorem wit_FloatCompareConvert_value : MinMaxOf .f32 false 0 0x80000000 0x80000000 ∧ MinMaxOf .f32 true 0x7FC00000 0x3F800000 0x3F800000 ∧
    CompareOf .f32 (fun u w => decide (u < w)) 0xBF800000 0 1 ∧ ClassOf .f32 0xFF800000 1 ∧ ClassOf .f64 0x8000000000000001 4 := by
  refine ⟨⟨?_, ?_, ?_, ?_⟩, ⟨?_, ?_, ?_, ?_⟩, ⟨?_, ?_⟩, ⟨?_, ?_, ?_⟩, ⟨?_, ?_, ?_⟩⟩ <;> simp only [fpIsNaN, fpIsInf, fpFinite] <;> decide +kernel

theorem wit_FloatCompareConvert_sign : let f := FSz.f32; let a := 0x3F800000; let b := 0x80000000; let v := 0xBF800000
    v % 2 ^ (fpWidth f - 1) = a % 2 ^ (fpWidth f - 1) ∧ v < 2 ^ fpWidth f ∧ fpNeg f v = fpNeg f b ∧ (0 : BitVec 2) ≠ 3 := by decide +kernel

theorem wit_FloatCompareConvert_convert : let k := coreOf tBase tBase.cur
    (∀ n : Fin 4, Num.Fmt.i64 = .dt n → (k.dt.get n).status = 0) ∧ (∃ s1, read1 (.g 1) tBase = .ok (0, s1)) ∧
    ((Num.fmtOfCode 0x18).getD .fp32 = .dt 0) ∧ (k.dt.get (0 : Fin 4)).status ≠ 0 ∧
    (∃ s1 s2, read1 (.g 1) tBase = .ok (0, s1) ∧ writeDst (.g 2) 0 (modCore s1 tBase.cur fun k => { k with srst := Num.srAdvance k.srst }) = .ok ((), s2)) :=
  ⟨(fun n h => by cases h), ⟨_, rfl⟩, by decide, by decide +kernel, ⟨_, _, rfl, rfl⟩⟩

/-! ### Chapter 06: accesses -/

theorem wit_LoadsAndStores : (∃ s1 s2 s3, read2 (.g 1) .zr (tRegs [0, 0x100]) = .ok ((0x100, 0), s1) ∧ loadScalar false (word (0x100 + 0 * 2 ^ 0)) 8 s1 = .ok (0, s2) ∧
      writeDst (.g 4) 0 s2 = .ok ((), s3)) ∧
    (∃ s1 s2, read3 (.g 1) .zr (.g 2) (tRegs [0, 0x100, 7]) = .ok ((0x100, 0, 7), s1) ∧ storeScalar false (word (0x100 + 0 * 2 ^ 0)) 8 7 false s1 = .ok ((), s2)) ∧
    (0x101 : Word).toNat % Alu.szB .h ≠ 0 :=
  ⟨⟨_, _, _, rfl, ran (by decide +kernel), rfl⟩, ⟨_, _, rfl, ran (by decide +kernel)⟩, by decide⟩

theorem wit_OwnSliceMemory_data : let s := tBase
    ((8 : Nat) ≤ 8 ∧ s.cur < 6144 ∧ 0 < 8 ∧ (0x17FF8 : Word).toNat + 8 ≤ s.curSlot.qbase.toNat ∧ s.curSlot.qbase.toNat ≤ 0x18000 ∧ (coreOf s s.cur).furl = []) ∧
    ((∀ e ∈ (coreOf s s.cur).sb, e.touches (windowPa 0 0x17FF8) 8 = false) ∧ drainsDue (coreOf s s.cur) (actOf s s.cur) = false ∧
      (∀ e ∈ (coreOf s s.cur).sb, e.slot = actOf s s.cur → e.req = .none) ∧ s.ecc = []) ∧ anyPoison s (windowPa 0 0x17FF8) 8 = false ∧
    (coreOf s s.cur).sb.length ≤ Config.storeBuffer ∧ s.poison = [] ∧ (∀ e ∈ (coreOf s s.cur).sb, e.poison = []) := by decide +kernel

theorem wit_OwnSliceMemory_nibble : ∃ s1, read3 (.g 1) (.g 2) (.g 3) (tRegs [0, 0x100, 3, 7]) = .ok ((0x100, 3, 7), s1) ∧ s1.cur < 6144 ∧
    (BitVec.ofInt 64 ((0x100 : Word).toNat + (3 : Word).toInt / 2) : Word).toNat + 1 ≤ s1.curSlot.qbase.toNat ∧ (coreOf s1 s1.cur).furl = [] ∧ s1.poison = [] ∧
    (coreOf s1 s1.cur).sb = [] ∧ drainsDue (coreOf s1 s1.cur) (actOf s1 s1.cur) = false :=
  ⟨_, rfl, by decide +kernel⟩

theorem wit_OwnSliceMemory_performed : (coreOf tBuffered 0).sb = [tEnt] ∧ tEnt.sent = false ∧ tEnt.bytes ≠ [] ∧ tEnt.req = .none ∧ tEnt.ack = .none ∧ tEnt.nib = none ∧ tEnt.poison = [] ∧ tEnt.tile = none ∧ tBuffered.ecc = [] ∧
    (∀ b ∈ tEnt.bytes, isPoison tBuffered b.1 = false) ∧ ownerOf tBuffered.hdm (tEnt.bytes.headD (0, 0)).1 = .slice 0 0x100 ∧
    (tEnt.bytes.map fun b => physOf tBuffered b.1).Nodup := by decide +kernel

theorem wit_Banks_grid : (1029 : Nat) < 1536 ∧ (1029 + 1 < 1536) ∧ (31 : Nat) < 48 ∧ (28 : Nat) < 32 ∧ (257 : Nat) < 384 ∧ (32 : Nat) < 48 ∧ (3 : Nat) < 4 ∧
    State.reset.reassign = [] ∧ rankToXY 1029 = (31, 28) ∧ xyToRank 31 28 = 1029 := by decide

theorem wit_Banks : let r : Word := 0x1802000080
    (∀ x ∈ [r, 0], rgnBase x % 128 = 0 ∧ rgnSize x % 128 = 0 ∧ rgnSwz x < 7) ∧ (⟨#[r, r, r, 0, 0, 0, 0, 0], rfl⟩ : Vector Word 8).toList = [r, r, r, 0, 0, 0, 0, 0] :=
  ⟨by simp [rgnBase, rgnSize, rgnSwz], rfl⟩

end Sys2Proof.Tests
end

