-- ==== Sys2Proof/Tests/Witnesses2.lean ====
section
/-! SUPPORT. States and operands that meet the hypotheses of the claims on fences, streams, messages, queues, tasks and the waiting-task table. -/

set_option Elab.async false

namespace Sys2Proof.Tests

open Sys2Proof Sys2Proof.Machine Sys2Proof.Machine.Claims

theorem wit_PrefetchFenceWait_fence : (∀ e ∈ (coreOf tBase 0).sb, e.slot ≠ actOf tBase 0) ∧ drainsDue (coreOf tBase 0) (actOf tBase 0) = false ∧
    (∀ e ∈ (coreOf tBuffered 0).sb, e.slot = actOf tBuffered 0 → e.req = .none) ∧ actOf tBuffered 0 < 4 ∧ tBuffered.curSlot.mw = 0 ∧
    (∃ e ∈ (coreOf tBuffered 0).sb, e.slot = actOf tBuffered 0) ∧ FenceKind.rel ≠ .acq := by decide +kernel

theorem wit_PrefetchFenceWait_waita : let s := tRegs [0, 0x100, 1, 0]
    actOf s s.cur < 4 ∧ s.curSlot.mw = 0 ∧ s.curSlot.noted = [] ∧ (s.curSlot.g.get 1).toNat % Alu.szB .d = 0 ∧
    ∃ s1 s2, resolve false (s.curSlot.g.get 1) 8 accLoad s = .ok ([tSeg], s1) ∧ tSeg.mt = .normal ∧ readSeg tSeg s1 = .ok (0, s2) ∧
      (0 ≠ (s.curSlot.g.get 2).toNat % 2 ^ (8 * 8)) ∧ (0 = (s.curSlot.g.get 0).toNat % 2 ^ (8 * 8)) ∧ s.curSlot.g.get 3 ≠ BitVec.allOnes 64 ∧
      (s.curSlot.g.get 3).toNat ≤ 0 :=
  ⟨by decide +kernel, by decide +kernel, rfl, by decide +kernel, _, _, ran (by decide +kernel), rfl, ran (by decide +kernel), by decide +kernel⟩

theorem wit_PrefetchFenceWait_others : draining (tHome tDraining id) 0 = true ∧ draining tBase 0 = false ∧ actOf (tState id fun k => { k with act := some 4 }) 0 = 4 ∧
    (tState fun sl => { sl with mw := 3 }).curSlot.mw ≠ 0 ∧
    (slotAt (tState fun sl => { sl with st := .blocked (.waita 0x100 8 0 7) }) 0 (0 : Fin 5).val).st = .blocked (.waita 0x100 8 0 7) ∧ (7 : Word) ≠ BitVec.allOnes 64 := by
  decide +kernel

theorem wit_PrefetchFenceWait_limit : let s : State := { tState id with cycles := 2 ^ 64 - Config.clkOffset 0 % 2 ^ 64 }
    (0 : Word).toNat ≤ (clkOf s 0).toNat := by simp

theorem wit_TaskControl : let s := tState id fun k => { k with slots := k.slots.set 2 tReady }
    actOf s 0 < 4 ∧ s.curSlot.mw = 0 ∧ (slotAt s 0 2).st = .ready ∧ ¬ (slotAt s 0 1).st = .ready ∧ (2 : Nat) = (0 + 2) % 4 ∧
    (let u := tState id fun k => { k with slots := k.slots.set 1 tReady }; (slotAt u 0 1).st = .ready ∧ actOf u 0 < 4) ∧
    (∀ d : Fin 4, 1 ≤ d.val → d.val ≤ 3 → ¬ (slotAt tBase 0 ((0 + d.val) % 4)).st = .ready) ∧ s.curSlot.tpl = none ∧ s.gwalks = [] := by decide +kernel

theorem wit_TaskCreation : let s := tState fun sl => { sl with g := gs [0, 1], rlen := 2 }
    (∃ x, fetchSrc .zr s = .ok (x, s) ∧ x = s.curSlot.rank ∧ x.toNat < s.curSlot.rlen.toNat) ∧
    (∃ x, fetchSrc (.g 1) s = .ok (x, s) ∧ x ≠ s.curSlot.rank ∧ x.toNat < s.curSlot.rlen.toNat) ∧ (s.curSlot.g.get 0).toNat % 4 < 2 ∧ rqFull s 0 3 = false ∧
    rqFull s 0 1 = false ∧ outboundFull s 0 = false ∧ (∀ e ∈ (coreOf s 0).sb, e.slot ≠ actOf s 0) ∧ drainsDue (coreOf s 0) (actOf s 0) = false ∧ tBase.curSlot.rlen.toNat ≤ (0 : Word).toNat :=
  ⟨⟨_, rfl, by decide +kernel⟩, ⟨_, rfl, by decide +kernel⟩, by decide +kernel⟩

theorem wit_Streams_bind : let s := tRegs [0, 0x100, 3, 0x800000008, 8]
    let t := tRegs [0, 0x104, 3, 0, 0x100000000]
    actOf s 0 < 5 ∧ drainsDue (coreOf s 0) (actOf s 0) = false ∧ (s.curSlot.g.get 1).toNat % Alu.szB .d = 0 ∧ (t.curSlot.g.get 1).toNat % Alu.szB .d ≠ 0 ∧ (s.curSlot.g.get 4).toNat < 2 ^ 32 ∧
    signed 32 ((s.curSlot.g.get 3).toNat % 2 ^ 32) % 8 = 0 ∧ signed 32 ((s.curSlot.g.get 3).toNat / 2 ^ 32) % 8 = 0 ∧ signed 32 (s.curSlot.g.get 4).toNat % 8 = 0 ∧
    2 ^ 32 ≤ (t.curSlot.g.get 4).toNat ∧ (∃ st, tStreams.curSlot.d.get 2 = some st ∧ st.drain = true ∧ st.fault = none ∧ st.q = []) ∧
    (∃ st f, tFault.curSlot.d.get 2 = some st ∧ st.drain = true ∧ st.fault = some f) :=
  ⟨by decide +kernel, by decide +kernel, (by decide +kernel), by decide +kernel, by decide +kernel, (by decide +kernel), by decide +kernel, by decide +kernel, by decide +kernel,
    ⟨_, rfl, rfl, rfl, rfl⟩, ⟨_, _, rfl, rfl, rfl⟩⟩

theorem wit_Streams_fill : (∃ st t, (slotAt tDry 0 0).d.get 1 = some st ∧ st.drain = false ∧ st.moved < st.total ∧ st.q.length < 8 ∧ (∀ x ∈ st.q, x.fault = none) ∧
      attempt tDry 0 0 (readElement st) = .done 0 t) ∧
    (∃ st t, (slotAt tBad 0 0).d.get 1 = some st ∧ st.q = [] ∧ attempt tBad 0 0 (readElement st) = .trap { code := .poison, info := 0x100 } t) :=
  ⟨⟨_, _, rfl, rfl, by decide, by decide, by decide, tried (by decide +kernel)⟩, ⟨_, _, rfl, rfl, missed (by decide +kernel)⟩⟩

theorem wit_Streams_drain : (∃ st t, (slotAt tStoring 0 0).d.get 2 = some st ∧ (coreOf tStoring 0).orphans = [] ∧ st.drain = true ∧ st.fault = none ∧ st.q = [⟨9, none, 0⟩] ∧
      (∀ e x, (slotAt tStoring 0 0).d.get e = some x → ∀ m ∈ x.oldest, 0 ≤ m) ∧ attempt tStoring 0 0 (writeElement st 9) = .done () t) ∧
    (∃ st t, (slotAt tLost 0 0).d.get 2 = some st ∧ (coreOf tLost 0).orphans = [] ∧ st.drain = true ∧ st.fault = none ∧ st.q = [⟨9, none, 0⟩] ∧
      (∀ e x, (slotAt tLost 0 0).d.get e = some x → ∀ m ∈ x.oldest, 0 ≤ m) ∧ attempt tLost 0 0 (writeElement st 9) = .trap { code := .localBound, info := 0x18000 } t) :=
  ⟨⟨_, _, rfl, rfl, rfl, rfl, rfl, fun _ _ _ _ _ => Nat.zero_le _, tried (by decide +kernel)⟩,
    ⟨_, _, rfl, rfl, rfl, rfl, rfl, fun _ _ _ _ _ => Nat.zero_le _, missed (by decide +kernel)⟩⟩

theorem wit_SendingMessages : let s := tHome tHandles fun sl => { sl with g := gs [0, 1, 2, 3] }
    let h (x : Nat) := (nget s.ctxs s.curSlot.ctx).bind fun y => if x < 4096 then nget y.handles x else none
    (∃ s1, read1 (.g 1) s = .ok (1, s1)) ∧ outboundFull s 0 = false ∧ h 1 = some (.core 0 5 0 7 0x100 0x200) ∧ (7 : BitVec 10).toNat ≤ (7 : BitVec 10).toNat ∧
    (7 : BitVec 10).toNat < (8 : BitVec 10).toNat ∧ h 2 = some (.hostQueue 3 0x9000000001000) ∧ h 3 = none ∧ (∀ e ∈ (coreOf s 0).sb, e.slot ≠ actOf s 0) ∧
    drainsDue (coreOf s 0) (actOf s 0) = false :=
  ⟨⟨_, rfl⟩, by decide +kernel⟩

theorem wit_OwnSliceAtomics : let s := tRegs [0, 0x100, 5]
    (s.curSlot.g.get 1).toNat % (fpWidth .f64 / 8) = 0 ∧ (∃ s1, read1 (.g 2) s = .ok (5, s1) ∧ s1 = s) ∧ LocalData s (s.curSlot.g.get 1) (fpWidth .f64 / 8) ∧
    Clean s (windowPa 0 0x100) (fpWidth .f64 / 8) ∧ (coreOf s 0).sb.length ≤ Config.storeBuffer ∧ Drained s ∧
    ((tRegs [0, 0x104]).curSlot.g.get 1).toNat % (fpWidth .f64 / 8) ≠ 0 := by
  refine ⟨by decide +kernel, ⟨_, rfl, rfl⟩, by unfold LocalData; decide +kernel, by unfold Clean Settled Ordered NoErrors; decide +kernel, by decide +kernel, by unfold Drained; decide +kernel, by decide +kernel⟩

theorem wit_OwnSliceAtomics_sum : let a := 0x7F7FFFFF
    (a < 2 ^ fpWidth .f32 ∧ fpExp .f32 a ≠ 2 ^ fpEb .f32 - 1) ∧ fpExp .f32 (Num.fpAdd (Num.fszSpec .f32) .rne 0 a a).1 = 2 ^ fpEb .f32 - 1 ∧
    fpExp .f32 (Num.fpAdd (Num.fszSpec .f32) .rne 0 a 0).1 ≠ 2 ^ fpEb .f32 - 1 := by decide +kernel

theorem wit_QueuesAndCounters : let s (h t : Nat) : State := { tRegs [0, 0x1000, 7] with mem := tQueue h t }
    let q (h t : Nat) : Queue := ⟨h, t, 4, 2, 0x2000⟩
    (((s 0 3).curSlot.g.get 1).toNat % 64 = 0 ∧ LocalData (s 0 3) 0x1000 64 ∧ (coreOf (s 0 3) 0).sb = [] ∧ drainsDue (coreOf (s 0 3) 0) (actOf (s 0 3) 0) = false ∧ (s 0 3).poison = [] ∧ (s 0 3).ecc = [] ∧
      Drained (s 0 3) ∧ Ordered (s 0 3)) ∧
    (q 0 3).at (s 0 3) (windowPa 0 0x1000) ∧ (q 0 4).at (s 0 4) (windowPa 0 0x1000) ∧ (q 4 4).at (s 4 4) (windowPa 0 0x1000) ∧
    (3 + 2 ^ 64 - 0) % 2 ^ 64 < 4 ∧ (4 + 2 ^ 64 - 0) % 2 ^ 64 = 4 ∧ (4 : Nat) ≠ 0 ∧ (9 : GReg).val + 2 < 24 ∧ (2 : BitVec 4).toNat = (q 0 3).ew ∧ (3 : BitVec 4).toNat ≠ (q 0 3).ew := by
  intro s q
  refine ⟨⟨?_, ?_, ?_, ?_, ?_, ?_, ?_, ?_⟩, ?_, ?_, ?_, ?_⟩ <;> simp only [LocalData, Drained, Ordered, Queue.at, s, q] <;> decide +kernel

theorem wit_WaitingTaskTable : let s := tRegs [0, 0, 0, 5]
    let full := tState id fun k => { k with wt := Vector.replicate 16 (some tWait) }
    (s.curSlot.g.get 0).toNat % 4 < 2 ∧ (s.curSlot.g.get 0).setWidth 32 = counterAt s 0 1 ∧ ¬ ((s.curSlot.g.get 3).setWidth 32 : BitVec 32).toInt ≤ (counterAt s 0 1).toInt ∧
    (coreOf s 0).wt.get (0 : Fin 16) = none ∧ ((coreOf full 0).wt.get (15 : Fin 16)).isSome = true ∧ ((coreOf full 0).wt.get (0 : Fin 16)).isSome = true ∧
    2 ≤ ((tRegs [2]).curSlot.g.get 0).toNat % 4 ∧ (s.curSlot.g.get 3).toNat % 16 = (5 : Fin 16).val := by decide +kernel

end Sys2Proof.Tests
end

