-- ==== Sys2Proof/Tests/Witnesses3.lean ====
section
/-! SUPPORT. States and operands that meet the hypotheses of the claims on barriers, templates, futures, objects, graphs and the wide unit's arithmetic. -/

set_option Elab.async false

namespace Sys2Proof.Tests

open Sys2Proof Sys2Proof.Machine Sys2Proof.Machine.Claims

theorem wit_Barriers_arrive : let s := tRegs [0, 0, 1]
    actOf s 0 ≠ 4 ∧ (s.curSlot.g.get 2).toNat = 1 ∧ (barOf s 0 0 .core).2.1 ∉ (barAt s (.core 0)).arrived ∧ Drained s ∧ s.curSlot.t0 = none ∧
    (barAt (arriveAt s (.core 0) 0 1) (.core 0)).phase = (barAt s (.core 0)).phase + 1 ∧ (barOf s 0 0 .quad).2.2 = 1 ∧
    (barOf s 0 0 .quad).2.1 ∉ (barAt s (barOf s 0 0 .quad).1).arrived ∧ (barOf s 0 0 .core).1 = .core 0 ∧
    (barAt (arriveAt s (.core 0) 0 2) (.core 0)).phase = (barAt s (.core 0)).phase ∧ draining s 0 = false ∧ s.curSlot.mw = 0 := by
  intro s
  refine ⟨?_, ?_, ?_, ?_, ?_, ?_, ?_, ?_, ?_, ?_, ?_, ?_⟩ <;> simp only [Drained, s] <;> decide +kernel

theorem wit_Barriers_wait : let s (p : BitVec 32) (l : List Nat) : State := { tRegs [0, 0, 5, 6] with bars := [(.core 0, ⟨p, l, 2⟩)] }
    (barAt (s 1 []) (barOf (s 1 []) 0 0 .core).1).phase = ((s 1 []).curSlot.g.get 0).setWidth 32 + 1 ∧ (barAt (s 7 []) (.core 0)).phase ≠ (0 : BitVec 32) + 1 ∧
    (barAt (s 7 []) (.core 0)).phase ≠ 0 ∧ (barAt (s 5 []) (.core 0)).phase = ((s 5 []).curSlot.g.get 2).setWidth 32 ∧
    draining { s 5 [] with ctxs := [(0, tDraining)] } 0 = true ∧ draining (s 5 []) 0 = false ∧ 0 ∈ (barAt (s 5 [0]) (.core 0)).arrived ∧
    4 < ((s 5 []).curSlot.g.get 2).toNat ∧ ((s 5 []).curSlot.g.get 0).toNat = 0 := by decide +kernel

theorem wit_Barriers_memory : let s (w : Word) : State := { tRegs [0, 0x100, 7] with mem := tMem [(0x100, w)] }
    ((s 0xB500020000020007).curSlot.g.get 1).toNat % 8 = 0 ∧ LocalData (s 0xB500020000020007) 0x100 8 ∧ Clean (s 0xB500020000020007) (windowPa 0 0x100) 8 ∧
    Drained (s 0xB500020002000007) ∧ (rdNat (s 0xB500020002000007) (windowPa 0 0x100) 8 / 2 ^ 56 = 0xB5 ∧
      rdNat (s 0xB500020002000007) (windowPa 0 0x100) 8 / 2 ^ 24 % 65536 = 2) ∧ rdNat (s 0xB500020001000007) (windowPa 0 0x100) 8 / 2 ^ 24 % 65536 = 1 ∧
    rdNat (s 0xB400020001000007) (windowPa 0 0x100) 8 / 2 ^ 56 ≠ 0xB5 ∧ rdNat (s 0xB500020001000007) (windowPa 0 0x100) 8 % 2 ^ 24 = 7 ∧
    ((s 0xB500020000020007).curSlot.t0 = none ∧ (s 0xB500020000020007).curSlot.noted = [] ∧ draining (s 0xB500020000020007) 0 = false) ∧
    (coreOf (s 0xB500020000020007) 0).sb.length ≤ Config.storeBuffer := by
  intro s
  refine ⟨?_, ?_, ?_, ?_, ?_, ?_, ?_, ?_, ?_, ?_⟩ <;> try simp only [Drained, LocalData, Clean, Settled, Ordered, NoErrors, s]
  all_goals decide +kernel

theorem wit_Barriers_sync : let s := tState fun sl => { sl with t0 := some 7 }
    s.curSlot.t0 = some 7 ∧ (let u := tState fun sl => { sl with t0 := some 7, noted := [⟨0x100, windowPa 0 0x100, 8, .normal, 0, false⟩] }
      u.curSlot.t0 = some 7 ∧ u.curSlot.noted = [⟨0x100, windowPa 0 0x100, 8, .normal, 0, false⟩]) ∧ (BarKey.quad 0 0) ≠ BarKey.core 0 ∧
    0 ∉ (barAt tBase (.quad 0 0)).arrived ∧ actOf (tState id fun k => { k with act := some 4 }) 0 = 4 := by decide +kernel

theorem wit_Futures : let s (w : Word) : State := { tRegs [0, 0x100, 0x10020, 0x10021] with mem := tMem (if w = 0 then [] else [(0x100, w)]) }
    ((s 0).curSlot.g.get 1).toNat % 8 = 0 ∧ LocalData (s 0) 0x100 8 ∧ Clean (s 0) (windowPa 0 0x100) 8 ∧ Drained (s 0) ∧ ((s 0).curSlot.g.get 2).toNat % 32 = 0 ∧
    canonical ((s 0).curSlot.g.get 2) = true ∧ rdNat (s 0) (windowPa 0 0x100) 8 / 2 ^ 62 = 0 ∧ rdNat (s (1 <<< 62)) (windowPa 0 0x100) 8 / 2 ^ 62 = 1 ∧
    rdNat (s (2 <<< 62)) (windowPa 0 0x100) 8 / 2 ^ 62 = 2 ∧ rdNat (s (3 <<< 62)) (windowPa 0 0x100) 8 / 2 ^ 62 = 3 ∧ ((s 0).curSlot.g.get 3).toNat % 32 ≠ 0 ∧
    canonical 0x8000000000000000 = false ∧ (0x3FFFFFFFFFFFFFFF : Word).toNat < 2 ^ 62 ∧ 2 ^ 62 ≤ (0x4000000000000000 : Word).toNat := by
  intro s
  refine ⟨?_, ?_, ?_, ?_, ?_, ?_, ?_, ?_, ?_, ?_, ?_, ?_, ?_, ?_⟩ <;> try simp only [Drained, LocalData, Clean, Settled, Ordered, NoErrors, s]
  all_goals decide +kernel

theorem wit_Freezing : let s := tPrologue [0, 4, 0x2000, 0x2004, 0x100000000]
    (actOf s 0 ≠ 4 ∧ actOf s 0 < 4 ∧ s.curSlot.depth.toNat < 3 ∧ s.curSlot.role = .prologue) ∧ (∃ s1, read1 (.g 1) s = .ok (4, s1) ∧ s1 = s) ∧ (4 : Word).toNat < 2 ^ 32 ∧
    (s.curSlot.g.get 2).toNat % 8 = 0 ∧ tplCount s 0 < 4 ∧ (coreOf s 0).dq = [] ∧ (coreOf s 0).rots = [] ∧ Drained s ∧ (4 : Word) ≠ 0 ∧ [0].Nodup ∧
    tBase.curSlot.role ≠ .prologue ∧ 2 ^ 32 ≤ (s.curSlot.g.get 4).toNat ∧ (s.curSlot.g.get 3).toNat % 8 ≠ 0 ∧
    4 ≤ tplCount { modCore s 0 (fun k => { k with ctx := some 0 }) with tpls := [(1, tTpl), (2, tTpl), (3, tTpl), (4, tTpl)] } 0 := by
  refine ⟨?_, ⟨_, rfl, rfl⟩, ?_, ?_, ?_, ?_, ?_, ?_, ?_, ?_, ?_, ?_, ?_, ?_⟩ <;> try simp only [Drained]
  all_goals decide +kernel

theorem wit_LayoutsAndObjects_map : let s (t : Word) (l : NMap (List Word)) := tHome { tCtx with layout := l } fun sl => { sl with g := gs [0, t, 0x10000, 0, 0], t0 := some 0 }
    let r (s : State) : List Word := (List.range 3).map fun j => (s.curSlot.g[2 + j]?).getD 0
    layOk (r (s 15 [])) = true ∧ (s 15 []).curSlot.t0.isSome = true ∧ (15 : Word).toNat < tDesc.lcap.toNat ∧ tDesc.lcap.toNat ≤ (16 : Word).toNat ∧
    nget ([] : NMap (List Word)) 15 = none ∧ nget [(15, r (s 15 []))] 15 = some [0x10000, 0, 0] ∧ r (s 15 []) = [0x10000, 0, 0] ∧ [0x20000, 0, 0] ≠ r (s 15 []) ∧
    layOk [0x10040, 0, 0] = false ∧ tBase.curSlot.t0 = none := by decide +kernel

theorem wit_LayoutsAndObjects_object : let s := tObjects [0, 0x10100] [(0x100, 0x10100), (0x110, 77)]
    let h : Word := 0x10100
    ∃ s1 s2 s3 s4, s.curSlot.t0 = none ∧ (s.curSlot.g.get 1).toNat % 16 = 0 ∧ graphLoad 0x10100 s = .ok (h, s1) ∧ hdrValid s1 0 h = true ∧ h.getLsbD 8 = true ∧
      (0 : Word).toNat < h.toNat / 2 ^ 16 % 2 ^ 24 ∧ h.toNat / 2 ^ 16 % 2 ^ 24 ≤ (1 : Word).toNat ∧
      graphLoad (0x10100 + 16) (s1.onSlot fun x => { x with t0 := some h, pend := .none }) = .ok (77, s2) ∧
      resolveGraph (0x10100 + 16) 8 accBulkWr (s1.onSlot fun x => { x with t0 := some h, pend := .none }) = .ok ([gSeg 0x110 8], s3) ∧
      storeSeg (gSeg 0x110 8) 5 false s3 = .ok ((), s4) :=
  ⟨_, _, _, _, by decide +kernel, by decide +kernel, ran (by decide +kernel), by decide +kernel, by decide +kernel, by decide +kernel, by decide +kernel,
    ran (by decide +kernel), ran (by decide +kernel), ran (by decide +kernel)⟩

theorem wit_LayoutsAndObjects_bad : (∃ s1, graphLoad 0x10100 (tObjects [0, 0x10100] [(0x100, 0x10101)]) = .ok (0x10101, s1) ∧ hdrValid s1 0 0x10101 = false) ∧
    (∃ s1, graphLoad 0x10100 (tObjects [0, 0x10100] [(0x100, 0x10000)]) = .ok (0x10000, s1) ∧ hdrValid s1 0 0x10000 = true ∧ (0x10000 : Word).getLsbD 8 = false) ∧
    ((tRegs [0, 0x10108]).curSlot.g.get 1).toNat % 16 ≠ 0 :=
  ⟨⟨_, ran (by decide +kernel), by decide +kernel⟩, ⟨_, ran (by decide +kernel), by decide +kernel, by decide⟩, by decide +kernel⟩

theorem wit_LayoutsAndObjects_alloc : let s := tObjects [0, 0x10300, 1] [(0x300, 0x10400), (0x308, 0x10500)]
    let full := tObjects [0, 0x10300, 1] [(0x300, 0x10400), (0x308, 0x10410)]
    let rw : Acc := ⟨true, true, true⟩
    let looked (t : State) : State := t.onSlot fun x => { x with t0 := some 0x10400, noted := [gSeg 0x400 8, gSeg 0x408 16], pend := .none }
    (∃ r, layoutAt s 0 0 = some r ∧ layFits r 1 = true ∧ layFits r 2 = false) ∧ (coreOf s 0).sb.length ≤ Config.storeBuffer ∧ drainsDue (coreOf s 0) 0 = false ∧
    s.curSlot.noted = [] ∧ ∃ s1 s2 s3 s4 s5 s6 s7 s8 f1 f2,
      resolveGraph 0x10300 16 rw s = .ok ([gSeg 0x300 16], s1) ∧ rmwSeg (gSeg 0x300 16) (.bump 32 none) (.g 0) false s1 = .ok ([0x10400], s2) ∧
      resolveGraph 0x10400 8 accBulkWr s2 = .ok ([gSeg 0x400 8], s3) ∧ resolveGraph 0x10408 16 accBulkWr s3 = .ok ([gSeg 0x408 16], s4) ∧
      resolveGraph 0x10300 16 rw (looked s4) = .ok ([gSeg 0x300 16], s5) ∧ rmwSeg (gSeg 0x300 16) (.bump 32 (some 0x10400)) (.g 0) false s5 = .ok ([0x10400], s6) ∧
      storeBulk ((Alu.bytesOf 0x10100 8 ++ List.replicate 16 0).map some) false false none [gSeg 0x400 8, gSeg 0x408 16] s6 = .ok ((), s7) ∧
      rmwSeg (gSeg 0x300 16) (.bump 32 (some 0x10408)) (.g 0) false s5 = .ok ([2], s8) ∧
      resolveGraph 0x10300 16 rw full = .ok ([gSeg 0x300 16], f1) ∧ rmwSeg (gSeg 0x300 16) (.bump 32 none) (.g 0) false f1 = .ok ([0], f2) :=
  ⟨⟨_, rfl, by decide, by decide⟩, by decide +kernel, by decide +kernel, rfl, _, _, _, _, _, _, _, _, _, _, ran (by decide +kernel), ran (by decide +kernel),
    ran (by decide +kernel), (ran (by decide +kernel)), ran (by decide +kernel), (ran (by decide +kernel)), ran (by decide +kernel), ran (by decide +kernel),
    (ran (by decide +kernel)), ran (by decide +kernel)⟩

theorem wit_GraphWalks_start : let u : UnitId := ⟨200, 4000000, 0, 0⟩
    let w (w0 : Word) : List Word := (List.range 32).map fun j => word (rdNat (tGraph (tBlock w0) []) (windowPa 0 0x200 + 8 * j) 8)
    (∃ s1, openBlock u 0x10200 (tGraph (tBlock 0) []) = .ok ((gSeg 0x200 256, w 0), s1) ∧ ∃ s2, clearTables u (s1.nextId + 1) (w 0) s1 = .ok ((), s2) ∧ s2.gwalks = []) ∧
    (∃ s1, openBlock u 0x10200 (tGraph (tBlock 0x0370000000000000) []) = .ok ((gSeg 0x200 256, w 0x0370000000000000), s1)) ∧
    (w 0x0370000000000000).getD 0 0 = 0x0370000000000000 ∧ blockCheck 0x70 (w 0) = none ∧ blockCheck 0x72 ((w 0).set 2 1) = some (.illField, 0) ∧
    (let s := tGraph (tBlock 0) []; read1 .zr s = .ok (0, s) ∧ (s.curSlot.g.get 1).toNat % 256 = 0 ∧ actOf s 0 < 4 ∧ s.curSlot.mw = 0 ∧ myWalk s 0 0 0 = none ∧ draining s 0 = false) :=
  ⟨⟨_, uran (by decide +kernel), _, uran (by decide +kernel), by decide +kernel⟩, ⟨_, uran (by decide +kernel)⟩, by decide +kernel, by decide +kernel, by decide +kernel,
    rfl, by decide +kernel⟩

theorem wit_GraphWalks_drain : let s := { tGraph (tBlock 0x0170000000000000) [] with ctxs := [(0, tDraining)] }
    let u : UnitId := ⟨200, 4000000, 0, 0⟩
    let w : List Word := (List.range 32).map fun j => word (rdNat s (windowPa 0 0x200 + 8 * j) 8)
    draining s s.curSlot.ctx = true ∧ Drained s ∧ (w.getD 0 0).toNat / 2 ^ 56 = 1 ∧
    (∃ s1, openBlock u 0x10200 s = .ok ((gSeg 0x200 256, w), s1) ∧ myWalk s1 0 0 0 = none) ∧
    ∃ f, openBlock u 0x10200 { s with unitTlb := [] } = .error (.walk f) ∧ myWalk (f { s with unitTlb := [] }) 0 0 0 = none := by
  refine ⟨by decide +kernel, by simp only [Drained]; decide +kernel, by decide +kernel, ⟨_, uran (by decide +kernel), by decide +kernel⟩, _, rfl, by decide +kernel⟩

theorem wit_GraphWalks_end : let s := tGraph [(0x220, 0x10400), (0x228, 4)] [tWalk 0x70]
    let w (j : Nat) : Nat := rdNat s (windowPa 0 0x200 + 8 * j) 8
    myWalk s 0 0 0 = some (tWalk 0x70) ∧ draining s 0 = false ∧ (tWalk 0x70).fix = 0 ∧ (tWalk 0x70).unit.isSome = true ∧ (tWalk 0x70).phase = 0 ∧ w 9 = w 8 ∧ w 1 = 0 ∧
    (∃ r' : GRun, fixCopies ⟨s, (List.range 32).map fun j => word (w j), tWalk 0x70⟩ = (.ok (), r')) ∧
    (let g : GWalk := { tWalk 0x72 with fix := 3 * 256 + 1, hst := [3] }; myWalk (tGraph [] [g]) 0 0 0 = some g ∧ g.hst.headD 3 = word 3) :=
  ⟨by decide +kernel, by decide +kernel, rfl, rfl, rfl, by decide +kernel, by decide +kernel, ⟨_, gran (by decide +kernel)⟩, by decide +kernel⟩

theorem wit_GraphWalks_land : let x := tStream [[0x100]] none
    let y := tStream [] (some 0)
    (∃ s1, (tLanding x).streams.find? (fun y => y.inbox ≠ []) = some x ∧ receiveObject (streamUid x) x (x.inbox.headD []) (tLanding x) = .ok (false, s1)) ∧
    (∃ s1, (tLanding y).streams.find? (fun y => y.inbox = [] && y.ended.isSome) = some y ∧ finishStream (streamUid y) y (y.ended.getD 0) (tLanding y) = .ok (false, s1)) ∧
    y.qp = none ∧ (∀ z ∈ (tLanding y).streams, z.inbox = []) ∧ (∀ z ∈ (tLanding x).streams, z.inbox ≠ [] ∨ z.ended = none) :=
  ⟨⟨_, by decide +kernel, uran (by decide +kernel)⟩, ⟨_, by decide +kernel, uran (by decide +kernel)⟩, rfl, by decide +kernel, by decide +kernel⟩

theorem wit_WideRegisterFile : let s := tWideState
    let free : List (Fin 192) := (List.finRange 192).filter fun p => !((quadAt s 0).pregs.get p).used
    actOf s 0 < 5 ∧ s.curSlot.w.get 0 = .unmapped ∧ s.curSlot.w.get 1 = .priv 0 ∧ s.curSlot.w.get 3 = .shared 2 ∧ free.head? = some 5 ∧ ((quadAt s 0).pregs.get 2).used = true ∧
    ((List.finRange 192).filter fun p => !((quadAt (tQuad tBase fun q => { q with pregs := Vector.replicate 192 tWide }) 0).pregs.get p).used) = [] := by decide +kernel

theorem wit_WideRegisterFile_retire : let r : Retire := ⟨false, 0, 0, 1, some (2, 7, false), none, none, false, [], 0⟩
    let s := tState id fun k => { k with dq := [r] }
    (coreOf s 0).dq = r :: [] ∧ r.matrix = false ∧ r.rot = false ∧ r.doom = none ∧ r.slot < 5 ∧ 0 < 4 ∧ (0 : Nat) = ((quadAt s 0).rrCore + 0) % 4 ∧
      (∃ s1, read1 (.g 1) s = .ok (0, s1)) :=
  ⟨rfl, rfl, rfl, rfl, by decide, by decide, rfl, _, rfl⟩

theorem wit_WideRegisterFile_rotated : let r : Retire := ⟨true, 0, 0, 0, none, none, none, true, [], 0⟩
    let s := tState id fun k => { k with dq := [r] }
    (coreOf s 0).dq = r :: [] ∧ r.matrix = true ∧ (coreOf s 0).rots = [] ∧ r.doom = none ∧ (0 : Nat) = ((quadAt s 0).rrMat + 0) % 4 :=
  ⟨rfl, rfl, rfl, rfl, rfl⟩

theorem wit_WideArithmetic : let s := tWideState
    (∃ l f s1, secondOp .i8 (.reg 2) s = .ok ((l, f), s1) ∧ s1 = s) ∧ Room s ∧ Claims.Joined [wideAt s 1, wideAt s 2] none ∧ Claims.Joined [wideAt s 1, wideAt s 4] (some 2) ∧
    (∀ x, ¬ Claims.Joined [wideAt s 4, wideAt s 5] x) ∧ WideReady s 1 ∧ WideReady s 0 :=
  ⟨⟨_, _, _, rfl, rfl⟩, by unfold Room; decide +kernel, by unfold Claims.Joined; decide +kernel, by unfold Claims.Joined; decide +kernel,
    (fun x h => by
      have h1 := h.1 (wideAt tWideState 4) (by simp)
      have h2 := h.1 (wideAt tWideState 5) (by simp)
      have e1 : (wideAt tWideState 4).tag = some 2 := by decide +kernel
      have e2 : (wideAt tWideState 5).tag = some 3 := by decide +kernel
      rw [e1] at h1; rw [e2] at h2
      simp at h1 h2
      rw [← h1] at h2; cases h2),
    .inl ⟨0, by decide +kernel⟩, .inr ⟨5, by decide +kernel⟩⟩

theorem wit_WideArithmetic_elements : Written .i32 0x1 true 0 (fun i => i + 5) 5 ∧ Written .f32 (BitVec.allOnes 64) false 7 (fun i => if i = 2 then 9 else 0) (9 <<< 64) := by
  unfold Written
  decide +kernel

theorem wit_WideCompareReduce : let s := tWideState
    (∃ l f s1, secondOp .i32 (.reg 2) s = .ok ((l, f), s1) ∧ s1 = s) ∧ Room s ∧ (∀ x ∈ [wideAt s 1, wideAt s 2], x.tag = none ∧ x.poison = false) ∧ (1 : KReg) ≠ 0 ∧
    (∃ x ∈ [wideAt s 4, wideAt s 2], x.tag ≠ none) ∧ etInt .i32 = true ∧ etInt .f32 = false ∧ (wideAt s 1).tag = none ∧ (wideAt s 4).tag ≠ none ∧
    WideReady s 1 :=
  ⟨⟨_, _, _, rfl, rfl⟩, by unfold Room; decide +kernel, by decide +kernel, by decide, ⟨wideAt tWideState 4, by simp, by decide +kernel⟩, rfl, rfl, by decide +kernel, by decide +kernel,
    .inl ⟨0, by decide +kernel⟩⟩

end Sys2Proof.Tests
end

