-- ==== Sys2Proof/Tests/Witnesses4.lean ====
section
/-! SUPPORT. States and operands that meet the hypotheses of the claims on the wide unit's memory, furled tensors, the matrix unit and copy engines. -/

set_option Elab.async false

namespace Sys2Proof.Tests

open Sys2Proof Sys2Proof.Machine Sys2Proof.Machine.Claims

theorem wit_WideMovesAndMasks : let s := tWideState
    (∃ s1, read1 (.g 1) s = .ok (0, s1)) ∧ Room s ∧ (wideAt s 1).tag = none ∧ (wideAt s 4).tag ≠ none ∧ Claims.Joined [wideAt s 1, wideAt s 2] none ∧
    Written .i32 0x1 true 0 (fun i => i + 5) 5 ∧ (∀ i : Fin 64, (0x7 : Word).getLsbD i.val = decide (i.val < (3 : Word).toNat)) ∧
    WideReady s 1 :=
  ⟨⟨_, rfl⟩, by unfold Room; decide +kernel, by decide +kernel, by decide +kernel, by unfold Claims.Joined; decide +kernel, by unfold Written; decide +kernel, by decide +kernel,
    .inl ⟨0, by decide +kernel⟩⟩

theorem wit_WideMovesAndMasks_first : let s := tState fun sl => { sl with k := sl.k.set 1 0x8000000000000000 }
    (s.curSlot.mask 1).getLsbD 63 = true ∧ (∀ i : Fin 63, (s.curSlot.mask 1).getLsbD i.val = false) ∧ s.curSlot.mask 2 = 0 := by decide +kernel

theorem wit_WideConversion : let s := tWideState
    let k := coreOf s 0
    Room s ∧ ((Num.fmtOfCode 0x00).getD .fp32 = .fp32) ∧ ((Num.fmtOfCode 0x19).getD .fp32 = .dt 1) ∧ (k.dt.get (1 : Fin 4)).status ≠ 0 ∧ Claims.Joined [wideAt s 1] none ∧
    2048 / Num.fmtPlace .fp32 = 64 ∧ WideReady s 1 :=
  ⟨by unfold Room; decide +kernel, by decide +kernel, by decide +kernel, by decide +kernel, by unfold Claims.Joined; decide +kernel, by decide +kernel,
    .inl ⟨0, by decide +kernel⟩⟩

theorem wit_WideConversion_same : let k := coreOf tWideState 0
    let conv (e : Nat) := Num.encodeFmt k.dt .uint8 .rne true (Num.srTop (srAt .rne k.srst (e + 1))) (Num.decodeFmt k.dt .uint8 (elem 8 (wideAt tWideState 0).data e))
    ∀ i : Fin 256, elem 8 0 i.val = (conv i.val).1.toNat % 2 ^ 8 := by decide +kernel

theorem wit_WideConversion_table : let s := tRegs [0, 0x400, 0x402]
    (∃ s1, read1 (.g 1) s = .ok (0x400, s1) ∧ LocalData s1 0x400 1024 ∧ Clean s1 (windowPa 0 0x400) 1024 ∧ Room s1) ∧ (0x400 : Word).toNat % 4 = 0 ∧
    (∃ s1, read1 (.g 2) s = .ok (0x402, s1)) ∧ (0x402 : Word).toNat % 4 ≠ 0 :=
  ⟨⟨_, rfl, by unfold LocalData; decide +kernel, by unfold Clean Settled Ordered NoErrors; exact ⟨by decide +kernel, fun j hj => by
      have : ∀ j : Fin 1024, fwdPoison (tRegs [0, 0x400, 0x402]) (coreOf (tRegs [0, 0x400, 0x402]) 0) (windowPa 0 0x400 + j.val) = false := by decide +kernel
      exact this ⟨j, hj⟩⟩, by unfold Room; decide +kernel⟩, by decide, ⟨_, rfl⟩, by decide⟩

theorem wit_WideMemory : let s : State := { tWideState with cores := [(0, tCore id fun sl =>
      { sl with g := gs [0, 0x400], w := (sl.w.set 1 (.priv 0)).set 4 (.priv 3), k := sl.k.set 1 1, spillN := 4, carveBase := 0x10000, carveSize := 0x2000 })] }
    Room s ∧ LocalData s 0x400 256 ∧ Settled s (windowPa 0 0x400) 256 ∧ (wideAt s 0).tag = none ∧ LocalData s 0x401 4 ∧ (wideAt s 4).tag ≠ none ∧
    (3 : Fin 16).val < s.curSlot.spillN.toNat ∧ stkTop s.curSlot + 256 * (3 : Fin 16).val + 256 ≤ 0x18000 ∧ (s.curSlot.mask 1).getLsbD 0 = true ∧ (0x401 : Word).toNat % 4 ≠ 0 ∧
    ((coreOf s 0).sb.length ≤ Config.storeBuffer ∧ drainsDue (coreOf s 0) (actOf s 0) = false) ∧ WideReady s 1 ∧ Loaded s (fun i => windowPa 0 0x400 + i) (fun _ => true) true 7 0 := by
  intro s
  refine ⟨?_, ?_, ?_, ?_, ?_, ?_, ?_, ?_, ?_, ?_, ?_, .inl ⟨0, ?_⟩, fun j hj => ?_⟩
  · simp only [Room, s]; decide +kernel
  · simp only [LocalData, s]; decide +kernel
  · simp only [Settled, Ordered, NoErrors, s]; decide +kernel
  · decide +kernel
  · simp only [LocalData, s]; decide +kernel
  iterate 7 decide +kernel
  have : ∀ j : Fin 256, elem 8 0 j.val = (rdByte s (windowPa 0 0x400 + j.val)).toNat := by decide +kernel
  simpa using this ⟨j, hj⟩

theorem wit_FurledAccess_refused : (∃ s1, resolveAny false 0x410 256 accBulkRd (tFurled 4 []) = .ok ([{ fSeg with va := 0x410, pa := windowPa 0 0x410 }], s1) ∧
      ({ fSeg with va := 0x410, pa := windowPa 0 0x410 } : Seg).furled s1 = true ∧ ({ fSeg with va := 0x410, pa := windowPa 0 0x410 } : Seg).allFurled s1 = false) ∧
    (∃ s1 s2, resolveAny false 0x400 256 accBulkRd tBase = .ok ([fSeg], s1) ∧ fSeg.furled s1 = false ∧ wideLoad 1 0x400 0 true false s1 = .ok (.next, s2) ∧
      ∃ s3, wwrite 1 ⟨(wideAt s2 1).data, none, (wideAt s2 1).poison⟩ s2 = .ok ((), s3)) ∧
    (∃ s1 s2, resolveAny false 0x400 256 accBulkWr tWideState = .ok ([fSeg], s1) ∧ fSeg.furled s1 = false ∧ wideStore 1 none 0x400 0 false false s1 = .ok (.next, s2)) ∧
    (∃ s1, resolveAny false 0x400 256 accBulkRd (tFurled 0 []) = .ok ([fSeg], s1) ∧ fSeg.furled s1 = true ∧ fSeg.allFurled s1 = true ∧ furlOf s1 fSeg = some (2, 0x200000) ∧
      bound s1 (tFurled 0 []).curSlot 2 = false) ∧ etPermitted tKey .f32 = false :=
  ⟨⟨_, ran (by decide +kernel), by decide +kernel, by decide +kernel⟩, ⟨_, _, ran (by decide +kernel), by decide +kernel, ran (by decide +kernel), _, ran (by decide +kernel)⟩,
    ⟨_, _, ran (by decide +kernel), by decide +kernel, ran (by decide +kernel)⟩, ⟨_, ran (by decide +kernel), by decide +kernel⟩, by decide +kernel⟩

theorem wit_FurledAccess_bad : ∃ s1 s2 s3, resolveAny false 0x400 256 accBulkRd (tFurled 4 []) = .ok ([fSeg], s1) ∧ bound s1 (tFurled 4 []).curSlot 2 = true ∧
    (keyAt s1 2).inWindow 0x200000 256 = true ∧ etPermitted (keyAt s1 2) .i32 = true ∧ (wideAt s1 1).tag = none ∧ Room s1 ∧
    readGranule fSeg 2 0x200000 s1 = .ok (.badTag, s2) ∧ wwrite 1 ⟨0, some 2, true⟩ s2 = .ok ((), s3) ∧ fSeg.pastQ s1 = false :=
  ⟨_, _, _, ran (by decide +kernel), by decide +kernel, by decide +kernel, by decide +kernel, by decide +kernel, by unfold Room; decide +kernel, ran (by decide +kernel),
    ran (by decide +kernel), by decide +kernel⟩

theorem furled_read : readBulk [fSeg] (tFurled 4 tTag) = .ok (List.replicate 256 (0, false), stOf (readBulk [fSeg] (tFurled 4 tTag))) := ran (by decide +kernel)

theorem furled_tag : (let s := stOf (readBulk [fSeg] (tFurled 4 tTag))
    fwdBytes s (coreOf s s.cur) (tagPa (keyAt s 2) 0x200000) 16 = [212, 238, 236, 248, 189, 245, 153, 36, 170, 89, 57, 66, 27, 69, 210, 152] ∧ keyAt s 2 = tKey ∧
    fwdAny s (coreOf s s.cur) (tagPa (keyAt s 2) 0x200000) 16 = false) := by decide +kernel

/-- A granule under one key. -/
theorem readGranule_one {g : Seg} {ky v : Nat} {s t : State} {b : List (Byte × Bool)} (h : readBulk [g] s = .ok (b, t))
    (hk : (furlKeys t g).filter (fun x => x ≠ (ky, v)) = []) : readGranule g ky v s = .ok (decryptGranule (keyAt t ky) v (b.map (·.1))
      (b.any (·.2) || fwdAny t (coreOf t t.cur) (tagPa (keyAt t ky) v) 16) (fwdBytes t (coreOf t t.cur) (tagPa (keyAt t ky) v) 16), t) := by
  refine (bind_ok h).trans ?_
  change Except.ok ((if ((furlKeys t g).filter fun x => x ≠ (ky, v)).any _ then _ else _), t) = _
  rw [hk]
  rfl

theorem wit_FurledAccess_clear : ∃ pt s2 s3, readGranule fSeg 2 0x200000 (tFurled 4 tTag) = .ok (Granule.clear pt, s2) ∧ wwrite 1 ⟨9, some 2, false⟩ s2 = .ok ((), s3) := by
  obtain ⟨h1, h2, h3⟩ := furled_tag
  refine ⟨Crypto.xts false 3 (0x200000 / 256) (List.replicate 256 0), stOf (readBulk [fSeg] (tFurled 4 tTag)), _, ?_, ran (by decide +kernel)⟩
  have hk : (furlKeys (stOf (readBulk [fSeg] (tFurled 4 tTag))) fSeg).filter (fun x => x ≠ (2, 0x200000)) = [] := by decide +kernel
  rw [readGranule_one furled_read hk]
  rw [h2] at h1 h3 ⊢
  rw [h1, h3]
  have hr : (List.replicate 256 ((0 : Byte), false)).map (·.1) = List.replicate 256 0 := by decide +kernel
  have hn : (List.replicate 256 (0 : Byte)).map (·.toNat) = List.replicate 256 0 := by decide +kernel
  have ha : ((List.replicate 256 ((0 : Byte), false)).any (·.2) || false) = false := by decide +kernel
  rw [hr, ha]
  unfold decryptGranule
  simp only [hn]
  rw [if_neg (by decide), if_neg (by simp only [tKey, gmac_zeros]; decide)]
  rfl

theorem readGranule_poisoned {g : Seg} {ky v : Nat} {s t : State} {b : List (Byte × Bool)} (h : readBulk [g] s = .ok (b, t))
    (hk : (furlKeys t g).filter (fun x => x ≠ (ky, v)) = []) (ha : b.any (·.2) = true) : ∃ pt s2, readGranule g ky v s = .ok (Granule.poisoned pt, s2) := by
  refine ⟨Crypto.xts false (keyAt t ky).xts (v / 256) ((b.map (·.1)).map (·.toNat)), t, ?_⟩
  rw [readGranule_one h hk, ha, Bool.true_or]
  rfl

theorem wit_FurledAccess_poisoned : ∃ pt s2, readGranule fSeg 2 0x200000 { tFurled 4 [] with poison := [0x200000000080] } = .ok (Granule.poisoned pt, s2) := by
  have h : (okVal (readBulk [fSeg] { tFurled 4 [] with poison := [0x200000000080] })).any (fun b => b.any (·.2)) = true := by decide +kernel
  obtain ⟨b, hb, ha⟩ := (Option.any_eq_true _ _).1 h
  exact readGranule_poisoned (ran hb) (by decide +kernel) ha

theorem wit_FurledAccess_bind : let s := tBinding
    (s.curSlot.g.get 1).toNat < 64 ∧ (keyAt s 2).st = .loaded ∧ ((keyAt s 2).ctx = s.curSlot.ctx ∧ (keyAt s 2).lists s.curSlot.meas = true ∧ s.curSlot.up = false) ∧
    64 ≤ (s.curSlot.g.get 4).toNat ∧ (keyAt s 3).st ≠ .loaded ∧ (keyAt s 2).ctx ≠ 1 ∧ (s.curSlot.g.get 2).toNat % 256 = 0 ∧ (s.curSlot.g.get 3).toNat % 256 = 0 ∧
    (s.curSlot.g.get 4).toNat % 256 ≠ 0 ∧ (coreOf s 0).dq = [] ∧ ∃ s1, rangePages 2 (0x100 / 4096 + 2) 0x200100 0x100 s = .ok ([⟨0x200100, windowPa 0 0x100, 0x100, .furled, 2, true⟩], s1) ∧
      ownerOf s1.hdm (windowPa 0 0x100) = .slice s.cur (0x100 + ((0x200100 : Word).toNat - 0x200100)) ∧ 0x100 + 0x100 ≤ qbaseOf s1 s.cur ∧ (coreOf s1 s.cur).furl = [] := by
  refine ⟨?_, ?_, ?_, ?_, ?_, ?_, ?_, ?_, ?_, ?_, _, ran (by decide +kernel), ?_⟩ <;> decide +kernel

/-- A page that is not furled, and a page of which a part lies outside the key's window. -/
theorem wit_FurledAccess_mixed : (∃ s1, lookup 0x10100 { tBinding with cores := [(0, { coreOf tBinding 0 with utlb := [tEntry] })] } = .ok (tEntry, s1) ∧ tEntry.mt ≠ .furled) ∧
    (let e : TlbEntry := { tPage with vpage := 0x1FF000 }
      ∃ s1, lookup 0x1FF000 { tBinding with cores := [(0, { coreOf tBinding 0 with utlb := [e] })] } = .ok (e, s1) ∧ e.key = 2 ∧ (keyAt s1 2).inWindow 0x1FF000 4096 = false) :=
  ⟨⟨_, ran (by decide +kernel), by decide⟩, _, ran (by decide +kernel), by decide, by decide +kernel⟩

theorem wit_MatrixSetUp_control : let s := tTiles { owner := some (0, 0) }
    Room s ∧ operandClass (0x505 % 32) = some 8 ∧ operandClass (0x505 / 256 % 32) = some 8 ∧ (0x505 : Nat) / 32 % 8 = 0 ∧ operandClass (0x500 % 32) = none ∧
    (∀ m : Fin 4, GoodOp (0x12033012 / 2 ^ (16 * m.val) % 65536)) ∧ ¬ GoodOp (0x8000 % 65536) ∧ (tileAt s 0).owner = none ∧ (tileAt s 1).giving = false ∧
    (tileAt s 1).owner = some (actOf s 0, s.curSlot.task) ∧ (tileAt s 0).owner ≠ some (actOf s 0, s.curSlot.task) ∧ (∀ m : Fin 64, elem 32 0 m.val = tileElem (tileAt s 1).data (64 * 15 + m.val)) ∧
    WideReady s 1 ∧ (coreOf s 0).dq = [] ∧ (coreOf s 0).sb = [] ∧ (coreOf s 0).rots = [] := by
  refine ⟨by unfold Room; decide +kernel, by decide +kernel, by decide +kernel, by decide +kernel, by decide +kernel, ?_, ?_, by decide +kernel, by decide +kernel, (by decide +kernel),
    by decide +kernel, by decide +kernel, .inr ⟨0, by decide +kernel⟩, by decide +kernel, by decide +kernel, by decide +kernel⟩ <;> unfold GoodOp <;> decide +kernel

theorem wit_MatrixSetUp_waits : let s := tTiles { owner := some (1, 5) }
    let r : Retire := ⟨true, 0, 0, 0, none, none, some 1, false, [], 0⟩
    (tileAt s 1).owner = some (1, 5) ∧ (1, 5) ≠ (actOf s 0, s.curSlot.task) ∧ (tileAt s 1).giving = false ∧ actOf s 0 < 4 ∧ s.curSlot.mw = 0 ∧ Room s ∧
    (let u := tTiles { owner := some (0, 0) } fun k => { k with dq := [r] };
      r ∈ (coreOf u 0).dq ∧ r.matrix = true ∧ r.task = u.curSlot.task ∧ r.tile = some 1 ∧ Room u) := by
  refine ⟨?_, ?_, ?_, ?_, ?_, ?_, ?_⟩ <;> try simp only [Room]
  all_goals decide +kernel

theorem wit_MatrixSetUp_transfer : let s := tTiles { owner := some (0, 0) }
    let sh := shapeOf (coreOf s 0).mctx
    Room s ∧ Stride 0 sh.row 16 32 ∧ sh.row = 32 ∧ sh.K = 64 ∧ sh.ns = 0 ∧ LocalData s 0x400 (64 * 32) ∧ Settled s (windowPa 0 0x400) (64 * 32) ∧ Stride 0 128 8 128 ∧
    Stride 0x100000000 128 8 0x100000000 = False ∧ (s.curSlot.g.get 1).toNat % 8 = 0 ∧ Num.fmtOfCode 0x00 = some .fp32 ∧ Num.fmtOfCode 0x01 = some .bf16 ∧
    ((tileAt s 1).tag = none ∧ (coreOf s 0).rots = [] ∧ drainsDue (coreOf s 0) (actOf s 0) = false ∧ (coreOf s 0).sb.length ≤ Config.storeBuffer) ∧ (tileAt (tTiles { owner := some (0, 0), tag := some 2 }) 1).tag ≠ none ∧ (tileAt s 1).owner = some (actOf s 0, s.curSlot.task) := by
  refine ⟨by unfold Room; decide +kernel, by unfold Stride; decide +kernel, by decide +kernel, by decide +kernel, by decide +kernel, by unfold LocalData; decide +kernel,
    by unfold Settled Ordered NoErrors; decide +kernel, by unfold Stride; decide +kernel, ?_, by decide +kernel, by decide +kernel, (by decide +kernel), by decide +kernel, by decide +kernel, (by decide +kernel)⟩
  unfold Stride
  simp

theorem wit_MatrixSetUp_latch : let s := tTiles { owner := some (0, 0) }
    let L : Latch := Latch.reset
    L.tag = none ∧ L.full = false ∧ L.poison = (rowsBad s (windowPa 0 0x400) 64 32 32 || rowsBad s (windowPa 0 0x400 + 64 * 32) 1 0 0) ∧
    (∀ m : Fin 128, L.scales.toNat / 256 ^ m.val % 256 = 0x7F) ∧ (∀ m : Fin 64, ∀ i : Fin 32, (rdByte s (windowPa 0 0x400 + m.val * 32 + i.val)).toNat = 0) ∧ L.data = 0 := by
  decide +kernel

theorem wit_MatrixCompute_rotate : let s := tRegion 64
    s.curSlot.launch = some 1 ∧ nget s.launches 1 = some { tLaunch with rlen := 64 } ∧ (coreOf s 0).rots = [] ∧ (coreOf s 0).latch.tag = none ∧ Room s ∧
    (∀ x, (x / 1536 = 0 / 1536 ∧ x % 1536 / (32 / 2 ^ (0 : BitVec 3).toNat) = 0 % 1536 / (32 / 2 ^ (0 : BitVec 3).toNat)) → 0 ≤ x ∧ x < 0 + 64) ∧
    (let x := 31; x / 1536 = 0 ∧ x % 1536 / 32 = 0 ∧ ¬ x < 16) := by
  refine ⟨rfl, rfl, by decide +kernel, by decide +kernel, by unfold Room; decide +kernel, ?_, by decide⟩
  intro x h
  have h1 := h.1
  have h2 := h.2
  simp at h1 h2
  omega

theorem wit_MatrixCompute_ring : let s (d : Bool) (f : Bool) : State := { State.reset with cores := [(0, { Core.reset with rots := [tRot d], recv := { Latch.reset with full := f } }), (1, { Core.reset with recv := { Latch.reset with full := f } })] }
    (coreOf (s true false) 0).rots = [tRot true] ∧ (tRot true).sendDue = true ∧ (tRot true).next ≠ 0 ∧ (coreOf (s true false) 1).recv.full = false ∧
    (coreOf (s true true) 1).recv.full = true ∧ (tRot false).sendDue = false ∧ (coreOf (s false true) 0).recv.full = true ∧ (coreOf (s false false) 0).recv.full = false := by
  decide +kernel

theorem wit_MatrixCompute_multiply : let s := tTiles { owner := some (0, 0) }
    let t := { s with cores := [(0, { coreOf s 0 with slots := (coreOf s 0).slots.set 0 { s.curSlot with tplBase := 0x500 } })] }
    let len := 31 * 64 + 64
    Stride 0 64 64 64 ∧ (s.curSlot.g.get 1).toNat % 64 = 0 ∧ (coreOf s 0).mctx.getLsbD 16 = false ∧ LocalData s 0x400 len ∧ Settled s (windowPa 0 0x400) len ∧
    0x400 + len ≤ s.curSlot.tplBase.toNat ∧ (tileAt s 1).owner = some (actOf s 0, s.curSlot.task) ∧ (coreOf s 0).rots = [] ∧ (coreOf s 0).latch.tag = none ∧ (tileAt s 1).tag = none ∧ Room s ∧
    0x400 + len ≤ 2 ^ 64 ∧ t.curSlot.tplBase.toNat < 0x400 + len ∧ nan32 0x3F800000 = false := by
  intro s t len
  refine ⟨?_, ?_, ?_, ?_, ?_, ?_, ?_, ?_, ?_, ?_, ?_, ?_, ?_, ?_⟩ <;> try simp only [Stride, LocalData, Settled, Ordered, NoErrors, Room, s, t, len]
  all_goals decide +kernel

theorem wit_MatrixCompute_result : let s := tTiles { owner := some (0, 0) }
    product false (shapeOf (coreOf s 0).mctx).G (operandsAt s (windowPa 0 0x400) 64) 0 0 0 = 0 ∧
    recurrence false 1 (coreOf s 0).mprog (operandsAt s (windowPa 0 0x400) 64) 0 0 0 = 0 := by decide +kernel

theorem wit_EngineAccess : let s := tEngine id
    (∃ x, nget s.ctxs s.curSlot.ctx = some x ∧ nget x.handles (s.curSlot.engMap.toNat % 4096 + 0) = some (.engine 0 3)) ∧ 0 < s.curSlot.engMap.toNat / 2 ^ 16 % 128 ∧
    ¬ 1 < s.curSlot.engMap.toNat / 2 ^ 16 % 128 ∧ (chanAt s (chanKey 0 3)).cmds.length < 32 ∧ (chanAt s (chanKey 0 3)).results = [] ∧ actOf s 0 < 4 ∧ s.curSlot.mw = 0 ∧
    draining s s.curSlot.ctx = false ∧ (chanAt s (chanKey 0 3)).pops = [] ∧ (chanAt s (chanKey 0 3)).held = [] ∧ (chanAt s (chanKey 0 3)).exec = [] ∧
    (∀ e ∈ s.chans, ∀ q ∈ e.2.pops, q ≠ ⟨0, 0, 0, 1⟩) :=
  ⟨⟨_, rfl, by decide +kernel⟩, by decide +kernel⟩

theorem wit_EngineAccess_results : let p : APop := ⟨0, 0, 0, 1⟩
    let k (s : State) := chanAt s (chanKey 0 3)
    (let t := tEngine fun k => { k with results := [(5, 6)] }; (k t).results.drop (k t).pops.length = (5, 6) :: [] ∧ (k t).results = (5, 6) :: [] ∧ (k t).pops = []) ∧
    (let t := tEngine fun k => { k with results := [(7, 8), (5, 6)], pops := [p] }; (k t).results.drop (k t).pops.length = (5, 6) :: [] ∧ (k t).pops = p :: [] ∧
      (k t).results = (7, 8) :: [(5, 6)] ∧ p ∈ (k t).pops ∧ (slotAt t 0 0).task = 0) ∧
    (let t := tEngine fun k => { k with held := [(5, 6)] }; (k t).held = (5, 6) :: [] ∧ (k t).results.length < 32 ∧ (k t).pops = []) ∧
    (let t := tEngine fun k => { k with held := [(5, 6)], pops := [p] }; (k t).held = (5, 6) :: [] ∧ (k t).results = [] ∧ (k t).pops = p :: []) ∧
    (let t := tEngine fun k => { k with held := [(5, 6)], results := List.replicate 32 (1, 2) }; (k t).held = (5, 6) :: [] ∧ 32 ≤ (k t).results.length) := by decide +kernel

/-- A full command FIFO and no result, for a task of an L slot, in a masked window, in a drain, and for one of the H slot. -/
theorem wit_EngineAccess_waits : let full (s : State) : State := { s with chans := [(chanKey 0 3, ⟨0, List.replicate 32 (tCopy 0 0 8), [], [], [], [⟨0, 0, 0, 1⟩]⟩)] }
    let x : Context := { tCtx with handles := [(0, .engine 0 3)] }
    let m := full (tHome x fun sl => { sl with engMap := 0x10000, mw := 3 })
    let d := full (tHome { x with drain := some 0 } fun sl => { sl with engMap := 0x10000 })
    let h := full (tHome x id fun k => { k with act := some 4, slots := k.slots.set 4 { Slot.reset with st := .ready, engMap := 0x10000 } })
    (∀ s ∈ [full (tEngine id), m, d, h], (chanAt s (chanKey 0 3)).cmds.length = 32 ∧ (chanAt s (chanKey 0 3)).results.length ≤ (chanAt s (chanKey 0 3)).pops.length ∧
      0 < s.curSlot.engMap.toNat / 2 ^ 16 % 128 ∧ (nget s.ctxs s.curSlot.ctx).bind (fun x => nget x.handles (s.curSlot.engMap.toNat % 4096 + 0)) = some (.engine 0 3)) ∧
    (⟨0, 0, 0, 1⟩ : APop) ∈ (chanAt d (chanKey 0 3)).pops ∧ actOf m 0 < 4 ∧ m.curSlot.mw ≠ 0 ∧ actOf d 0 < 4 ∧ d.curSlot.mw = 0 ∧ draining d d.curSlot.ctx = true ∧ actOf h 0 = 4 := by
  decide +kernel

theorem wit_EngineCommands_start : let c : Cmd := ⟨1, [0x0102000000000000, 0x10100, 0x10200, 0, 1, 0, 0, 0], 0, ⟨0, 0, 0, 0⟩, 0, 0⟩
    let s := tEngine fun k => { k with cmds := [c] }
    (∀ m : Fin 64, (chanAt s (chanKey 0 m.val)).exec = [] ∧ (chanAt s (chanKey 0 m.val)).held = []) ∧ (∀ m : Fin 64, m.val ≠ 3 → (chanAt s (chanKey 0 m.val)).cmds = []) ∧
    ((chanAt s (chanKey 0 3)).results.length < 32 ∧ (chanAt s (chanKey 0 3)).pops = []) ∧
    ctxRuns s 0 = true ∧ nget s.engines 0 = some ⟨1, 63, false⟩ ∧ c ∈ (chanAt s (chanKey 0 3)).cmds ∧ c.word 0 / 2 ^ 56 = 1 ∧ (∀ e ∈ (chanAt s (chanKey 0 3)).cmds, e.bit 48 = false) ∧
    (chanAt s (chanKey 0 3)).cmds.head? = some c ∧ pusherDone s c = true ∧ c.check = some (0x02, 0, 0) ∧ c.bit 49 = true ∧ c.bit 50 = false ∧ c.bit 51 = false ∧
    alwaysRecorded 0x02 = false ∧ nextStart (tEngine id) 0 = none := by decide +kernel

/-- A command with P behind one without. -/
theorem wit_EngineCommands_first : let c : Cmd := ⟨2, [0x0103000000000000, 0x10100, 0x10200, 0, 1, 0, 0, 0], 0, ⟨0, 0, 0, 0⟩, 0, 0⟩
    let k := chanAt (tEngine fun k => { k with cmds := [tCopy 0 0 8, c] }) (chanKey 0 3)
    c.bit 48 = true ∧ k.cmds = [tCopy 0 0 8] ++ c :: [] ∧ (tCopy 0 0 8).bit 48 = false ∧ c.check = some (0x02, 0, 0) := by decide +kernel

theorem wit_EngineCommands_last : let c := tCopy 0x10100 0x10200 16
    let s := tCopying c [(0x100, 77)]
    let x : Exec := ⟨c, 0, 0, none, none, 0, [], false⟩
    let u := chanUnit s 0 (chanKey 0 3) c
    Executing s 0 3 x ∧ Exec.Plain x ∧ ResultRoom s (chanKey 0 3) ∧ x.cmd.word 0 / 2 ^ 56 = 1 ∧ x.cmd.w.getD 2 0 ≠ 0 ∧
    0 + min (16 - 0) (256 - ((0x10200 : Word) + word 0).toNat % 256) = 16 ∧ uSegs u accBulkRd (some .furlCopy) 3 0x10100 16 (turned s) = .ok ([gSeg 0x100 16], turned s) ∧
    uSegs u accBulkWr (some .furlWrite) 3 0x10200 16 (turned s) = .ok ([gSeg 0x200 16], turned s) ∧ (segBytes [gSeg 0x200 16]).length = 16 ∧ (segBytes [gSeg 0x100 16]).length = 16 ∧
    NoPoison s (segBytes [gSeg 0x100 16] ++ segBytes [gSeg 0x200 16]) ∧ Apart s (segBytes [gSeg 0x100 16]) (segBytes [gSeg 0x200 16]) := by
  refine ⟨executing_of (by decide +kernel) (by decide +kernel), ?_, ?_, by decide +kernel, by decide +kernel, by decide +kernel, ?_, ?_, by decide +kernel, by decide +kernel, ?_, ?_⟩
  · unfold Exec.Plain; decide +kernel
  · unfold ResultRoom; decide +kernel
  · exact uran (a := [gSeg 0x100 16]) (by decide +kernel)
  · exact uran (a := [gSeg 0x200 16]) (by decide +kernel)
  · unfold NoPoison; decide +kernel
  · unfold Apart; decide +kernel

theorem wit_EngineCommands_fetch : let c := tCopy 0x10100 0 8
    let s := tCopying c [(0x100, 77)]
    let x : Exec := ⟨c, 0, 0, none, none, 0, [], false⟩
    let u := chanUnit s 0 (chanKey 0 3) c
    Executing s 0 3 x ∧ Exec.Plain x ∧ ResultRoom s (chanKey 0 3) ∧ c.w.getD 2 0 = 0 ∧ uSegs u accBulkRd (some .furlRead) 3 0x10100 8 (turned s) = .ok ([gSeg 0x100 8], turned s) ∧
    (segBytes [gSeg 0x100 8]).length = 8 ∧ NoPoison s (segBytes [gSeg 0x100 8]) := by
  refine ⟨executing_of (by decide +kernel) (by decide +kernel), ?_, ?_, by decide +kernel, ?_, by decide +kernel, ?_⟩
  · unfold Exec.Plain; decide +kernel
  · unfold ResultRoom; decide +kernel
  · exact uran (a := [gSeg 0x100 8]) (by decide +kernel)
  · unfold NoPoison; decide +kernel

end Sys2Proof.Tests
end

