-- ==== Sys2Proof/Tests/Witnesses5.lean ====
section
/-! SUPPORT. States and operands that meet the hypotheses of the claims on engine shapes, exceptions, system registers and translation. -/

set_option Elab.async false

namespace Sys2Proof.Tests

open Sys2Proof Sys2Proof.Machine Sys2Proof.Machine.Claims

theorem wit_EngineShapes_last : let s := tExec tCopy2d [tEntry] (tMem [(0x100, 77)])
    let x : Exec := ⟨tCopy2d, 0, 0, none, none, 0, [], false⟩
    let u := chanUnit s 0 (chanKey 0 3) tCopy2d
    let P (v : Word) : Nat := v.toNat - 0x10000 + windowPa 0 0
    tCopy2d.word 0 / 2 ^ 56 = 2 ∧ Executing s 0 3 x ∧ Exec.Plain x ∧ ResultRoom s (chanKey 0 3) ∧
    nget s.engines 0 = some ⟨1, 63, false⟩ ∧ tCopy2d.rows = 0 + 1 ∧ tCopy2d.cols = 2 ∧ min tCopy2d.xc tCopy2d.cols = 1 ∧ tCopy2d.bit 54 = true ∧
    engFmt tCopy2d.sf = some .uint8 ∧ engFmt tCopy2d.df = some .uint8 ∧
    uSeg u accBulkRd (some .furlCopy) 0x10100 1 (turned s) = .ok (gSeg 0x100 1, turned s) ∧ (gSeg 0x100 1).pa = P 0x10100 ∧
    uSeg u accBulkWr (some .furlWrite) 0x10200 1 (turned s) = .ok (gSeg 0x200 1, turned s) ∧ (gSeg 0x200 1).pa = P 0x10200 ∧
    uSeg u accBulkWr (some .furlWrite) 0x10201 1 (turned s) = .ok (gSeg 0x201 1, turned s) ∧ (gSeg 0x201 1).pa = P 0x10201 ∧
    NoPoison s [P 0x10100] ∧ NoPoison s [P 0x10200, P 0x10201] ∧ Apart s [P 0x10100] [P 0x10200, P 0x10201] := by
  refine ⟨by decide +kernel, executing_of (by decide +kernel) (by decide +kernel), ?_, ?_, by decide +kernel, by decide +kernel, (by decide +kernel), by decide +kernel,
    by decide +kernel, (by decide +kernel), by decide +kernel, ?_, by decide +kernel, ?_, by decide +kernel, ?_, by decide +kernel, ?_, ?_, ?_⟩
  · unfold Exec.Plain; decide +kernel
  · unfold ResultRoom; decide +kernel
  · exact uran (by decide +kernel)
  · exact uran (by decide +kernel)
  · exact uran (by decide +kernel)
  · unfold NoPoison; decide +kernel
  · unfold NoPoison; decide +kernel
  · unfold Apart; decide +kernel

theorem wit_EngineShapes_convert : let c (f k : Nat) : Cmd := ⟨1, [word (5 * 2 ^ 56 + f * 2 ^ 26 + 12 * 2 ^ 40 + 5 * 2 ^ 32), 0, 0, 0, 0, word k], 0, ⟨0, 0, 0, 0⟩, 0, 0⟩
    (∀ f ∈ [0, 1, 3], (c f 255).word 0 / 2 ^ 56 = 5) ∧ (c 0 0).bit 26 = false ∧ (c 1 0x3F800000).bit 26 = true ∧ (c 1 0x3F800000).bit 27 = false ∧ (c 3 255).bit 27 = true ∧
    (c 3 255).word 5 % 256 = 255 ∧ (c 3 128).word 5 % 256 ≠ 255 ∧ (engFmt (c 3 128).sf).getD .uint8 = .uint8 ∧
    Num.decodeFmt Core.reset.dt .uint8 4 = .fin false 4 0 := by
  decide +kernel

theorem wit_FurledMove : let x (c : Cmd) (l : List Nat) : Exec := ⟨c, 0, 0, none, none, 0, l, false⟩
    let v : Word := 0x200000
    let s (w : Word) : State := tMoving v w 4 []
    let seg (v : Word) (ky : Nat) : Seg := ⟨v, windowPa 0 (v.toNat % 0x1000), 256, .furled, ky, true⟩
    let wr (w : Word) (ky : Nat) : Prop := uSeg (chanUnit (s w) 0 (chanKey 0 3) (tMoveCmd v w 4)) accBulkWr none w 256 (turned (s w)) = .ok (seg w ky, turned (s w))
    let k := keyAt (s 0x200100) 2
    Executing (tMoving v 0x200100 4 [] [2]) 0 3 (x (tMoveCmd v 0x200100 4) [2]) ∧ Executing (s 0x200100) 0 3 (x (tMoveCmd v 0x200100 4) []) ∧
    Exec.Plain (x (tMoveCmd v 0x200100 4) [2]) ∧ ResultRoom (tMoving v 0x200100 4 [] [2]) (chanKey 0 3) ∧
    (tMoveCmd v 0x200100 4).word 0 / 2 ^ 56 = 6 ∧ (tMoveCmd v 0x200100 4).word 3 % 2 ^ 32 = 0 + 256 ∧
    uSeg (chanUnit (s 0x200100) 0 (chanKey 0 3) (tMoveCmd v 0x200100 4)) accBulkRd none v 256 (turned (s 0x200100)) = .ok (seg v 2, turned (s 0x200100)) ∧
    wr 0x200100 2 ∧ wr 0x201000 3 ∧ wr 0x400000 2 ∧ uIdle (tagPa k 0x200000) 16 (turned (s 0x200100)) = .ok ((), turned (s 0x200100)) ∧
    (2 ∈ [2] ∧ 2 ∉ ([] : List Nat)) ∧ k.inWindow 0x200000 256 = true ∧ k.inWindow 0x200100 256 = true ∧ k.inWindow 0x400000 256 = false ∧
    NoPoison (s 0x200100) ((List.range 256).map (windowPa 0 0 + ·) ++ (List.range 16).map (tagPa k 0x200000 + ·)) := by
  refine ⟨executing_of (by decide +kernel) (by decide +kernel), executing_of (by decide +kernel) (by decide +kernel), ?_, ?_, by decide +kernel, by decide +kernel, ?_, ?_, ?_, ?_,
    ?_, by decide, by decide +kernel, by decide +kernel, by decide +kernel, ?_⟩
  · unfold Exec.Plain; decide +kernel
  · unfold ResultRoom; decide +kernel
  · exact uran (by decide +kernel)
  · exact uran (by decide +kernel)
  · exact uran (by decide +kernel)
  · exact uran (by decide +kernel)
  · exact uran (by decide +kernel)
  · unfold NoPoison; decide +kernel

/-- A source page outside the key's window. -/
theorem wit_FurledMove_source : let s := tMoving 0x400000 0x200000 4 []
    uSeg (chanUnit s 0 (chanKey 0 3) (tMoveCmd 0x400000 0x200000 4)) accBulkRd none 0x400000 256 (turned s) = .ok (⟨0x400000, windowPa 0 0, 256, .furled, 2, true⟩, turned s) ∧
    (keyAt s 2).inWindow 0x400000 256 = false :=
  ⟨uran (by decide +kernel), by decide +kernel⟩

/-- The tag of the source granule matches, or does not. -/
theorem wit_FurledMove_tag :
    let s (m : Memory) := tMoving 0x200000 0x200100 4 m
    let ct (m : Memory) := (rdBytes (s m) (windowPa 0 0) 256).map (·.toNat)
    let tag (m : Memory) := (rdBytes (s m) (tagPa (keyAt (s m) 2) 0x200000) 16).map (·.toNat)
    Crypto.gmac (keyAt (s tTag) 2).tagKey 0x200000 (ct tTag) = tag tTag ∧ Crypto.gmac (keyAt (s []) 2).tagKey 0x200000 (ct []) ≠ tag [] := by
  intro s ct tag
  have h1 : ct tTag = List.replicate 256 0 := by decide +kernel
  have h2 : ct [] = List.replicate 256 0 := by decide +kernel
  have h3 : (keyAt (s tTag) 2).tagKey = 5 := by decide +kernel
  have h4 : (keyAt (s []) 2).tagKey = 5 := by decide +kernel
  rw [h1, h2, h3, h4, gmac_zeros]
  decide +kernel

theorem wit_Exceptions_upcall : let s := tUpcalls id
    let sl := s.curSlot
    let off := sl.carveBase.toNat + sl.carveSize.toNat - 256
    actOf s s.cur < 4 ∧ sl.launch ≠ none ∧ sl.up = false ∧ sl.upc ≠ 0 ∧ off % 8 = 0 ∧ Code.cls .align = .u ∧ Code.align ≠ .trap := by decide +kernel

theorem wit_Exceptions_terminal :
    let s (f : Slot → Slot) (i : Nat) : State := { tHome tCtx (fun sl => { sl with launch := some 1 }) (fun k => { k with act := some i, slots := k.slots.set 4 { (k.slots.get 0) with launch := some 1 } }) with
      cores := [(0, { tCore id id with act := some i, slots := ⟨#[f { Slot.reset with st := .ready, launch := some 1 }, Slot.reset, Slot.reset, Slot.reset, { Slot.reset with st := .ready, launch := some 1 }], rfl⟩ })] }
    ∃ u v u4 x, exec .tend (s id 0) = .next u ∧ nget u.ctxs (s id 0).curSlot.ctx = some x ∧ exec .tend (s id 4) = .next u4 ∧ nget u4.ctxs (s id 4).curSlot.ctx = some x ∧
      exec .tend (s (fun y => { y with up := true }) 0) = .next v ∧ nget v.ctxs 0 = some x ∧ (s (fun y => { y with up := true }) 0).curSlot.up = true ∧
      (s id 0).curSlot.upc = 0 ∧ (s id 4).curSlot.launch ≠ none ∧ actOf (s id 4) 0 = 4 ∧ Code.cls .xlPerm = .t ∧ Code.cls .align = .u := by
  intro s
  exact ⟨_, _, _, tCtx, next_eq (by decide +kernel), by decide +kernel, next_eq (by decide +kernel), by decide +kernel, next_eq (by decide +kernel), by decide +kernel,
    by decide +kernel, (by decide +kernel), by decide +kernel, by decide +kernel, (by decide +kernel), by decide +kernel⟩

theorem wit_Exceptions_return : let s := { tUpcalls (fun y => { y with up := true }) with mem := tMem [(0x173F0, 1)] }
    let sl := s.curSlot
    let off := sl.carveBase.toNat + sl.carveSize.toNat - 256
    actOf s s.cur < 5 ∧ off % 8 = 0 ∧ sl.up = true ∧ sl.carveSize ≠ 0 ∧ rdNat s (windowPa s.cur off + 8 * 30) 8 % 2 = 1 ∧ Drained s ∧ (tUpcalls id).curSlot.up = false ∧
    (∃ v, exec .tend (modSlot { s with mem := [] } 0 0 fun x => { x with up := false }) = .next v) := by
  refine ⟨by decide +kernel, by decide +kernel, (by decide +kernel), by decide +kernel, by decide +kernel, ?_, by decide +kernel, next_of (by decide +kernel)⟩
  unfold Drained; decide +kernel

theorem wit_SystemRegisters : let s := tUpcalls fun y => { y with g := gs [0, 0x1000, 0x1000000, 0x10000] }
    let h : State := { tHome tCtx (fun y => y) with cores := [(0, { tCore id id with act := some 4, slots := ⟨#[Slot.reset, Slot.reset, Slot.reset, Slot.reset, { Slot.reset with st := .ready, sv := true }], rfl⟩ })] }
    (coreOf s s.cur).dq = [] ∧ (coreOf s 0).sb = [] ∧ (∃ p ∈ userRegs 0 (coreOf s 0) 0 s.curSlot, (5 : BitVec 12).toNat = p.1) ∧
    (∀ r : Fin 8, (0 : Word).getLsbD r.val = (s.curSlot.e.get r).full) ∧ isSuper 0 s.curSlot = false ∧ isSuper 0 h.curSlot = true ∧ nget h.ctxs h.curSlot.ctx = some tCtx ∧
    (0x10 : BitVec 12).toNat = 0x010 + 0 ∧ 0x100 ≤ (0x100 : BitVec 12).toNat ∧
    (∀ p ∈ userRegs 0 (coreOf s 0) 0 s.curSlot, (0xFF : BitVec 12).toNat ≠ p.1) ∧ (0xFF : BitVec 12).toNat ∉ [0x050, 0x100, 0x108, 0x110] ∧
    (let w := (s.curSlot.g.get 2).toNat; w % 2 ^ 17 % 128 = 0 ∧ w / 2 ^ 17 % 2 ^ 17 % 128 = 0 ∧ w % 2 ^ 17 + w / 2 ^ 17 % 2 ^ 17 ≤ 0x18000 ∧ w / 2 ^ 34 % 8 ≠ 7) ∧
    (let w := (s.curSlot.g.get 3).toNat; w / 2 ^ 23 = 0 ∧ w / 2 ^ 12 % 16 = 0 ∧ w % 4096 + w / 2 ^ 16 % 128 ≤ 4096) := by decide +kernel

theorem wit_SystemRegisters_service : 6144 ≤ ({ State.reset with cur := 6144 } : State).cur ∧ isSuper 6144 ({ State.reset with cur := 6144 } : State).curSlot = true := by decide +kernel

theorem wit_SupervisionAndDebug_slots : let s := tSuper id
    let u := tSuper fun y => { y with st := .ready }
    let x := s.curSlot.g.get 1
    isSuper s.cur s.curSlot = true ∧ Target s x 0 1 ∧ s.curSlot.pend = .none ∧ Drained s ∧ (slotAt s 0 1).st = .halted ∧ Target u x 0 1 ∧ (slotAt u 0 1).st ≠ .halted ∧ 1 ≠ actOf s 0 ∧
    ((slotAt s 0 1).e.get 0).poison = false ∧ ((slotAt (tSuper fun y => y.setE 0 ⟨0, true, true⟩) 0 1).e.get 0).poison = true ∧
    (s.curSlot.g.get 2).toNat % 8 = 0 ∧ (tSuper id fun k => { k with slots := k.slots.set 0 { (k.slots.get 0) with g := gs [0, 0x2000, 1] } }).curSlot.g.get 2 = 1 ∧
    (wideOf s 0 1 3).tag = none ∧ (wideOf s 0 1 3).poison = false ∧
    (wideOf (tQuad (tSuper fun y => { y with w := y.w.set 3 (.priv 4) }) fun q => { q with pregs := q.pregs.set 4 tSealed }) 0 1 3).tag ≠ none ∧
    (wideOf (tQuad (tSuper fun y => { y with w := y.w.set 3 (.priv 4) }) fun q => { q with pregs := q.pregs.set 4 { tWide with poison := true } }) 0 1 3).poison = true ∧
    (coreOf s 0).dq = [] ∧ (∃ p ∈ userRegs 0 (coreOf s 0) 1 (slotAt s 0 1), (5 : BitVec 12).toNat = p.1) ∧ 4 < (s.curSlot.g.get 3).toNat / 8192 := by
  refine ⟨by decide +kernel, ⟨0, by decide +kernel⟩, by decide +kernel, ?_, by decide +kernel, ⟨0, by decide +kernel⟩, by decide +kernel, by decide +kernel, (by decide +kernel),
    by decide +kernel, by decide +kernel, (by decide +kernel), by decide +kernel, by decide +kernel, by decide +kernel, (by decide +kernel), by decide +kernel, by decide +kernel, (by decide +kernel)⟩
  unfold Drained; decide +kernel

theorem wit_SupervisionAndDebug_idle : let s (e : Nat) (c : Nat) (x : Context) : State := { tHome x (fun y => { y with idle0 := some (0, 0) }) (fun k => { k with lastEvent := e }) with cycles := c }
    let t : State := tHome tCtx id
    let a := s 5 0 tCtx
    let b := s 0 9 tCtx
    let d := s 0 0 tDraining
    actOf a a.cur < 4 ∧ a.curSlot.mw = 0 ∧ a.curSlot.idle0 = some (0, 0) ∧ 0 < (coreOf a 0).lastEvent ∧ (coreOf b 0).lastEvent ≤ 0 ∧ 0 + (7 : BitVec 32).toNat ≤ b.cycles ∧
    d.cycles < 0 + (7 : BitVec 32).toNat ∧ draining d d.curSlot.ctx = true ∧ t.curSlot.idle0 = none ∧ draining t t.curSlot.ctx = false ∧
    (slotAt (tState fun y => { y with st := .blocked (.idle (some 4)) }) 0 0).st = .blocked (.idle (some 4)) := by decide +kernel

theorem wit_SupervisionAndDebug_watchdog : let s : State := tHome tCtx fun y => { y with watchdog := some 0 }
    let t : State := { s with ctxs := [(0, { tCtx with desc := { tDesc with endMask := 0 } })] }
    let o := slotAt t 0 0
    ∃ u, exec .tend t = .next u ∧ nget u.ctxs o.ctx = some tCtx ∧ o.watchdog = some 0 ∧ 0 ≤ t.ns ∧ o.st ≠ .free ∧ o.st ≠ .parked ∧ o.st ≠ .halted ∧ t.cur = 0 ∧ actOf t 0 = 0 ∧
      tCtx.desc.endMask.getLsbD 0x32 = false ∧ (slotAt tBase 0 0).watchdog = none := by
  intro s t o
  exact ⟨_, next_eq (by decide +kernel), by decide +kernel, by decide +kernel, (by decide +kernel), by decide +kernel, by decide +kernel, (by decide +kernel), by decide +kernel,
    by decide +kernel, by decide +kernel, (by decide +kernel)⟩

theorem wit_SupervisionAndDebug_unit : let s : State := tState fun y => { y with tplBase := 0x17000 }
    let k := coreOf s 0
    k.dq = [] ∧ (k.tiles.get 2).tag = none ∧ (k.tiles.get 2).poison = false ∧ ((coreOf (tTiles { owner := some (0, 0), tag := some 2 }) 0).tiles.get 1).tag ≠ none ∧
    ((coreOf (tTiles { owner := some (0, 0), poison := true }) 0).tiles.get 1).poison = true ∧ ((coreOf (tTiles { owner := some (0, 0), poison := true }) 0).tiles.get 1).tag = none ∧
    k.latch.tag = none ∧ k.latch.poison = false ∧ (wideAt s 3).tag = none ∧ (wideAt s 3).poison = false ∧
    s.curSlot.tplBase.toNat + 0 + 8 ≤ 0x18000 ∧ k.furl = [] ∧ isPoison s (windowPa 0 (s.curSlot.tplBase.toNat + 0)) = false ∧ s.cur < 6144 := by decide +kernel

theorem wit_TranslationService_requests : let s := tService [] [tAsked false]
    s.walks = [] ++ tAsked false :: [] ∧ (tAsked false).svc = 0 ∧ (tAsked false).flying = false ∧ (s.walks.filter fun y => y.svc = 0 && y.flying).length < 16 := by decide +kernel

theorem wit_TranslationService_answers (resp : Fin 3) (hr : resp.val ≠ 1) : let s := tService [0, 0x10000, 0x1000000000003 ||| (if resp.val = 2 then 0x8000000000000000 else 0), 0] [tAsked true]
    let va := s.curSlot.g.get 1
    let e := (s.curSlot.g.get 2).toNat
    let t := (s.curSlot.g.get 3).toNat
    let q := t / 2 ^ 26 % 512
    let vf := t / 2 ^ 35 % 512
    let w := tAsked true
    (e / 2 ^ 62 = resp.val ∧ e / 2 ^ 52 % 1024 = 0 ∧ e / 16 % 4 ≠ 3 ∧ t % 2 ^ 24 = 0 ∧ vf < 384 ∧ q < 384 ∧ canonical va = true ∧ e / 64 % 64 = 0 ∧ 6144 ≤ s.cur ∧ s.cur < 6176 ∧
      svcOf s (dieOf s.cur * 384 + q) = s.cur - 6144) ∧ e / 4096 % 2 ^ (pageBits 0 - 12) = 0 ∧ t / 2 ^ 24 % 4 = 0 ∧
    s.walks = [] ++ w :: [] ∧ w.flying = true ∧ w.stale = false ∧ w.space = vf * 2 ^ 20 + t / 2 ^ 44 ∧ w.quad = dieOf s.cur * 384 + q ∧
    w.va / 2 ^ pageBits 0 * 2 ^ pageBits 0 = va57 va / 2 ^ pageBits 0 * 2 ^ pageBits 0 ∧ w.cwReq = false ∧ w.who = [.slot 0 1] ∧ (slotAt s 0 1).st = .blocked .xlate := by
  revert resp
  decide +kernel

theorem wit_TranslationService_invalidation : let s (t : Option Word) (b : Word) : State := { tService [0, 0, b, 0] [] (fun y => { y with t0 := t }) with tlbis := [⟨7, [], [], []⟩] }
    isSuper (s none 0).cur (s none 0).curSlot = true ∧ (s (some 7) 0).curSlot.t0 = some 7 ∧ (s (some 7) 0).tlbis.find? (fun y => y.id = (7 : Word).toNat) = some ⟨7, [], [], []⟩ ∧
    actOf (s none 0) (s none 0).cur < 4 ∧ tlbiDone (s (some 7) 0) ⟨7, [], [], []⟩ = true ∧ canonical 0 = true ∧ (s none 0).curSlot.t0 = none ∧ (s none 0).curSlot.mw = 0 ∧
    (let z := ((s none (word (2 * 2 ^ 22 + 2 ^ 24))).curSlot.g.get 2).toNat
     z % 2 ^ 22 = 0 ∧ z / 2 ^ 22 % 4 = 2 ∧ z / 2 ^ 24 % 4 = 1 ∧ z / 2 ^ 35 % 512 < 384 ∧ z / 2 ^ 26 % 512 < 384) := by decide +kernel

theorem wit_TranslationService_completion : let s : State := { tUpcalls (fun y => { y with st := .parked }) with
      retryables := [⟨0, 5, 0⟩], mem := tMem [(0x17300 + 8 * 26, 0x10), (0x17300 + 8 * 29, 5), (0x17300 + 8 * 30, 1)] }
    (5 : BitVec 40) ≠ 0 ∧ s.retryables = [⟨(0 : Fin 16).val, (5 : BitVec 40).toNat, 0⟩] ∧ s.cores.map (·.1) = [0] ∧ (∀ y ∈ s.ctxs, y.2.saved = none) ∧ cookieSlots s 0 ((5 : BitVec 40).setWidth 64) = [0] ∧
    ldOf (slotAt s 0 0).ctx = 0 ∧ (∀ y ∈ s.retryables, y.ld ≠ (1 : Fin 16).val ∨ y.cookie ≠ (5 : BitVec 40).toNat) := by decide +kernel

end Sys2Proof.Tests
end

