-- ==== Sys2Proof/Tests/Witnesses6.lean ====
section
/-! SUPPORT. States and operands that meet the hypotheses of the claims on messages, the start of tasks, counts and launches. -/

set_option Elab.async false

namespace Sys2Proof.Tests

open Sys2Proof Sys2Proof.Machine Sys2Proof.Machine.Claims

theorem wit_ArrivalsAndReplies_messages : (∀ b, OneFor (tArriving b) 0 (tMsg b) []) ∧
    (MsgBody.load 0 8 .wait).hkind.isSome = true ∧ (coreOf (tArriving (.load 0 8 .wait)) 0).mq.length < 32 ∧
    32 ≤ (coreOf (tArriving (.load 0 8 .wait) tFullCore) 0).mq.length ∧ overflowRoom (tArriving (.load 0 8 .wait) tFullCore) 0 = false ∧
    ctxGone (tArriving (.lmsg 1 [] 0)) 0 = false ∧ ctxGone (tArriving (.lmsg 1 [] 5)) 5 = true ∧ rqFull (tArriving (.lmsg 1 [] 0)) 0 1 = false ∧
    rqFull (tArriving (.lmsg 1 [] 0) tFullCore) 0 1 = true ∧ rqFull (tArriving (.spawn ⟨0, 0⟩ false)) 0 3 = false ∧
    rqFull (tArriving (.fault 0 0 0 0)) 0 1 = false ∧ rqFull (tArriving (.spawn ⟨0, 0⟩ false) tFullCore) 0 3 = true ∧
    (slotAt (tArriving (.load 0 8 .wait) tFullCore) 0 4).st ≠ .halted ∧
    (slotAt (tArriving (.swin 4 0x20 none) fun k => { k with slots := k.slots.set 4 { Slot.reset with st := .halted } }) 0 4).st = .halted :=
  ⟨fun _ => ⟨[], [], rfl, rfl, rfl, by simp⟩, by decide +kernel⟩

/-- Core 0 holds no state of a descheduled context; or it does. -/
theorem wit_ArrivalsAndReplies_places : (∀ b, Here (tArriving b) 0 0) ∧ (∀ b, Here (tArriving b) 0 5) ∧
    (let v : Saved := ⟨[(0, Core.reset)], [], [], [], []⟩
     let y : Context := { tCtx with st := .descheduled, saved := some v }
     ∀ b, Kept { tArriving b with ctxs := [(0, y)] } 0 0 y v Core.reset ∧ ctxGone { tArriving b with ctxs := [(0, y)] } 0 = false) := by
  refine ⟨fun b => .inr fun y v h hv => ?_, fun b => .inr fun y v h hv => ?_, fun b => ⟨⟨?_, rfl, rfl, rfl⟩, rfl⟩⟩
  · obtain rfl : tCtx = y := Option.some.inj h
    cases hv
  · cases h
  · intro h; cases h

theorem wit_ArrivalsAndReplies_replies : let s (p : Pend) (st : SlotSt) : State := { tHome tCtx (fun y => { y with task := 3, pend := p, st := st }) with mesh := [tMsg (.reply (.vals [5]) 0 3 .wait)] }
    OneFor (s .waiting .ready) 0 (tMsg (.reply (.vals [5]) 0 3 .wait)) [] ∧ (slotAt (s .waiting (.blocked .replyCore)) 0 0).task = 3 ∧ (slotAt (s .none .ready) 0 0).task ≠ 4 ∧
    (slotAt (s .waiting (.blocked .replyCore)) 0 0).pend = .waiting ∧ (slotAt (s .waiting (.blocked .replyCore)) 0 0).st = .blocked .replyCore ∧
    (slotAt (s .none .ready) 0 0).pend ≠ .waiting ∧ (0 : Nat) < 5 :=
  ⟨⟨[], [], rfl, rfl, rfl, by simp⟩, by decide +kernel⟩

theorem wit_RemoteAccess_load : let s := tFar .none
    read1 (.g 1) s = .ok (0x10100, s) ∧ (0x10100 + litS 0 : Word).toNat % 8 = 0 ∧ resolve true 0x10100 8 accLoad s = .ok ([farSeg], s) ∧ ownerOf s.hdm farSeg.pa = .slice 1 0x100 ∧
    1 ≠ s.cur ∧ farSeg.va = 0x10100 + litS 0 ∧ ((coreOf s s.cur).sb = [] ∧ drainsDue (coreOf s s.cur) (actOf s s.cur) = false) ∧ s.curSlot.pend = .none ∧ s.curSlot.mw = 0 ∧ actOf s 0 < 4 ∧ actOf (tFar .none 4) 0 = 4 ∧
    resolve true 0x10100 8 accLoad (tFar .none 4) = .ok ([farSeg], tFar .none 4) ∧
    (tFar (.got (.vals [5]))).curSlot.pend = .got (.vals [5]) ∧ resolve true 0x10100 8 accLoad (tFar (.got (.vals [5]))) = .ok ([farSeg], tFar (.got (.vals [5]))) ∧
    (let m := tFar .none 0 3; actOf m 0 < 4 ∧ m.curSlot.mw ≠ 0 ∧ m.curSlot.pend = .none) ∧ (tFar (.got .poison)).curSlot.pend = .got .poison ∧ resolve true 0x10100 8 accLoad (tFar (.got .poison)) = .ok ([farSeg], tFar (.got .poison)) := by
  refine ⟨ran (by decide +kernel), by decide +kernel, ran (by decide +kernel), by decide +kernel, by decide +kernel, (by decide +kernel), by decide +kernel, by decide +kernel,
    (by decide +kernel), by decide +kernel, by decide +kernel, ran (by decide +kernel), by decide +kernel, ran (by decide +kernel), by decide +kernel, by decide +kernel, ran (by decide +kernel)⟩

theorem wit_RemoteAccess_handlers : let s (b : MsgBody) := tHandling b
    let pa := windowPa 0 0x100
    let b := MsgBody.load pa 8 .wait
    let op := Rmw.rat 0 true false 1 0
    (∀ b, HFree (s b) 0 ∧ (coreOf (s b) 0).mq = tMsg b :: [] ∧ (coreOf (s b) 0).hRun < 16 ∧ (s b).ecc = [] ∧ (coreOf (s b) 0).furl = []) ∧ Untouched (s b) 0 pa 8 ∧
    ¬ Untouched (tHandling (.load 0x1000000000100 8 .wait) fun k => { k with sb := [tEnt] }) 0 0x1000000000100 8 ∧
    ((coreOf (s (.rmw pa 8 op .wait 0 9)) 0).sb = [] ∧ ∀ p ∈ rmwTouches (coreOf (s (.rmw pa 8 op .wait 0 9)) 0) (s (.rmw pa 8 op .wait 0 9)) pa 8 op,
      rangeAt (s (.rmw pa 8 op .wait 0 9)) p.1 p.2 = none) ∧
    (rmwOut (fun a k => rdNat (s b) a k) (fun a k => anyPoison (s b) a k) (qbaseOf (s b) 0) (windowPa 0 0) pa 8 0 op).counts = [] ∧
    anyPoison (s b) pa 8 = false ∧ (0 % 8 = 0 ∧ 0 + 8 * [(1 : Word)].length ≤ 16 ∧ 0x100 + 0 + 8 * [(1 : Word)].length ≤ qbaseOf (s b) 0 ∧ qbaseOf (s b) 0 ≤ 0x18000) ∧
    (16 : Nat) < 16 + 8 * [(1 : Word)].length := by
  refine ⟨fun b => ⟨⟨rfl, fun i hi => ?_⟩, rfl, Nat.zero_lt_succ 15, rfl, rfl⟩, ?_, ?_, by decide +kernel⟩
  · obtain rfl : 0 = i := by simpa [tHandling, tHome, tState, coreOf, tCore, nget] using hi
    exact ⟨by decide, fun _ => rfl, fun w h => by cases h⟩
  · unfold Untouched; decide +kernel
  · unfold Untouched; decide +kernel

theorem wit_RemoteAccess_rat : (7, fun (_ a b : Nat) => a &&& b) ∈ ratCodes := by simp [ratCodes]

theorem wit_TaskStarts_queue : let e := tReadyEnt 0x2001
    let h := tReadyEnt 0x2004
    let s := tIdle [e] [] []
    let t := tIdle [h] [] []
    coreDraining s 0 = false ∧ ((coreOf s 0).rq = [e] ∧ e.kind = 0 ∧ e.cls < 4) ∧ e.desc.w0.getLsbD 2 = false ∧ (coreOf s 0).cursors = [] ∧ s.tpls = [] ∧ (slotAt s 0 0).st = .free ∧
    (coreOf s 0).act ≠ some 0 ∧ HFree t 0 ∧ coreDraining t 0 = false ∧ ((coreOf t 0).mq = [] ∧ 16 ≤ (coreOf (modCore t 0 fun k => { k with hRun := 16 }) 0).hRun) ∧ (coreOf t 0).rq = [h] ∧ h.desc.w0.getLsbD 2 = true ∧
    coreDraining { s with ctxs := [(0, tDraining)] } 0 = true := by
  refine ⟨by decide +kernel, by decide +kernel, (by decide +kernel), by decide +kernel, by decide +kernel, (by decide +kernel), by decide +kernel, ⟨rfl, fun i hi => ?_⟩, by decide +kernel⟩
  cases hi

theorem wit_TaskStarts_handler : let m := tMsg (.hmsg 1 [5] 0)
    let s (v : Word) := tIdle [] [m] (tMem ([(0x208, v)].filter fun p => p.2 ≠ 0))
    let y := { tCtx with desc := { tDesc with htab := 0x10200, hcnt := 2 } }
    (∀ v, HFree (s v) 0) ∧ devRead (s 0x2001) 0 4 0 (y.desc.htab + word 8) 8 = .val 0x2001 ∧ devRead (s 0) 0 4 0 (y.desc.htab + word 8) 8 = .val 0 ∧ coreDraining (s 0) 0 = false ∧ (coreOf (s 0) 0).mq = [m] ∧ (coreOf (s 0) 0).rq = [] ∧ nget (s 0).ctxs 0 = some y ∧ y.st ≠ .ended ∧ 1 < y.desc.hcnt.toNat ∧
    (0x2001 : Nat) % 8 = 1 ∧ y.desc.hcnt.toNat ≤ 2 := by
  exact ⟨fun v => ⟨rfl, fun i hi => by cases hi⟩, dev_val (by decide +kernel), dev_val (by decide +kernel), by decide +kernel⟩

theorem wit_TaskStarts_notice : let e := tReadyEnt 0 2 [5]
    let s (st : SlotSt) (u : Bool) (m : Memory) : State := { tUpcalls (fun y => { y with st := st, up := u }) with mem := m }
    let t (st : SlotSt) (u : Bool) (m : Memory) : State := modCore (s st u m) 0 fun k => { k with rq := [e] }
    let m := tMem [(0x17300 + 8 * 26, 0x10), (0x17300 + 8 * 29, 5), (0x17300 + 8 * 30, 1)]
    coreDraining (t .parked false m) 0 = false ∧ (coreOf (t .parked false m) 0).rq = [e] ∧ e.kind = 2 ∧ e.data = [5] ∧ cookieSlots (t .parked false m) 0 5 = [0] ∧
    (slotAt (t .parked false m) 0 0).st = .parked ∧ cookieSlots (t .ready true m) 0 5 = [0] ∧ (slotAt (t .ready true m) 0 0).st = .ready ∧ (slotAt (t .ready true m) 0 0).up = true ∧
    cookieSlots (t .ready true []) 0 5 = [] := by decide +kernel

/-- A cookie that the records of a parked slot and of one in upcall mode hold. -/
theorem wit_TaskStarts_both : let s : State := { tHome tCtx (fun y => { y with st := .parked, upc := 0x3000, launch := some 1, carveBase := 0x17000, carveSize := 0x400 })
      (fun k => { k with rq := [tReadyEnt 0 2 [5]], slots := k.slots.set 1 { Slot.reset with st := .ready, up := true, carveBase := 0x17400, carveSize := 0x400 } }) with
        mem := tMem [(0x17300 + 8 * 26, 0x10), (0x17300 + 8 * 29, 5), (0x17300 + 8 * 30, 1), (0x17700 + 8 * 26, 0x10), (0x17700 + 8 * 29, 5), (0x17700 + 8 * 30, 1)] }
    coreDraining s 0 = false ∧ cookieSlots s 0 5 = [0, 1] ∧ (slotAt s 0 0).st = .parked ∧ (slotAt s 0 1).st = .ready ∧ (slotAt s 0 1).up = true := by decide +kernel

theorem wit_CountsAndRecords_count : let r : CountReq := ⟨3, 0x10100, false, 0, ⟨0, 0, 0, 0⟩⟩
    let s (j : Word) : State := { tQuad (tHome tCtx id) (fun q => { q with tlb := [tEntry] }) with counts := [r], mem := tMem [(0x110, j)] }
    let rd (j : Word) (n : Nat) : Nat := rdNat (s j) (tEntry.pa r.va + 8 * n) 8
    (s 1).counts = [r] ∧ nget (s 1).unitAns (1000000 + r.id) = none ∧ (quadAt (s 1) r.quad).tlb.find? (fun y => y.hits r.src.ctx (va57 r.va)) = some tEntry ∧ tEntry.r = true ∧
    tEntry.w = true ∧ tEntry.mt = .normal ∧ ownerOf (s 1).hdm (tEntry.pa r.va) = .slice 0 0x100 ∧ 0x100 + 32 ≤ qbaseOf (s 1) 0 ∧ Untouched (s 1) 0 (tEntry.pa r.va) 32 ∧ HFree (s 1) 0 ∧
    anyPoison (s 1) (tEntry.pa r.va) 32 = false ∧ (tEntry.cw = false ∧ inTagRegion (s 1) (tEntry.pa r.va) 32 = false ∧ (coreOf (s 1) 0).furl = []) ∧ (rd 2 2 % 2 ^ 32 + 2 ^ 32 - 1) % 2 ^ 32 ≠ 0 ∧ (rd 1 2 % 2 ^ 32 + 2 ^ 32 - 1) % 2 ^ 32 = 0 ∧ rd 1 0 % 4 < 2 ∧
    2 ≤ rdNat { s 1 with mem := tMem [(0x100, 2), (0x110, 5)] } (tEntry.pa r.va) 8 % 4 := by
  refine ⟨by decide +kernel, by decide +kernel, (by decide +kernel), by decide +kernel, by decide +kernel, (by decide +kernel), by decide +kernel, by decide +kernel, ?_, ⟨rfl, fun i hi => ?_⟩,
    by decide +kernel⟩
  · unfold Untouched; decide +kernel
  · obtain rfl : 0 = i := by simpa [tQuad, tHome, tState, coreOf, tCore, nget] using hi
    exact ⟨by decide, fun _ => rfl, fun w h => by cases h⟩

theorem wit_CountsAndRecords_rings : let pa := 0x9000000001000
    let m : Msg := ⟨0x400003, ⟨5, 1, 0, 9⟩, .lmsg 2 [7] 0⟩
    let s : State := { State.reset with mesh := [m], rings := [(1003, ⟨pa, []⟩)], mem := tRing, hdm := tGrants }
    let t : State := { State.reset with rings := [(0, ⟨pa, [List.replicate 8 1]⟩)], mem := tRing, hdm := tGrants }
    let tail := rdNat s (pa + 24) 8
    let at0 := rdNat s pa 8 + 64 * (tail % max 1 (rdNat s (pa + 8) 8))
    s.mesh = [] ++ m :: [] ∧ m.dst = 0x400000 + 3 ∧ nget s.rings (1000 + 3) = some ⟨pa, []⟩ ∧ m.body = .lmsg 2 [7] 0 ∧ m.src.slot < 8 ∧ m.src.ctx / 2 ^ 20 < 512 ∧
    rdNat s (pa + 8) 8 = 2 ^ 4 ∧ (tail + 2 ^ 64 - rdNat s (pa + 16) 8) % 2 ^ 64 < rdNat s (pa + 8) 8 ∧
    (at0 % 8 = 0 ∧ pa % 8 = 0 ∧ 2 ^ 40 ≤ at0 ∧ 2 ^ 40 ≤ pa ∧ ownerOf s.hdm pa = .host 1 ∧ ownerOf s.hdm at0 = .host 1 ∧ ownerOf s.hdm (at0 + 63) = .host 1 ∧ (at0 + 64 ≤ pa ∨ pa + 32 ≤ at0)) ∧
    t.mem = s.mem ∧ t.hdm = s.hdm ∧ t.rpt.kind < 3 ∧ t.rptw.toNat / 16 ^ 0 % 16 ≠ 0 := by decide +kernel

theorem wit_Launches_record : let s (r : List Word) (m : Memory) := tQueued r m
    let y (r : List Word) : Context := { tCtx with fabricQ := [r] }
    (∀ r, nget (s r []).ctxs 0 = some (y r) ∧ (y r).st = .running ∧ (y r).drain = none ∧ (y r).fabricQ = r :: [] ∧ (s r []).heads = []) ∧
    GoodRecord (intervalOf (s (tRecord 0 0 0) []) 0).2 (tRecord 0 0 0) ∧ GoodRecord (intervalOf (s (tRecord 0 0 0) []) 0).2 (tRecord 0 0x10100 0) ∧
    GoodRecord (intervalOf (s (tRecord 0 0 0) []) 0).2 (tRecord 0x10100 0 0) ∧ ¬ GoodRecord (intervalOf (s [1] []) 0).2 [1] ∧
    (∀ v ∈ [0, 3], dispRead ⟨300, 506000000, 0, 0⟩ 0x10100 (s (tRecord 0 0x10100 0) (if v = 0 then [] else tMem [(0x100, 3)])) =
      .ok (v, s (tRecord 0 0x10100 0) (if v = 0 then [] else tMem [(0x100, 3)]))) ∧
    (∀ v ∈ [0, 3], let t := s (tRecord 0x10100 0 0) (if v = 0 then [] else tMem [(0x100, 3)])
      dispRead ⟨300, 506000000, 0, 0⟩ 0x10100 t = .ok (v, t)) ∧
    (let h : Head := ⟨.fabric 0, tRecord 0x10100 0 0, 0, true, none, none⟩
     let t : State := { s (tRecord 0x10100 0 0) (tMem [(0x100, 3)]) with heads := [h] }
     t.heads = [] ++ h :: [] ∧ tRecord 0x10100 0 0 ≠ [] ∧ dispRead ⟨300, 506000000, 0, 0⟩ 0x10100 t = .ok (3, t)) := by
  refine ⟨fun r => ⟨rfl, rfl, rfl, rfl, rfl⟩, ?_, ?_, ?_, ?_, ?_, ?_, rfl, by decide, uran (by decide +kernel)⟩
  · unfold GoodRecord; decide +kernel
  · unfold GoodRecord; decide +kernel
  · unfold GoodRecord; decide +kernel
  · unfold GoodRecord; decide +kernel
  · intro v hv
    obtain rfl | rfl : v = 0 ∨ v = 3 := by simpa using hv
    · exact uran (by decide +kernel)
    · exact uran (by decide +kernel)
  · intro v hv
    obtain rfl | rfl : v = 0 ∨ v = 3 := by simpa using hv
    · exact uran (by decide +kernel)
    · exact uran (by decide +kernel)

theorem wit_Launches_start : let r := tRecord 0 0 0
    let s : State := { tQueued r with heads := [⟨.fabric 0, r, 0, true, some true, none⟩] }
    let l := launchOf s 0 0 r
    nget s.vfs (0 / 2 ^ 20) = some (0, 64) ∧ GoodRecord 64 r ∧ s.heads = [⟨.fabric 0, r, 0, true, some true, none⟩] ∧
    (∀ c, (if l.tpl then c = l.base else l.base ≤ c ∧ c < l.base + l.rlen) → (0 : Nat) < 4 ∧ (slotAt s c 0).st = .free ∧ ∀ i, i < 0 → (slotAt s c i).st ≠ .free) ∧
    (∀ p ∈ s.launches, p.2.active = true → p.2.base + p.2.rlen ≤ l.base ∨ l.base + l.rlen ≤ p.2.base) ∧
    (let t : State := { s with launches := [(1, tLaunch)] }
     ∃ p ∈ t.launches, p.2.active = true ∧ 1 ≤ p.2.rlen ∧ p.2.base < l.base + l.rlen ∧ l.base < p.2.base + p.2.rlen) := by
  refine ⟨rfl, ?_, rfl, fun c _ => ⟨Nat.zero_lt_succ 3, rfl, fun i hi => absurd hi (Nat.not_lt_zero i)⟩, fun p hp => (by cases hp), by decide +kernel⟩
  unfold GoodRecord; decide +kernel

theorem wit_Launches_complete : let l := { tLaunch with rlen := 2 }
    let s (z : Word) : State := { State.reset with launches := [(1, { l with compl := z })], ctxs := [(0, tCtx)], unitTlb := [(300, [tEntry])], vfs := [(0, (0, 64))] }
    let quiet (c : Nat) : Prop := let k := coreOf (s 0) c
      (∀ i, i < 5 → (slotAt (s 0) c i).st = .free ∨ (slotAt (s 0) c i).launch ≠ some 1) ∧ (∀ e ∈ k.rq, e.launch ≠ some 1 ∨ e.kind = 2) ∧
      (∀ j (h : j < 16) e, k.wt[j] = some e → e.launch ≠ some 1) ∧ (∀ e ∈ k.sb, 5 ≤ e.slot) ∧ k.dq = [] ∧ k.rots = [] ∧ k.orphans = []
    let t1 : State := { s 0x10100 with launches := [(1, { l with compl := 0x10100, active := false })], compls := [⟨1, 0, 0x10100, none⟩] }
    nget (s 0).launches 1 = some { l with compl := 0 } ∧ l.active = true ∧ (s 0).compls = [] ∧ nget (s 0).ctxs l.ctx = some tCtx ∧ tCtx.st = .running ∧
    (∀ c ∈ (List.range l.rlen).map (l.base + ·), quiet c) ∧
    ((s 0).mesh = [] ∧ (s 0).counts = [] ∧ (∀ p ∈ (s 0).cores, p.2.mq = []) ∧ ∀ p ∈ (s 0).tpls, p.2.launch ≠ some 1) ∧
    uSeg ⟨300, 7000001, 0, 0⟩ ⟨true, true, true⟩ (some .furlWrite) 0x10100 8 t1 = .ok (gSeg 0x100 8, t1) ∧
    anyPoison (s 0) (gSeg 0x100 8).pa 8 = false ∧
    (slotAt (tState fun y => { y with launch := some 1 }) 0 0).st ≠ .free ∧ (slotAt (tState fun y => { y with launch := some 1 }) 0 0).launch = some 1 := by
  refine ⟨rfl, rfl, rfl, rfl, rfl, fun c _ => ⟨fun i _ => ?_, ?_, fun j h e he => ?_, ?_, rfl, rfl, rfl⟩, by decide +kernel, uran (by decide +kernel), by decide +kernel, by decide +kernel,
    by decide +kernel⟩
  · rename_i hi
    have : ∀ i, i < 5 → (slotOf Core.reset i).st = .free := by decide +kernel
    exact .inl (this i hi)
  · intro e he; cases he
  · have : ∀ j (h : j < 16), Core.reset.wt[j] = none := by decide +kernel
    exact absurd (this j h) (by show ¬ Core.reset.wt[j] = none; intro h2; rw [show (Core.reset.wt[j]) = some e from he] at h2; cases h2)
  · intro e he; cases he

end Sys2Proof.Tests
end

