-- ==== Sys2Proof/Tests/Witnesses7.lean ====
section
/-! SUPPORT. States and operands that meet the hypotheses of the claims on contexts, keys, handles and the control complex. -/

set_option Elab.async false

namespace Sys2Proof.Tests

open Sys2Proof Sys2Proof.Machine Sys2Proof.Machine.Claims

theorem wit_ContextLifeAndDrain_create : GoodDescriptor tDesc ∧ ¬ GoodDescriptor { tDesc with lcap := 0 } ∧
    ((State.reset.ctxs.filter fun p => decide (p.1 / 2 ^ 20 = tDesc.vf.toNat) && decide (p.2.st ≠ .ended)).length < 64) ∧ (∀ z, nget State.reset.ctxs 0 = some z → z.st = .ended) ∧
    (let s := tHome tCtx id
     nget s.ctxs 0 = some tCtx ∧ tCtx.st ≠ .ended) := by
  refine ⟨?_, ?_, by decide +kernel, fun z h => (by cases h), by decide +kernel⟩
  · unfold GoodDescriptor; decide +kernel
  · unfold GoodDescriptor; decide +kernel

theorem wit_ContextLifeAndDrain_start : let y (f : Context → Context) : Context := f { tCtx with st := .created }
    let s (f : Context → Context) : State := { State.reset with ctxs := [(0, y f)], vfs := [(0, (0, 64))], scrubs := [⟨0, 64, none, some 0, 1⟩] }
    let ready (f : Context → Context) : Prop := ((y f).st = .created ∨ (y f).st = .descheduled) ∧ (y f).held = false ∧ nget (s f).vfs (0 / 2 ^ 20) = some (0, 64) ∧ 0 < 64 ∧
      (∀ p ∈ (s f).ctxs, p.2.st = .running → p.1 / 2 ^ 20 ≠ 0 / 2 ^ 20) ∧ (∀ q ∈ (s f).quads, q.2.fenced = false) ∧
      ∀ q ∈ (s f).ctxs, q.1 ≠ 0 → q.2.desc.prot = false ∨ q.2.st ≠ .descheduled ∨ q.2.firstStart = none
    let prot (z : Context) : Context := { z with desc := { tDesc with prot := true } }
    let saved (z : Context) : Context := { z with
      saved := some ⟨[(3, Core.reset)], [(windowPa 3 0x100, 9)], [windowPa 3 0x100 / 8], [(.core 3, ⟨1, [], 2⟩)], [(67, ⟨0, [], [], [], [], []⟩)]⟩ }
    ready id ∧ ready prot ∧ ready saved ∧ (s id).scrubs = [] ++ [⟨0, 64, none, some 0, 1⟩] ∧ (y prot).desc.prot = true ∧ (y prot).firstStart = none ∧ (y id).saved = none ∧
    Within 0 64 3 ∧ ownerOf (s id).hdm (windowPa 3 0x100) = .slice 3 0x100 ∧ (y fun z => { z with held := true }).held = true := by
  refine ⟨?_, ?_, ?_, by decide +kernel, by decide +kernel, by decide +kernel, by decide +kernel, ?_, by decide +kernel, by decide +kernel⟩
  · decide +kernel
  · decide +kernel
  · decide +kernel
  · unfold Within; decide

theorem wit_ContextLifeAndDrain_tenant : let p : Context := { tCtx with st := .descheduled, firstStart := some 0, desc := { tDesc with prot := true, sq := 100, sper := 1000 } }
    let y : Context := { tCtx with st := .created }
    let s : State := { State.reset with ctxs := [(0, y), (2 ^ 20, p)], vfs := [(0, (0, 64)), (1, (0, 64))], ns := 700000 }
    nget s.ctxs 0 = some y ∧ (2 ^ 20, p) ∈ s.ctxs ∧ p.desc.prot = true ∧ p.st = .descheduled ∧ p.firstStart = some 0 ∧ nget s.vfs (0 / 2 ^ 20) = some (0, 64) ∧
    nget s.vfs (2 ^ 20 / 2 ^ 20) = some (0, 64) ∧ (s.ns - 0) / 1000 % p.desc.sper.toNat < p.desc.sq.toNat + p.desc.wdlim.toNat + (if p.desc.rlc = 0 then 200 else if p.desc.rlc = 1 then 2000 else 20000) :=
  ⟨rfl, .tail _ (.head _), rfl, rfl, rfl, rfl, rfl, by decide +kernel⟩

theorem wit_ContextLifeAndDrain_end : let s : State := { tHome tCtx id with walks := [⟨0, 0, 0, 0, false, false, false, [.slot 0 0]⟩, ⟨0, 0, 5, 0, false, false, false, [.slot 1 0]⟩] }
    nget s.ctxs 0 = some tCtx ∧ tCtx.st = .running ∧ tCtx.drain = none ∧ tCtx.st ≠ .ended ∧ tCtx.st ≠ .error ∧ tDraining.drain ≠ none ∧ (slotAt s 0 0).ctx = 0 ∧
    (slotAt (tState fun y => { y with ctx := 5 }) 0 0).ctx ≠ 0 ∧ tCtx.desc.prot = false ∧ s.ecc = [] := by decide +kernel

/-- A protected context whose quantum has passed, and one whose quantum has not. -/
theorem wit_ContextLifeAndDrain_quantum : let y : Context := { tCtx with firstStart := some 0, desc := { tDesc with prot := true, sq := 100, sper := 1000 } }
    let s (n : Nat) : State := { State.reset with ctxs := [(0, y)], ns := n }
    nget (s 100000).ctxs 0 = some y ∧ y.st = .running ∧ y.drain = none ∧ y.firstStart = some 0 ∧ 0 < y.desc.sper.toNat ∧
    y.desc.sq.toNat ≤ ((s 100000).ns - 0) / 1000 % y.desc.sper.toNat ∧ ((s 5000).ns - 0) / 1000 % y.desc.sper.toNat < y.desc.sq.toNat := by decide +kernel

theorem wit_ContextLifeAndDrain_watchdog : let y := tDraining
    let s (n : Nat) : State := { tHome y id with vfs := [(0, (0, 64))], ns := n }
    let sl := slotAt (s 500000) 0 0
    nget (s 500000).ctxs 0 = some y ∧ nget (s 500000).vfs (0 / 2 ^ 20) = some (0, 64) ∧ y.drain = some 0 ∧ (s 5).ns < 0 + 1000 * y.desc.wdlim.toNat ∧
    0 + 1000 * y.desc.wdlim.toNat ≤ (s 500000).ns ∧ Within 0 64 0 ∧ sl.st ≠ .free ∧ sl.st ≠ .parked ∧ sl.ctx = 0 ∧ sl.tpl = none ∧ sl.d = Vector.replicate 4 none ∧
    (∀ q j, j < 5 → ¬ (q = 0 ∧ j = 0) → (slotAt (s 500000) q j).ctx ≠ 0 ∨ (slotAt (s 500000) q j).st = .free ∨ (slotAt (s 500000) q j).st = .parked) := by
  refine ⟨rfl, rfl, rfl, by decide +kernel, by decide +kernel, by unfold Within; decide, by decide +kernel, by decide +kernel, (by decide +kernel), by decide +kernel, by decide +kernel,
    fun q j hj hn => .inr (.inl ?_)⟩
  by_cases h : q = 0
  · subst h
    have : ∀ j, j < 5 → j ≠ 0 → (slotAt { tHome tDraining id with vfs := [(0, (0, 64))], ns := 500000 } 0 j).st = .free := by decide +kernel
    exact this j hj fun e => hn ⟨rfl, e⟩
  · have h1 : coreOf { tHome tDraining id with vfs := [(0, (0, 64))], ns := 500000 } q = Core.reset := by
      simp [coreOf, tHome, tState, nget, h, Ne.symm h]
    have : ∀ j, j < 5 → (slotOf Core.reset j).st = .free := by decide +kernel
    show (slotOf (coreOf _ q) j).st = .free
    rw [h1]
    exact this j hj

theorem wit_ContextLifeAndDrain_complete : let y := tDraining
    let s : State := { tUpcalls (fun z => { z with st := .parked }) with ctxs := [(0, y)], vfs := [(0, (0, 1))] }
    let sl := slotAt s 0 0
    let pa := windowPa 0 (sl.carveBase.toNat + sl.carveSize.toNat - 256 + 240)
    nget s.ctxs 0 = some y ∧ nget s.vfs 0 = some (0, 1) ∧ y.drain = some 0 ∧ y.st = .running ∧
    ((∀ q, Within 0 1 q → (∀ j, j < 5 → (slotAt s q j).st = .free ∨ (slotAt s q j).st = .parked) ∧ (coreOf s q).sb = [] ∧
      (coreOf s q).dq = [] ∧ (coreOf s q).rots = [] ∧ (coreOf s q).orphans = [] ∧ (coreOf s q).unmapDue = []) ∧
      (∀ h ∈ s.chans, h.2.ctx = 0 → h.2.exec = [] ∧ (h.2.pops = [] ∨ h.2.results = [])) ∧
      s.mesh = [] ∧ (∀ p ∈ s.cores, p.2.mq = []) ∧ ∀ r ∈ s.counts, r.src.ctx ≠ 0) ∧
    sl.st = .parked ∧ pa % 8 = 0 ∧ s.gwalks = [] ∧ ownerOf s.hdm pa = .slice 0 (pa % 0x20000) ∧
    (∀ q j, j < 4 → (slotAt s q j).st = .parked → q = 0 ∧ j = 0) := by
  refine ⟨rfl, rfl, rfl, rfl, ⟨fun q hq => ?_, by decide +kernel⟩, by decide +kernel, by decide +kernel, by decide +kernel, by decide +kernel, fun q j hj hp => ?_⟩
  · obtain rfl : q = 0 := by have h1 := hq.1; have h2 := hq.2; omega
    decide +kernel
  · by_cases h : q = 0
    · subst h
      have : ∀ j, j < 4 → (slotAt (tUpcalls (fun z => { z with st := .parked })) 0 j).st = .parked → j = 0 := by decide +kernel
      exact ⟨rfl, this j hj hp⟩
    · have h1 : coreOf { tUpcalls (fun z => { z with st := .parked }) with ctxs := [(0, tDraining)], vfs := [(0, (0, 1))] } q = Core.reset := by
        simp [coreOf, tUpcalls, tHome, tState, nget, h, Ne.symm h]
      have h2 : ∀ j, j < 4 → (slotOf Core.reset j).st ≠ .parked := by decide +kernel
      exact absurd (by rw [← h1]; exact hp) (h2 j hj)

theorem wit_ScrubsAndKeys_scrub : let s (st : CtxSt) : State := { tHome { tCtx with st := st } id with vfs := [(0, (0, 64))] }
    (∀ p ∈ (s .descheduled).ctxs, p.2.st = .running → 64 ≤ 0 ∨ 0 + 4 ≤ 0) ∧ (∃ z, nget (s .descheduled).ctxs 0 = some z ∧ z.st ≠ .error) ∧
    (∃ z, nget (s .error).ctxs 0 = some z ∧ z.st = .error) ∧ (∀ p ∈ (s .error).ctxs, p.2.st = .running → 64 ≤ 0 ∨ 0 + 4 ≤ 0) ∧
    (∃ p ∈ (s .running).ctxs, p.2.st = .running ∧ 0 < 0 + 4 ∧ 0 < 0 + 64) := by
  refine ⟨by decide +kernel, ⟨_, rfl, by decide⟩, ⟨_, rfl, by decide⟩, by decide +kernel, by decide +kernel⟩

theorem wit_ScrubsAndKeys_keys : let b : KeyBlob := ⟨0, 3, 5, [0x400000000001, 0x200000, 0x200000, 0, 0, 0, 0, 0, 0], 0x30000, true⟩
    let s (k : KeySlot) : State := { State.reset with keys := State.reset.keys.set 2 k }
    let t : State := { s { tKey with st := .erasing } with chans := [(3, ⟨0, [], [⟨tMoveCmd 0 0 0, 0, 0, none, none, 0, [2], false⟩], [], [], []⟩)] }
    (keySlot State.reset 2).st = .empty ∧ b.inSession = true ∧ GoodPolicy b.policy ∧ ¬ GoodPolicy [0] ∧ (keySlot (s tKey) 2).st = .loaded ∧ (keySlot (s tKey) 2).st ≠ .empty ∧ t.cores = [] ∧
    (let r : Retire := ⟨false, 0, 0, 0, none, none, none, false, [(2, false)], 0⟩
     let q := tState id fun k => { k with dq := [r] }
     ∃ p ∈ q.cores, ∃ r ∈ p.2.dq, ∃ m ∈ r.keys, m.1 = (2 : Fin 64).val) ∧
    (keySlot (s { tKey with st := .erasing }) 2).st = .erasing ∧ (∀ p ∈ (s { tKey with st := .erasing }).chans, ∀ e ∈ p.2.exec, (2 : Fin 64).val ∉ e.keys) ∧
    (∃ p ∈ t.chans, ∃ e ∈ p.2.exec, (2 : Fin 64).val ∈ e.keys) := by
  refine ⟨by decide +kernel, by decide +kernel, ?_, ?_, by decide +kernel, by decide +kernel, rfl, by decide +kernel, by decide +kernel, by decide +kernel, by decide +kernel⟩
  · unfold GoodPolicy; decide +kernel
  · unfold GoodPolicy; decide +kernel

theorem wit_HandlesAndEvidence_handles : let s : State := { State.reset with ctxs := [(0, tCtx), (1, { tCtx with st := .error }), (0x100001, tCtx)] }
    nget s.ctxs 0 = some tCtx ∧ (0 : BitVec 21) = s.pkg ∧ (1 : BitVec 21) ≠ s.pkg ∧ (∃ z, nget s.ctxs 0 = some z ∧ z.st ≠ .ended ∧ z.st ≠ .error) ∧
    (∃ z, nget s.ctxs 1 = some z ∧ (z.st = .ended ∨ z.st = .error)) ∧ (0 : Nat) / 2 ^ 20 = 0 / 2 ^ 20 ∧ (0x100001 : Nat) / 2 ^ 20 ≠ 0 / 2 ^ 20 ∧
    nget s.chans (64 * 0 + 3) = none ∧ (let t : State := { s with chans := [(64 * 0 + 3, ⟨0x100001, [], [], [], [], []⟩)] }
      ∃ k, nget t.chans (64 * 0 + 3) = some k ∧ k.ctx ≠ 0 ∧ nget t.ctxs k.ctx = some tCtx ∧ tCtx.st ≠ .ended) := by
  refine ⟨rfl, by decide +kernel, by decide +kernel, ⟨_, rfl, by decide, by decide⟩, ⟨_, rfl, by decide⟩, rfl, by decide, rfl, _, rfl, by decide, by decide +kernel, by decide⟩

theorem wit_HandlesAndEvidence_evidence : let i (b : Bool) (t : TdiSt) : VfIf := ⟨b, t, none⟩
    let s (b : Bool) (t : TdiSt) : State := { State.reset with ifs := [(0, i b t)] }
    (∃ y, nget (tHome tCtx id).ctxs 0 = some y ∧ y.st ≠ .ended) ∧ 16 ≤ (List.replicate 20 (0 : Byte)).length ∧ (List.replicate 20 (0 : Byte)).length ≤ 64 ∧
    ([] : List Byte).length < 16 ∧ nget (s true .unlocked).ifs 0 = some (i true .unlocked) ∧ (i true .unlocked).session = true ∧ (i true .unlocked).tdi = .unlocked ∧
    nget (s true .locked).ifs 0 = some (i true .locked) ∧ (i true .locked).tdi = .locked ∧ nget (s false .run).ifs 0 = some (i false .run) ∧ (i false .run).session = false ∧
    (i false .run).tdi = .run ∧ (s true .run).ctxs = [] := by
  refine ⟨⟨_, rfl, by decide⟩, by decide +kernel⟩

theorem wit_ControlComplex_writes : Writable State.reset (.rptw 0x511) ∧ Writable State.reset (.space 0 5 true 0x200000 1 false) ∧ Writable State.reset (.hdm 0 0 16) ∧
    Writable State.reset (.hostGrant 1 0 0 0x1000) ∧ Writable State.reset (.reassign 1 2) ∧ Writable (tHome tCtx id) (.registration 0 3 ⟨0, 8, true, true, true, []⟩) ∧
    Writable State.reset (.descriptor tDesc) := by
  refine ⟨?_, ?_, ?_, ?_, ?_, ?_, ?_⟩
  · show ∀ j, j < 3 → (0x511 : BitVec 12).toNat / 16 ^ j % 16 ≠ 0
    decide
  · show ¬ (true = true ∧ false = true) ∧ 2 ^ pageBits 1 ∣ 0x200000
    decide
  · show 0 + 16 ≤ 2 ^ 31
    decide
  · show 0 + 0x1000 ≤ 2 ^ 32
    decide
  · show 1 / 8 = 2 / 8 ∧ 1 < 32 ∧ 1 ≠ 2
    decide
  · intro y hy
    obtain rfl : tCtx = y := by simpa [tHome, nget] using hy
    exact .inl (by decide)
  · refine ⟨?_, fun y h => by cases h⟩
    unfold GoodDescriptor; decide +kernel

theorem wit_ControlComplex_intervals : let s : State := { State.reset with vfs := [(0, (0, 64)), (1, (64, 64))], quads := [(40, { Quad.reset with fenced := true })] }
    ((∀ v ∈ s.vfs, v.1 ≠ 0 → v.2.1 + v.2.2 ≤ 0 ∨ 0 + 64 ≤ v.2.1) ∧ (∀ q ∈ s.quads, q.2.fenced = true → 4 * q.1 + 3 < 0 ∨ 0 + 64 ≤ 4 * q.1) ∧ 0 < 64 ∧ 0 + 64 ≤ 6144) ∧
    s.ctxs = [] ∧ s.launches = [] ∧ s.tpls = [] ∧ (∃ q ∈ (tHome tCtx id).ctxs, q.1 / 2 ^ 20 = 0 ∧ q.2.st = .running) ∧
    (let v : Saved := ⟨[(3, Core.reset)], [], [], [], []⟩
     let y : Context := { tCtx with st := .descheduled, saved := some v }
     let t : State := { s with ctxs := [(0, y)] }
     nget t.vfs 0 = some (0, 64) ∧ (∀ q ∈ t.ctxs, q.1 / 2 ^ 20 = 0 → q.2.st = .descheduled) ∧ nget t.ctxs 0 = some y ∧ y.saved = some v ∧
      (∀ v ∈ t.vfs, v.1 ≠ 0 → v.2.1 + v.2.2 ≤ 256 ∨ 256 + 64 ≤ v.2.1) ∧ ∀ q ∈ t.quads, q.2.fenced = true → 4 * q.1 + 3 < 256 ∨ 256 + 64 ≤ 4 * q.1) ∧
    (let s : State := { State.reset with evrt := [(5, ⟨2, 0⟩)] }
     ((nget s.evrt (0 * 4096 + 4)).getD ⟨0, 0⟩).owner = 0 ∧ ((nget s.evrt (0 * 4096 + 5)).getD ⟨0, 0⟩).owner ≠ 0 ∧ ((nget s.evrt (0 * 4096 + 5)).getD ⟨0, 0⟩).owner ≠ 1) := by
  decide +kernel

theorem wit_ControlComplex_debug : let s (p : Bool) (t : Tile) (w : WMap) (q : PReg) : State :=
      { tQuad (tHome { tCtx with desc := { tDesc with prot := p } } (fun y => { y with w := y.w.set 3 w }) (fun k => { k with ctx := some 0, tiles := k.tiles.set 1 t }))
        (fun x => { x with pregs := x.pregs.set 4 q }) with mem := [] }
    let y (p : Bool) : Context := { tCtx with desc := { tDesc with prot := p } }
    let a := s false {} (.priv 4) tWide
    (slotAt (tSuper id) 0 1).st = .halted ∧ (slotAt (tSuper id) 0 1).launch = none ∧ (slotAt a 0 0).st ≠ .halted ∧ (coreOf a 0).ctx = some 0 ∧ nget a.ctxs 0 = some (y false) ∧
    ownerOf a.hdm (windowPa 0 0x104 / 8 * 8) = .slice 0 0x100 ∧ furledKey a (windowPa 0 0x104 / 8 * 8) = none ∧ ((coreOf a 0).tiles.get 1).tag = none ∧
    nget (s true {} (.priv 4) tWide).ctxs 0 = some (y true) ∧ (slotAt a 0 0).w.get 3 = .priv 4 ∧ (slotAt a 0 0).ctx = 0 ∧ ((quadAt a 0).pregs.get 4).tag = none ∧
    ((quadAt (s false {} (.priv 4) tSealed) 0).pregs.get 4).tag ≠ none ∧ (slotAt (s false {} .unmapped tWide) 0 0).w.get 3 = .unmapped ∧
    populated a (windowPa 0 0x100) 1 = true ∧ isPoison a (windowPa 0 0x100) = false ∧
    (let b := s false { tag := some 2, owner := some (0, 0) } .unmapped tWide; ((coreOf b 0).tiles.get 1).tag ≠ none ∧ ((coreOf b 0).tiles.get 1).owner = some (0, 0)) ∧
    (let f : State := { a with cores := [(0, { coreOf a 0 with furl := [⟨2, 0x400, 0x100, 0x200000⟩] })], keys := State.reset.keys.set 2 tKey }
     furledKey f (windowPa 0 0x404 / 8 * 8) = some 2 ∧ (keyAt f 2).ctx = 0 ∧ nget f.ctxs 0 = some (y false)) := by decide +kernel

end Sys2Proof.Tests
end

