-- ==== Sys2Proof/Tests/Witnesses8.lean ====
section
/-! SUPPORT. States and operands that meet the hypotheses of the claims on Halyard and the package. -/

set_option Elab.async false

namespace Sys2Proof.Tests

open Sys2Proof Sys2Proof.Machine Sys2Proof.Machine.Claims

theorem wit_QueuePairsAndSessions_create : let en : Engine := ⟨1, 63, false⟩
    let s (l : NMap Session) (q : NMap Qp) : State := { State.reset with ctxs := [(0, tCtx)], engines := [(100, en)], sessions := l, qps := q }
    (nget (s [] []).ctxs 0 = some tCtx ∧ tCtx.st ≠ .ended ∧ tCtx.st ≠ .error ∧ 1 ≤ tInit.tmo ∧ tInit.tmo ≤ 12000000 ∧ 1 ≤ tInit.rcnt ∧ tInit.rcnt ≤ 15 ∧
      nget (s [] []).engines (100 + tInit.port.val) = some en ∧ en.fenced = false) ∧ nget (s [] []).qps tInit.qpn.toNat = none ∧ nget (s [] []).sessions tInit.sid.toNat = none ∧
    nget (s [(4, tSession)] []).sessions tInit.sid.toNat = some tSession ∧ tSession.up = true ∧ tSession.ctx = 0 ∧ tSession.pkg = tInit.ppkg.toNat ∧
    nget (s [] [(1, tQp)]).qps tInit.qpn.toNat = some tQp ∧ tQp.st = .ready ∧ ({ tInit with tmo := 0 } : QpInit).tmo = 0 := by decide +kernel

theorem wit_QueuePairsAndSessions_handshake : let s (b : Bool) (l : List Nat) (t : Option Nat) : State :=
      { tNet id tQp { tCtx with peers := l } [] with sessions := [(4, { tSession with up := b, oldUntil := t })] }
    let p (a : Bool) : Packet := { tPacket with auth := a }
    let row (p : Packet) := Instr.ack p
    nget (s true [0] none).sessions (p true).sid.toNat = some tSession ∧ nget (s true [0] none).ctxs 0 = some { tCtx with peers := [0] } ∧
    ((p true).auth = true ∧ Alu.natOf (p true).data ∈ [0]) ∧ (p false).auth = false ∧ nget (s false [0] none).sessions 4 = some { tSession with up := false } ∧
    nget State.reset.sessions (p true).sid.toNat = none ∧ (s true [] none).qps.find? (fun q => q.2.rec0.sid = 4) = some (1, tQp) ∧
    nget (s true [] (some 5)).sessions (4 : BitVec 32).toNat = some { tSession with oldUntil := some 5 } ∧ tSession.up = true := by decide +kernel

theorem wit_QueuePairsAndSessions_row : (Instr.ack : Packet → Instr) ∈ packetRows := by simp [packetRows]

theorem wit_NetworkCommands : let c (op a b len : Nat) := tNetCmd op 0 a b len
    let s (op a b len : Nat) := tNetGo (c op a b len) []
    let u : UnitId := ⟨100, 2000001, 0, 0⟩
    let good (op a b len : Nat) : Prop := OnlyCommand (s op a b len) 100 3 (tNetExec (c op a b len)) ∧ (tNetExec (c op a b len)).posted = false ∧ (tNetExec (c op a b len)).keys = [1] ∧ (tNetExec (c op a b len)).pois = none ∧ (c op a b len).word 0 / 2 ^ 56 = op ∧ nget (s op a b len).qps 1 = some tQp ∧
      nget (s op a b len).sessions tQp.rec0.sid.toNat = some tSession ∧ qpExecs (s op a b len) 1 = [(chanKey 100 3, tNetExec (c op a b len))] ∧ (nget (s op a b len).hubs (0 / 6)).getD 0 = 0 ∧
      (chanAt (s op a b len) (chanKey 100 3)).ctx = 0
    good 0x10 0x10100 0x10200 8 ∧ good 0x11 0x10100 0x10200 8 ∧ good 0x12 0x10100 0 8 ∧ good 0x13 0 0x10200 0 ∧ good 0x14 0 0x10200 0 ∧ tQp.st = .ready ∧ tSession.sendCtr < 2 ^ 32 ∧
    uSegs u accBulkRd (some .furlCopy) (8 / 4096 + 2) 0x10100 8 (s 0x10 0x10100 0x10200 8) = .ok ([gSeg 0x100 8], s 0x10 0x10100 0x10200 8) ∧
    uSegs u accBulkWr (some .furlCopy) (8 / 4096 + 2) 0x10100 8 (s 0x11 0x10100 0x10200 8) = .ok ([gSeg 0x100 8], s 0x11 0x10100 0x10200 8) ∧
    uSegs u accBulkRd (some .furlCopy) (8 / 4096 + 2) 0x10100 8 (s 0x12 0x10100 0 8) = .ok ([gSeg 0x100 8], s 0x12 0x10100 0 8) ∧ (segBytes [gSeg 0x100 8]).length = 8 ∧
    NoPoison (s 0x10 0x10100 0x10200 8) (segBytes [gSeg 0x100 8]) := by
  refine ⟨?_, ?_, ?_, ?_, ?_, by decide +kernel, by decide +kernel, uran (by decide +kernel), uran (by decide +kernel), uran (by decide +kernel), by decide +kernel, ?_⟩ <;>
    simp only [OnlyCommand, NoPoison] <;> decide +kernel

theorem wit_NetworkCommands_handle : let c := tNetCmd 0x10 0 0x10100 0x10200 8
    let s := tNet (fun k => { k with cmds := [c] }) tQp tCtx []
    (∀ m, m < 64 → (chanAt s (chanKey 100 m)).exec = [] ∧ (chanAt s (chanKey 100 m)).held = []) ∧ (∀ m, m < 64 → m ≠ 3 → (chanAt s (chanKey 100 m)).cmds = []) ∧ (chanAt s (chanKey 100 3)).cmds = [c] ∧
    ResultRoom s (chanKey 100 3) ∧ ctxRuns s 0 = true ∧ (∀ en, nget s.engines 100 = some en → en.fenced = false) ∧ pusherDone s c = true ∧
    c.word 0 / 2 ^ 56 = 0x10 ∧ c.hFieldsOk = true ∧ c.bit 49 = true ∧ c.bit 50 = false ∧ c.bit 51 = false ∧ c.bit 52 = false ∧ (∀ m, ¬ HandleOf s 0 c m) := by
  refine ⟨by decide +kernel, by decide +kernel, by decide +kernel, ?_, by decide +kernel, fun en h => ?_, by decide +kernel, by decide +kernel, (by decide +kernel),
    by decide +kernel, by decide +kernel, (by decide +kernel), by decide +kernel, ?_⟩
  · unfold ResultRoom; decide +kernel
  · obtain rfl : (⟨1, 63, false⟩ : Engine) = en := by simpa [tNet, nget] using h
    rfl
  rintro m ⟨y, h, hy, hh, -⟩
  obtain rfl : tCtx = y := by simpa [tNet, nget] using hy
  cases hh

theorem wit_NetworkCommands_row : (0x10, Instr.halyardWrite) ∈ netRows := by simp [netRows]

theorem wit_NetworkCommands_convert : let c (mx df len : Nat) := tNetCmd 0x15 (mx * 2 ^ 27 + df * 2 ^ 32) 0x10100 0x10200 len
    let s (mx df len : Nat) (w : Word) := tNetGo (c mx df len) (tMem ([(0x100, w)].filter fun p => p.2 ≠ 0))
    let vs (w : Word) := (List.range 32).map fun j => Num.decodeSpec ⟨8, 23, 127, .ieee⟩ (Alu.natOf ((((segBytes [gSeg 0x100 128]).map (rdByte (s 1 9 128 w))).drop (4 * j)).take 4))
    let u : UnitId := ⟨100, 2000001, 0, 0⟩
    OnlyCommand (s 1 9 128 0) 100 3 (tNetExec (c 1 9 128)) ∧ (c 0 5 8).word 0 / 2 ^ 56 = 0x15 ∧ (c 0 5 8).cwriteOk = true ∧ (c 1 9 128).cwriteOk = true ∧ (c 0 5 8).rm ≠ .sr ∧
    (c 0 5 8).bit 27 = false ∧ (c 1 9 128).bit 27 = true ∧ nget (s 1 9 128 0).engines 100 = some ⟨1, 63, false⟩ ∧ (segBytes [gSeg 0x100 128]).length = 128 ∧
    uSegs u accBulkRd (some .furlCopy) (128 / 4096 + 2) 0x10100 128 (s 1 9 128 0) = .ok ([gSeg 0x100 128], s 1 9 128 0) ∧
    uSegs u accBulkRd (some .furlCopy) (8 / 4096 + 2) 0x10100 8 (s 0 5 8 0) = .ok ([gSeg 0x100 8], s 0 5 8 0) ∧ NoPoison (s 1 9 128 0) (segBytes [gSeg 0x100 128]) ∧
    (∃ z ∈ vs 0x7F800000, ∀ g m i, z ≠ .fin g m i) ∧ (∀ z ∈ vs 0, ∃ g i, z = .fin g 0 i) ∧ (∀ z ∈ vs 0x3F800000, ∃ g m i, z = .fin g m i) ∧
    (∀ z ∈ vs 0x3F800000, ∀ i, leadOf z = some i → i ≤ 0) ∧ (∃ z ∈ vs 0x3F800000, leadOf z = some 0) := by
  intro c s vs u
  have h0 : vs 0 = List.replicate 32 (.fin false 0 (-149)) := by decide +kernel
  have h1 : vs 0x3F800000 = .fin false (2 ^ 23) (-23) :: List.replicate 31 (.fin false 0 (-149)) := by decide +kernel
  have h2 : vs 0x7F800000 = .inf false :: List.replicate 31 (.fin false 0 (-149)) := by decide +kernel
  refine ⟨?_, by decide +kernel, by decide +kernel, (by decide +kernel), by decide +kernel, by decide +kernel, (by decide +kernel), by decide +kernel, by decide +kernel,
    uran (by decide +kernel), uran (by decide +kernel), ?_, ?_, ?_, ?_, ?_, ?_⟩
  · unfold OnlyCommand; decide +kernel
  · unfold NoPoison; decide +kernel
  · rw [h2]; exact ⟨_, List.mem_cons_self, fun g m i h => by cases h⟩
  · rw [h0]; intro z hz; exact ⟨_, _, List.eq_of_mem_replicate hz⟩
  · rw [h1]; intro z hz
    rcases List.mem_cons.mp hz with h | h
    · exact ⟨_, _, _, h⟩
    · exact ⟨_, _, _, List.eq_of_mem_replicate h⟩
  · rw [h1]; intro z hz i hi
    rcases List.mem_cons.mp hz with h | h
    · subst h
      have : leadOf (.fin false (2 ^ 23) (-23)) = some 0 := by decide +kernel
      rw [this] at hi; cases hi; exact le_refl _
    · rw [List.eq_of_mem_replicate h] at hi; cases hi
  · rw [h1]; exact ⟨_, List.mem_cons_self, by decide +kernel⟩

theorem wit_NetworkAnswers_answers : let s (op opc : Nat) := tAwaiting op opc
    let x (op : Nat) : Exec := tNetExec (tNetCmd op 0 0x10100 0x10200 8) true
    let ok (op opc : Nat) : Prop := Taken (s op opc) tPacket tSession ∧ nget (s op opc).qps tPacket.dqpn.toNat = some { tQp with out := [tOut opc] } ∧ tQp.rec0.sid = tPacket.sid ∧
      tQp.st = .ready ∧ (tOut opc).psn = tPacket.psn.toNat ∧ (tOut opc).cmd = (x op).cmd.id ∧
      ((x op).posted = true ∧ (x op).stop = none ∧ (x op).pois = none ∧ (x op).cmd.bit 49 = true ∧ (x op).cmd.bit 50 = false ∧ (x op).cmd.bit 51 = false ∧ (x op).cmd.bit 52 = false) ∧
      (chanAt (s op opc) (chanKey 100 3)).results.length < 31 ∧ (chanAt (s op opc) (chanKey 100 3)).held = [] ∧ (chanAt (s op opc) (chanKey 100 3)).pops = [] ∧
      ((chanAt (s op opc) (chanKey 100 3)).exec = [x op] ∧ qpExecs (s op opc) 1 = [(chanKey 100 3, x op)]) ∧ (x op).cmd.word 0 / 2 ^ 56 = op ∧
      (∀ h ∈ (s op opc).chans, 6400 ≤ h.1 → h.2.cmds = []) ∧ ∀ r ∈ (s op opc).streams, r.qp ≠ some 1
    ok 0x10 1 ∧ ok 0x11 3 ∧ ok 0x12 5 ∧ ok 0x13 6 ∧ ((tOut 1).opc ≠ 3 ∧ (tOut 1).opc ≠ 6) ∧ ((tOut 3).opc = 3 ∧ (tOut 6).opc = 6) ∧ (∀ j : BitVec 8, ({ tPacket with ncode := j } : Packet).ncode = j) := by
  refine ⟨?_, ?_, ?_, ?_, by decide, by decide, fun j => rfl⟩ <;> simp only [Taken] <;> decide +kernel

theorem wit_NetworkAnswers_read : let s := tAwaiting 0x11 3
    let p : Packet := { tPacket with data := List.replicate 8 7 }
    let o : Outst := { tOut 3 with resp := some (p.data.take (tOut 3).pkt.len) }
    let t : State := { tookIn s p tSession with qps := nset s.qps 1 { tQp with out := [o] } }
    uSegs ⟨100, 2000001, 0, 0⟩ accBulkWr (some .furlCopy) (8 / 4096 + 2) (0x10100 + ((tOut 3).pkt.addr - 0x10200)) 8 t = .ok ([gSeg 0x100 8], t) ∧
    (p.data.take (tOut 3).pkt.len).length = 8 ∧ (segBytes [gSeg 0x100 8]).length = 8 ∧ NoPoison s (segBytes [gSeg 0x100 8]) := by
  refine ⟨uran (by decide +kernel), by decide +kernel, by decide +kernel, ?_⟩
  unfold NoPoison; decide +kernel

theorem wit_NetworkAnswers_both : let x := tNetExec (tNetCmd 0x10 0 0x10100 0x10200 8) true
    let y := tNetExec (tNetCmd 0x10 0 0x10100 0x10200 8 2) true
    let s := tNet (fun k => { k with exec := [x, y] }) { tQp with out := [tOut 1] } tCtx []
    (chanAt s (chanKey 100 3)).exec = [x, y] ∧ qpExecs s 1 = [(chanKey 100 3, x), (chanKey 100 3, y)] ∧ y.posted = true ∧ y.cmd.bit 49 = true ∧ x.cmd.id < y.cmd.id := by decide +kernel

theorem wit_NetworkAnswers_timers : let s (n : Nat) (f : Outst → Outst) : State := { tAwaiting 0x10 1 f with ns := n }
    nget (s 0 id).qps 1 = some { tQp with out := [tOut 1] } ∧ nget (s 0 id).sessions (tOut 1).pkt.sid.toNat = some tSession ∧ tSession.sendCtr < 2 ^ 32 ∧ (tOut 1).resp = none ∧
    (tOut 1).busy = false ∧ (tOut 1).sentAt + 10000 * tQp.rec0.tmo ≤ (s 100000 id).ns ∧ (tOut 1).tries < tQp.rec0.rcnt ∧ (s 5 id).ns < (tOut 1).sentAt + 10000 * tQp.rec0.tmo ∧
    tQp.rec0.rcnt ≤ ({ tOut 1 with tries := 3 } : Outst).tries ∧ (chanAt (s 100000 fun o => { o with tries := 3 }) (chanKey 100 3)).exec = [tNetExec (tNetCmd 0x10 0 0x10100 0x10200 8) true] ∧
    ({ tOut 1 with busy := true } : Outst).busy = true ∧ ({ tOut 1 with busy := true, backoff := 5 } : Outst).sentAt + 5 ≤ (s 5 id).ns ∧
    (s 4 id).ns < ({ tOut 1 with busy := true, backoff := 5 } : Outst).sentAt + 5 ∧ ResultRoom (s 100000 fun o => { o with tries := 3 }) (chanKey 100 3) := by
  simp only [ResultRoom]; decide +kernel

theorem wit_NetworkTargets_memory : let s (m : Memory) (q : Qp) := tNet id q tOpen m
    let a (m : Memory) (q : Qp) (opc : Nat) (p : Packet) : State := { tookIn (s m q) p tSession with rx := [⟨opc, 1, p⟩] }
    let u : UnitId := ⟨100, 7000000 + (1 + 1) * 2 ^ 24 + 0, (nget (s [] tQp).hubs (0 / 6)).getD 0, 0⟩
    let wp : Packet := { tPacket with data := List.replicate 8 7 }
    let rp : Packet := { tPacket with len := 8 }
    let q : Qp := { tQp with rec0 := { tInit with rq := 0x10100 } }
    Taken (s [] tQp) wp tSession ∧ tSession.sendCtr < 2 ^ 32 ∧ nget (s [] tQp).qps wp.dqpn.toNat = some tQp ∧ tQp.rec0.sid = wp.sid ∧ (s [] tQp).rx = [] ∧ nget (s [] tQp).ctxs tQp.ctx = some tOpen ∧
    tQp.evicted = false ∧ tQp.st = .ready ∧ (∀ d ∈ tQp.done, d.1 ≠ wp.psn.toNat) ∧ (wp.psn.toNat + 2 ^ 24 - tQp.rpsn) % 2 ^ 24 < 2 ^ 23 ∧ wp.psn.toNat = tQp.rpsn ∧ wp.vals = [] ∧
    Admits tOpen 1 1 wp wp.data.length ∧ Admits tOpen 1 3 rp rp.len ∧ Admits tOpen 1 6 tPacket 8 ∧ tPacket.addr.toNat % 8 = 0 ∧ ¬ Admits tOpen 1 1 { wp with rkey := 5 } 8 ∧
    uSegs u accBulkWr (some .furlWrite) (8 / 4096 + 2) wp.addr 8 (a [] tQp 1 wp) = .ok ([gSeg 0x100 8], a [] tQp 1 wp) ∧ (segBytes [gSeg 0x100 8]).length = 8 ∧
    uSegs u accBulkRd (some .furlRead) (8 / 4096 + 2) rp.addr 8 (a [] tQp 3 rp) = .ok ([gSeg 0x100 8], a [] tQp 3 rp) ∧
    uSeg u ⟨true, true, true⟩ (some .furlWrite) tPacket.addr 8 (a [] tQp 6 tPacket) = .ok (gSeg 0x100 8, a [] tQp 6 tPacket) ∧
    anyPoison (s [] tQp) (gSeg 0x100 8).pa 8 = false ∧ q.rec0.rq ≠ 0 ∧ q.rec0.rq.toNat % 64 = 0 ∧
    (∀ tail ∈ [0, 1], uSeg u ⟨true, true, true⟩ (some .furlWrite) q.rec0.rq 64 (a (tInbox tail) q 5 wp) = .ok (gSeg 0x100 64, a (tInbox tail) q 5 wp) ∧
      QueueIn (s (tInbox tail) q) 0 (gSeg 0x100 64).pa ⟨0, tail, 1, 2, 0x2000⟩) ∧ wp.len ≤ 8 * 2 ∧ (s (tInbox 0) q).poison = [] ∧ (s (tInbox 0) q).ecc = [] ∧
    (∀ tail ∈ [0, 1], let spot := windowPa 0 0x2000 + 8 * 2 * (tail % 1)
      sliceIdle (s (tInbox tail) q) spot (8 * 2) = true ∧ rangeAt (s (tInbox tail) q) spot (8 * 2) = none) ∧
    (qpExecs (s [] tQp) 1 = [] ∧ (∀ h ∈ (s [] tQp).chans, 6400 ≤ h.1 → h.2.cmds = []) ∧ ∀ r ∈ (s [] tQp).streams, r.qp ≠ some 1) ∧
    NoPoison (s [] tQp) (segBytes [gSeg 0x100 8]) := by
  refine ⟨?_, by decide +kernel, by decide +kernel, (by decide +kernel), by decide +kernel, by decide +kernel, (by decide +kernel), by decide +kernel, by decide +kernel, by decide +kernel,
    (by decide +kernel), by decide +kernel, ⟨_, rfl, by decide +kernel⟩, ⟨_, rfl, by decide +kernel⟩, ⟨_, rfl, by decide +kernel⟩, by decide +kernel, ?_, uran (by decide +kernel),
    by decide +kernel, uran (by decide +kernel), uran (by decide +kernel), by decide +kernel, by decide +kernel, by decide +kernel, ?_, by decide +kernel,
    by decide +kernel, (by decide +kernel), by decide +kernel, by decide +kernel, ?_⟩
  · unfold Taken; decide +kernel
  · rintro ⟨g, hg, -⟩; cases hg
  · intro tail ht
    obtain rfl | rfl : tail = 0 ∨ tail = 1 := by simpa using ht
    · exact ⟨uran (by decide +kernel), ⟨0x100, by decide +kernel⟩, by decide +kernel⟩
    · exact ⟨uran (by decide +kernel), ⟨0x100, by decide +kernel⟩, by decide +kernel⟩
  · unfold NoPoison; decide +kernel

theorem wit_NetworkTargets_fabric : let e : LaunchEntry := ⟨tRecord 0 0 0, 0, 100, 8⟩
    let x : LStream := ⟨4, 0, 0x10300, 0, some 1, 0, [], none, 0, 0⟩
    let y (n : Nat) (root : Nat) : Context := { tCtx with launchTab := [(7, (e, 1))], fabricQ := List.replicate n [], podGroup := [0, 5], podRoot := root }
    let p (l : List Word) : Packet := { tPacket with vals := l }
    let s (n root : Nat) : State := { tNet id tQp (y n root) [] with streams := [x] }
    let n := 1
    Taken (s 0 0) (p [7, 1, 2]) tSession ∧ nget (s 0 0).ctxs tQp.ctx = some (y 0 0) ∧ tQp.rpsn < 2 ^ 24 ∧ nget (y 0 0).launchTab 7 = some (e, 1) ∧
    (n = (1 : BitVec 24).toNat ∧ e.argLo.toNat ≤ 1 ∧ 1 ≤ e.argHi.toNat ∧ 2 ≤ e.nmax.toNat ∧ (2 : Nat) = (e.words.getD 1 0).toNat / 2 ^ 32 % 2 ^ 16) ∧ (y 0 0).fabricQ.length < 64 ∧
    64 ≤ (y 64 0).fabricQ.length ∧ nget (y 0 0).launchTab 9 = none ∧ (s 0 0).streams = [x] ∧ x.qp = some 1 ∧ (4 : Word) = word x.id ∧ x.id < 2 ^ 64 ∧
    (y 0 0).podGroup = [(s 0 0).pkg.toNat, 5] ∧ (y 0 0).podRoot = (s 0 0).pkg.toNat ∧ (5 : Nat) ≠ (s 0 0).pkg.toNat ∧ tQp.rec0.ppkg.toNat = 5 ∧ (y 0 5).podRoot = 5 ∧
    (barAt (s 0 0) (.pod 0)).arrived = [] ∧ (barAt { s 0 0 with bars := [(.pod 0, ⟨0, [0], 0⟩)] } (.pod 0)).arrived = [0] := by
  refine ⟨?_, by decide +kernel⟩
  unfold Taken; decide +kernel

theorem wit_NetworkTargets_done : let a : Sent := ⟨8, 1, { Packet.blank with sid := 4 }⟩
    let q : Qp := { tQp with done := [(0, [a])] }
    nget (tNet id q tCtx []).qps 1 = some q ∧ q.evicted = false ∧ q.done = [(tPacket.psn.toNat, [a])] ∧ a.p.sid = tPacket.sid ∧ ({ tQp with evicted := true } : Qp).evicted = true := by
  decide +kernel

theorem wit_PackagePower_rails : let s (l : List Rail) (b : Boot) : State := { State.reset with power := { State.reset.power with rails := l, boot := b } }
    let all : List Rail := State.reset.power.rails
    (∀ r : Rail, r ∈ (s all .up).power.rails) ∧ (∀ r : Rail, r.order < 1 → r ∈ (s [] .off).power.rails) ∧ (∃ r : Rail, r.order = 1 ∧ r ∉ (s [] .off).power.rails) ∧
    (∃ r ∈ (s all .up).power.rails, r.order = 4) ∧ (∀ r ∈ (s all .up).power.rails, r.order ≤ 4) ∧ (s all .recovery).power.boot = .recovery ∧ (s all .up).power.boot ≠ .recovery := by
  intro s all
  refine ⟨fun r => ?_, fun r h => ?_, ?_, by decide +kernel, by decide +kernel, rfl, by decide⟩
  · cases r <;> decide +kernel
  · cases r <;> revert h <;> decide +kernel
  · exact ⟨.vaon, by decide +kernel, by decide +kernel⟩

theorem wit_PackagePower_heat : let y : Context := { tCtx with desc := { tDesc with prot := true } }
    let s : State := { State.reset with ctxs := [(0, y)] }
    (¬ ∃ z ∈ State.reset.ctxs, z.2.desc.prot = true ∧ (z.2.st = .running ∨ z.2.st = .descheduled)) ∧ (600 ≤ 1000 ∧ 1000 ≤ 1100 ∧ 25 ∣ 1000) ∧
    (∃ z ∈ s.ctxs, z.2.desc.prot = true ∧ (z.2.st = .running ∨ z.2.st = .descheduled)) ∧ ¬ (25 ∣ 1001) ∧ s.ctxs = [(0, y)] ∧ y.desc.prot = true ∧ y.st = .running ∧ y.held = false := by
  decide +kernel

theorem wit_PackagePower_fences : let s : State := { State.reset with engines := [(3, ⟨1, 63, false⟩), (0, ⟨1, 63, false⟩)], chans := [(64 * 3 + 2, ⟨0, [], [], [], [], []⟩)] }
    let t := tExec tCopy2d [] []
    let w : State := { State.reset with gwalks := [⟨9, 0, 0, 0, (0, 0, 0), some 0, true, [], false, 0, 0, [], 0, none⟩] }
    (¬ ∃ z ∈ State.reset.ctxs, z.2.st = .running ∧ ∃ j, j < 4 ∧ 0 ≤ 4 * 3 + j ∧ 4 * 3 + j < 0) ∧ (quadAt State.reset 3).fenced = false ∧
    (quadAt { State.reset with quads := [(3, { Quad.reset with fenced := true })] } 3).fenced = true ∧ 5 ∉ State.reset.subFenced ∧ 5 ∈ ({ State.reset with subFenced := [5] } : State).subFenced ∧
    nget State.reset.reassign 1 = none ∧ nget ({ State.reset with reassign := [(1, 2)] } : State).reassign 1 ≠ none ∧
    nget s.engines 3 = some ⟨1, 63, false⟩ ∧ s.chans = [(64 * 3 + 2, ⟨0, [], [], [], [], []⟩)] ∧ s.ctxs = [] ∧ (0 : Nat) / 16 = 3 / 16 ∧ (0 : Nat) ≠ 3 ∧
    (∀ z, nget s.engines 0 = some z → z.fenced = false) ∧ nget t.engines 0 = some ⟨1, 63, false⟩ ∧ (chanAt t (64 * 0 + 3)).exec ≠ [] ∧ State.reset.gwalks = [] ∧ 5 ∉ State.reset.buntFenced ∧
    (∃ g ∈ w.gwalks, g.running = true ∧ g.unit = some 0) ∧
    (let q : State := { State.reset with qps := [(1, tQp)] }
     q.engines = [] ∧ q.chans = [] ∧ q.qps = [(1, tQp)] ∧ tQp.rec0.port = 0) := by
  intro s t w
  refine ⟨by decide +kernel, by decide +kernel, (by decide +kernel), by decide +kernel, by decide +kernel, (by decide +kernel), by decide +kernel, by decide +kernel, by decide +kernel,
    (by decide +kernel), by decide, by decide, fun z h => ?_, by decide +kernel, by decide +kernel, (by decide +kernel), by decide +kernel, by decide +kernel, (by decide +kernel)⟩
  obtain rfl : (⟨1, 63, false⟩ : Engine) = z := by simpa [s, nget] using h
  rfl

end Sys2Proof.Tests
end

section
/-! Branches, calls and jumps (R50 to R53): what each leaves, and the words of OP 0x22. -/

set_option Elab.async false

namespace Sys2Proof

/-! ### Words of an opcode with one function code and the literal alone (R16, R18, R51, R329) -/

/-- Bits 51 to 32 of an L-format word are its D, A, C and SZ fields (R18). -/
theorem middle_zero_iff (w : Word) : (fD w = 0 && fA w = 0 && fB w = 0 && fSz w = 0) = decide (fld w 32 20 = 0) := by
  rw [Bool.eq_iff_iff]
  simp only [Bool.and_eq_true, decide_eq_true_eq]
  simp only [fD, fA, fB, fSz, fld]
  omega

/-- The low bits of a word as a field are the word cut to them. -/
theorem fldB_zero (w : Word) (n : Nat) : fldB w 0 n = w.setWidth n := by
  apply BitVec.eq_of_toNat_eq
  simp [fldB, fld, BitVec.toNat_setWidth]

/-- What the core does with a word whose function code must be 0, whose fields are checked by `b` and which stands for `j` otherwise (R27). -/
theorem fetchDecode_fn0 {w : Word} {b : Bool} {j : Instr} (h : decodeWord w = fn0 w (do need b; return j)) :
    fetchDecode w = if fFn w ≠ 0 then .illegalWord .op w else if b = false then .illegalWord .field w else j := by
  unfold fetchDecode
  rw [h, fn0]
  by_cases hf : fFn w = 0
  · cases b <;> simp [hf] <;> rfl
  · simp [hf]

/-- The words of OP 0x22 (R51). -/
theorem fetchDecode_call {w : Word} (h : fOp w = 0x22) : fetchDecode w =
    if fFn w ≠ 0 then .illegalWord .op w else if fld w 32 20 ≠ 0 then .illegalWord .field w else .call (w.setWidth 32) := by
  rw [fetchDecode_fn0 (dec_22 h), middle_zero_iff, fLit, fldB_zero]
  simp

end Sys2Proof

namespace Sys2Proof.Machine

open Sys2Proof.Machine.Claims

/-! ### Effects that leave the point of execution -/

/-- An effect that completes leaves the PC of the issuing slot. -/
def KeepsPc {α : Type} (m : M α) : Prop := ∀ (s t : State) (a : α), m s = .ok (a, t) → t.curSlot.pc = s.curSlot.pc

theorem KeepsPc.bind {α β : Type} {m : M α} {f : α → M β} (hm : KeepsPc m) (hf : ∀ a, KeepsPc (f a)) : KeepsPc (m >>= f) := by
  intro s u b h
  obtain ⟨⟨a, t⟩, h1, h2⟩ := (seq_completes ..).1 h
  exact (hf a t u b h2).trans (hm s t a h1)

theorem KeepsPc.look {α : Type} {m : M α} (h : ∀ s, ∃ a, m s = .ok (a, s)) : KeepsPc m := by
  intro s t a e
  obtain ⟨b, hb⟩ := h s
  rw [hb] at e
  cases e
  rfl

theorem KeepsPc.never {α : Type} {m : M α} (h : ∀ s, ∃ x, m s = .error x) : KeepsPc m := by
  intro s t a e
  obtain ⟨x, hx⟩ := h s
  rw [hx] at e
  cases e

/-- A slot's number past the five changes nothing, so a change that spares a slot's PC spares the issuing slot's, whatever it is. -/
theorem KeepsPc.modMy {f : Slot → Slot} (hf : ∀ sl, (f sl).pc = sl.pc) : KeepsPc (modMy f) := by
  intro s t a e
  rw [modMy_run] at e
  cases e
  simp only [State.curSlot, modSlot_cur, actOf_modSlot]
  by_cases hi : actOf s s.cur < 5
  · rw [slotAt_modSlot_self _ _ _ hi, hf]
  · simp [slotAt, slotOf, hi]

theorem KeepsPc.popD (r : Fin 4) : KeepsPc (popD r) := by
  unfold Machine.popD
  refine .bind (.look fun _ => ⟨_, rfl⟩) fun _ => .bind (.look fun _ => ⟨_, rfl⟩) fun _ => .bind (.look fun _ => ⟨_, rfl⟩) fun sl => ?_
  split
  · exact .never fun _ => ⟨_, rfl⟩
  · split
    · exact .never fun _ => ⟨_, rfl⟩
    · split
      · exact .never fun _ => ⟨_, rfl⟩
      · split
        · exact .never fun _ => ⟨_, rfl⟩
        · exact .bind (.modMy fun _ => rfl) fun _ => .look fun _ => ⟨_, rfl⟩

theorem KeepsPc.fetchSrc (x : Src) : KeepsPc (fetchSrc x) := by
  unfold Machine.fetchSrc
  refine .bind (.look fun _ => ⟨_, rfl⟩) fun _ => .bind (.look fun _ => ⟨_, rfl⟩) fun sl => ?_
  cases x with
  | e r =>
    dsimp only
    split
    · exact .never fun _ => ⟨_, rfl⟩
    · split
      · exact .never fun _ => ⟨_, rfl⟩
      · exact .look fun _ => ⟨_, rfl⟩
  | d r => exact .popD r
  | _ => exact .look fun _ => ⟨_, rfl⟩

theorem KeepsPc.emptyE (l : List Src) : KeepsPc (emptyE l) := by
  induction l with
  | nil => exact .look fun _ => ⟨_, rfl⟩
  | cons x r ih =>
    cases x with
    | e q => exact .bind (.modMy fun _ => rfl) fun _ => ih
    | _ => exact ih

theorem KeepsPc.read2 (a b : Src) : KeepsPc (read2 a b) :=
  .bind (.fetchSrc a) fun _ => .bind (.fetchSrc b) fun _ => .bind (.emptyE _) fun _ => .look fun _ => ⟨_, rfl⟩

/-! ### The conditions and targets of R50 -/

theorem target_eq_branchTo (pc : Word) (off : BitVec 32) : target pc off = branchTo pc off := by
  apply BitVec.eq_of_toInt_eq
  simp only [target, branchTo, Alu.sx, BitVec.toInt_add, BitVec.toInt_mul, BitVec.toInt_ofInt]
  rw [BitVec.toInt_signExtend_of_le (by omega), BitVec.toInt_eq_toNat_bmod pc]
  simp [Int.mul_comm]

theorem lowW_toNat (sz : Sz) (x : Word) : (Alu.lowW sz x).toNat = low sz x := BitVec.toNat_setWidth ..

theorem lowW_toInt (sz : Sz) (x : Word) : (Alu.lowW sz x).toInt = signed (Alu.szW sz) (low sz x) := by
  rw [BitVec.toInt_eq_toNat_cond, lowW_toNat, signed]
  have hw : (2 : Int) ^ Alu.szW sz = ((2 ^ Alu.szW sz : Nat) : Int) := by push_cast; rfl
  have hc : 2 * low sz x < 2 ^ Alu.szW sz ↔ low sz x < 2 ^ (Alu.szW sz - 1) := by cases sz <;> simp only [Alu.szW] <;> omega
  simp only [hc, hw]

theorem condEq_eq (sz : Sz) (x y : Word) : Alu.condEq sz x y = decide (low sz x = low sz y) := by
  simp only [Alu.condEq, ← lowW_toNat, BitVec.toNat_inj]

theorem condLt_eq (sz : Sz) (x y : Word) :
    Alu.condLt sz x y = decide (signed (Alu.szW sz) (low sz x) < signed (Alu.szW sz) (low sz y)) := by
  simp only [Alu.condLt, lowW_toInt]

theorem condLtu_eq (sz : Sz) (x y : Word) : Alu.condLtu sz x y = decide (low sz x < low sz y) := by
  simp only [Alu.condLtu, lowW_toNat]

/-! ### Branches (R50) -/

/-- A branch whose operands are read goes to its target where its condition `b` holds, and past itself where it does not. -/
theorem issueW_branchIf {w : Word} {a c : Src} {off : BitVec 32} {cond : Word → Word → Bool} {s s1 : State} {x y : Word} {b : Bool}
    (h : read2 a c s = .ok ((x, y), s1)) (hb : cond x y = b) :
    issueW w (branchIf a c off cond) s = .next (if b = true then s.goTo s1 (branchTo s.curSlot.pc off) else s.past s1) := by
  have hpc : s1.curSlot.pc = s.curSlot.pc := KeepsPc.read2 a c s s1 _ h
  have hrun : branchIf a c off cond s = .ok (if cond x y then .goto (target s1.curSlot.pc off) else .next, s1) := by
    rw [branchIf, bind_ok h]
    rfl
  subst hb
  cases hc : cond x y with
  | true =>
    rw [hc, hpc, target_eq_branchTo] at hrun
    exact issueW_goto hrun
  | false =>
    rw [hc] at hrun
    exact issueW_next hrun

/-- Every branch of R50 on operands that are read. -/
theorem exec_branch {s s1 : State} {sz : Sz} {a c : Src} (off : BitVec 32) {x y : Word} (h : read2 a c s = .ok ((x, y), s1))
    {p : (Sz → Src → Src → BitVec 32 → Instr) × (Nat → Nat → Nat → Bool)} (hp : p ∈ branchTable) :
    exec (p.1 sz a c off) s = .next (if p.2 (Alu.szW sz) (low sz x) (low sz y) = true then s.goTo s1 (branchTo s.curSlot.pc off)
      else s.past s1) := by
  simp only [branchTable, List.mem_cons, List.not_mem_nil, or_false] at hp
  obtain rfl | rfl | rfl | rfl | rfl | rfl := hp
  · exact issueW_branchIf h (condEq_eq sz x y)
  · exact issueW_branchIf h (by simp [condEq_eq])
  · exact issueW_branchIf h (condLt_eq sz x y)
  · exact issueW_branchIf h (by rw [condLt_eq, ← decide_not]; exact decide_eq_decide.2 not_lt)
  · exact issueW_branchIf h (condLtu_eq sz x y)
  · exact issueW_branchIf h (by rw [condLtu_eq, ← decide_not]; exact decide_eq_decide.2 not_lt)

/-! ### B, CALL, LOOP, JMP (R50 to R53) -/

theorem exec_b (s : State) (off : BitVec 32) : exec (.b off) s = .next (s.goTo s (branchTo s.curSlot.pc off)) := by
  rw [← target_eq_branchTo]
  show execB off s = _
  exact issueW_goto rfl

theorem exec_call (s : State) (off : BitVec 32) :
    exec (.call off) s = .next (s.goTo (s.onSlot fun x => x.setG 22 (s.curSlot.pc + 8)) (branchTo s.curSlot.pc off)) := by
  rw [← target_eq_branchTo]
  show execCall off s = _
  refine issueW_goto ?_
  rw [bind_ok (mySlot_run s), bind_ok (writeG_run 22 _ s)]
  rfl

/-- LOOP counts down, and goes on to its target while the count is not zero (R53). -/
theorem exec_loop_taken {s : State} {d : GReg} (off : BitVec 32) (h : s.curSlot.g.get d ≠ 1) :
    exec (.loop d off) s =
      .next (s.goTo (s.onSlot fun x => x.setG d (s.curSlot.g.get d - 1)) (branchTo s.curSlot.pc off)) := by
  have hn : s.curSlot.g.get d - 1 ≠ 0 := by bv_omega
  rw [← target_eq_branchTo]
  show execLoop d off s = _
  refine issueW_goto ?_
  rw [bind_ok (mySlot_run s), bind_ok (writeG_run d _ s)]
  exact congrArg (fun f : Flow => Except.ok (f, _)) (if_pos hn)

theorem exec_loop_done {s : State} {d : GReg} (off : BitVec 32) (h : s.curSlot.g.get d = 1) :
    exec (.loop d off) s = .next (s.past (s.onSlot fun x => x.setG d 0)) := by
  have hn : s.curSlot.g.get d - 1 = 0 := by bv_omega
  show execLoop d off s = _
  refine (issueW_next (t := s.onSlot fun x => x.setG d (s.curSlot.g.get d - 1)) ?_).trans (by rw [hn]; rfl)
  rw [bind_ok (mySlot_run s), bind_ok (writeG_run d _ s)]
  exact congrArg (fun f : Flow => Except.ok (f, _)) (if_neg (not_not_intro hn))

/-- JMP to an aligned target: `g22` takes the address after it where it links (R52). -/
theorem exec_jmp {s s1 : State} {a : Src} {t : Word} (link : Bool) (h : read1 a s = .ok (t, s1)) (ht : t.toNat % 8 = 0) :
    exec (.jmp a link) s =
      .next (s.goTo (if link then s1.onSlot fun x => x.setG 22 (s1.curSlot.pc + 8) else s1) t) := by
  show execJmp a link s = _
  refine issueW_goto ?_
  rw [bind_ok h]
  cases link <;> simp [raiseIf, ht] <;> rfl

/-- JMP to a misaligned target (R52). -/
theorem exec_jmp_misaligned {s s1 : State} {a : Src} {t : Word} (link : Bool) (h : read1 a s = .ok (t, s1)) (ht : t.toNat % 8 ≠ 0) :
    ∃ w, exec (.jmp a link) s = .next (s.trapped { code := .pcAlign, info := t } w) := by
  refine ⟨_, issueW_trap (u := id) ?_⟩
  rw [bind_ok h]
  refine bind_error ?_
  simp [raiseIf, ht]
  rfl

end Sys2Proof.Machine

namespace Sys2Proof

open Sys2Proof.Machine Sys2Proof.Machine.Claims

/-- Settles O10: each branch by the condition it shares with its row of `branchTable`, the others by their effects on the issuing slot, and CALL's
words by the checks of OP 0x22. -/
theorem controlTransfers : Obligations.ControlTransfers := by
  unfold Obligations.ControlTransfers
  refine ⟨fun s s1 sz a c off x y h p hp => exec_branch off h hp, fun s s1 off a t d w => ⟨fetchDecode_call, exec_b s off, exec_call s off,
    exec_loop_taken off, exec_loop_done off, fun h ht hpc => ⟨?_, ?_⟩, fun h ht link => exec_jmp_misaligned link h ht⟩⟩
  · exact exec_jmp false h ht
  · rw [exec_jmp true h ht, hpc]
    rfl

end Sys2Proof

end

section
/-! TEND, TYIELD and MASKW (R54 to R56, R329, R330): what the end of a task leaves, which slot runs next, and their words. -/

set_option Elab.async false

namespace Sys2Proof.Machine

/-! ### Cores and quads left as they are -/

/-- Two states with the same cores and the same quads: memory, records and walks may differ. -/
def SameUnits (s t : State) : Prop := t.cores = s.cores ∧ t.quads = s.quads

theorem SameUnits.refl (s : State) : SameUnits s s := ⟨rfl, rfl⟩

theorem SameUnits.trans {s t u : State} (h : SameUnits s t) (k : SameUnits t u) : SameUnits s u :=
  ⟨k.1.trans h.1, k.2.trans h.2⟩

theorem SameUnits.coreOf {s t : State} (h : SameUnits s t) (d : Nat) : coreOf t d = coreOf s d := by
  unfold Machine.coreOf; rw [h.1]

theorem SameUnits.foldl {β : Type} {f : State → β → State} (l : List β) (s : State) (step : ∀ t b, SameUnits t (f t b)) :
    SameUnits s (l.foldl f s) :=
  List.foldlRecOn (motive := SameUnits s) l f (.refl s) fun t ht b _ => ht.trans (step t b)

theorem perform_sameUnits (s : State) (bytes : List (Nat × Byte)) (pois : List Nat) : SameUnits s (perform s bytes pois).1 := by
  refine List.foldlRecOn (motive := fun a : State × Bool => SameUnits s a.1) bytes _ ⟨rfl, rfl⟩ fun a ha b _ => ?_
  split
  · exact ha
  · exact ha

theorem wrNat_sameUnits (s : State) (pa n v : Nat) : SameUnits s (wrNat s pa n v) := perform_sameUnits ..

theorem postTerm_sameUnits (s : State) (x code cls : Nat) (info w2 : Word) (c i cause : Nat) :
    SameUnits s (postTerm s x code cls info w2 c i cause) := by
  unfold postTerm
  split
  · exact .refl s
  · dsimp only
    split <;> exact ⟨rfl, rfl⟩

/-- The walks that a task gives up change their blocks and the list of walks alone (R287). -/
theorem dropWalks_sameUnits (s : State) (c i task : Nat) : SameUnits s (dropWalks s c i task) := by
  refine SameUnits.foldl (s.gwalks.filter _) s fun t g => ?_
  dsimp only
  split
  · exact (wrNat_sameUnits ..).trans (.foldl _ _ fun _ _ => wrNat_sameUnits ..)
  · exact wrNat_sameUnits ..

/-- The held faults of a task's drains become records alone (R163). -/
theorem drainFaults_sameUnits (s : State) (c i : Nat) (sl : Slot) : SameUnits s (drainFaults s c i sl) := by
  refine .foldl _ s fun t o => ?_
  repeat' split
  · exact postTerm_sameUnits ..
  all_goals exact .refl t

/-! ### Memory left as it is -/

@[simp] theorem postTerm_poison (s : State) (x code cls : Nat) (info w2 : Word) (c i cause : Nat) :
    (postTerm s x code cls info w2 c i cause).poison = s.poison := by
  unfold postTerm
  split
  · rfl
  · dsimp only
    split <;> rfl

/-- The records of held faults leave memory and its poison alone. -/
theorem drainFaults_memory (s : State) (c i : Nat) (sl : Slot) :
    (drainFaults s c i sl).mem = s.mem ∧ (drainFaults s c i sl).poison = s.poison := by
  refine List.foldlRecOn (motive := fun t : State => t.mem = s.mem ∧ t.poison = s.poison) _ _ ⟨rfl, rfl⟩ fun t ht o _ => ?_
  repeat' split
  · exact ⟨(errRec_mem ..).trans ht.1, (postTerm_poison ..).trans ht.2⟩
  all_goals exact ht

/-- A task that holds no walk gives up none. -/
theorem dropWalks_memory {s : State} {c i task : Nat} (h : ∀ g ∈ s.gwalks, g.holder ≠ (c, i, task)) :
    (dropWalks s c i task).mem = s.mem ∧ (dropWalks s c i task).poison = s.poison := by
  have hnone : (s.gwalks.filter fun g => decide (g.holder = (c, i, task))) = [] :=
    List.filter_eq_nil_iff.2 fun g hg => by simpa using h g hg
  simp only [dropWalks, hnone, List.foldl_nil, and_self]

/-! ### Wide registers given up (R158) -/

@[simp] theorem unmapList_cores (s : State) (q : Nat) (w : List WMap) : (unmapList s q w).cores = s.cores := by
  induction w generalizing s with
  | nil => rfl
  | cons m r ih => cases m <;> exact ih _

@[simp] theorem unmapList_poison (s : State) (q : Nat) (w : List WMap) : (unmapList s q w).poison = s.poison := by
  induction w generalizing s with
  | nil => rfl
  | cons m r ih => cases m <;> exact ih _

theorem modQuad_quads_congr {s t : State} (q : Nat) (f : Quad → Quad) (h : t.quads = s.quads) :
    (modQuad t q f).quads = (modQuad s q f).quads := by
  simp only [modQuad, quadAt, h]

/-- What is given up depends on the quads alone. -/
theorem unmapList_quads_congr {s t : State} (q : Nat) (w : List WMap) (h : t.quads = s.quads) :
    (unmapList t q w).quads = (unmapList s q w).quads := by
  induction w generalizing s t with
  | nil => exact h
  | cons m r ih =>
    have hdrop (p : Fin 192) : (dropPreg t q p).quads = (dropPreg s q p).quads := modQuad_quads_congr q _ h
    cases m with
    | unmapped => exact ih h
    | priv p => exact ih (hdrop p)
    | shared p => exact ih (hdrop p)

@[simp] theorem endMaps_poison (s : State) (c i : Nat) (sl : Slot) : (endMaps s c i sl).poison = s.poison := by
  unfold endMaps
  split
  · rfl
  · exact unmapList_poison ..

/-- The mappings of a task whose accepted instructions have not all retired are kept for later (R55, R158). -/
theorem endMaps_due {s : State} {c i : Nat} {sl : Slot} (h : ∃ r ∈ (coreOf s c).dq, r.task = sl.task ∧ r.slot = i) :
    endMaps s c i sl = modCore s c fun k => { k with unmapDue := k.unmapDue ++ [(sl.task, sl.w.toList)] } :=
  if_pos (by simpa using h)

theorem endMaps_now {s : State} {c i : Nat} {sl : Slot} (h : ¬ ∃ r ∈ (coreOf s c).dq, r.task = sl.task ∧ r.slot = i) :
    endMaps s c i sl = unmapAll s (quadOf c) sl.w :=
  if_neg (by simpa using h)

theorem unmapAll_coreOf (s : State) (q d : Nat) (w : Vector WMap 16) : coreOf (unmapAll s q w) d = coreOf s d := by
  simp [unmapAll, coreOf]

/-- Of the cores, the mappings that end change at most what is still to be unmapped at the task's own. -/
theorem endMaps_coreOf_ne {s : State} {c d : Nat} (i : Nat) (sl : Slot) (h : d ≠ c) : coreOf (endMaps s c i sl) d = coreOf s d := by
  unfold endMaps
  split
  · exact coreOf_modCore_ne _ _ h
  · exact unmapAll_coreOf ..

theorem endMaps_coreOf_self (s : State) (c i : Nat) (sl : Slot) : coreOf (endMaps s c i sl) c =
    { coreOf s c with unmapDue := (coreOf (endMaps s c i sl) c).unmapDue } := by
  unfold endMaps
  split
  · rw [coreOf_modCore_self]
  · rw [unmapAll_coreOf]

/-! ### Templates told of a task's end (R315 to R317) -/

/-- Two states whose cores agree in all but the cursors of templates. -/
structure CursorsOnly (s t : State) : Prop where
  core : ∀ d, coreOf t d = { coreOf s d with cursors := (coreOf t d).cursors }

theorem CursorsOnly.of_cores {s t : State} (h : t.cores = s.cores) : CursorsOnly s t := ⟨fun d => by simp only [coreOf, h]⟩

theorem CursorsOnly.trans {s t u : State} (h : CursorsOnly s t) (k : CursorsOnly t u) : CursorsOnly s u :=
  ⟨fun d => by rw [k.core d, h.core d]⟩

theorem CursorsOnly.foldl {β : Type} {f : State → β → State} (l : List β) (s : State) (step : ∀ t b, CursorsOnly t (f t b)) :
    CursorsOnly s (l.foldl f s) :=
  List.foldlRecOn (motive := CursorsOnly s) l f (.of_cores rfl) fun t ht b _ => ht.trans (step t b)

/-- A released template leaves of the cores all but their cursors. -/
theorem tplRemove_cursors (s : State) (t : Nat) (x : Tpl) : CursorsOnly s (tplRemove s t x) := by
  have hcur : ∀ (u : State) (c : Nat),
      CursorsOnly u (modCore u c fun k => { k with cursors := k.cursors.filter fun v => v.tpl ≠ t }) := by
    refine fun u c => ⟨fun d => ?_⟩
    by_cases hd : d = c
    · subst hd; rw [coreOf_modCore_self]
    · rw [coreOf_modCore_ne _ _ hd]
  unfold tplRemove
  lift_lets
  intro s1 s2 s3
  have h1 : CursorsOnly s s1 := .foldl x.cores s hcur
  have h2 : CursorsOnly s1 s2 := .foldl x.wide s1 fun _ _ => .of_cores rfl
  have h3 : CursorsOnly s2 s3 := by
    dsimp only [s3]
    split
    · split
      · exact .foldl _ _ fun _ _ => .of_cores rfl
      · exact .of_cores rfl
    · exact .of_cores rfl
  exact (h1.trans (h2.trans h3)).trans (.of_cores rfl)

/-- The end of an item or a join leaves of the cores all but their cursors. -/
theorem tplEnd_cursors (s : State) (t : Nat) (j : Bool) (who : List (Nat × Nat)) (n : Nat) : CursorsOnly s (tplEnd s t j who n) := by
  induction n generalizing s t j who with
  | zero => exact .of_cores rfl
  | succ n ih =>
    have hset (x : Tpl) : CursorsOnly s { s with tpls := nset s.tpls t x } := .of_cores rfl
    unfold tplEnd
    split
    · exact .of_cores rfl
    · lift_lets
      intro x1 x2 s1 s2
      have h1 : CursorsOnly s s1 := .of_cores rfl
      have h2 : CursorsOnly s s2 := h1.trans (tplRemove_cursors s1 t x2)
      split
      · split
        · exact h2
        · exact h2.trans (ih ..)
      · exact h1

/-! ### The slot given back (R55, R320) -/

/-- Giving up the core changes what it runs and what it has pre-empted. -/
theorem giveUp_frame (k : Core) (i : Nat) :
    k.giveUp i = { k with act := (k.giveUp i).act, preempted := (k.giveUp i).preempted } := by
  unfold Core.giveUp
  split
  · rfl
  · split
    · rfl
    · split <;> rfl

@[simp] theorem giveUp_slotOf (k : Core) (i j : Nat) : slotOf (k.giveUp i) j = slotOf k j := by rw [giveUp_frame]; rfl
@[simp] theorem giveUp_tiles (k : Core) (i : Nat) : (k.giveUp i).tiles = k.tiles := by rw [giveUp_frame]
@[simp] theorem giveUp_orphans (k : Core) (i : Nat) : (k.giveUp i).orphans = k.orphans := by rw [giveUp_frame]
@[simp] theorem giveUp_sb (k : Core) (i : Nat) : (k.giveUp i).sb = k.sb := by rw [giveUp_frame]
@[simp] theorem giveUp_dq (k : Core) (i : Nat) : (k.giveUp i).dq = k.dq := by rw [giveUp_frame]
@[simp] theorem giveUp_unmapDue (k : Core) (i : Nat) : (k.giveUp i).unmapDue = k.unmapDue := by rw [giveUp_frame]

/-- The first ready one of the other L slots of a core, from the next one on, in ascending order, wrapping (R56, R320). -/
def otherReady (s : State) (c i : Nat) : Option Nat :=
  [1, 2, 3].map (fun d => (i + d) % 4) |>.find? fun j => (slotAt s c j).st = .ready

/-- The first slot found ready is the next one. -/
theorem otherReady_eq {s : State} {c i d : Nat} (h1 : 1 ≤ d) (h3 : d ≤ 3) (h : (slotAt s c ((i + d) % 4)).st = .ready)
    (hno : ∀ e, 1 ≤ e → e < d → ¬ (slotAt s c ((i + e) % 4)).st = .ready) : otherReady s c i = some ((i + d) % 4) := by
  obtain rfl | rfl | rfl : d = 1 ∨ d = 2 ∨ d = 3 := by omega
  · simp [otherReady, h]
  · simp [otherReady, h, hno 1]
  · simp [otherReady, h, hno 1, hno 2]

theorem otherReady_none {s : State} {c i : Nat} (h : ∀ d, 1 ≤ d → d ≤ 3 → ¬ (slotAt s c ((i + d) % 4)).st = .ready) :
    otherReady s c i = none := by
  simp [otherReady, h 1, h 2, h 3]

/-- An L slot that is not ready itself is followed by the next ready one of the others. -/
theorem nextReady_eq_otherReady {s : State} {c i : Nat} {k : Core} (hi : i < 4) (hself : (slotOf k i).st ≠ .ready)
    (hother : ∀ j, j ≠ i → slotOf k j = slotAt s c j) : nextReady k i = otherReady s c i := by
  have hne (d : Nat) (h1 : 1 ≤ d) (h3 : d ≤ 3) : slotOf k ((i + d) % 4) = slotAt s c ((i + d) % 4) := hother _ (by omega)
  have hwrap : (i + 4) % 4 = i := by omega
  simp only [nextReady, otherReady, List.map_cons, List.map_nil, List.find?_cons, List.find?_nil, hwrap, hself, hne 1, hne 2, hne 3,
    Nat.le_refl, Nat.reduceLeDiff, decide_false]

/-- A running L slot gives the core up to the next ready slot, and stays the running one where no slot is ready (R320). -/
theorem giveUp_act_l {k : Core} {i : Nat} (h : k.act = some i) (hi : i ≠ 4) :
    (k.giveUp i).act = match nextReady k i with | some j => some j | none => k.act := by
  unfold Core.giveUp
  rw [if_neg (not_not_intro h), if_neg hi]
  cases nextReady k i <;> rfl

theorem giveUp_act_h {k : Core} (h : k.act = some 4) : (k.giveUp 4).act = k.preempted := by
  simp [Core.giveUp, h]

/-- A core that runs no slot goes on running none. -/
theorem giveUp_act_idle {k : Core} {i : Nat} (h : k.act = none) : (k.giveUp i).act = none := by
  simp [Core.giveUp, h]

/-! ### A core without its task (R55) -/

/-- A core from which a task has gone: its tiles are given up, its drains orphaned, its slot is free and no longer runs. -/
def Core.withoutTask (k : Core) (i : Nat) (sl : Slot) : Core :=
  ({ k with
      tiles := k.tiles.map fun (t : Tile) => if t.owner = some (i, sl.task) then { t with giving := true } else t
      orphans := k.orphans ++ leftDrains sl i }.modSlot i Slot.freed).giveUp i

theorem withoutTask_slot_self (k : Core) {i : Nat} (sl : Slot) (hi : i < 5) :
    slotOf (k.withoutTask i sl) i = (slotOf k i).freed := by
  rw [Core.withoutTask, giveUp_slotOf, slotOf_modSlot_self _ _ hi]; rfl

theorem withoutTask_slot_ne (k : Core) {i j : Nat} (sl : Slot) (hj : j ≠ i) : slotOf (k.withoutTask i sl) j = slotOf k j := by
  rw [Core.withoutTask, giveUp_slotOf, slotOf_modSlot_ne _ _ hj]; rfl

theorem withoutTask_tile (k : Core) (i : Nat) (sl : Slot) (x : Fin 4) : (k.withoutTask i sl).tiles.get x =
    if (k.tiles.get x).owner = some (i, sl.task) then { k.tiles.get x with giving := true } else k.tiles.get x := by
  simp [Core.withoutTask, Vector.get_eq_getElem]

theorem withoutTask_orphans (k : Core) (i : Nat) (sl : Slot) : (k.withoutTask i sl).orphans = k.orphans ++ leftDrains sl i := by
  simp [Core.withoutTask]
@[simp] theorem withoutTask_sb (k : Core) (i : Nat) (sl : Slot) : (k.withoutTask i sl).sb = k.sb := by simp [Core.withoutTask]
@[simp] theorem withoutTask_dq (k : Core) (i : Nat) (sl : Slot) : (k.withoutTask i sl).dq = k.dq := by simp [Core.withoutTask]
@[simp] theorem withoutTask_unmapDue (k : Core) (i : Nat) (sl : Slot) : (k.withoutTask i sl).unmapDue = k.unmapDue := by
  simp [Core.withoutTask]

/-- What a core runs once its running task has gone. -/
theorem withoutTask_act {s : State} {c i : Nat} {k : Core} (sl : Slot) (hi : i < 5) (hk : ∀ j, slotOf k j = slotAt s c j)
    (hact : i = k.act.getD 0) : (k.withoutTask i sl).act =
      if i = 4 then k.preempted else if k.act = none then none
      else match otherReady s c i with | some j => some j | none => k.act := by
  cases ha : k.act with
  | none =>
    obtain rfl : i = 0 := by simpa [ha] using hact
    rw [if_neg (by decide), if_pos rfl]
    exact giveUp_act_idle ha
  | some a =>
    obtain rfl : i = a := by simpa [ha] using hact
    by_cases h4 : i = 4
    · subst h4
      rw [if_pos rfl]
      exact giveUp_act_h ha
    · have hfree : (slotOf (k.modSlot i Slot.freed) i).st ≠ .ready := by rw [slotOf_modSlot_self _ _ hi]; exact nofun
      have hnext : nextReady (k.modSlot i Slot.freed) i = otherReady s c i :=
        nextReady_eq_otherReady (by omega) hfree fun j hj => (slotOf_modSlot_ne _ _ hj).trans (hk j)
      rw [if_neg h4, if_neg (by simp), ← ha, ← hnext]
      exact giveUp_act_l ha h4

/-! ### The end of a task (R55) -/

/-- The state a task leaves, before its template learns of its end. -/
def taskGone (s : State) (c i : Nat) : State :=
  let sl := slotAt s c i
  modCore (endMaps (drainFaults (dropWalks s c i sl.task) c i sl) c i sl) c fun k => k.withoutTask i sl

theorem endTask_noTpl {s : State} {c i : Nat} (h : (slotAt s c i).tpl = none) : endTask s c i true = taskGone s c i := by
  unfold endTask
  dsimp only
  rw [h]
  rfl

/-- A template that learns of the end changes of the cores the cursors alone. -/
theorem endTask_cursors (s : State) (c i : Nat) : CursorsOnly (taskGone s c i) (endTask s c i true) := by
  unfold endTask
  dsimp only
  split
  · split
    · exact tplEnd_cursors (taskGone s c i) ..
    · exact tplEnd_cursors (taskGone s c i) ..
    · exact .of_cores rfl
  · exact .of_cores rfl

/-- The walks and the held faults of a task that ends leave cores and quads alone. -/
theorem endRecords_sameUnits (s : State) (c i : Nat) (sl : Slot) : SameUnits s (drainFaults (dropWalks s c i sl.task) c i sl) :=
  (dropWalks_sameUnits ..).trans (drainFaults_sameUnits ..)

theorem endTask_core_ne {s : State} {c d : Nat} (i : Nat) (h : d ≠ c) :
    coreOf (endTask s c i true) d = { coreOf s d with cursors := (coreOf (endTask s c i true) d).cursors } := by
  have hd : coreOf (taskGone s c i) d = coreOf s d := by
    rw [taskGone, coreOf_modCore_ne _ _ h, endMaps_coreOf_ne _ _ h, (endRecords_sameUnits ..).coreOf]
  rw [(endTask_cursors s c i).core d, hd]

/-- The core of a task that ends is one from which the task has gone, but for what is to be unmapped there and for the cursors. -/
theorem endTask_core_self (s : State) (c i : Nat) : ∃ due cur, coreOf (endTask s c i true) c =
    { ({ coreOf s c with unmapDue := due } : Core).withoutTask i (slotAt s c i) with cursors := cur } := by
  refine ⟨(coreOf (endMaps (drainFaults (dropWalks s c i (slotAt s c i).task) c i (slotAt s c i)) c i (slotAt s c i)) c).unmapDue,
    (coreOf (endTask s c i true) c).cursors, ?_⟩
  rw [(endTask_cursors s c i).core c, taskGone, coreOf_modCore_self, endMaps_coreOf_self, (endRecords_sameUnits ..).coreOf]

/-- The wide registers of a task without a template are unmapped now, or once what it had accepted has retired (R55, R158). -/
theorem endTask_maps {s : State} {c i : Nat} (h : (slotAt s c i).tpl = none) :
    if ∃ r ∈ (coreOf s c).dq, r.task = (slotAt s c i).task ∧ r.slot = i
    then (endTask s c i true).quads = s.quads ∧
      (coreOf (endTask s c i true) c).unmapDue = (coreOf s c).unmapDue ++ [((slotAt s c i).task, (slotAt s c i).w.toList)]
    else (endTask s c i true).quads = (unmapAll s (quadOf c) (slotAt s c i).w).quads ∧
      (coreOf (endTask s c i true) c).unmapDue = (coreOf s c).unmapDue := by
  have hu := endRecords_sameUnits s c i (slotAt s c i)
  have hdq := congrArg Core.dq (hu.coreOf c)
  rw [endTask_noTpl h, taskGone]
  split
  · next hr =>
    rw [endMaps_due (by rwa [hdq])]
    simp only [modCore_quads, coreOf_modCore_self, withoutTask_unmapDue, hu.coreOf, hu.2, and_self]
  · next hr =>
    rw [endMaps_now (by rwa [hdq])]
    simp only [modCore_quads, coreOf_modCore_self, withoutTask_unmapDue, unmapAll_coreOf, hu.coreOf, and_true]
    exact unmapList_quads_congr _ _ hu.2

/-- A task without a template and without walks leaves memory as it is. -/
theorem endTask_memory {s : State} {c i : Nat} (h : (slotAt s c i).tpl = none)
    (hw : ∀ g ∈ s.gwalks, g.holder ≠ (c, i, (slotAt s c i).task)) :
    (endTask s c i true).mem = s.mem ∧ (endTask s c i true).poison = s.poison := by
  obtain ⟨hm, hp⟩ := dropWalks_memory hw
  obtain ⟨hm', hp'⟩ := drainFaults_memory (dropWalks s c i (slotAt s c i).task) c i (slotAt s c i)
  rw [endTask_noTpl h, taskGone]
  simp only [modCore_mem, modCore_poison, endMaps_mem, endMaps_poison, hm, hp, hm', hp', and_self]

theorem exec_tend (s : State) : exec .tend s = .next (endTask s s.cur (actOf s s.cur) true) := by
  show execTend s = _
  exact issueW_stay rfl

/-! ### TYIELD (R56) -/

/-- A core that runs another slot has the same slots. -/
theorem slotAt_act (s : State) (c : Nat) (a : Option Nat) (d j : Nat) : slotAt (modCore s c fun k => { k with act := a }) d j = slotAt s d j := by
  by_cases h : d = c
  · subst h; simp [slotAt, slotOf]
  · simp [slotAt, coreOf_modCore_ne _ _ h]

/-- TYIELD in an L slot outside a masked window runs the next ready slot. -/
theorem exec_tyield_switch {s : State} {j : Nat} (hi : actOf s s.cur ≠ 4) (hw : s.curSlot.mw = 0)
    (hj : otherReady s s.cur (actOf s s.cur) = some j) :
    exec .tyield s = .next (s.past (modCore s s.cur fun k => { k with act := some j })) := by
  show execTyield s = _
  refine issueW_next ?_
  have hw' : (slotAt s s.cur (actOf s s.cur)).mw = 0 := hw
  unfold otherReady at hj
  rw [yieldTask, bind_ok (a := s) (t := s) rfl]
  dsimp only
  rw [if_pos (by simp [hi, hw']), hj]
  rfl

/-- TYIELD does nothing else: in the H slot, in a masked window, and where no other slot is ready. -/
theorem exec_tyield_stay {s : State} (h : actOf s s.cur = 4 ∨ s.curSlot.mw ≠ 0 ∨ otherReady s s.cur (actOf s s.cur) = none) :
    exec .tyield s = .next (s.past s) := by
  show execTyield s = _
  refine issueW_next ?_
  rw [yieldTask, bind_ok (a := s) (t := s) rfl]
  dsimp only
  split
  · next hgo =>
    have hno : otherReady s s.cur (actOf s s.cur) = none := by
      simp only [Bool.and_eq_true, decide_eq_true_eq] at hgo
      exact (h.resolve_left hgo.1).resolve_left (not_not_intro hgo.2)
    unfold otherReady at hno
    rw [hno]
    rfl
  · rfl

/-! ### MASKW (R330) -/

/-- MASKW in an L slot without a window opens one; the instruction itself is not counted in it. -/
theorem exec_maskw_open {s : State} {n : BitVec 5} (hi : actOf s s.cur ≠ 4) (hw : s.curSlot.mw = 0) (hn : n ≠ 0) :
    exec (.maskw n) s = .next (s.past (s.onSlot fun sl => { sl with mw := n.toNat + 1 })) := by
  show execMaskw n s = _
  refine issueW_next ?_
  have hgo : (actOf s s.cur ≠ 4 && s.curSlot.mw = 0 && n ≠ 0) = true := by
    simp only [hi, hw, hn, decide_not, decide_true, decide_false, Bool.not_false, Bool.and_self]
  rw [maskWindow, bind_ok (myIdx_run s), bind_ok (mySlot_run s)]
  exact congrFun (if_pos hgo) s

theorem exec_maskw_stay {s : State} {n : BitVec 5} (h : actOf s s.cur = 4 ∨ s.curSlot.mw ≠ 0 ∨ n = 0) :
    exec (.maskw n) s = .next (s.past s) := by
  show execMaskw n s = _
  refine issueW_next ?_
  have hstop : ¬ (actOf s s.cur ≠ 4 && s.curSlot.mw = 0 && n ≠ 0) = true := by
    simp only [Bool.and_eq_true, decide_eq_true_eq]
    tauto
  rw [maskWindow, bind_ok (myIdx_run s), bind_ok (mySlot_run s)]
  exact congrFun (if_neg hstop) s

end Sys2Proof.Machine

namespace Sys2Proof

/-! ### The words of TEND, TYIELD and MASKW (R54, R329) -/

/-- The words of OP 0x28 (R54). -/
theorem fetchDecode_28 {w : Word} (h : fOp w = 0x28) : fetchDecode w =
    if 2 ≤ fFn w then .illegalWord .op w else if fld w 0 52 ≠ 0 then .illegalWord .field w
    else if fFn w = 0 then .tend else .tyield := by
  rw [fetchDecode, dec_28 h]
  obtain hf | hf | hf : fFn w = 0 ∨ fFn w = 1 ∨ 2 ≤ fFn w := by omega
  · by_cases hz : fld w 0 52 = 0 <;> simp [hf, hz, need]
  · by_cases hz : fld w 0 52 = 0 <;> simp [hf, hz, need]
  · obtain ⟨m, hm⟩ : ∃ m, fFn w = m + 2 := ⟨_, (Nat.sub_add_cancel hf).symm⟩
    rw [if_pos hf, hm]
    rfl

/-- The words of OP 0x66: the literal is at most 16 (R329). -/
theorem fetchDecode_maskw {w : Word} (h : fOp w = 0x66) : fetchDecode w =
    if fFn w ≠ 0 then .illegalWord .op w else if fld w 32 20 ≠ 0 ∨ 16 < fld w 0 32 then .illegalWord .field w
    else .maskw (w.setWidth 5) := by
  rw [fetchDecode_fn0 (dec_66 h), middle_zero_iff, fldB_zero]
  simp only [Bool.and_eq_false_iff, decide_eq_false_iff_not, Nat.not_le, ne_eq]

end Sys2Proof

namespace Sys2Proof.Machine

/-- What TEND leaves of its own core (R55). -/
theorem tend_core {s : State} (hi : actOf s s.cur < 5) :
    let c := s.cur
    let i := actOf s c
    let k := coreOf s c
    let t := endTask s c i true
    slotAt t c i = s.curSlot.freed ∧ (∀ j, j ≠ i → slotAt t c j = slotAt s c j) ∧
    (coreOf t c).act = (if i = 4 then k.preempted else if k.act = none then none
      else match otherReady s c i with | some j => some j | none => k.act) ∧
    (∀ x : Fin 4, (coreOf t c).tiles.get x =
      if (k.tiles.get x).owner = some (i, s.curSlot.task) then { k.tiles.get x with giving := true } else k.tiles.get x) ∧
    (coreOf t c).orphans = k.orphans ++ leftDrains s.curSlot i ∧ (coreOf t c).sb = k.sb ∧ (coreOf t c).dq = k.dq := by
  intro c i k t
  obtain ⟨due, cur, ht⟩ := endTask_core_self s c i
  simp only [t, slotAt, ht]
  refine ⟨withoutTask_slot_self { k with unmapDue := due } _ hi, fun j hj => withoutTask_slot_ne { k with unmapDue := due } _ hj,
    withoutTask_act (k := { k with unmapDue := due }) _ hi (fun _ => rfl) rfl, withoutTask_tile { k with unmapDue := due } i _,
    withoutTask_orphans { k with unmapDue := due } i _, withoutTask_sb .., withoutTask_dq ..⟩

/-- What TYIELD leaves where another slot is ready (R56). -/
theorem tyield_next {s : State} {j : Nat} (hi : actOf s s.cur < 4) (hw : s.curSlot.mw = 0)
    (hj : otherReady s s.cur (actOf s s.cur) = some j) : ∃ t, exec .tyield s = .next t ∧ (coreOf t s.cur).act = some j ∧
      slotAt t s.cur (actOf s s.cur) = { s.curSlot.completed with pc := s.curSlot.pc + 8 } ∧
      (∀ m, m ≠ actOf s s.cur → slotAt t s.cur m = slotAt s s.cur m) ∧ t.mem = s.mem := by
  refine ⟨_, exec_tyield_switch (by omega) hw hj, ?_, ?_, fun m hm => ?_, rfl⟩
  · rw [State.past, coreOf_modSlot_self, coreOf_modCore_self]
    rfl
  · rw [State.past, slotAt_modSlot_self _ _ _ (by omega), slotAt_act]
    rfl
  · rw [State.past, slotAt_modSlot_slot _ _ _ hm, slotAt_act]

/-- What MASKW leaves in an L slot without a window: a window of `n` instructions, which is none where `n` is 0 (R330). -/
theorem maskw_window {s : State} {n : BitVec 5} (hi : actOf s s.cur < 4) (hw : s.curSlot.mw = 0) :
    ∃ t, exec (.maskw n) s = .next t ∧ (slotAt t s.cur (actOf s s.cur)).mw = n.toNat ∧ OnlySlot s t s.cur (actOf s s.cur) ∧
      SlotKeeps s.curSlot (slotAt t s.cur (actOf s s.cur)) [] [] [] false := by
  have hi5 : actOf s s.cur < 5 := by omega
  by_cases hn : n = 0
  · refine ⟨_, exec_maskw_stay (.inr (.inr hn)), ?_, .modSlot .., ?_⟩
    · rw [State.past, slotAt_modSlot_self _ _ _ hi5, hn]
      exact congrArg (· - 1) hw
    · rw [State.past, slotAt_modSlot_self _ _ _ hi5]
      exact .completed ..
  · refine ⟨_, exec_maskw_open (by omega) hw hn, ?_, (OnlySlot.modSlot ..).trans (.modSlot ..), ?_⟩
    · rw [State.past, State.onSlot, slotAt_modSlot_self _ _ _ hi5, slotAt_modSlot_self _ _ _ hi5]
      rfl
    · rw [State.past, State.onSlot, slotAt_modSlot_self _ _ _ hi5, slotAt_modSlot_self _ _ _ hi5]
      exact ⟨rfl, fun _ _ => rfl, fun _ _ => rfl, fun _ _ => rfl, fun _ => rfl⟩

end Sys2Proof.Machine

namespace Sys2Proof

open Sys2Proof.Machine Sys2Proof.Machine.Claims

/-- Settles O18: TEND by what each part of a task's end leaves (its walks, held faults and wide registers leave the cores, its template their slots),
TYIELD and MASKW by whether they act, and the words by the checks of OP 0x28 and 0x66. -/
theorem taskControl : Obligations.TaskControl := by
  unfold Obligations.TaskControl
  refine ⟨fun s => ?_, fun s n w => ?_⟩
  · intro c i k hi
    obtain ⟨hslot, hslots, hact, htiles, horph, hsb, hdq⟩ := tend_core hi
    refine ⟨_, exec_tend s, hslot, fun d j hdj => ?_, hact, htiles, horph, hsb, hdq, endTask_maps, endTask_memory⟩
    by_cases hd : d = c
    · subst hd
      exact hslots j (hdj.resolve_left (not_not_intro rfl))
    · unfold slotAt
      rw [endTask_core_ne i hd]
      rfl
  · intro f
    refine ⟨fetchDecode_28, fetchDecode_maskw, ?_, ?_⟩
    · exact fetchDecode_maskw rfl
    intro c i ready at1
    refine ⟨fun hi hw j hj hr => ?_, fun hi hw d j h1 h3 hj hr hno => ?_, fun h => ?_, fun hi hw => ?_, fun h => ?_⟩
    · subst hj
      exact tyield_next hi hw (otherReady_eq (d := 1) (by omega) (by omega) hr (by omega))
    · subst hj
      obtain ⟨t, ht, hact, -⟩ := tyield_next hi hw (otherReady_eq h1 h3 hr hno)
      exact ⟨t, ht, hact⟩
    · exact exec_tyield_stay (h.imp_right (Or.imp_right otherReady_none))
    · exact maskw_window hi hw
    · exact exec_maskw_stay (h.imp_right Or.inl)

end Sys2Proof

end
